-- ==== Sys2Proof/Word.lean ====
section
/-! DEFINITION. The word types of the model (R3, R4): a register, command-packet and frame word has 32 bits, a byte 8. -/

namespace Sys2Proof

/-- A 32-bit word: a register's contents, a word of a command packet, a word of a frame. -/
abbrev Word := BitVec 32

/-- A byte of Carafe. -/
abbrev Byte := BitVec 8

end Sys2Proof
end

