-- ==== Sys2Proof/Syntax.lean ====
section
/-! DEFINITION. The commands and events of the module: one constructor for each row of the spec's table, with its operands, and
the command packet of R306 that the rows of opcodes carry. -/

namespace Sys2Proof

/-- How a packet came in, and where its reply goes: a submission ring, the USB3 device, the service device, the side channel
from an address, nowhere (R292, R299, R303, R304, R324). -/
inductive Path where
  | ring (s : Fin 32)
  | usb3
  | svc
  | side (src : Nat)
  | none
  deriving DecidableEq, Repr

/-- A command packet (R306): its origin (R42: 0 to 3 HOST0 to HOST3, 4 SVC, 5 CHAIN with the sender's address, 6 FW), its way in,
the header's fields, whether its reserved bits are 0 and its trailer is right, the parameter words. -/
structure Pkt where
  org : Nat
  src : Nat
  path : Path
  opcode : Nat
  hdrOk : Bool
  fence : Bool
  batch : Bool
  reply : Bool
  crc : Bool
  crcOk : Bool
  length : Nat
  tag : Nat
  target : Nat
  unit : Nat
  batchId : Nat
  params : List Nat
  deriving DecidableEq, Repr

/-- A read of a pan that its check bits correct or call uncorrectable (R219): pan, 64-bit word, whether uncorrectable, and the frame that a
player's buffer holds in the word. -/
structure PanErr where
  pan : Fin 16
  word : Fin 32768
  ue : Bool
  frame : Nat
  deriving DecidableEq, Repr

/-- A soft error: a stored bit of a register word that changes (0 to 31, or 32 for its parity bit), or the read of a pan word that meets one
(R38, R219). -/
inductive Upset where
  | reg (a : Word) (bit : Fin 33)
  | pan (e : PanErr)
  deriving DecidableEq, Repr

/-- What comes with a change of an encoder port's A and B: the SINCOS phase, the core cycles since the ball, and for how many core cycles the
levels have stood (R61). -/
structure PairEdge where
  ph : BitVec 12
  back : Fin 16
  held : Nat
  deriving DecidableEq, Repr

/-- What comes with a change of Z: the core cycles since the ball, and for how many core cycles the level has stood (R62). -/
structure PinEdge where
  back : Fin 32
  held : Nat
  deriving DecidableEq, Repr

/-- What the line of an encoder port shows (R63): the port, a broken or shorted pair, the radius, and for how many core cycles. -/
structure EncSeen where
  port : Fin 8
  broken : Bool
  radius : BitVec 16
  cycles : Nat
  deriving DecidableEq, Repr

/-- An edge at a line tracker's input: its direction and the quarter ticks since the ball (R64). -/
structure LineEdge where
  rising : Bool
  back : Fin 16
  deriving DecidableEq, Repr

/-- What a frame of an in-lane holds beside its named fields: the sync headers of its blocks, STAT and CRC (R247, R250). -/
structure FrameRest where
  hdrs : List (BitVec 2)
  stat : BitVec 4
  crc : Word
  deriving DecidableEq, Repr

/-- The commands. `o` is the origin of a register write (R42); a unit's number is bounded by the number of units. -/
inductive Instr where
  /-- REGISTER_WRITE (R33): A register write, over BAR0 or as one word of REG_WR, to a register that has no row of its own is treated field by field by access class. -/
  | registerWrite (o : Fin 7) (bar0 : Bool) (a : Word) (mask : BitVec 4) (ws : List Word)
  /-- NOP (R328): Command 0x00 does nothing except reply. -/
  | nop (p : Pkt)
  /-- HELLO (R311): Command 0x01 reports identity and, with RESYNC, empties and reseeds the origin's tag window. -/
  | hello (p : Pkt)
  /-- MODE_SET (R341): Command 0x02 requests a device mode transition, which is accepted or refused by the legal-transition table. -/
  | modeSet (p : Pkt)
  /-- BATCH_OPEN (R44): Command 0x03 opens a batch with a nonzero ID for the origin. -/
  | batchOpen (p : Pkt)
  /-- BATCH_COMMIT (R45): Command 0x04 stages the origin's open batch to apply at once or at AT_CT. -/
  | batchCommit (p : Pkt)
  /-- BATCH_ABORT (R44): Command 0x05 discards every member of an open or staged batch of the origin. -/
  | batchAbort (p : Pkt)
  /-- FENCE (R318): Command 0x06 holds until earlier packets have replied and earlier Carafe writes are visible. -/
  | fence (p : Pkt)
  /-- REG_RD (R329): Command 0x10 reads COUNT register words. -/
  | regRd (p : Pkt)
  /-- REG_WR (R329): Command 0x11 writes COUNT register words, each treated by its class, its byte mask and its permission. -/
  | regWr (p : Pkt)
  /-- REG_RMW (R41): Command 0x12 reads a register, replaces the masked bits and writes the result in one tick. -/
  | regRmw (p : Pkt)
  /-- SNAP (R43): Command 0x13 copies every 64-bit counter into its holding pair in one tick. -/
  | snap (p : Pkt)
  /-- SEG_ALLOC (R75): Command 0x20 allocates Carafe storage for a segment, or for a correction pair, and makes it LOADING. -/
  | segAlloc (p : Pkt)
  /-- SEG_LOAD (R79): Command 0x21 writes frames into a segment and, with LAST, makes it READY once the writes are visible. -/
  | segLoad (p : Pkt)
  /-- SEG_FREE (R77): Command 0x22 makes a segment ABSENT and frees its storage and marker list. -/
  | segFree (p : Pkt)
  /-- SEG_PIN (R424): Command 0x23 starts a pin copy to the NVM pinned region, or unpins or cancels one. -/
  | segPin (p : Pkt)
  /-- MARK_LOAD (R80): Command 0x24 replaces a segment's marker list after checking its order and coverage. -/
  | markLoad (p : Pkt)
  /-- STEP_WRITE (R85): Command 0x25 writes whole steps unless they lie in the window of an armed player. -/
  | stepWrite (p : Pkt)
  /-- PAN_GRANT (R224): Command 0x26 requests a change of pan ownership, as a PAN_OWN write. -/
  | panGrant (p : Pkt)
  /-- SEG_INFO (R330): Command 0x27 returns a segment descriptor. -/
  | segInfo (p : Pkt)
  /-- STEP_READ (R330): Command 0x28 returns steps from the step table. -/
  | stepRead (p : Pkt)
  /-- ARM (R114): Command 0x30 starts the checks, locks, step-cache load and buffer fill of a player. -/
  | arm (p : Pkt)
  /-- START (R115): Command 0x31 makes a start pending for an ARMED player, with source NOW, AT_CT, EVENT or RAKE. -/
  | start (p : Pkt)
  /-- HOLD (R117): Command 0x32 freezes a player's position and markers and takes it to HELD. -/
  | hold (p : Pkt)
  /-- RESUME (R117): Command 0x33 re-anchors a HELD player and returns it to HELD_FROM, or releases a STARVED player under REST policy. -/
  | resume (p : Pkt)
  /-- STOP (R118): Command 0x34 freezes the player, ramps its channels to REST and enters DONE, or cancels an ARM in progress. -/
  | stop (p : Pkt)
  /-- JUMP (R93): Command 0x35 registers a jump request to a target step with a timing. -/
  | jump (p : Pkt)
  /-- RATE (R59): Command 0x36 writes both words of a TIME rail's rate in one tick. -/
  | rate (p : Pkt)
  /-- PHASE (R93): Command 0x37 registers a phase request that acts at the next decided boundary. -/
  | phase (p : Pkt)
  /-- STREAM_SKIP (R135): Command 0x38 registers a jump to the next stream packet and adds to the drop count. -/
  | streamSkip (p : Pkt)
  /-- CAP_FLUSH (R170): Command 0x40 closes a capture unit's open packet with SHORT. -/
  | capFlush (p : Pkt)
  /-- CAP_REARM (R167): Command 0x41 clears DONE so that a ONE_SHOT gate waits for the next start edge. -/
  | capRearm (p : Pkt)
  /-- CAP_CLR (R332): Command 0x42 zeroes a capture unit's lost and error counts. -/
  | capClr (p : Pkt)
  /-- Q_FLUSH (R241): Command 0x43 discards a queue's open packet and every unheld visible packet. -/
  | qFlush (p : Pkt)
  /-- Q_DROP (R240): Command 0x44 drops the oldest unheld visible packet of a queue. -/
  | qDrop (p : Pkt)
  /-- Q_ACK (R243): Command 0x45 writes a queue's crossing acknowledgement. -/
  | qAck (p : Pkt)
  /-- Q_STAT (R332): Command 0x46 returns a queue's status, free space, fill and notice. -/
  | qStat (p : Pkt)
  /-- REF_FREEZE (R194): Command 0x50 freezes a learning lane with a copy pass. -/
  | refFreeze (p : Pkt)
  /-- REF_UNFREEZE (R194): Command 0x51 returns a FROZEN lane to READY. -/
  | refUnfreeze (p : Pkt)
  /-- REF_ZERO (R194): Command 0x52 freezes a lane with a zero pass. -/
  | refZero (p : Pkt)
  /-- REF_CLR (R194): Command 0x53 zeroes a lane's RISE, counts and errors. -/
  | refClr (p : Pkt)
  /-- CHAIN_PULSE (R281): Command 0x60 raises a RAKE synchronising pulse on the root. -/
  | chainPulse (p : Pkt)
  /-- CHAIN_EVENT (R280): Command 0x61 raises the chain events of its mask. -/
  | chainEvent (p : Pkt)
  /-- CHAIN_ENUM (R276): Command 0x62 starts an incremental or full address assignment on the root. -/
  | chainEnum (p : Pkt)
  /-- CHAIN_CT_LOAD (R275): Command 0x63 writes the CT load value and requests a CT load on the root. -/
  | chainCtLoad (p : Pkt)
  /-- CHAIN_INFO (R334): Command 0x64 returns tree size, Rake status, address and theta. -/
  | chainInfo (p : Pkt)
  /-- CUP_RUN (R370): Command 0x70 starts a full cupping, or a channel or out-lane partial cupping. -/
  | cupRun (p : Pkt)
  /-- CAL_STORE (R374): Command 0x71 starts a store of the calibration into the older calibration slot. -/
  | calStore (p : Pkt)
  /-- SHELF_CLEAR (R336): Command 0x72 empties the shelf so that the next WAKE uses reset values. -/
  | shelfClear (p : Pkt)
  /-- FW_WRITE (R376): Command 0x73 programs words into the firmware slot that did not boot. -/
  | fwWrite (p : Pkt)
  /-- FW_ACTIVATE (R376): Command 0x74 checks a firmware image and names its slot for the next WAKE. -/
  | fwActivate (p : Pkt)
  /-- LOG_READ (R385): Command 0x80 returns whole event-log records or audit entries from a record number. -/
  | logRead (p : Pkt)
  /-- SVC_INFO (R336): Command 0x90 returns identity and health. -/
  | svcInfo (p : Pkt)
  /-- SVC_RESET (R336): Command 0x91 schedules a power-on reset 10 ms after its final reply. -/
  | svcReset (p : Pkt)
  /-- RESULT_GET (R316): Command 0xF0 returns the cached result of a tag without entering the window. -/
  | resultGet (p : Pkt)
  /-- UNLISTED_OPCODE (R327): A packet whose opcode is not listed is answered BAD_OPCODE. -/
  | unlistedOpcode (p : Pkt)
  /-- PACKET_FENCE_RELEASE (R318): A packet with FENCE set starts once every earlier packet of its origin has replied and its writes are visible. -/
  | packetFenceRelease
  /-- FENCE_COMPLETE (R318): A FENCE completes once every write accepted at any Carafe port before it is visible. -/
  | fenceComplete
  /-- SEG_LOAD_COMPLETE (R204): A SEG_LOAD completes once its writes are visible, making the segment READY when LAST was set. -/
  | segLoadComplete
  /-- STEP_WRITE_COMPLETE (R330): A STEP_WRITE completes once its writes are visible. -/
  | stepWriteComplete
  /-- SVC_RESET_DELAY (R336): Ten milliseconds after SVC_RESET's final reply, a power-on reset occurs. -/
  | svcResetDelay
  /-- BATCH_STAGING_DONE (R45): Staging of a committed batch completes, so that it applies at once or waits for its AT_CT tick. -/
  | batchStagingDone
  /-- BATCH_COMMIT_TICK (R46): In its commit tick, a staged batch applies all its members in order, or none if any fails. -/
  | batchCommitTick
  /-- BATCH_TIMEOUT (R44): An open batch with no member and no commit for 60 s is aborted. -/
  | batchTimeout
  /-- SHELF_STORE_DONE (R47): A shelf store completes, clearing STORING or starting a store of the newest commit's image. -/
  | shelfStoreDone
  /-- PST_APPLY (R37): The slow domain applies a posted write and clears the block's busy bit. -/
  | pstApply (pwr : Bool)
  /-- GLB_MODE_REQ_WRITE (R341): A write of GLB_MODE_REQ.TARGET requests a mode transition, as MODE_SET. -/
  | glbModeReqWrite (o : Fin 7) (w : Word)
  /-- GLB_REG_ERR_CLR (R39): A write of 1 to GLB_REG_ERR.CLR zeroes the flagged-access count, cause, origin and address. -/
  | glbRegErrClr (o : Fin 7)
  /-- GLB_SNAP_GO (R43): A write of 1 to GLB_SNAP.GO takes a snapshot. -/
  | glbSnapGo (o : Fin 7)
  /-- RSRC_CTL_EN_WRITE (R54): A write of a rail unit's enable anchors the rail, or refuses the enable, or holds the rail. -/
  | rsrcCtlEnWrite (o : Fin 7) (p : Fin 64) (w : Word)
  /-- RSRC_CMD_CLR (R55): A write of 1 to RSRC_CMD.CLR zeroes a rail unit's event and slip counts. -/
  | rsrcCmdClr (o : Fin 7) (p : Fin 64)
  /-- RSRC_CMD_REANCHOR (R57): A write of 1 to RSRC_CMD.REANCHOR re-anchors the rail at its present value and discards lag. -/
  | rsrcCmdReanchor (o : Fin 7) (p : Fin 64)
  /-- RSRC_CMD_LOAD (R57): A write of 1 to RSRC_CMD.LOAD sets the rail's target to RSRC_LOAD. -/
  | rsrcCmdLoad (o : Fin 7) (p : Fin 64)
  /-- RSRC_SCALE_WRITE (R57): A write of RSRC_SCALE rebases the anchor and applies the new scale from that tick. -/
  | rsrcScaleWrite (o : Fin 7) (p : Fin 64) (v : BitVec 64)
  /-- RSRC_RATE_WRITE (R58): A write of RSRC_RATE changes a TIME rail's rate, phase-continuously. -/
  | rsrcRateWrite (o : Fin 7) (p : Fin 64) (v : BitVec 64)
  /-- ENC_CTL_EN_WRITE (R61): A write of an encoder port's enable starts counting from the levels then accepted, or refuses the enable. -/
  | encCtlEnWrite (o : Fin 7) (e : Fin 8) (w : Word)
  /-- ENC_CMD_ZERO (R62): A write of 1 to ENC_CMD.ZERO sets the encoder position to 0. -/
  | encCmdZero (o : Fin 7) (e : Fin 8)
  /-- ENC_CMD_CLR (R63): A write of 1 to ENC_CMD.CLR zeroes ENC_ERR and IDX_SEEN. -/
  | encCmdClr (o : Fin 7) (e : Fin 8)
  /-- RSRC_LT_CTL_EN_WRITE (R65): A write of a line tracker's enable starts tracking from pulse 0, or refuses the enable. -/
  | rsrcLtCtlEnWrite (o : Fin 7) (j : Fin 8) (w : Word)
  /-- RSRC_LT_MAINS (R67): A write of 1 to RSRC_LT_CTL.MAINS loads the mains preset while the tracker is disabled. -/
  | rsrcLtMains (o : Fin 7) (j : Fin 8) (w : Word)
  /-- RSRC_LT_CMD_CLR (R65): A write of 1 to RSRC_LT_CMD.CLR zeroes the tracker's error counts. -/
  | rsrcLtCmdClr (o : Fin 7) (j : Fin 8)
  /-- PLY_CTL_EN_WRITE (R111): A write of a player's enable takes it to LOADED after its checks, or to IDLE when cleared. -/
  | plyCtlEnWrite (o : Fin 7) (p : Fin 64) (w : Word)
  /-- PLY_CMD_ARM (R114): A write of 1 to PLY_CMD.ARM arms the player as ARM. -/
  | plyCmdArm (o : Fin 7) (p : Fin 64)
  /-- PLY_CMD_START (R115): A write of 1 to PLY_CMD.START starts the player with PLY_START and PLY_START_CT. -/
  | plyCmdStart (o : Fin 7) (p : Fin 64)
  /-- PLY_CMD_HOLD (R117): A write of 1 to PLY_CMD.HOLD holds the player as HOLD. -/
  | plyCmdHold (o : Fin 7) (p : Fin 64)
  /-- PLY_CMD_RESUME (R117): A write of 1 to PLY_CMD.RESUME resumes the player as RESUME. -/
  | plyCmdResume (o : Fin 7) (p : Fin 64)
  /-- PLY_CMD_STOP (R118): A write of 1 to PLY_CMD.STOP stops the player as STOP. -/
  | plyCmdStop (o : Fin 7) (p : Fin 64)
  /-- PLY_CMD_SKIP (R135): A write of 1 to PLY_CMD.SKIP acts as STREAM_SKIP with PLY_SKIP. -/
  | plyCmdSkip (o : Fin 7) (p : Fin 64)
  /-- PLY_CMD_CLR (R121): A write of 1 to PLY_CMD.CLR zeroes the player's error, stream and tick counts. -/
  | plyCmdClr (o : Fin 7) (p : Fin 64)
  /-- PLY_SEQ_CMD_CLR (R95): A write of 1 to PLY_SEQ_CMD.CLR zeroes the sequencer event, clamp and late counts. -/
  | plySeqCmdClr (o : Fin 7) (p : Fin 64)
  /-- PLY_SEQ_CMD_EV_CLR (R90): A write to PLY_SEQ_CMD.EV_CLR clears the selected pending event bits. -/
  | plySeqCmdEvClr (o : Fin 7) (p : Fin 64) (m : BitVec 16)
  /-- PLY_JUMP_GO (R93): A write of 1 to PLY_JUMP.GO registers a jump to TARGET with TIMING. -/
  | plyJumpGo (o : Fin 7) (p : Fin 64) (w : Word)
  /-- PLY_PHASE_GO (R93): A write of 1 to PLY_PHASE.GO registers a phase request with VALUE. -/
  | plyPhaseGo (o : Fin 7) (p : Fin 64) (w : Word)
  /-- TRG_TAP_WRITE (R89): A write of a marker tap takes the present marker bit without raising an event. -/
  | trgTapWrite (o : Fin 7) (i : Fin 32) (w : Word)
  /-- TRG_SW_WRITE (R89): A write to TRG_SW raises the selected software events. -/
  | trgSwWrite (o : Fin 7) (m : BitVec 16)
  /-- CHN_CTL_EN_WRITE (R157): A write of a channel's enable latches its configuration and resets its chain state, or refuses it, or turns it OFF. -/
  | chnCtlEnWrite (o : Fin 7) (c : Fin 256) (w : Word)
  /-- CHN_CMD_RESEED (R153): A write of 1 to CHN_CMD.RESEED reloads the dither generator and clears the shaping state. -/
  | chnCmdReseed (o : Fin 7) (c : Fin 256)
  /-- CHN_CMD_CLR (R150): A write of 1 to CHN_CMD.CLR zeroes the channel's limit and error counts. -/
  | chnCmdClr (o : Fin 7) (c : Fin 256)
  /-- CHN_CMD_BQ_APPLY (R148): A write to CHN_CMD.BQ_APPLY copies the selected biquads' shadow coefficients to the active set. -/
  | chnCmdBqApply (o : Fin 7) (c : Fin 256) (m : BitVec 4)
  /-- CNV_DAC_CTL_EN_WRITE (R161): A write of a DAC's enable drives or releases it, refused while a channel uses it. -/
  | cnvDacCtlEnWrite (o : Fin 7) (i : Fin 8) (w : Word)
  /-- CNV_ADC_CTL_EN_WRITE (R162): A write of an ADC's enable starts or stops its conversions. -/
  | cnvAdcCtlEnWrite (o : Fin 7) (i : Fin 8) (w : Word)
  /-- DMD_CTL_EN_WRITE (R175): A write of a demodulator's enable starts it settling, or refuses the enable. -/
  | dmdCtlEnWrite (o : Fin 7) (d : Fin 16) (w : Word)
  /-- CAP_CTL_EN_WRITE (R166): A write of a capture unit's enable claims its queue and starts gating, or refuses, or commits the last packet on disable. -/
  | capCtlEnWrite (o : Fin 7) (u : Fin 32) (w : Word)
  /-- CAP_CMD_FLUSH (R170): A write of 1 to CAP_CMD.FLUSH closes the open packet with SHORT. -/
  | capCmdFlush (o : Fin 7) (u : Fin 32)
  /-- CAP_CMD_REARM (R167): A write of 1 to CAP_CMD.REARM clears DONE for ONE_SHOT. -/
  | capCmdRearm (o : Fin 7) (u : Fin 32)
  /-- CAP_CMD_CLR (R170): A write of 1 to CAP_CMD.CLR zeroes CAP_LOST and CAP_ERR. -/
  | capCmdClr (o : Fin 7) (u : Fin 32)
  /-- REF_CTL_EN_WRITE (R181): A write of a learning lane's enable enters READY after its checks, or starts CLOSING when cleared. -/
  | refCtlEnWrite (o : Fin 7) (l : Fin 8) (w : Word)
  /-- REF_CMD_FREEZE (R194): A write of 1 to REF_CMD.FREEZE freezes the lane with a copy pass. -/
  | refCmdFreeze (o : Fin 7) (l : Fin 8)
  /-- REF_CMD_UNFREEZE (R194): A write of 1 to REF_CMD.UNFREEZE returns a FROZEN lane to READY. -/
  | refCmdUnfreeze (o : Fin 7) (l : Fin 8)
  /-- REF_CMD_ZERO (R194): A write of 1 to REF_CMD.ZERO freezes the lane with a zero pass. -/
  | refCmdZero (o : Fin 7) (l : Fin 8)
  /-- REF_CMD_CLR (R194): A write of 1 to REF_CMD.CLR zeroes RISE, REF_CNT and REF_ERR. -/
  | refCmdClr (o : Fin 7) (l : Fin 8)
  /-- CAR_CMD_SCRUB_NOW (R216): A write of 1 to CAR_CMD.SCRUB_NOW starts a patrol pass from address 0. -/
  | carCmdScrubNow (o : Fin 7)
  /-- CAR_CMD_CLR (R216): A write of 1 to CAR_CMD.CLR zeroes the Carafe ECC, row-hammer, power and port counts. -/
  | carCmdClr (o : Fin 7)
  /-- PAN_OWN_WRITE (R224): A write of PAN_OWN requests a pan handover, accepted or refused by the old owner's condition. -/
  | panOwnWrite (o : Fin 7) (k : Fin 16) (w : Word)
  /-- PAN_RET_SLEEP_WRITE (R227): A write of PAN_RET.SLEEP puts the selected pans at retention voltage. -/
  | panRetSleepWrite (o : Fin 7) (w : Word)
  /-- PAN_CMD_CLR (R230): A write of 1 to PAN_CMD.CLR zeroes the pan error, collision, non-owner and test counts. -/
  | panCmdClr (o : Fin 7)
  /-- BRN_CTL_EN_WRITE (R232): A write of a queue's enable empties it and zeroes its pointers, or refuses, or discards every packet on disable. -/
  | brnCtlEnWrite (o : Fin 7) (q : Fin 128) (w : Word)
  /-- BRN_CMD_FLUSH (R241): A write of 1 to BRN_CMD.FLUSH discards the open and every unheld visible packet. -/
  | brnCmdFlush (o : Fin 7) (q : Fin 128)
  /-- BRN_CMD_DROP (R240): A write of 1 to BRN_CMD.DROP drops the oldest unheld visible packet. -/
  | brnCmdDrop (o : Fin 7) (q : Fin 128)
  /-- BRN_CMD_CLR (R242): A write of 1 to BRN_CMD.CLR zeroes BRN_ERR and BRN_EVT. -/
  | brnCmdClr (o : Fin 7) (q : Fin 128)
  /-- BRN_LVL_WRITE (R243): A write of BRN_LVL re-evaluates ABOVE without counting a crossing. -/
  | brnLvlWrite (o : Fin 7) (q : Fin 128) (w : Word)
  /-- BRN_NOTE_ACK_WRITE (R243): A write of BRN_NOTE.ACK acknowledges crossings of a queue. -/
  | brnNoteAckWrite (o : Fin 7) (q : Fin 128) (w : Word)
  /-- FLM_OL_CTL_EN_WRITE (R258): A write of an out-lane's enable starts TRAIN, or starts CLOSING when cleared, or is refused. -/
  | flmOlCtlEnWrite (o : Fin 7) (n : Fin 16) (w : Word)
  /-- FLM_IL_CTL_EN_WRITE (R266): A write of an in-lane's enable starts ACQUIRE, or turns it OFF, or is refused. -/
  | flmIlCtlEnWrite (o : Fin 7) (n : Fin 8) (w : Word)
  /-- FLM_IL_CMD_REMEASURE (R262): A write of 1 to FLM_IL_CMD.REMEASURE returns a RUN in-lane to MEASURE. -/
  | flmIlCmdRemeasure (o : Fin 7) (n : Fin 8)
  /-- FLM_IL_CMD_CLR (R263): A write of 1 to FLM_IL_CMD.CLR zeroes the in-lane error counts. -/
  | flmIlCmdClr (o : Fin 7) (n : Fin 8)
  /-- RAKE_CTL_EN_WRITE (R268): A write of the Rake block's enable starts the role decision and the Rake ports. -/
  | rakeCtlEnWrite (o : Fin 7) (w : Word)
  /-- RAKE_CTL_FENCE_WRITE (R279): A write of RAKE_CTL.FENCE on the root schedules a fence change 128 superframes later. -/
  | rakeCtlFenceWrite (o : Fin 7) (w : Word)
  /-- RAKE_CMD_ENUM (R276): A write of 1 to RAKE_CMD.ENUM starts an incremental address assignment on the root. -/
  | rakeCmdEnum (o : Fin 7)
  /-- RAKE_CMD_ENUM_FULL (R276): A write of 1 to RAKE_CMD.ENUM_FULL starts a full address assignment on the root. -/
  | rakeCmdEnumFull (o : Fin 7)
  /-- RAKE_CMD_CT_LOAD (R275): A write of 1 to RAKE_CMD.CT_LOAD makes the root load RAKE_CT_LOAD at the next superframe start. -/
  | rakeCmdCtLoad (o : Fin 7)
  /-- RAKE_CMD_PULSE (R281): A write of 1 to RAKE_CMD.PULSE raises a synchronising pulse on the root. -/
  | rakeCmdPulse (o : Fin 7)
  /-- RAKE_CMD_CLR (R286): A write of 1 to RAKE_CMD.CLR zeroes RAKE_ERR. -/
  | rakeCmdClr (o : Fin 7)
  /-- RAKE_EV_RAISE_WRITE (R280): A write to RAKE_EV_RAISE raises the selected chain events. -/
  | rakeEvRaiseWrite (o : Fin 7) (v : BitVec 64)
  /-- RAKE_P_CTL_EN_WRITE (R272): A write of a Rake port's enable starts alignment or takes the port DOWN. -/
  | rakePCtlEnWrite (o : Fin 7) (n : Fin 4) (w : Word)
  /-- RAKE_P_CMD_CLR (R286): A write of 1 to RAKE_P_CMD.CLR zeroes the port's error counts. -/
  | rakePCmdClr (o : Fin 7) (n : Fin 4)
  /-- HST_SQ_CTL_EN_WRITE (R297): A write of a submission ring's enable resets its pointers and starts or stops fetching. -/
  | hstSqCtlEnWrite (o : Fin 7) (i : Fin 32) (w : Word)
  /-- HST_RQ_CTL_EN_WRITE (R299): A write of a reply ring's enable resets its pointers, refused as disable while a bound submission ring is enabled. -/
  | hstRqCtlEnWrite (o : Fin 7) (i : Fin 32) (w : Word)
  /-- HST_XR_CTL_EN_WRITE (R301): A write of a transfer ring's enable starts or stops its transfers. -/
  | hstXrCtlEnWrite (o : Fin 7) (i : Fin 8) (w : Word)
  /-- HST_SQ_DB (R298): A submission doorbell write sets a new tail, and the device fetches packets round-robin until ring error. -/
  | hstSqDb (i : Fin 32) (tail : BitVec 25) (ws : List Word)
  /-- HST_RQ_DB (R299): A reply doorbell write frees reply-ring space so that waiting replies are written. -/
  | hstRqDb (i : Fin 32) (head : BitVec 25)
  /-- HST_XR_DB (R301): A transfer doorbell write sets a new tail, and the device runs the descriptors in order. -/
  | hstXrDb (x : Fin 8) (tail : BitVec 17) (ds : List (List Word × List Word))
  /-- HST_CMD_CLR (R305): A write of 1 to HST_CMD.CLR zeroes HST_ERR and HST_ERR2. -/
  | hstCmdClr (o : Fin 7)
  /-- HST_BAR2_BASE_WRITE (R296): A write of HST_BAR2_BASE moves the BAR2 window once accepted transactions have completed. -/
  | hstBar2BaseWrite (o : Fin 7) (v : BitVec 64)
  /-- CLK_REF_SEL_WRITE (R360): A write of CLK_REF.SEL acts as a loss of the old reference and selects a new one. -/
  | clkRefSelWrite (o : Fin 7) (w : Word)
  /-- CLK_REF_POLICY_WRITE (R368): A write of CLK_REF.POLICY to SLEW while an offset waits starts the walk. -/
  | clkRefPolicyWrite (o : Fin 7) (w : Word)
  /-- CLK_CMD_CLR (R364): A write of 1 to CLK_CMD.CLR zeroes CLK_EVT. -/
  | clkCmdClr (o : Fin 7)
  /-- NVM_BOOT_LOCK_WRITE (R377): A first write of 1 to NVM_BOOT_LOCK writes a boot record carrying the persistent lock. -/
  | nvmBootLockWrite (o : Fin 7)
  /-- NVM_CAL_LOCK_WRITE (R377): A first write of 1 to NVM_CAL_LOCK writes a boot record carrying the persistent lock. -/
  | nvmCalLockWrite (o : Fin 7)
  /-- NVM_ERASE_GO (R373): A posted write of NVM_ERASE.GO in SERVICE starts an erase of the selected NVM region. -/
  | nvmEraseGo (o : Fin 7) (region : BitVec 2)
  /-- LOG_EV_RD_WRITE (R384): A write of LOG_EV_RD moves the host mark and re-evaluates ABOVE without counting. -/
  | logEvRdWrite (o : Fin 7) (w : Word)
  /-- LOG_EV_NOTE_ACK_WRITE (R384): A write of LOG_EV_NOTE.ACK acknowledges event-log crossings. -/
  | logEvNoteAckWrite (o : Fin 7) (w : Word)
  /-- LOG_CMD_AUD_FLUSH (R388): A write of 1 to LOG_CMD.AUD_FLUSH suspends the audit budget until the backlog is empty. -/
  | logCmdAudFlush (o : Fin 7)
  /-- LOG_CMD_CLR (R388): A write of 1 to LOG_CMD.CLR zeroes the drop, overwrite and skip counts. -/
  | logCmdClr (o : Fin 7)
  /-- PWR_CMD_CLR (R420): A write of 1 to PWR_CMD.CLR zeroes PWR_EVT and PWR_PIN.PEAK. -/
  | pwrCmdClr (o : Fin 7)
  /-- BAR2_WRITE (R296): A host write through BAR2 is written to Carafe through port 66, or discarded and counted. -/
  | bar2Write (off : BitVec 28) (bs : List Byte)
  /-- BAR2_READ (R296): A host read through BAR2 returns Carafe data, zero beyond memory, or all ones for an uncorrectable unit. -/
  | bar2Read (off : BitVec 28) (n : Nat)
  /-- SAMPLE_FABRIC_TICK (R13): In each tick, rails are evaluated, the sequencer decides and enters, and players fetch their windows. -/
  | sampleFabricTick
  /-- ARM_COMPLETE (R114): An ARM finishes its locks, step-cache load and buffer fill, and the player enters ARMED. -/
  | armComplete (p : Fin 64)
  /-- START_TICK (R116): At t_s the player takes its origin and enters RUNNING, WAITING or STARVED. -/
  | startTick (p : Fin 64)
  /-- SUCCESSOR_READY (R94): A candidate's step and first frames reach the step cache and the prefetch buffer. -/
  | successorReady (p : Fin 64) (code : Fin 9)
  /-- LATE_SUCCESSOR_ENTRY (R95): A late successor is entered 20 ticks after it becomes ready, without carry. -/
  | lateSuccessorEntry (p : Fin 64)
  /-- WAIT_RELEASE_ENTRY (R97): Twenty ticks after a release event, the waited step's first frame enters the output chain. -/
  | waitReleaseEntry (p : Fin 64)
  /-- STARVE_RESUME_ENTRY (R133): Twenty ticks after the next packet becomes ready, a STARVED player enters it and runs again. -/
  | starveResumeEntry (p : Fin 64)
  /-- CHANNEL_SAMPLE (R139): In each tick matching its rate and offset, a channel takes a sample through its output chain. -/
  | channelSample (c : Fin 256)
  /-- ADC_CONVERSION (R162): An ADC samples on its CT grid and delivers a calibrated word to its consumers. -/
  | adcConversion (i : Fin 8) (result : Int)
  /-- GP_INPUT_EDGE (R89): An edge on a GP input is timestamped and registered as a trigger source four ticks later. -/
  | gpInputEdge (i : Fin 16) (rising : Bool) (back : Fin 16)
  /-- ENCODER_EDGE (R61): An accepted A or B edge moves the encoder position. -/
  | encoderEdge (e : Fin 8) (a : Bool) (b : Bool) (x : PairEdge)
  /-- INDEX_EDGE (R62): A Z index edge latches the position and zeroes it as INDEX calls for. -/
  | indexEdge (e : Fin 8) (level : Bool) (x : PinEdge)
  /-- SSI_FRAME_START (R61): An SSI port starts a frame when its period has elapsed. -/
  | ssiFrameStart (e : Fin 8)
  /-- SSI_FRAME_DONE (R61): An SSI frame completes and its word updates the position. -/
  | ssiFrameDone (e : Fin 8) (w : BitVec 48) (ok : Bool)
  /-- ENCODER_LOST (R63): A line break, amplitude fault or bad SSI frames held long enough take a port to LOST. -/
  | encoderLost (x : EncSeen)
  /-- ENCODER_RETURN (R72): An encoder port leaves LOST, and its COUNT rail re-anchors automatically. -/
  | encoderReturn (x : EncSeen)
  /-- LINE_TRACKER_EDGE (R65): A tracker edge is accepted or rejected by its window and updates the period estimate. -/
  | lineTrackerEdge (j : Fin 8) (x : LineEdge)
  /-- FLYWHEEL_MISS (R65): No edge by the window's end counts a missing pulse and may take the tracker to LOST. -/
  | flywheelMiss (j : Fin 8)
  /-- CHAIN_RAIL_APPLY (R68): A chain rail update is applied at its CT plus the fence and the rail is re-extrapolated. -/
  | chainRailApply (i : Fin 16)
  /-- CHAIN_RAIL_LOST (R68): No newer update applied 4 µs after the expected apply tick makes the chain rail LOST. -/
  | chainRailLost (i : Fin 16)
  /-- COLLECTION_CLOSE (R185): Collection closes 1,024 ticks after the repetition boundary and the lane's pass starts. -/
  | collectionClose (l : Fin 8)
  /-- REFINE_PASS_COMPLETE (R187): An update, copy or zero pass finishes, and the lane enters SWAP_WAIT or leaves CLOSING. -/
  | refinePassComplete (l : Fin 8)
  /-- CARAFE_REQUEST (R203): A request enters a Carafe port and is scheduled by rank, hit and age. -/
  | carafeRequest (port : Fin 72) (wr : Bool) (a : BitVec 34) (len : Nat) (deadline : Option Nat)
  /-- CARAFE_READ_COMPLETE (R205): A Carafe read's data, decoded by ECC, reaches its client. -/
  | carafeReadComplete (port : Fin 72) (lat : Nat) (ces : List Nat) (ues : List Nat)
  /-- ECC_WRITEBACK (R213): A corrected block is written back at rank 4. -/
  | eccWriteback
  /-- DEADLINE_MISS (R202): A deadline request unserved at its deadline counts a miss. -/
  | deadlineMiss (port : Fin 72)
  /-- REFRESH_DUE (R207): A refresh falls due and is issued, postponed or forced. -/
  | refreshDue (m : Fin 4)
  /-- ROW_HAMMER_WINDOW_END (R209): The 32 ms activate window ends, clearing counts and throttles. -/
  | rowHammerWindowEnd
  /-- SELF_REFRESH_IDLE (R211): No request for IDLE_SR µs under its conditions starts self-refresh entry. -/
  | selfRefreshIdle
  /-- SR_DRAIN_DONE (R212): DRAIN finishes and SRE is issued. -/
  | srDrainDone
  /-- SR_EXIT_DONE (R212): Self-refresh exit completes and the controller returns to RUN. -/
  | srExitDone
  /-- PATROL_SCRUB_START (R216): The patrol period elapses and a scrub pass starts. -/
  | patrolScrubStart
  /-- DRAM_DRIFT_TRACK (R217): Every 100 ms the byte-lane delays are adjusted for drift. -/
  | dramDriftTrack (adj : List Int)
  /-- DRAM_TEMP_CHANGE (R207): The DRAM reports a temperature that changes the refresh rate or the overtemperature state. -/
  | dramTempChange (m : Fin 4) (t : Int)
  /-- MBIST_SLICE (R228): At each interval the background test borrows, marches and restores one pan slice. -/
  | mbistSlice (fails : List (Fin 64)) (yielded : Bool)
  /-- FULL_MARCH_DONE (R230): A full destructive test of a pan finishes and zero-fills it. -/
  | fullMarchDone (k : Fin 16) (fails : List (Fin 8192))
  /-- PAN_HANDOVER_DONE (R224): A pan handover takes effect once accepted accesses, yields or host transfers complete. -/
  | panHandoverDone (k : Fin 16)
  /-- PAN_WAKE_DONE (R227): A sleeping pan finishes waking and serves the held access. -/
  | panWakeDone (k : Fin 16)
  /-- XFER_WRITE (R302): A WRITE transfer descriptor carries host words into a queue. -/
  | xferWrite (ring : Fin 9) (desc : List Word) (data : List Word) (coll : List Nat)
  /-- XFER_READ (R239): A READ transfer descriptor returns the head packet of a queue and passes it. -/
  | xferRead (ring : Fin 9) (desc : List Word)
  /-- QUEUE_POINTER_FAULT (R242): A pointer copy mismatch or failed sanity condition flushes the queue and reports it. -/
  | queuePointerFault (q : Fin 128) (ptr : Fin 7) (copy : Word) (comp : Word)
  /-- CAPTURE_AGE_EXPIRY (R170): An open capture packet older than AGE µs is committed with SHORT. -/
  | captureAgeExpiry (u : Fin 32)
  /-- CAPTURE_FINAL_COMMIT (R171): After a capture disable the last packet is committed and PKT_OPEN falls. -/
  | captureFinalCommit (u : Fin 32)
  /-- CFG_SCRUB (R38): The background scrubber visits every CFG register at least once per millisecond. -/
  | cfgScrub (before : List Upset) (after : List Upset)
  /-- OUT_LANE_FRAME (R251): An out-lane assembles and sends a frame every frame period. -/
  | outLaneFrame (n : Fin 16)
  /-- OL_TRAIN_DONE (R257): An out-lane has sent TRAIN_SF superframes and enters RUN. -/
  | olTrainDone (n : Fin 16)
  /-- OL_HOLD_EXIT (R257): An out-lane in HOLD returns to RUN after lock, alignment and one whole HOLD superframe. -/
  | olHoldExit (n : Fin 16)
  /-- OL_CLOSING_DONE (R257): An out-lane has sent two CLOSING superframes and enters OFF. -/
  | olClosingDone (n : Fin 16)
  /-- LANE_PLL_LOCK (R366): The lane PLL's Flume section locks after a move of its input. -/
  | lanePllLock
  /-- IN_LANE_FRAME (R263): An in-lane frame is checked and its words delivered or the frame counted bad. -/
  | inLaneFrame (n : Fin 8) (seq : BitVec 16) (ctLo : BitVec 8) (hsa : BitVec 16) (hsb : BitVec 16) (slots : List Word) (x : FrameRest)
  /-- IN_LANE_MESSAGE (R255): An in-lane superframe's message is applied, with echo, turnaround and head fields. -/
  | inLaneMessage (n : Fin 8) (msg : Nat) (arrival : Nat)
  /-- IL_MEASURE_DONE (R262): Sixteen round trips measured fix lambda and take the in-lane to RUN. -/
  | ilMeasureDone (n : Fin 8)
  /-- IL_LOSS (R261): Sixty-four consecutive bad frames take an in-lane to LOST and re-acquire. -/
  | ilLoss (n : Fin 8)
  /-- RAKE_CELL_TRANSMIT (R270): A Rake port sends a cell on its CT grid with its records and side-channel bytes. -/
  | rakeCellTransmit (n : Fin 4)
  /-- RAKE_CELL_RECEIVE (R272): A received Rake cell is checked and its records taken or discarded. -/
  | rakeCellReceive (n : Fin 4) (k : Byte) (data : List Byte) (crc : BitVec 16) (viol : Bool) (stamp : BitVec 64)
  /-- RAKE_PORT_LOSS (R272): Sixty-four consecutive bad cells take a Rake port to LOST, or ISOLATED on the eighth loss. -/
  | rakePortLoss (n : Fin 4)
  /-- RAKE_JOIN (R273): Sixty-four two-way measurements take a Rake port to JOINED, or ISOLATED if a check fails. -/
  | rakeJoin (n : Fin 4)
  /-- ROLE_AUTO_TIMEOUT (R268): With ROLE AUTO, 100 ms without RK_UP joining makes the module root. -/
  | roleAutoTimeout
  /-- STEER_HOLD_END (R274): One millisecond after HOLD_STEER clears, phase steering resumes. -/
  | steerHoldEnd
  /-- CHAIN_EVENT_ACT (R280): A chain event or pulse acts at its raise tick plus the fence on every module. -/
  | chainEventAct
  /-- PERIODIC_PULSE (R281): The root raises a pulse at each period boundary under PERIODIC mode. -/
  | periodicPulse
  /-- RAIL_PUBLISH (R282): At each superframe start a module publishes its chain rails' value and rate. -/
  | railPublish
  /-- FENCE_CHANGE_APPLY (R279): A pending fence takes effect at its announced superframe start. -/
  | fenceChangeApply
  /-- CT_LOAD_APPLY (R275): The root takes the loaded CT at the next superframe start and sets CT_STEP. -/
  | ctLoadApply
  /-- SIDE_PACKET_RECEIVE (R284): A side-channel packet is received whole, checked and routed by kind. -/
  | sidePacketReceive (n : Fin 4) (bad : Bool) (bs : List Byte)
  /-- ENUM_COMPLETE (R276): An address assignment completes and ENUM_BUSY falls. -/
  | enumComplete
  /-- AUTO_ENUM_DELAY (R276): With AUTO_ENUM, 100 ms after the last change the root runs ENUM. -/
  | autoEnumDelay
  /-- CHAIN_FORWARD_TIMEOUT (R285): No reply to a forwarded command within RAKE_TMO answers CHAIN_TIMEOUT. -/
  | chainForwardTimeout
  /-- BROADCAST_SUMMARY_TIMEOUT (R325): The broadcast summary reply is written once all modules replied or RAKE_TMO passed. -/
  | broadcastSummaryTimeout
  /-- USB3_OUT_TRANSFER (R303): A USB3 bulk OUT transfer delivers packets or descriptors, discarding an incomplete item. -/
  | usb3OutTransfer (pair : Fin 4) (ws : List Word) (odd : Bool)
  /-- SVC_OUT_TRANSFER (R304): A service-device OUT transfer delivers packets of origin SVC. -/
  | svcOutTransfer (ws : List Word) (odd : Bool)
  /-- HOST_DMA_ERROR (R298): A host memory error completion puts the ring concerned into ERROR. -/
  | hostDmaError (kind : Fin 3) (ring : Fin 32)
  /-- SQ_HEAD_SHADOW_WRITE (R298): Within 1 µs, or after a quarter ring, the device writes the submission head shadow. -/
  | sqHeadShadowWrite (i : Fin 32)
  /-- MSIX_MESSAGE_SEND (R300): A coalesced MSI-X message is sent once its holdoff has passed. -/
  | msixMessageSend (v : Fin 64)
  /-- LINK_LOSS (R305): Loss of an origin's link disables its rings, aborts its open batches and applies LOSS_POL. -/
  | linkLoss (kind : Fin 6)
  /-- REFIN_LOSS (R361): Missing REFIN edges or a failing window mark the reference lost. -/
  | refinLoss
  /-- REFIN_PRESENT (R361): The first whole passing window marks REFIN present. -/
  | refinPresent
  /-- SAMPLE_PLL_LOCK (R364): The sample PLL declares lock, and the offset of a returning reference is measured. -/
  | samplePllLock (x : Int)
  /-- PLL_UNLOCK (R364): A PLL declares unlock, answered as a loss for the sample PLL. -/
  | pllUnlock (x : Fin 5)
  /-- SLEW_WALK_DONE (R368): The walk of ticks removes the offset, the tick returns to the sample PLL and COAST ends. -/
  | slewWalkDone
  /-- CUP_STEP_DONE (R370): A cupping step finishes, applying its results and starting the next step or ending the run. -/
  | cupStepDone (ok : Bool) (res : List (Nat × Nat × Int))
  /-- CUP_PARTIAL_DONE (R371): A channel or out-lane partial cupping finishes. -/
  | cupPartialDone (res : List (Nat × Nat × Int))
  /-- NVM_STORE_DONE (R374): A calibration, shelf or boot-record store finishes programming and reading back its slot. -/
  | nvmStoreDone
  /-- PIN_COPY_DONE (R424): A pin copy completes and the segment becomes PINNED. -/
  | pinCopyDone
  /-- UNPIN_DONE (R424): An unpin completes once the directory is stored or the copy has stopped. -/
  | unpinDone (i : Fin 262144)
  /-- FW_PROGRAM_DONE (R376): The words of an FW_WRITE are programmed. -/
  | fwProgramDone
  /-- FW_IMAGE_CHECK_DONE (R376): An FW_ACTIVATE image check finishes and a boot record is written. -/
  | fwImageCheckDone (ok : Bool)
  /-- NVM_ERASE_DONE (R373): An NVM region erase finishes. -/
  | nvmEraseDone
  /-- AUDIT_PROGRAM (R388): Within the budget, the next backlogged audit entry is programmed into NVM. -/
  | auditProgram
  /-- MIRROR_REBUILD_DONE (R389): The audit mirror finishes rebuilding from NVM. -/
  | mirrorRebuildDone
  /-- VIN_START (R402): VIN rising through the start threshold starts the converter and releases PF_N. -/
  | vinStart (mv : BitVec 16)
  /-- VIN_PF (R402): VIN falling below the PF_N threshold drives PF_N low and takes the device to SAFE. -/
  | vinPf (mv : BitVec 16)
  /-- VIN_BROWN_OUT (R402): VIN falling below the brown-out threshold causes a power-on reset. -/
  | vinBrownOut
  /-- RESET_N_LOW (R409): RESET_N held low for at least 1 µs causes a power-on reset. -/
  | resetNLow
  /-- RESET_N_HIGH (R407): RESET_N rising with VIN above the start threshold begins start-up. -/
  | resetNHigh
  /-- PWR_EN_FALL (R408): PWR_EN low for 10 µs starts an orderly shutdown. -/
  | pwrEnFall
  /-- SHUTDOWN_DRAINED (R408): Ramps, shelf store and audit backlog done, the converter stops. -/
  | shutdownDrained
  /-- SHUTDOWN_TIMEOUT (R408): Two seconds into a shutdown the converter stops whatever remains. -/
  | shutdownTimeout
  /-- PWR_EN_RISE (R408): PWR_EN rising after shutdown starts power-up. -/
  | pwrEnRise
  /-- WAKE_N_FALL (R351): A falling edge on WAKE_N leaves SHELF and starts start-up at TRAIN. -/
  | wakeNFall (slept : Nat)
  /-- DIE_TEMP_HIGH (R352): Die temperature at 125 °C sets THERM and takes the device to SAFE. -/
  | dieTempHigh (t : BitVec 16)
  /-- DIE_TEMP_NORMAL (R352): Die temperature below 115 °C ends the thermal SAFE cause. -/
  | dieTempNormal (t : BitVec 16)
  /-- THERMAL_TRIP (R352): Die temperature at 135 °C turns the converter off within 10 µs. -/
  | thermalTrip (t : BitVec 16)
  /-- TRIP_COOLED (R352): After a trip, the die falling below 100 °C causes a power-on reset. -/
  | tripCooled (t : BitVec 16)
  /-- VBAK_CHANGE (R404): VBAK crossing 2.7 V changes VBAK_OK. -/
  | vbakChange (mv : BitVec 16)
  /-- VIO_CHANGE (R405): VIO appearing or disappearing changes the GP bank's level and drive. -/
  | vioChange (v : Fin 3)
  /-- INTERNAL_RAILS_UP (R346): Internal rails, bypass oscillator and standby PLL are up and TRAIN begins. -/
  | internalRailsUp
  /-- BOOT_CHECK_DONE (R376): Boot selects and checks a firmware slot and reads calibration and shelf headers. -/
  | bootCheckDone (ok : BitVec 2)
  /-- CARAFE_TRAINING_DONE (R217): Quick or full Carafe training finishes, passing or failing into SERVICE. -/
  | carafeTrainingDone (quick : Bool) (lanes : BitVec 8) (step : BitVec 4) (ms : BitVec 16) (delays : List Int)
  /-- ECC_FILL_DONE (R217): Every Carafe data block and its check bytes have been zero-filled. -/
  | eccFillDone
  /-- CARAFE_TEST_DONE (R217): The selected Carafe test finishes. -/
  | carafeTestDone (lanes : BitVec 8)
  /-- FW_IMAGE_COPY_DONE (R346): The firmware image has been copied from NVM and checked. -/
  | fwImageCopyDone (ok : BitVec 2)
  /-- PINNED_RESTORE_DONE (R79): Pinned segments are restored to Carafe at their indices. -/
  | pinnedRestoreDone
  /-- PAN_WAKE_FILL_DONE (R226): Pans are woken and those not retained are zero-filled. -/
  | panWakeFillDone
  /-- SHELF_IMAGE_APPLY (R347): WAKE applies the last completed shelf image as one batch and leaves WAKE. -/
  | shelfImageApply
  /-- SHELF_ENTRY_DONE (R350): The SHELF entry steps finish and the device is in SHELF at its depth. -/
  | shelfEntryDone
  /-- CP_WATCHDOG_EXPIRY (R352): The control-processor watchdog of 100 ms expires and the device enters RECOVER. -/
  | cpWatchdogExpiry
  /-- FW_RELOAD_DONE (R354): The control processor has reloaded its firmware and RECOVER's second stage begins. -/
  | fwReloadDone
  /-- RECOVER_APPLY (R354): Once ramps end, RECOVER applies the selected image and leaves to SAFE, the activity mode, COAST or SERVICE. -/
  | recoverApply (good : Bool)
  /-- DAC_CURRENT_LIMIT (R160): A DAC's output current limit starts or stops acting, setting or clearing OVLD and counting each entry in CNV_DAC_ERR. -/
  | dacCurrentLimit (i : Fin 8) (acts : Bool)
  /-- HOST_LINK_RETURN (R305): The USB4 link, PCIe tunnel, USB3 device or service device comes up, updating HST_LINK and presenting the transports so that the host can re-enable its rings. -/
  | hostLinkReturn (state : Fin 5) (gen : Fin 4) (lanes : Fin 3) (svc : Bool)
  deriving DecidableEq, Repr

end Sys2Proof
end

