-- ==== Sys2Proof/Decode.lean ====
section
/-! DEFINITION. The module has no instruction decoder: the spec's table gives its rows no bits, so no word spells a command. -/

namespace Sys2Proof

/-- The command that a word spells by the table's bits: none, because no row has bits (log entry 2). -/
def decodeTableWord (_nbits _w : Nat) : Option Instr := none

end Sys2Proof
end

