-- ==== Sys2Proof/Config.lean ====
section
/-! DEFINITION. What one module fixes for itself and the free values: constants without a body, so that no proof can
lean on a value of theirs. -/

namespace Sys2Proof.Config

/-- Free values: the value that the model takes where the spec gives none, one for each count of `State.freeN`
(assumption 3). -/
opaque freeValue : Nat → BitVec 64

/-- The same for the contents of a memory that the spec leaves undefined: addresses and bytes. -/
opaque freeCells : Nat → List (Nat × Byte)

/-- `GLB_REV`: revision of the logic die and grade of the part ("per die", "per part"). -/
opaque dieMaj : BitVec 8
opaque dieMin : BitVec 8
opaque grade : BitVec 1

/-- The serial number and the firmware version that HELLO and SVC_INFO report (R328, R336). -/
opaque serial : BitVec 64
opaque fwVersion : BitVec 32
opaque fwBuild : BitVec 32

/-- The words of the firmware image that both slots hold as delivered (R376). -/
opaque fwWord : Nat → BitVec 32

/-- Production calibration (R421): `CUP_BYP.B` and `CUP_TEMP.TEMP` as stored before delivery. -/
opaque calByp : BitVec 32
opaque calTemp : BitVec 16

/-- The demodulators' FIR (R173, R174): the spec gives its length, its unity DC gain and its response, not its taps. The first 31 of
its taps in units of 2^−firBits (the filter is symmetric; assumption 10). -/
opaque firTap : Nat → Int
opaque firBits : Nat

end Sys2Proof.Config
end

