-- ==== Sys2Proof/Machine/RegMap.lean ====
section
/-! DEFINITION. The register map: one field descriptor per register field of the spec's register tables, and the
table of register rows by which an address names its fields (R3, R6, R11, R30, R31 and every chapter's register
section). -/

namespace Sys2Proof.Machine

/-- The access classes of R6. -/
inductive Cls where
  | cfg | live | ro | st | wo1 | cmd | pst
  deriving DecidableEq, Repr

/-- A register field: the address of unit 0's register (of the low word for a pair), the distance between units, the
lowest bit, the width, the class, the value after WAKE with an empty shelf by unit, and the encodings that the
field's table lists (R5). -/
structure Fld where
  base : Nat
  stride : Nat
  lo : Nat
  width : Nat
  cls : Cls
  rst : Nat → Nat
  ok : Nat → Bool

/-- A register of a unit: its offset from the unit's base, whether it is a pair (R31), and its fields. -/
structure Row where
  off : Nat
  pair : Bool
  flds : List Fld

/-- A run of equal units: base, distance, number of units, register group (R42), rows. -/
structure Blk where
  base : Nat
  stride : Nat
  count : Nat
  grp : Nat
  rows : List Row

/-- The number under which a field of unit `u` is kept in the register store. -/
def Fld.key (f : Fld) (u : Nat) : Nat := (f.base + f.stride * u) * 64 + f.lo

/-- The address of the register word (the low word of a pair) that holds a field of unit `u`. -/
def Fld.addr (f : Fld) (u : Nat) : Nat := f.base + f.stride * u

/-- The trigger-matrix codes that R89 does not reserve. -/
def srcListed (v : Nat) : Bool := (decide (v < 0xC8) || decide (0xE0 ≤ v)) && decide (v ≤ 0xF0)

/-- The codes that `RAKE_EV_SRC.SRC` lists: those of R89 without the chain events and the RAKE pulse. -/
def rakeSrcListed (v : Nat) : Bool := srcListed v && !(decide (0x20 ≤ v) && decide (v ≤ 0x5F)) && decide (v ≠ 0xF0)

/-- Ownership after WAKE with an empty shelf (R222, codes of R220). -/
def panOwnerReset (k : Nat) : Nat := if k ≤ 3 then 2 else if k == 4 then 3 else if k ≤ 9 then 4 else if k ≤ 11 then 1 else if k == 12 then 6 else if k == 13 then 5 else if k ≤ 15 then 4 else 0

/-- The standby PLL's ratio 64·(1 − b) in units of 2^−24, `b` in parts per 10^9, rounded down (R362). -/
def standbyRatio (b : Int) : Nat := ((64 * 2 ^ 24 * (1000000000 - b)) / 1000000000).toNat

/-- `N`, `NUM` and `DEN` of PLL `x` after WAKE (R362), at the reset reference selection. -/
def pllReset (x part : Nat) : Nat :=
  let t : Nat × Nat × Nat := match x with
    | 0 => (256, 0, 1)
    | 1 => (standbyRatio Config.calByp.toInt / 2 ^ 24, standbyRatio Config.calByp.toInt % 2 ^ 24, 2 ^ 24)
    | 2 => (106, 2, 3)
    | 3 => (1250, 0, 1)
    | _ => (15, 5, 8)
  if part == 0 then t.1 else if part == 1 then t.2.1 else t.2.2

def F.GLB_ID_VENDOR : Fld := ⟨0x0, 0x0, 16, 16, .ro, fun _ => 21335, fun _ => true⟩
def F.GLB_ID_PART : Fld := ⟨0x0, 0x0, 0, 16, .ro, fun _ => 1600, fun _ => true⟩
def F.GLB_REV_DIE_MAJ : Fld := ⟨0x4, 0x0, 24, 8, .ro, fun _ => Config.dieMaj.toNat, fun _ => true⟩
def F.GLB_REV_DIE_MIN : Fld := ⟨0x4, 0x0, 16, 8, .ro, fun _ => Config.dieMin.toNat, fun _ => true⟩
def F.GLB_REV_GRADE : Fld := ⟨0x4, 0x0, 12, 4, .ro, fun _ => Config.grade.toNat, fun _ => true⟩
def F.GLB_ADDR_DEPTH : Fld := ⟨0x8, 0x0, 20, 5, .ro, fun _ => 0, fun _ => true⟩
def F.GLB_ADDR_PINNED : Fld := ⟨0x8, 0x0, 16, 1, .ro, fun _ => 0, fun _ => true⟩
def F.GLB_ADDR_VALID : Fld := ⟨0x8, 0x0, 15, 1, .ro, fun _ => 0, fun _ => true⟩
def F.GLB_ADDR_ADDR : Fld := ⟨0x8, 0x0, 0, 12, .ro, fun _ => 0, fun _ => true⟩
def F.GLB_ADDR_PIN_ADDR : Fld := ⟨0xc, 0x0, 0, 12, .wo1, fun _ => 4095, fun _ => true⟩
def F.GLB_MODE_CHANGES : Fld := ⟨0x10, 0x0, 16, 16, .ro, fun _ => 0, fun _ => true⟩
def F.GLB_MODE_TRANSIT : Fld := ⟨0x10, 0x0, 9, 1, .st, fun _ => 0, fun _ => true⟩
def F.GLB_MODE_DEPTH : Fld := ⟨0x10, 0x0, 8, 1, .ro, fun _ => 0, fun _ => true⟩
def F.GLB_MODE_PREV : Fld := ⟨0x10, 0x0, 4, 4, .ro, fun _ => 1, fun _ => true⟩
def F.GLB_MODE_MODE : Fld := ⟨0x10, 0x0, 0, 4, .ro, fun _ => 3, fun _ => true⟩
def F.GLB_MODE_REQ_RESULT : Fld := ⟨0x14, 0x0, 24, 4, .ro, fun _ => 0, fun _ => true⟩
def F.GLB_MODE_REQ_DEPTH : Fld := ⟨0x14, 0x0, 4, 1, .live, fun _ => 0, fun _ => true⟩
def F.GLB_MODE_REQ_TARGET : Fld := ⟨0x14, 0x0, 0, 4, .cmd, fun _ => 0, fun v => decide (v ≤ 11)⟩
def F.GLB_REG_ERR_CLR : Fld := ⟨0x18, 0x0, 31, 1, .cmd, fun _ => 0, fun _ => true⟩
def F.GLB_REG_ERR_ORIGIN : Fld := ⟨0x18, 0x0, 24, 4, .ro, fun _ => 0, fun _ => true⟩
def F.GLB_REG_ERR_CAUSE : Fld := ⟨0x18, 0x0, 20, 4, .ro, fun _ => 0, fun _ => true⟩
def F.GLB_REG_ERR_COUNT : Fld := ⟨0x18, 0x0, 0, 16, .ro, fun _ => 0, fun _ => true⟩
def F.GLB_REG_ERR_ADDR_ADDR : Fld := ⟨0x1c, 0x0, 0, 32, .ro, fun _ => 0, fun _ => true⟩
def F.GLB_FAULT_SUM_FAULT_N : Fld := ⟨0x20, 0x0, 31, 1, .st, fun _ => 0, fun _ => true⟩
def F.GLB_FAULT_SUM_PARITY : Fld := ⟨0x20, 0x0, 30, 1, .st, fun _ => 0, fun _ => true⟩
def F.GLB_FAULT_SUM_BLOCK : Fld := ⟨0x20, 0x0, 0, 19, .st, fun _ => 0, fun _ => true⟩
def F.GLB_SNAP_SEQ : Fld := ⟨0x24, 0x0, 16, 16, .ro, fun _ => 0, fun _ => true⟩
def F.GLB_SNAP_GO : Fld := ⟨0x24, 0x0, 0, 1, .cmd, fun _ => 0, fun _ => true⟩
def F.GLB_BATCH_LAST_ID : Fld := ⟨0x28, 0x0, 16, 16, .ro, fun _ => 0, fun _ => true⟩
def F.GLB_BATCH_COMMITS : Fld := ⟨0x28, 0x0, 8, 8, .ro, fun _ => 0, fun _ => true⟩
def F.GLB_BATCH_STAGED : Fld := ⟨0x28, 0x0, 5, 3, .ro, fun _ => 0, fun _ => true⟩
def F.GLB_BATCH_STORING : Fld := ⟨0x28, 0x0, 4, 1, .st, fun _ => 0, fun _ => true⟩
def F.GLB_BATCH_OPEN : Fld := ⟨0x28, 0x0, 0, 4, .ro, fun _ => 0, fun _ => true⟩
def F.GLB_TICK_TICK : Fld := ⟨0x30, 0x0, 0, 64, .ro, fun _ => 0, fun _ => true⟩
def F.GLB_CT_TICKS : Fld := ⟨0x38, 0x0, 8, 56, .ro, fun _ => 0, fun _ => true⟩
def F.GLB_CT_FRAC : Fld := ⟨0x38, 0x0, 0, 8, .ro, fun _ => 0, fun _ => true⟩
def F.GLB_TICK_SNAP_TICK : Fld := ⟨0x40, 0x0, 0, 64, .ro, fun _ => 0, fun _ => true⟩
def F.GLB_CT_SNAP_CT : Fld := ⟨0x48, 0x0, 0, 64, .ro, fun _ => 0, fun _ => true⟩
def F.GLB_PERM_CMD_CLASSES : Fld := ⟨0x80, 0x8, 0, 16, .live, fun o => if o == 0 || o == 6 then 0xFFFF else if o == 4 then 0x0300 else if o == 5 then 0x0048 else 0, fun _ => true⟩
def F.GLB_PERM_REG_GROUPS : Fld := ⟨0x84, 0x8, 0, 19, .live, fun o => if o == 0 || o == 6 then 0x7FFFF else 0, fun _ => true⟩
def F.RSRC_CTL_COMP : Fld := ⟨0x300000, 0x80, 19, 1, .cfg, fun _ => 0, fun _ => true⟩
def F.RSRC_CTL_ABS : Fld := ⟨0x300000, 0x80, 18, 1, .cfg, fun _ => 0, fun _ => true⟩
def F.RSRC_CTL_LOSS_POL : Fld := ⟨0x300000, 0x80, 17, 1, .cfg, fun _ => 0, fun _ => true⟩
def F.RSRC_CTL_SEL : Fld := ⟨0x300000, 0x80, 8, 6, .cfg, fun _ => 0, fun _ => true⟩
def F.RSRC_CTL_SRC : Fld := ⟨0x300000, 0x80, 1, 3, .cfg, fun _ => 0, fun v => decide (v ≤ 5)⟩
def F.RSRC_CTL_EN : Fld := ⟨0x300000, 0x80, 0, 1, .live, fun _ => 0, fun _ => true⟩
def F.RSRC_CMD_CLR : Fld := ⟨0x300004, 0x80, 2, 1, .cmd, fun _ => 0, fun _ => true⟩
def F.RSRC_CMD_REANCHOR : Fld := ⟨0x300004, 0x80, 1, 1, .cmd, fun _ => 0, fun _ => true⟩
def F.RSRC_CMD_LOAD : Fld := ⟨0x300004, 0x80, 0, 1, .cmd, fun _ => 0, fun _ => true⟩
def F.RSRC_STAT_WRAPS : Fld := ⟨0x300008, 0x80, 16, 16, .ro, fun _ => 0, fun _ => true⟩
def F.RSRC_STAT_CFG_BAD : Fld := ⟨0x300008, 0x80, 3, 1, .ro, fun _ => 0, fun _ => true⟩
def F.RSRC_STAT_AUTO_REANCHORED : Fld := ⟨0x300008, 0x80, 2, 1, .ro, fun _ => 0, fun _ => true⟩
def F.RSRC_STAT_LOST : Fld := ⟨0x300008, 0x80, 1, 1, .st, fun _ => 0, fun _ => true⟩
def F.RSRC_STAT_RATE_LIMIT : Fld := ⟨0x300008, 0x80, 0, 1, .st, fun _ => 0, fun _ => true⟩
def F.RSRC_EVT_LOSSES : Fld := ⟨0x30000c, 0x80, 16, 16, .ro, fun _ => 0, fun _ => true⟩
def F.RSRC_EVT_LIMITS : Fld := ⟨0x30000c, 0x80, 0, 16, .ro, fun _ => 0, fun _ => true⟩
def F.RSRC_SLIP_SLIP : Fld := ⟨0x300010, 0x80, 0, 32, .ro, fun _ => 0, fun _ => true⟩
def F.RSRC_RATE_RATE : Fld := ⟨0x300018, 0x80, 0, 48, .live, fun _ => 0, fun _ => true⟩
def F.RSRC_SCALE_SCALE : Fld := ⟨0x300020, 0x80, 0, 40, .live, fun _ => 16777216, fun _ => true⟩
def F.RSRC_LOAD_LOAD : Fld := ⟨0x300028, 0x80, 0, 64, .live, fun _ => 0, fun _ => true⟩
def F.RSRC_RAIL_RAIL : Fld := ⟨0x300030, 0x80, 0, 64, .ro, fun _ => 0, fun _ => true⟩
def F.RSRC_LAG_LAG : Fld := ⟨0x300038, 0x80, 0, 64, .ro, fun _ => 0, fun _ => true⟩
def F.RSRC_ANCH_A : Fld := ⟨0x300040, 0x80, 0, 64, .ro, fun _ => 0, fun _ => true⟩
def F.RSRC_XREF_X_A : Fld := ⟨0x300048, 0x80, 0, 64, .ro, fun _ => 0, fun _ => true⟩
def F.RSRC_RAIL_SNAP_RAIL : Fld := ⟨0x300050, 0x80, 0, 64, .ro, fun _ => 0, fun _ => true⟩
def F.ENC_CTL_TERM : Fld := ⟨0x302000, 0x40, 10, 1, .cfg, fun _ => 1, fun _ => true⟩
def F.ENC_CTL_INDEX : Fld := ⟨0x302000, 0x40, 8, 2, .cfg, fun _ => 0, fun _ => true⟩
def F.ENC_CTL_FILT : Fld := ⟨0x302000, 0x40, 4, 4, .cfg, fun _ => 2, fun _ => true⟩
def F.ENC_CTL_INVERT : Fld := ⟨0x302000, 0x40, 3, 1, .cfg, fun _ => 0, fun _ => true⟩
def F.ENC_CTL_MODE : Fld := ⟨0x302000, 0x40, 1, 2, .cfg, fun _ => 0, fun _ => true⟩
def F.ENC_CTL_EN : Fld := ⟨0x302000, 0x40, 0, 1, .live, fun _ => 0, fun _ => true⟩
def F.ENC_SSI_PERIOD : Fld := ⟨0x302004, 0x40, 16, 16, .cfg, fun _ => 100, fun v => decide (1 ≤ v)⟩
def F.ENC_SSI_CLKDIV : Fld := ⟨0x302004, 0x40, 8, 8, .cfg, fun _ => 15, fun v => decide (7 ≤ v)⟩
def F.ENC_SSI_GRAY : Fld := ⟨0x302004, 0x40, 6, 1, .cfg, fun _ => 0, fun _ => true⟩
def F.ENC_SSI_LEN : Fld := ⟨0x302004, 0x40, 0, 6, .cfg, fun _ => 25, fun v => decide (8 ≤ v ∧ v ≤ 48)⟩
def F.ENC_SINCOS_AMP_HI : Fld := ⟨0x302008, 0x40, 8, 8, .cfg, fun _ => 179, fun _ => true⟩
def F.ENC_SINCOS_AMP_LO : Fld := ⟨0x302008, 0x40, 0, 8, .cfg, fun _ => 77, fun _ => true⟩
def F.ENC_STAT_CFG_BAD : Fld := ⟨0x30200c, 0x40, 2, 1, .ro, fun _ => 0, fun _ => true⟩
def F.ENC_STAT_IDX_SEEN : Fld := ⟨0x30200c, 0x40, 1, 1, .ro, fun _ => 0, fun _ => true⟩
def F.ENC_STAT_LOST : Fld := ⟨0x30200c, 0x40, 0, 1, .st, fun _ => 0, fun _ => true⟩
def F.ENC_POS_COUNT : Fld := ⟨0x302010, 0x40, 12, 48, .ro, fun _ => 0, fun _ => true⟩
def F.ENC_POS_FRAC : Fld := ⟨0x302010, 0x40, 0, 12, .ro, fun _ => 0, fun _ => true⟩
def F.ENC_IDX_POS : Fld := ⟨0x302018, 0x40, 0, 64, .ro, fun _ => 0, fun _ => true⟩
def F.ENC_ERR_AMP : Fld := ⟨0x302020, 0x40, 16, 16, .ro, fun _ => 0, fun _ => true⟩
def F.ENC_ERR_ILLEGAL : Fld := ⟨0x302020, 0x40, 0, 16, .ro, fun _ => 0, fun _ => true⟩
def F.ENC_CMD_CLR : Fld := ⟨0x302024, 0x40, 1, 1, .cmd, fun _ => 0, fun _ => true⟩
def F.ENC_CMD_ZERO : Fld := ⟨0x302024, 0x40, 0, 1, .cmd, fun _ => 0, fun _ => true⟩
def F.ENC_POS_SNAP_POS : Fld := ⟨0x302028, 0x40, 0, 64, .ro, fun _ => 0, fun _ => true⟩
def F.RSRC_LT_CTL_MAINS : Fld := ⟨0x303000, 0x40, 31, 1, .cmd, fun _ => 0, fun _ => true⟩
def F.RSRC_LT_CTL_MISS_MAX : Fld := ⟨0x303000, 0x40, 24, 4, .cfg, fun _ => 0, fun _ => true⟩
def F.RSRC_LT_CTL_WIN : Fld := ⟨0x303000, 0x40, 16, 8, .cfg, fun _ => 13, fun v => decide (1 ≤ v)⟩
def F.RSRC_LT_CTL_IN_SEL : Fld := ⟨0x303000, 0x40, 8, 8, .cfg, fun _ => 0, fun _ => true⟩
def F.RSRC_LT_CTL_AVG : Fld := ⟨0x303000, 0x40, 4, 3, .cfg, fun _ => 4, fun v => decide (v ≤ 6)⟩
def F.RSRC_LT_CTL_EDGE : Fld := ⟨0x303000, 0x40, 2, 2, .cfg, fun _ => 0, fun v => decide (v ≤ 2)⟩
def F.RSRC_LT_CTL_SLEW : Fld := ⟨0x303000, 0x40, 1, 1, .cfg, fun _ => 0, fun _ => true⟩
def F.RSRC_LT_CTL_EN : Fld := ⟨0x303000, 0x40, 0, 1, .live, fun _ => 0, fun _ => true⟩
def F.RSRC_LT_NOM_NOM : Fld := ⟨0x303004, 0x40, 0, 32, .cfg, fun _ => 640000, fun v => decide (64 ≤ v)⟩
def F.RSRC_LT_HYST_HYST : Fld := ⟨0x303008, 0x40, 0, 16, .cfg, fun _ => 4096, fun _ => true⟩
def F.RSRC_LT_PER_EST : Fld := ⟨0x30300c, 0x40, 0, 32, .ro, fun _ => 0, fun _ => true⟩
def F.RSRC_LT_STAT_CFG_BAD : Fld := ⟨0x303010, 0x40, 3, 1, .ro, fun _ => 0, fun _ => true⟩
def F.RSRC_LT_STAT_FLYWHEEL : Fld := ⟨0x303010, 0x40, 2, 1, .st, fun _ => 0, fun _ => true⟩
def F.RSRC_LT_STAT_LOST : Fld := ⟨0x303010, 0x40, 1, 1, .st, fun _ => 0, fun _ => true⟩
def F.RSRC_LT_STAT_LOCKED : Fld := ⟨0x303010, 0x40, 0, 1, .st, fun _ => 0, fun _ => true⟩
def F.RSRC_LT_ERR_MISSED : Fld := ⟨0x303014, 0x40, 16, 16, .ro, fun _ => 0, fun _ => true⟩
def F.RSRC_LT_ERR_REJECTED : Fld := ⟨0x303014, 0x40, 0, 16, .ro, fun _ => 0, fun _ => true⟩
def F.RSRC_LT_CNT_K : Fld := ⟨0x303018, 0x40, 0, 64, .ro, fun _ => 0, fun _ => true⟩
def F.RSRC_LT_CNT_SNAP_K : Fld := ⟨0x303020, 0x40, 0, 64, .ro, fun _ => 0, fun _ => true⟩
def F.RSRC_LT_CMD_CLR : Fld := ⟨0x303028, 0x40, 0, 1, .cmd, fun _ => 0, fun _ => true⟩
def F.PLY_STEP_BASE_BASE : Fld := ⟨0x100100, 0x1000, 0, 20, .cfg, fun _ => 0, fun _ => true⟩
def F.PLY_STEP_COUNT_COUNT : Fld := ⟨0x100104, 0x1000, 0, 16, .cfg, fun _ => 1, fun v => decide (1 ≤ v)⟩
def F.PLY_START_STEP_START : Fld := ⟨0x100108, 0x1000, 0, 16, .cfg, fun _ => 0, fun _ => true⟩
def F.PLY_SEQ_STAT_STEP : Fld := ⟨0x10010c, 0x1000, 16, 16, .ro, fun _ => 0, fun _ => true⟩
def F.PLY_SEQ_STAT_HIST : Fld := ⟨0x10010c, 0x1000, 8, 5, .ro, fun _ => 0, fun _ => true⟩
def F.PLY_SEQ_STAT_REDO : Fld := ⟨0x10010c, 0x1000, 4, 1, .st, fun _ => 0, fun _ => true⟩
def F.PLY_SEQ_STAT_LATE : Fld := ⟨0x10010c, 0x1000, 3, 1, .st, fun _ => 0, fun _ => true⟩
def F.PLY_SEQ_STAT_CLAMPED : Fld := ⟨0x10010c, 0x1000, 2, 1, .st, fun _ => 0, fun _ => true⟩
def F.PLY_SEQ_STAT_WAITING : Fld := ⟨0x10010c, 0x1000, 1, 1, .st, fun _ => 0, fun _ => true⟩
def F.PLY_SEQ_STAT_REVERSE : Fld := ⟨0x10010c, 0x1000, 0, 1, .st, fun _ => 0, fun _ => true⟩
def F.PLY_ITER_ITER : Fld := ⟨0x100110, 0x1000, 0, 32, .ro, fun _ => 0, fun _ => true⟩
def F.PLY_POS_S : Fld := ⟨0x100118, 0x1000, 0, 64, .ro, fun _ => 0, fun _ => true⟩
def F.PLY_ORIGIN_O : Fld := ⟨0x100120, 0x1000, 0, 64, .ro, fun _ => 0, fun _ => true⟩
def F.PLY_EVPEND_PEND : Fld := ⟨0x100128, 0x1000, 0, 16, .ro, fun _ => 0, fun _ => true⟩
def F.PLY_SEQ_CMD_CLR : Fld := ⟨0x10012c, 0x1000, 16, 1, .cmd, fun _ => 0, fun _ => true⟩
def F.PLY_SEQ_CMD_EV_CLR : Fld := ⟨0x10012c, 0x1000, 0, 16, .cmd, fun _ => 0, fun _ => true⟩
def F.PLY_JUMP_GO : Fld := ⟨0x100130, 0x1000, 31, 1, .cmd, fun _ => 0, fun _ => true⟩
def F.PLY_JUMP_TIMING : Fld := ⟨0x100130, 0x1000, 16, 2, .live, fun _ => 1, fun v => decide (1 ≤ v)⟩
def F.PLY_JUMP_TARGET : Fld := ⟨0x100130, 0x1000, 0, 16, .live, fun _ => 0, fun _ => true⟩
def F.PLY_PHASE_GO : Fld := ⟨0x100134, 0x1000, 31, 1, .cmd, fun _ => 0, fun _ => true⟩
def F.PLY_PHASE_VALUE : Fld := ⟨0x100134, 0x1000, 0, 24, .live, fun _ => 0, fun _ => true⟩
def F.PLY_MARK_OUT : Fld := ⟨0x100138, 0x1000, 16, 16, .ro, fun _ => 0, fun _ => true⟩
def F.PLY_MARK_RAW : Fld := ⟨0x100138, 0x1000, 0, 16, .ro, fun _ => 0, fun _ => true⟩
def F.PLY_SEQ_EVT_LATE : Fld := ⟨0x10013c, 0x1000, 24, 8, .ro, fun _ => 0, fun _ => true⟩
def F.PLY_SEQ_EVT_DEFERRED : Fld := ⟨0x10013c, 0x1000, 16, 8, .ro, fun _ => 0, fun _ => true⟩
def F.PLY_SEQ_EVT_HIST_OVF : Fld := ⟨0x10013c, 0x1000, 8, 8, .ro, fun _ => 0, fun _ => true⟩
def F.PLY_SEQ_EVT_DROPPED : Fld := ⟨0x10013c, 0x1000, 0, 8, .ro, fun _ => 0, fun _ => true⟩
def F.PLY_CLAMP_TICKS_TICKS : Fld := ⟨0x100140, 0x1000, 0, 32, .ro, fun _ => 0, fun _ => true⟩
def F.PLY_LATE_TICKS_TICKS : Fld := ⟨0x100144, 0x1000, 0, 32, .ro, fun _ => 0, fun _ => true⟩
def F.PLY_ARM_ERR_STEP : Fld := ⟨0x100148, 0x1000, 16, 16, .ro, fun _ => 0, fun _ => true⟩
def F.PLY_ARM_ERR_CAUSE : Fld := ⟨0x100148, 0x1000, 0, 4, .ro, fun _ => 0, fun _ => true⟩
def F.PLY_WAIT_CT_CT : Fld := ⟨0x100150, 0x1000, 0, 64, .ro, fun _ => 0, fun _ => true⟩
def F.PLY_ENTRIES_COUNT : Fld := ⟨0x100158, 0x1000, 0, 64, .ro, fun _ => 0, fun _ => true⟩
def F.PLY_ENTRIES_SNAP_COUNT : Fld := ⟨0x100160, 0x1000, 0, 64, .ro, fun _ => 0, fun _ => true⟩
def F.TRG_EVSEL_SRC_H (m : Nat) : Fld := ⟨(0xa00000 + 0x4 * m), 0x40, 24, 8, .cfg, fun _ => 0, fun v => srcListed v⟩
def F.TRG_EVSEL_EDGE_H (m : Nat) : Fld := ⟨(0xa00000 + 0x4 * m), 0x40, 20, 2, .cfg, fun _ => 3, fun _ => true⟩
def F.TRG_EVSEL_SRC_L (m : Nat) : Fld := ⟨(0xa00000 + 0x4 * m), 0x40, 8, 8, .cfg, fun _ => 0, fun v => srcListed v⟩
def F.TRG_EVSEL_EDGE_L (m : Nat) : Fld := ⟨(0xa00000 + 0x4 * m), 0x40, 4, 2, .cfg, fun _ => 3, fun _ => true⟩
def F.TRG_TAP_PLAYER : Fld := ⟨0xa01000, 0x4, 8, 6, .live, fun _ => 0, fun _ => true⟩
def F.TRG_TAP_EN : Fld := ⟨0xa01000, 0x4, 4, 1, .live, fun _ => 0, fun _ => true⟩
def F.TRG_TAP_BIT : Fld := ⟨0xa01000, 0x4, 0, 4, .live, fun _ => 0, fun _ => true⟩
def F.TRG_SW_SW : Fld := ⟨0xa01080, 0x0, 0, 16, .cmd, fun _ => 0, fun _ => true⟩
def F.TRG_GP_STAT_LEVEL : Fld := ⟨0xa01084, 0x0, 0, 16, .st, fun _ => 0, fun _ => true⟩
def F.PLY_CTL_BIND : Fld := ⟨0x100000, 0x1000, 8, 4, .cfg, fun _ => 1, fun _ => true⟩
def F.PLY_CTL_STARVE_POL : Fld := ⟨0x100000, 0x1000, 6, 1, .cfg, fun _ => 0, fun _ => true⟩
def F.PLY_CTL_ECC_POL : Fld := ⟨0x100000, 0x1000, 5, 1, .cfg, fun _ => 0, fun _ => true⟩
def F.PLY_CTL_UNDER_POL : Fld := ⟨0x100000, 0x1000, 4, 1, .cfg, fun _ => 0, fun _ => true⟩
def F.PLY_CTL_MODE : Fld := ⟨0x100000, 0x1000, 3, 1, .cfg, fun _ => 0, fun _ => true⟩
def F.PLY_CTL_WIDTH : Fld := ⟨0x100000, 0x1000, 1, 2, .cfg, fun _ => 0, fun v => decide (v ≤ 2)⟩
def F.PLY_CTL_EN : Fld := ⟨0x100000, 0x1000, 0, 1, .live, fun _ => 0, fun _ => true⟩
def F.PLY_CHAN_CH3 : Fld := ⟨0x100004, 0x1000, 24, 8, .cfg, fun p => 4 * p + 3, fun _ => true⟩
def F.PLY_CHAN_CH2 : Fld := ⟨0x100004, 0x1000, 16, 8, .cfg, fun p => 4 * p + 2, fun _ => true⟩
def F.PLY_CHAN_CH1 : Fld := ⟨0x100004, 0x1000, 8, 8, .cfg, fun p => 4 * p + 1, fun _ => true⟩
def F.PLY_CHAN_CH0 : Fld := ⟨0x100004, 0x1000, 0, 8, .cfg, fun p => 4 * p, fun _ => true⟩
def F.PLY_STATE_HELD_MODE : Fld := ⟨0x100008, 0x1000, 16, 1, .ro, fun _ => 0, fun _ => true⟩
def F.PLY_STATE_CMD_REJ : Fld := ⟨0x100008, 0x1000, 15, 1, .ro, fun _ => 0, fun _ => true⟩
def F.PLY_STATE_CFG_BAD : Fld := ⟨0x100008, 0x1000, 14, 1, .ro, fun _ => 0, fun _ => true⟩
def F.PLY_STATE_UNDERRUN : Fld := ⟨0x100008, 0x1000, 13, 1, .st, fun _ => 0, fun _ => true⟩
def F.PLY_STATE_RAMPING : Fld := ⟨0x100008, 0x1000, 12, 1, .st, fun _ => 0, fun _ => true⟩
def F.PLY_STATE_START_PEND : Fld := ⟨0x100008, 0x1000, 11, 1, .st, fun _ => 0, fun _ => true⟩
def F.PLY_STATE_ARM_BUSY : Fld := ⟨0x100008, 0x1000, 10, 1, .st, fun _ => 0, fun _ => true⟩
def F.PLY_STATE_HELD_FROM : Fld := ⟨0x100008, 0x1000, 4, 4, .ro, fun _ => 0, fun _ => true⟩
def F.PLY_STATE_STATE : Fld := ⟨0x100008, 0x1000, 0, 4, .ro, fun _ => 0, fun _ => true⟩
def F.PLY_CMD_CLR : Fld := ⟨0x10000c, 0x1000, 6, 1, .cmd, fun _ => 0, fun _ => true⟩
def F.PLY_CMD_SKIP : Fld := ⟨0x10000c, 0x1000, 5, 1, .cmd, fun _ => 0, fun _ => true⟩
def F.PLY_CMD_STOP : Fld := ⟨0x10000c, 0x1000, 4, 1, .cmd, fun _ => 0, fun _ => true⟩
def F.PLY_CMD_RESUME : Fld := ⟨0x10000c, 0x1000, 3, 1, .cmd, fun _ => 0, fun _ => true⟩
def F.PLY_CMD_HOLD : Fld := ⟨0x10000c, 0x1000, 2, 1, .cmd, fun _ => 0, fun _ => true⟩
def F.PLY_CMD_START : Fld := ⟨0x10000c, 0x1000, 1, 1, .cmd, fun _ => 0, fun _ => true⟩
def F.PLY_CMD_ARM : Fld := ⟨0x10000c, 0x1000, 0, 1, .cmd, fun _ => 0, fun _ => true⟩
def F.PLY_START_EVT : Fld := ⟨0x100010, 0x1000, 4, 4, .live, fun _ => 0, fun _ => true⟩
def F.PLY_START_SRC : Fld := ⟨0x100010, 0x1000, 0, 2, .live, fun _ => 0, fun _ => true⟩
def F.PLY_START_CT_AT_CT : Fld := ⟨0x100018, 0x1000, 0, 64, .live, fun _ => 0, fun _ => true⟩
def F.PLY_PF_PAN : Fld := ⟨0x100020, 0x1000, 16, 4, .cfg, fun p => p / 16, fun _ => true⟩
def F.PLY_PF_OFFSET : Fld := ⟨0x100020, 0x1000, 8, 6, .cfg, fun p => 4 * (p % 16), fun _ => true⟩
def F.PLY_PF_SIZE : Fld := ⟨0x100020, 0x1000, 0, 7, .cfg, fun _ => 4, fun v => decide (1 ≤ v ∧ v ≤ 64)⟩
def F.PLY_PF_LVL_REFILL : Fld := ⟨0x100024, 0x1000, 16, 16, .cfg, fun _ => 256, fun _ => true⟩
def F.PLY_PF_LVL_PANIC : Fld := ⟨0x100024, 0x1000, 0, 16, .cfg, fun _ => 128, fun _ => true⟩
def F.PLY_PF_STAT_LEAD : Fld := ⟨0x100028, 0x1000, 16, 16, .ro, fun _ => 0, fun _ => true⟩
def F.PLY_PF_STAT_PANIC : Fld := ⟨0x100028, 0x1000, 1, 1, .st, fun _ => 0, fun _ => true⟩
def F.PLY_PF_STAT_DIR : Fld := ⟨0x100028, 0x1000, 0, 1, .ro, fun _ => 0, fun _ => true⟩
def F.PLY_STREAM_QUEUE : Fld := ⟨0x10002c, 0x1000, 0, 7, .cfg, fun _ => 0, fun _ => true⟩
def F.PLY_STREAM_STAT_DROP_LEFT : Fld := ⟨0x100030, 0x1000, 16, 16, .ro, fun _ => 0, fun _ => true⟩
def F.PLY_STREAM_STAT_BADPKT : Fld := ⟨0x100030, 0x1000, 8, 8, .ro, fun _ => 0, fun _ => true⟩
def F.PLY_STREAM_STAT_SEQGAP : Fld := ⟨0x100030, 0x1000, 0, 8, .ro, fun _ => 0, fun _ => true⟩
def F.PLY_SKIP_TIMING : Fld := ⟨0x100034, 0x1000, 16, 2, .live, fun _ => 1, fun v => decide (v ≤ 2)⟩
def F.PLY_SKIP_DROP : Fld := ⟨0x100034, 0x1000, 0, 16, .live, fun _ => 0, fun _ => true⟩
def F.PLY_ERR_STARVES : Fld := ⟨0x100038, 0x1000, 24, 8, .ro, fun _ => 0, fun _ => true⟩
def F.PLY_ERR_UNDERRUNS : Fld := ⟨0x100038, 0x1000, 16, 8, .ro, fun _ => 0, fun _ => true⟩
def F.PLY_ERR_ECC : Fld := ⟨0x100038, 0x1000, 8, 8, .ro, fun _ => 0, fun _ => true⟩
def F.PLY_ERR_PANICS : Fld := ⟨0x100038, 0x1000, 0, 8, .ro, fun _ => 0, fun _ => true⟩
def F.PLY_STARVE_TICKS_TICKS : Fld := ⟨0x10003c, 0x1000, 0, 32, .ro, fun _ => 0, fun _ => true⟩
def F.PLY_UNDER_TICKS_TICKS : Fld := ⟨0x100040, 0x1000, 0, 32, .ro, fun _ => 0, fun _ => true⟩
def F.PLY_FAULT_SKIPPED : Fld := ⟨0x100044, 0x1000, 16, 16, .ro, fun _ => 0, fun _ => true⟩
def F.PLY_FAULT_CHAN : Fld := ⟨0x100044, 0x1000, 8, 8, .ro, fun _ => 0, fun _ => true⟩
def F.PLY_FAULT_CAUSE : Fld := ⟨0x100044, 0x1000, 0, 4, .ro, fun _ => 0, fun _ => true⟩
def F.PLY_ECC_LAST_SEG : Fld := ⟨0x100048, 0x1000, 46, 18, .ro, fun _ => 0, fun _ => true⟩
def F.PLY_ECC_LAST_FRAME : Fld := ⟨0x100048, 0x1000, 0, 32, .ro, fun _ => 0, fun _ => true⟩
def F.PLY_STARTED_CT_CT : Fld := ⟨0x100050, 0x1000, 0, 64, .ro, fun _ => 0, fun _ => true⟩
def F.CHN_CTL_BQ_EN : Fld := ⟨0x200000, 0x400, 8, 4, .live, fun _ => 0, fun _ => true⟩
def F.CHN_CTL_LIM_POL : Fld := ⟨0x200000, 0x400, 5, 1, .cfg, fun _ => 0, fun _ => true⟩
def F.CHN_CTL_TYPE : Fld := ⟨0x200000, 0x400, 4, 1, .cfg, fun _ => 0, fun _ => true⟩
def F.CHN_CTL_INTERP : Fld := ⟨0x200000, 0x400, 1, 3, .cfg, fun _ => 1, fun v => decide (v ≤ 3)⟩
def F.CHN_CTL_EN : Fld := ⟨0x200000, 0x400, 0, 1, .live, fun _ => 0, fun _ => true⟩
def F.CHN_RATE_OFFSET : Fld := ⟨0x200004, 0x400, 16, 16, .cfg, fun _ => 0, fun _ => true⟩
def F.CHN_RATE_DM1 : Fld := ⟨0x200004, 0x400, 0, 16, .cfg, fun _ => 7, fun _ => true⟩
def F.CHN_DEST_GP_MASK : Fld := ⟨0x200008, 0x400, 16, 16, .cfg, fun _ => 0, fun _ => true⟩
def F.CHN_DEST_DOUBLE : Fld := ⟨0x200008, 0x400, 12, 1, .cfg, fun _ => 0, fun _ => true⟩
def F.CHN_DEST_SLOT : Fld := ⟨0x200008, 0x400, 8, 4, .cfg, fun _ => 0, fun _ => true⟩
def F.CHN_DEST_UNIT : Fld := ⟨0x200008, 0x400, 4, 4, .cfg, fun _ => 0, fun _ => true⟩
def F.CHN_DEST_KIND : Fld := ⟨0x200008, 0x400, 0, 3, .cfg, fun _ => 0, fun v => decide (v ≤ 4)⟩
def F.CHN_STAT_ENCAUSE : Fld := ⟨0x20000c, 0x400, 16, 4, .ro, fun _ => 0, fun _ => true⟩
def F.CHN_STAT_SAFE_CAUSE : Fld := ⟨0x20000c, 0x400, 12, 4, .ro, fun _ => 0, fun _ => true⟩
def F.CHN_STAT_BQ_PEND : Fld := ⟨0x20000c, 0x400, 8, 4, .st, fun _ => 0, fun _ => true⟩
def F.CHN_STAT_LIMITING : Fld := ⟨0x20000c, 0x400, 7, 1, .st, fun _ => 0, fun _ => true⟩
def F.CHN_STAT_AT_REST : Fld := ⟨0x20000c, 0x400, 6, 1, .st, fun _ => 0, fun _ => true⟩
def F.CHN_STAT_RAMPING : Fld := ⟨0x20000c, 0x400, 5, 1, .st, fun _ => 0, fun _ => true⟩
def F.CHN_STAT_CFG_BAD : Fld := ⟨0x20000c, 0x400, 4, 1, .ro, fun _ => 0, fun _ => true⟩
def F.CHN_STAT_STATE : Fld := ⟨0x20000c, 0x400, 0, 2, .ro, fun _ => 0, fun _ => true⟩
def F.CHN_CMD_RESEED : Fld := ⟨0x200010, 0x400, 5, 1, .cmd, fun _ => 0, fun _ => true⟩
def F.CHN_CMD_CLR : Fld := ⟨0x200010, 0x400, 4, 1, .cmd, fun _ => 0, fun _ => true⟩
def F.CHN_CMD_BQ_APPLY : Fld := ⟨0x200010, 0x400, 0, 4, .cmd, fun _ => 0, fun _ => true⟩
def F.CHN_GAIN_GAIN : Fld := ⟨0x200014, 0x400, 0, 32, .live, fun _ => 1073741824, fun _ => true⟩
def F.CHN_OFFSET_OFFSET : Fld := ⟨0x200018, 0x400, 0, 32, .live, fun _ => 0, fun _ => true⟩
def F.CHN_CAL_GAIN_CAL_GAIN : Fld := ⟨0x20001c, 0x400, 0, 32, .ro, fun _ => 1073741824, fun _ => true⟩
def F.CHN_CAL_OFFSET_CAL_OFFSET : Fld := ⟨0x200020, 0x400, 0, 32, .ro, fun _ => 0, fun _ => true⟩
def F.CHN_REST_REST : Fld := ⟨0x200024, 0x400, 0, 32, .cfg, fun _ => 0, fun _ => true⟩
def F.CHN_RAMP_RAMP : Fld := ⟨0x200028, 0x400, 0, 32, .live, fun _ => 65536, fun _ => true⟩
def F.CHN_POS_MIN_POS_MIN : Fld := ⟨0x20002c, 0x400, 0, 32, .live, fun _ => 2147483648, fun _ => true⟩
def F.CHN_POS_MAX_POS_MAX : Fld := ⟨0x200030, 0x400, 0, 32, .live, fun _ => 2147483647, fun _ => true⟩
def F.CHN_VEL_MAX_VEL_MAX : Fld := ⟨0x200034, 0x400, 0, 32, .live, fun _ => 0, fun _ => true⟩
def F.CHN_ACC_MAX_ACC_MAX : Fld := ⟨0x200038, 0x400, 0, 32, .live, fun _ => 0, fun _ => true⟩
def F.CHN_RQ_NS_COEF : Fld := ⟨0x20003c, 0x400, 16, 16, .cfg, fun _ => 32768, fun v => decide (v ≤ 0x8000)⟩
def F.CHN_RQ_ORDER : Fld := ⟨0x20003c, 0x400, 6, 2, .cfg, fun _ => 0, fun v => decide (v ≤ 2)⟩
def F.CHN_RQ_DITHER : Fld := ⟨0x20003c, 0x400, 5, 1, .cfg, fun _ => 0, fun _ => true⟩
def F.CHN_RQ_WIDTH : Fld := ⟨0x20003c, 0x400, 0, 5, .cfg, fun _ => 24, fun _ => true⟩
def F.CHN_DSEED_DSEED : Fld := ⟨0x200040, 0x400, 0, 32, .cfg, fun _ => 1, fun _ => true⟩
def F.CHN_LIM_POS_COUNT : Fld := ⟨0x200044, 0x400, 0, 32, .ro, fun _ => 0, fun _ => true⟩
def F.CHN_LIM_VA_VEL : Fld := ⟨0x200048, 0x400, 16, 16, .ro, fun _ => 0, fun _ => true⟩
def F.CHN_LIM_VA_ACC : Fld := ⟨0x200048, 0x400, 0, 16, .ro, fun _ => 0, fun _ => true⟩
def F.CHN_ERR_RQ_SAT : Fld := ⟨0x20004c, 0x400, 16, 16, .ro, fun _ => 0, fun _ => true⟩
def F.CHN_ERR_SAT : Fld := ⟨0x20004c, 0x400, 0, 16, .ro, fun _ => 0, fun _ => true⟩
def F.CHN_LAST_Y : Fld := ⟨0x200050, 0x400, 0, 32, .ro, fun _ => 0, fun _ => true⟩
def F.CHN_LAT_TICKS : Fld := ⟨0x200054, 0x400, 0, 16, .ro, fun _ => 0, fun _ => true⟩
def F.CHN_SAMPLES_COUNT : Fld := ⟨0x200058, 0x400, 0, 64, .ro, fun _ => 0, fun _ => true⟩
def F.CHN_SAMPLES_SNAP_COUNT : Fld := ⟨0x200060, 0x400, 0, 64, .ro, fun _ => 0, fun _ => true⟩
def F.CNV_DAC_CTL_EN : Fld := ⟨0x310000, 0x20, 0, 1, .live, fun _ => 0, fun _ => true⟩
def F.CNV_DAC_STAT_CODE : Fld := ⟨0x310004, 0x20, 12, 20, .ro, fun _ => 0, fun _ => true⟩
def F.CNV_DAC_STAT_OVLD : Fld := ⟨0x310004, 0x20, 2, 1, .st, fun _ => 0, fun _ => true⟩
def F.CNV_DAC_STAT_DRIVEN : Fld := ⟨0x310004, 0x20, 1, 1, .st, fun _ => 0, fun _ => true⟩
def F.CNV_DAC_ERR_OVLD : Fld := ⟨0x310008, 0x20, 0, 16, .ro, fun _ => 0, fun _ => true⟩
def F.CNV_ADC_CTL_PHASE : Fld := ⟨0x310100, 0x20, 1, 5, .cfg, fun _ => 0, fun _ => true⟩
def F.CNV_ADC_CTL_EN : Fld := ⟨0x310100, 0x20, 0, 1, .live, fun _ => 0, fun _ => true⟩
def F.CNV_ADC_DATA_CODE : Fld := ⟨0x310104, 0x20, 14, 18, .ro, fun _ => 0, fun _ => true⟩
def F.CNV_ADC_STAT_OVR_CNT : Fld := ⟨0x310108, 0x20, 16, 16, .ro, fun _ => 0, fun _ => true⟩
def F.CNV_ADC_STAT_OVR : Fld := ⟨0x310108, 0x20, 1, 1, .st, fun _ => 0, fun _ => true⟩
def F.CNV_ADC_STAT_VALID : Fld := ⟨0x310108, 0x20, 0, 1, .st, fun _ => 0, fun _ => true⟩
def F.CNV_ADC_LAT_LAT : Fld := ⟨0x31010c, 0x20, 0, 16, .ro, fun _ => 0, fun _ => true⟩
def F.DMD_CTL_REF_PLAYER : Fld := ⟨0x320000, 0x40, 24, 6, .cfg, fun _ => 0, fun _ => true⟩
def F.DMD_CTL_IN_UNIT : Fld := ⟨0x320000, 0x40, 16, 8, .cfg, fun _ => 0, fun _ => true⟩
def F.DMD_CTL_REF_MODE : Fld := ⟨0x320000, 0x40, 11, 1, .cfg, fun _ => 0, fun _ => true⟩
def F.DMD_CTL_IN_KIND : Fld := ⟨0x320000, 0x40, 8, 3, .cfg, fun _ => 0, fun v => decide (v ≤ 2)⟩
def F.DMD_CTL_K : Fld := ⟨0x320000, 0x40, 4, 4, .cfg, fun _ => 4, fun _ => true⟩
def F.DMD_CTL_EN : Fld := ⟨0x320000, 0x40, 0, 1, .live, fun _ => 0, fun _ => true⟩
def F.DMD_CYC_CYC : Fld := ⟨0x320004, 0x40, 0, 32, .cfg, fun _ => 1048576, fun _ => true⟩
def F.DMD_PHASE_PHASE : Fld := ⟨0x320008, 0x40, 0, 32, .live, fun _ => 0, fun _ => true⟩
def F.DMD_STAT_OVR_CNT : Fld := ⟨0x32000c, 0x40, 16, 16, .ro, fun _ => 0, fun _ => true⟩
def F.DMD_STAT_ENCAUSE : Fld := ⟨0x32000c, 0x40, 12, 4, .ro, fun _ => 0, fun _ => true⟩
def F.DMD_STAT_CFG_BAD : Fld := ⟨0x32000c, 0x40, 4, 1, .ro, fun _ => 0, fun _ => true⟩
def F.DMD_STAT_OVR : Fld := ⟨0x32000c, 0x40, 3, 1, .st, fun _ => 0, fun _ => true⟩
def F.DMD_STAT_REF_LOST : Fld := ⟨0x32000c, 0x40, 2, 1, .st, fun _ => 0, fun _ => true⟩
def F.DMD_STAT_SETTLING : Fld := ⟨0x32000c, 0x40, 1, 1, .st, fun _ => 0, fun _ => true⟩
def F.DMD_STAT_VALID : Fld := ⟨0x32000c, 0x40, 0, 1, .st, fun _ => 0, fun _ => true⟩
def F.DMD_I_V : Fld := ⟨0x320010, 0x40, 0, 32, .ro, fun _ => 0, fun _ => true⟩
def F.DMD_Q_V : Fld := ⟨0x320014, 0x40, 0, 32, .ro, fun _ => 0, fun _ => true⟩
def F.DMD_CT_CT : Fld := ⟨0x320018, 0x40, 0, 64, .ro, fun _ => 0, fun _ => true⟩
def F.CAP_CTL_TAG_PLAYER : Fld := ⟨0x330000, 0x40, 24, 6, .cfg, fun _ => 0, fun _ => true⟩
def F.CAP_CTL_TAG : Fld := ⟨0x330000, 0x40, 11, 2, .cfg, fun _ => 0, fun v => decide (v ≤ 2)⟩
def F.CAP_CTL_DEC_MODE : Fld := ⟨0x330000, 0x40, 10, 1, .cfg, fun _ => 0, fun _ => true⟩
def F.CAP_CTL_GATE : Fld := ⟨0x330000, 0x40, 8, 2, .cfg, fun _ => 0, fun _ => true⟩
def F.CAP_CTL_UNIT : Fld := ⟨0x330000, 0x40, 4, 4, .cfg, fun _ => 0, fun _ => true⟩
def F.CAP_CTL_KIND : Fld := ⟨0x330000, 0x40, 1, 3, .cfg, fun _ => 0, fun v => decide (v ≤ 4)⟩
def F.CAP_CTL_EN : Fld := ⟨0x330000, 0x40, 0, 1, .live, fun _ => 0, fun _ => true⟩
def F.CAP_MASK_MASK : Fld := ⟨0x330004, 0x40, 0, 16, .cfg, fun _ => 0, fun _ => true⟩
def F.CAP_DEC_PKT_REC : Fld := ⟨0x330008, 0x40, 16, 16, .cfg, fun _ => 256, fun _ => true⟩
def F.CAP_DEC_DM1 : Fld := ⟨0x330008, 0x40, 0, 16, .cfg, fun _ => 0, fun _ => true⟩
def F.CAP_GATE_GATE_PLAYER : Fld := ⟨0x33000c, 0x40, 24, 6, .cfg, fun _ => 0, fun _ => true⟩
def F.CAP_GATE_MPOL : Fld := ⟨0x33000c, 0x40, 22, 1, .cfg, fun _ => 1, fun _ => true⟩
def F.CAP_GATE_MSEL : Fld := ⟨0x33000c, 0x40, 21, 1, .cfg, fun _ => 0, fun _ => true⟩
def F.CAP_GATE_MBIT : Fld := ⟨0x33000c, 0x40, 16, 4, .cfg, fun _ => 0, fun _ => true⟩
def F.CAP_GATE_STOP_SRC : Fld := ⟨0x33000c, 0x40, 8, 8, .cfg, fun _ => 0, fun v => srcListed v⟩
def F.CAP_GATE_START_SRC : Fld := ⟨0x33000c, 0x40, 0, 8, .cfg, fun _ => 0, fun v => srcListed v⟩
def F.CAP_Q_AGE : Fld := ⟨0x330010, 0x40, 16, 16, .cfg, fun _ => 0, fun _ => true⟩
def F.CAP_Q_QUEUE : Fld := ⟨0x330010, 0x40, 0, 7, .cfg, fun _ => 0, fun _ => true⟩
def F.CAP_CMD_REARM : Fld := ⟨0x330014, 0x40, 2, 1, .cmd, fun _ => 0, fun _ => true⟩
def F.CAP_CMD_CLR : Fld := ⟨0x330014, 0x40, 1, 1, .cmd, fun _ => 0, fun _ => true⟩
def F.CAP_CMD_FLUSH : Fld := ⟨0x330014, 0x40, 0, 1, .cmd, fun _ => 0, fun _ => true⟩
def F.CAP_STAT_ENCAUSE : Fld := ⟨0x330018, 0x40, 8, 4, .ro, fun _ => 0, fun _ => true⟩
def F.CAP_STAT_CFG_BAD : Fld := ⟨0x330018, 0x40, 3, 1, .ro, fun _ => 0, fun _ => true⟩
def F.CAP_STAT_DONE : Fld := ⟨0x330018, 0x40, 2, 1, .ro, fun _ => 0, fun _ => true⟩
def F.CAP_STAT_PKT_OPEN : Fld := ⟨0x330018, 0x40, 1, 1, .st, fun _ => 0, fun _ => true⟩
def F.CAP_STAT_OPEN : Fld := ⟨0x330018, 0x40, 0, 1, .st, fun _ => 0, fun _ => true⟩
def F.CAP_LOST_LOST : Fld := ⟨0x33001c, 0x40, 0, 32, .ro, fun _ => 0, fun _ => true⟩
def F.CAP_ERR_OVF : Fld := ⟨0x330020, 0x40, 16, 16, .ro, fun _ => 0, fun _ => true⟩
def F.CAP_ERR_NOROOM : Fld := ⟨0x330020, 0x40, 0, 16, .ro, fun _ => 0, fun _ => true⟩
def F.CAP_RECS_COUNT : Fld := ⟨0x330028, 0x40, 0, 64, .ro, fun _ => 0, fun _ => true⟩
def F.CAP_RECS_SNAP_COUNT : Fld := ⟨0x330030, 0x40, 0, 64, .ro, fun _ => 0, fun _ => true⟩
def F.REF_CTL_PAIR : Fld := ⟨0x700000, 0x80, 14, 18, .cfg, fun _ => 0, fun _ => true⟩
def F.REF_CTL_PLAYER : Fld := ⟨0x700000, 0x80, 8, 6, .cfg, fun _ => 0, fun _ => true⟩
def F.REF_CTL_WD_POL : Fld := ⟨0x700000, 0x80, 5, 1, .cfg, fun _ => 0, fun _ => true⟩
def F.REF_CTL_LIM_POL : Fld := ⟨0x700000, 0x80, 4, 1, .cfg, fun _ => 0, fun _ => true⟩
def F.REF_CTL_CYCLIC : Fld := ⟨0x700000, 0x80, 3, 1, .cfg, fun _ => 0, fun _ => true⟩
def F.REF_CTL_WORD : Fld := ⟨0x700000, 0x80, 1, 2, .cfg, fun _ => 0, fun _ => true⟩
def F.REF_CTL_EN : Fld := ⟨0x700000, 0x80, 0, 1, .live, fun _ => 0, fun _ => true⟩
def F.REF_SRC_SHIFT : Fld := ⟨0x700004, 0x80, 16, 5, .cfg, fun _ => 0, fun _ => true⟩
def F.REF_SRC_COMP : Fld := ⟨0x700004, 0x80, 12, 1, .cfg, fun _ => 0, fun _ => true⟩
def F.REF_SRC_MEMBER : Fld := ⟨0x700004, 0x80, 8, 4, .cfg, fun _ => 0, fun _ => true⟩
def F.REF_SRC_UNIT : Fld := ⟨0x700004, 0x80, 4, 4, .cfg, fun _ => 0, fun _ => true⟩
def F.REF_SRC_KIND : Fld := ⟨0x700004, 0x80, 1, 3, .cfg, fun _ => 0, fun v => decide (v ≤ 4)⟩
def F.REF_MGAIN_MGAIN : Fld := ⟨0x700008, 0x80, 0, 32, .cfg, fun _ => 1073741824, fun _ => true⟩
def F.REF_MOFF_MOFF : Fld := ⟨0x70000c, 0x80, 0, 32, .cfg, fun _ => 0, fun _ => true⟩
def F.REF_LAW_NH : Fld := ⟨0x700010, 0x80, 24, 5, .live, fun _ => 0, fun _ => true⟩
def F.REF_LAW_LEAD : Fld := ⟨0x700010, 0x80, 16, 8, .live, fun _ => 0, fun _ => true⟩
def F.REF_LAW_LGAIN : Fld := ⟨0x700010, 0x80, 0, 16, .live, fun _ => 4096, fun _ => true⟩
def F.REF_WD_WD_MARGIN : Fld := ⟨0x700014, 0x80, 8, 8, .cfg, fun _ => 26, fun _ => true⟩
def F.REF_WD_WD_N : Fld := ⟨0x700014, 0x80, 0, 4, .cfg, fun _ => 0, fun _ => true⟩
def F.REF_CMD_CLR : Fld := ⟨0x700018, 0x80, 3, 1, .cmd, fun _ => 0, fun _ => true⟩
def F.REF_CMD_ZERO : Fld := ⟨0x700018, 0x80, 2, 1, .cmd, fun _ => 0, fun _ => true⟩
def F.REF_CMD_UNFREEZE : Fld := ⟨0x700018, 0x80, 1, 1, .cmd, fun _ => 0, fun _ => true⟩
def F.REF_CMD_FREEZE : Fld := ⟨0x700018, 0x80, 0, 1, .cmd, fun _ => 0, fun _ => true⟩
def F.REF_STAT_ENCAUSE : Fld := ⟨0x70001c, 0x80, 16, 4, .ro, fun _ => 0, fun _ => true⟩
def F.REF_STAT_RISE : Fld := ⟨0x70001c, 0x80, 12, 4, .ro, fun _ => 0, fun _ => true⟩
def F.REF_STAT_CFG_BAD : Fld := ⟨0x70001c, 0x80, 8, 1, .ro, fun _ => 0, fun _ => true⟩
def F.REF_STAT_PASS : Fld := ⟨0x70001c, 0x80, 6, 1, .st, fun _ => 0, fun _ => true⟩
def F.REF_STAT_FRZ_PEND : Fld := ⟨0x70001c, 0x80, 5, 1, .st, fun _ => 0, fun _ => true⟩
def F.REF_STAT_ACTIVE : Fld := ⟨0x70001c, 0x80, 4, 1, .st, fun _ => 0, fun _ => true⟩
def F.REF_STAT_STATE : Fld := ⟨0x70001c, 0x80, 0, 4, .ro, fun _ => 0, fun _ => true⟩
def F.REF_RMS_RMS : Fld := ⟨0x700020, 0x80, 0, 32, .ro, fun _ => 0, fun _ => true⟩
def F.REF_F0_F : Fld := ⟨0x700024, 0x80, 0, 32, .ro, fun _ => 0, fun _ => true⟩
def F.REF_F1_F : Fld := ⟨0x700028, 0x80, 0, 32, .ro, fun _ => 0, fun _ => true⟩
def F.REF_CNT_FREEZES : Fld := ⟨0x70002c, 0x80, 24, 8, .ro, fun _ => 0, fun _ => true⟩
def F.REF_CNT_DISCARDS : Fld := ⟨0x70002c, 0x80, 16, 8, .ro, fun _ => 0, fun _ => true⟩
def F.REF_CNT_CYCLES : Fld := ⟨0x70002c, 0x80, 0, 16, .ro, fun _ => 0, fun _ => true⟩
def F.REF_ERR_LOST : Fld := ⟨0x700030, 0x80, 16, 16, .ro, fun _ => 0, fun _ => true⟩
def F.REF_ERR_ECC : Fld := ⟨0x700030, 0x80, 0, 16, .ro, fun _ => 0, fun _ => true⟩
def F.REF_MSEG_MSEG : Fld := ⟨0x700034, 0x80, 0, 18, .cfg, fun _ => 0, fun _ => true⟩
def F.REF_SWAP_CT_CT : Fld := ⟨0x700038, 0x80, 0, 64, .ro, fun _ => 0, fun _ => true⟩
def F.REF_QCOEF_HI (i : Nat) : Fld := ⟨(0x700040 + 0x4 * i), 0x80, 16, 16, .live, fun _ => 0, fun _ => true⟩
def F.REF_QCOEF_LO (i : Nat) : Fld := ⟨(0x700040 + 0x4 * i), 0x80, 0, 16, .live, fun _ => if i == 0 then 0x4000 else 0, fun _ => true⟩
def F.REF_GCTL_PAN : Fld := ⟨0x700400, 0x0, 0, 4, .cfg, fun _ => 12, fun _ => true⟩
def F.CAR_CTL_PAGE_IDLE : Fld := ⟨0x20000, 0x0, 8, 10, .live, fun _ => 64, fun _ => true⟩
def F.CAR_CTL_SCRUB_EN : Fld := ⟨0x20000, 0x0, 5, 1, .live, fun _ => 1, fun _ => true⟩
def F.CAR_CTL_AUTO_SR : Fld := ⟨0x20000, 0x0, 4, 1, .live, fun _ => 0, fun _ => true⟩
def F.CAR_CTL_MAP : Fld := ⟨0x20000, 0x0, 0, 2, .cfg, fun _ => 0, fun v => decide (v ≤ 2)⟩
def F.CAR_STAT_OVERTEMP : Fld := ⟨0x20004, 0x0, 6, 1, .st, fun _ => 0, fun _ => true⟩
def F.CAR_STAT_HOT : Fld := ⟨0x20004, 0x0, 5, 1, .st, fun _ => 0, fun _ => true⟩
def F.CAR_STAT_TRAINED : Fld := ⟨0x20004, 0x0, 4, 1, .st, fun _ => 0, fun _ => true⟩
def F.CAR_STAT_PWR : Fld := ⟨0x20004, 0x0, 2, 2, .st, fun _ => 0, fun _ => true⟩
def F.CAR_STAT_MAP_ACT : Fld := ⟨0x20004, 0x0, 0, 2, .ro, fun _ => 0, fun _ => true⟩
def F.CAR_QOS_U3 : Fld := ⟨0x20008, 0x0, 16, 8, .cfg, fun _ => 10, fun _ => true⟩
def F.CAR_QOS_U2 : Fld := ⟨0x20008, 0x0, 8, 8, .cfg, fun _ => 20, fun _ => true⟩
def F.CAR_QOS_U1 : Fld := ⟨0x20008, 0x0, 0, 8, .cfg, fun _ => 40, fun _ => true⟩
def F.CAR_RH_TH : Fld := ⟨0x2000c, 0x0, 16, 16, .cfg, fun _ => 4096, fun v => decide (256 ≤ v)⟩
def F.CAR_RH_THROTTLE : Fld := ⟨0x2000c, 0x0, 8, 8, .cfg, fun _ => 8, fun v => decide (1 ≤ v)⟩
def F.CAR_RH_PSHIFT : Fld := ⟨0x2000c, 0x0, 0, 4, .cfg, fun _ => 8, fun v => decide (6 ≤ v ∧ v ≤ 10)⟩
def F.CAR_RH_SEED_SEED : Fld := ⟨0x20010, 0x0, 0, 32, .cfg, fun _ => 1, fun v => decide (v ≠ 0)⟩
def F.CAR_REF_MODE : Fld := ⟨0x20014, 0x0, 0, 1, .cfg, fun _ => 0, fun _ => true⟩
def F.CAR_REF_STAT_RATE2X : Fld := ⟨0x20018, 0x0, 16, 4, .st, fun _ => 0, fun _ => true⟩
def F.CAR_REF_STAT_OWED : Fld := ⟨0x20018, 0x0, 0, 16, .ro, fun _ => 0, fun _ => true⟩
def F.CAR_TRAIN_FORCE_FULL : Fld := ⟨0x2001c, 0x0, 4, 1, .cfg, fun _ => 0, fun _ => true⟩
def F.CAR_TRAIN_TEST : Fld := ⟨0x2001c, 0x0, 0, 2, .cfg, fun _ => 1, fun v => decide (v ≤ 2)⟩
def F.CAR_TRAIN_STAT_DURATION : Fld := ⟨0x20020, 0x0, 16, 16, .ro, fun _ => 0, fun _ => true⟩
def F.CAR_TRAIN_STAT_FAIL_STEP : Fld := ⟨0x20020, 0x0, 12, 4, .ro, fun _ => 0, fun _ => true⟩
def F.CAR_TRAIN_STAT_QUICK : Fld := ⟨0x20020, 0x0, 8, 1, .ro, fun _ => 0, fun _ => true⟩
def F.CAR_TRAIN_STAT_LANE_OK : Fld := ⟨0x20020, 0x0, 0, 8, .ro, fun _ => 0, fun _ => true⟩
def F.CAR_TOVR_EN : Fld := ⟨0x20024, 0x0, 31, 1, .cfg, fun _ => 0, fun _ => true⟩
def F.CAR_TOVR_TRCD : Fld := ⟨0x20024, 0x0, 16, 8, .cfg, fun _ => 0, fun _ => true⟩
def F.CAR_TOVR_TRP : Fld := ⟨0x20024, 0x0, 8, 8, .cfg, fun _ => 0, fun _ => true⟩
def F.CAR_TOVR_TRFC : Fld := ⟨0x20024, 0x0, 0, 8, .cfg, fun _ => 0, fun _ => true⟩
def F.CAR_PWR_ABORTS : Fld := ⟨0x20028, 0x0, 24, 8, .ro, fun _ => 0, fun _ => true⟩
def F.CAR_PWR_BOUNCES : Fld := ⟨0x20028, 0x0, 16, 8, .ro, fun _ => 0, fun _ => true⟩
def F.CAR_PWR_IDLE_SR : Fld := ⟨0x20028, 0x0, 0, 16, .live, fun _ => 1000, fun _ => true⟩
def F.CAR_ECC_CE : Fld := ⟨0x2002c, 0x0, 16, 16, .ro, fun _ => 0, fun _ => true⟩
def F.CAR_ECC_UE : Fld := ⟨0x2002c, 0x0, 0, 16, .ro, fun _ => 0, fun _ => true⟩
def F.CAR_ECC_LAST_UE : Fld := ⟨0x20030, 0x0, 56, 1, .ro, fun _ => 0, fun _ => true⟩
def F.CAR_ECC_LAST_PORT : Fld := ⟨0x20030, 0x0, 48, 8, .ro, fun _ => 0, fun _ => true⟩
def F.CAR_ECC_LAST_ADDR : Fld := ⟨0x20030, 0x0, 0, 48, .ro, fun _ => 0, fun _ => true⟩
def F.CAR_SCRUB_PERIOD : Fld := ⟨0x20038, 0x0, 0, 16, .cfg, fun _ => 60, fun v => decide (1 ≤ v)⟩
def F.CAR_RH_STAT_THROTTLES : Fld := ⟨0x2003c, 0x0, 16, 16, .ro, fun _ => 0, fun _ => true⟩
def F.CAR_RH_STAT_FORCED : Fld := ⟨0x2003c, 0x0, 0, 16, .ro, fun _ => 0, fun _ => true⟩
def F.CAR_CMD_SCRUB_NOW : Fld := ⟨0x20040, 0x0, 1, 1, .cmd, fun _ => 0, fun _ => true⟩
def F.CAR_CMD_CLR : Fld := ⟨0x20040, 0x0, 0, 1, .cmd, fun _ => 0, fun _ => true⟩
def F.CAR_RH_PROB_COUNT : Fld := ⟨0x20048, 0x0, 0, 64, .ro, fun _ => 0, fun _ => true⟩
def F.CAR_RH_PROB_SNAP_COUNT : Fld := ⟨0x20050, 0x0, 0, 64, .ro, fun _ => 0, fun _ => true⟩
def F.CAR_PORT_LAT_LAT_MAX : Fld := ⟨0x20100, 0x8, 16, 16, .ro, fun _ => 0, fun _ => true⟩
def F.CAR_PORT_LAT_OVER400 : Fld := ⟨0x20100, 0x8, 0, 16, .ro, fun _ => 0, fun _ => true⟩
def F.CAR_PORT_EVT_DL_MISS : Fld := ⟨0x20104, 0x8, 16, 16, .ro, fun _ => 0, fun _ => true⟩
def F.CAR_PORT_EVT_THROTTLED : Fld := ⟨0x20104, 0x8, 0, 16, .ro, fun _ => 0, fun _ => true⟩
def F.PAN_OWN_B_OWNER : Fld := ⟨0x30000, 0x20, 4, 4, .live, fun k => if k == 14 || k == 15 then 7 else 0, fun v => decide (v ≤ 8)⟩
def F.PAN_OWN_OWNER : Fld := ⟨0x30000, 0x20, 0, 4, .live, panOwnerReset, fun v => decide (v ≤ 8)⟩
def F.PAN_STAT_TEST_BUSY : Fld := ⟨0x30004, 0x20, 4, 1, .st, fun _ => 0, fun _ => true⟩
def F.PAN_STAT_SLICE : Fld := ⟨0x30004, 0x20, 3, 1, .st, fun _ => 0, fun _ => true⟩
def F.PAN_STAT_HANDOVER : Fld := ⟨0x30004, 0x20, 2, 1, .st, fun _ => 0, fun _ => true⟩
def F.PAN_STAT_WAKING : Fld := ⟨0x30004, 0x20, 1, 1, .st, fun _ => 0, fun _ => true⟩
def F.PAN_STAT_ASLEEP : Fld := ⟨0x30004, 0x20, 0, 1, .st, fun _ => 0, fun _ => true⟩
def F.PAN_ERR_CE : Fld := ⟨0x30008, 0x20, 16, 16, .ro, fun _ => 0, fun _ => true⟩
def F.PAN_ERR_UE : Fld := ⟨0x30008, 0x20, 0, 16, .ro, fun _ => 0, fun _ => true⟩
def F.PAN_COLL_COUNT : Fld := ⟨0x3000c, 0x20, 0, 32, .ro, fun _ => 0, fun _ => true⟩
def F.PAN_CONF_COUNT : Fld := ⟨0x30200, 0x4, 16, 16, .ro, fun _ => 0, fun _ => true⟩
def F.PAN_CONF_PAN : Fld := ⟨0x30200, 0x4, 0, 4, .ro, fun _ => 0, fun _ => true⟩
def F.PAN_RET_SLEEP : Fld := ⟨0x30300, 0x0, 16, 16, .live, fun _ => 0, fun _ => true⟩
def F.PAN_RET_RET : Fld := ⟨0x30300, 0x0, 0, 16, .live, fun _ => 0, fun _ => true⟩
def F.PAN_MBIST_MASK : Fld := ⟨0x30304, 0x0, 16, 16, .live, fun _ => 3072, fun _ => true⟩
def F.PAN_MBIST_INTERVAL : Fld := ⟨0x30304, 0x0, 4, 12, .live, fun _ => 100, fun v => decide (1 ≤ v)⟩
def F.PAN_MBIST_EN : Fld := ⟨0x30304, 0x0, 0, 1, .live, fun _ => 1, fun _ => true⟩
def F.PAN_MBIST_STAT_YIELDS : Fld := ⟨0x30308, 0x0, 16, 16, .ro, fun _ => 0, fun _ => true⟩
def F.PAN_MBIST_STAT_FAIL : Fld := ⟨0x30308, 0x0, 0, 1, .ro, fun _ => 0, fun _ => true⟩
def F.PAN_MBIST_FAIL_PAN : Fld := ⟨0x3030c, 0x0, 28, 4, .ro, fun _ => 0, fun _ => true⟩
def F.PAN_MBIST_FAIL_WORD : Fld := ⟨0x3030c, 0x0, 0, 13, .ro, fun _ => 0, fun _ => true⟩
def F.PAN_CMD_CLR : Fld := ⟨0x30310, 0x0, 0, 1, .cmd, fun _ => 0, fun _ => true⟩
def F.BRN_CTL_B : Fld := ⟨0x40000, 0x40, 16, 5, .cfg, fun _ => 4, fun _ => true⟩
def F.BRN_CTL_A : Fld := ⟨0x40000, 0x40, 8, 5, .cfg, fun _ => 12, fun _ => true⟩
def F.BRN_CTL_WR_SIDE : Fld := ⟨0x40000, 0x40, 2, 1, .cfg, fun _ => 0, fun _ => true⟩
def F.BRN_CTL_DEEP : Fld := ⟨0x40000, 0x40, 1, 1, .cfg, fun _ => 0, fun _ => true⟩
def F.BRN_CTL_EN : Fld := ⟨0x40000, 0x40, 0, 1, .live, fun _ => 0, fun _ => true⟩
def F.BRN_STORE_PAN : Fld := ⟨0x40004, 0x40, 28, 4, .cfg, fun _ => 5, fun _ => true⟩
def F.BRN_STORE_OFFSET : Fld := ⟨0x40004, 0x40, 18, 6, .cfg, fun _ => 0, fun _ => true⟩
def F.BRN_STORE_SEG : Fld := ⟨0x40004, 0x40, 0, 18, .cfg, fun _ => 0, fun _ => true⟩
def F.BRN_IDX_PAN : Fld := ⟨0x40008, 0x40, 28, 4, .cfg, fun _ => 5, fun _ => true⟩
def F.BRN_IDX_OFFSET : Fld := ⟨0x40008, 0x40, 0, 10, .cfg, fun _ => 0, fun _ => true⟩
def F.BRN_LVL_SENSE : Fld := ⟨0x4000c, 0x40, 31, 1, .live, fun _ => 0, fun _ => true⟩
def F.BRN_LVL_LEVEL : Fld := ⟨0x4000c, 0x40, 0, 29, .live, fun _ => 0, fun _ => true⟩
def F.BRN_NOTE_ACK : Fld := ⟨0x40010, 0x40, 8, 8, .live, fun _ => 0, fun _ => true⟩
def F.BRN_NOTE_XCNT : Fld := ⟨0x40010, 0x40, 0, 8, .ro, fun _ => 0, fun _ => true⟩
def F.BRN_STAT_ENCAUSE : Fld := ⟨0x40014, 0x40, 16, 4, .ro, fun _ => 0, fun _ => true⟩
def F.BRN_STAT_CFG_BAD : Fld := ⟨0x40014, 0x40, 7, 1, .ro, fun _ => 0, fun _ => true⟩
def F.BRN_STAT_RD_CLAIM : Fld := ⟨0x40014, 0x40, 6, 1, .st, fun _ => 0, fun _ => true⟩
def F.BRN_STAT_WR_CLAIM : Fld := ⟨0x40014, 0x40, 5, 1, .st, fun _ => 0, fun _ => true⟩
def F.BRN_STAT_HELD : Fld := ⟨0x40014, 0x40, 4, 1, .st, fun _ => 0, fun _ => true⟩
def F.BRN_STAT_OPEN : Fld := ⟨0x40014, 0x40, 3, 1, .st, fun _ => 0, fun _ => true⟩
def F.BRN_STAT_PENDING : Fld := ⟨0x40014, 0x40, 2, 1, .st, fun _ => 0, fun _ => true⟩
def F.BRN_STAT_ABOVE : Fld := ⟨0x40014, 0x40, 1, 1, .st, fun _ => 0, fun _ => true⟩
def F.BRN_STAT_EMPTY : Fld := ⟨0x40014, 0x40, 0, 1, .st, fun _ => 1, fun _ => true⟩
def F.BRN_WP_PTR : Fld := ⟨0x40018, 0x40, 0, 29, .ro, fun _ => 0, fun _ => true⟩
def F.BRN_CP_PTR : Fld := ⟨0x4001c, 0x40, 0, 29, .ro, fun _ => 0, fun _ => true⟩
def F.BRN_RP_PTR : Fld := ⟨0x40020, 0x40, 0, 29, .ro, fun _ => 0, fun _ => true⟩
def F.BRN_IPTR_ICP : Fld := ⟨0x40024, 0x40, 16, 16, .ro, fun _ => 0, fun _ => true⟩
def F.BRN_IPTR_IRP : Fld := ⟨0x40024, 0x40, 0, 16, .ro, fun _ => 0, fun _ => true⟩
def F.BRN_FREE_WORDS : Fld := ⟨0x40028, 0x40, 0, 29, .ro, fun _ => 0, fun _ => true⟩
def F.BRN_FILL_WORDS : Fld := ⟨0x4002c, 0x40, 0, 29, .ro, fun _ => 0, fun _ => true⟩
def F.BRN_ERR_OVERSIZE : Fld := ⟨0x40030, 0x40, 24, 8, .ro, fun _ => 0, fun _ => true⟩
def F.BRN_ERR_PTR : Fld := ⟨0x40030, 0x40, 16, 8, .ro, fun _ => 0, fun _ => true⟩
def F.BRN_ERR_ABANDON : Fld := ⟨0x40030, 0x40, 8, 8, .ro, fun _ => 0, fun _ => true⟩
def F.BRN_ERR_TRUNC : Fld := ⟨0x40030, 0x40, 0, 8, .ro, fun _ => 0, fun _ => true⟩
def F.BRN_EVT_EMPTY_RD : Fld := ⟨0x40034, 0x40, 16, 16, .ro, fun _ => 0, fun _ => true⟩
def F.BRN_EVT_ECC : Fld := ⟨0x40034, 0x40, 0, 16, .ro, fun _ => 0, fun _ => true⟩
def F.BRN_CMD_CLR : Fld := ⟨0x40038, 0x40, 2, 1, .cmd, fun _ => 0, fun _ => true⟩
def F.BRN_CMD_DROP : Fld := ⟨0x40038, 0x40, 1, 1, .cmd, fun _ => 0, fun _ => true⟩
def F.BRN_CMD_FLUSH : Fld := ⟨0x40038, 0x40, 0, 1, .cmd, fun _ => 0, fun _ => true⟩
def F.FLM_OL_CTL_TRAIN_SF : Fld := ⟨0x400000, 0x40, 16, 12, .cfg, fun _ => 256, fun v => decide (16 ≤ v)⟩
def F.FLM_OL_CTL_ORDER : Fld := ⟨0x400000, 0x40, 14, 2, .live, fun _ => 0, fun v => decide (v ≠ 1)⟩
def F.FLM_OL_CTL_MARK_EN : Fld := ⟨0x400000, 0x40, 11, 1, .cfg, fun _ => 0, fun _ => true⟩
def F.FLM_OL_CTL_MPLAYER : Fld := ⟨0x400000, 0x40, 4, 6, .cfg, fun _ => 0, fun _ => true⟩
def F.FLM_OL_CTL_RATE : Fld := ⟨0x400000, 0x40, 1, 2, .cfg, fun _ => 0, fun _ => true⟩
def F.FLM_OL_CTL_EN : Fld := ⟨0x400000, 0x40, 0, 1, .live, fun _ => 0, fun _ => true⟩
def F.FLM_OL_STAT_ENCAUSE : Fld := ⟨0x400004, 0x40, 12, 4, .ro, fun _ => 0, fun _ => true⟩
def F.FLM_OL_STAT_CFG_BAD : Fld := ⟨0x400004, 0x40, 8, 1, .ro, fun _ => 0, fun _ => true⟩
def F.FLM_OL_STAT_HCAUSE : Fld := ⟨0x400004, 0x40, 4, 2, .ro, fun _ => 0, fun _ => true⟩
def F.FLM_OL_STAT_STATE : Fld := ⟨0x400004, 0x40, 0, 3, .ro, fun _ => 0, fun _ => true⟩
def F.FLM_OL_PHY_DEEMPH : Fld := ⟨0x400008, 0x40, 4, 4, .cfg, fun _ => 2, fun v => decide (v ≤ 7)⟩
def F.FLM_OL_PHY_SWING : Fld := ⟨0x400008, 0x40, 0, 4, .cfg, fun _ => 8, fun v => decide (v ≤ 12)⟩
def F.FLM_OL_LAT_LAT : Fld := ⟨0x40000c, 0x40, 0, 16, .ro, fun _ => 0, fun _ => true⟩
def F.FLM_OL_HCFG_HCFG : Fld := ⟨0x400010, 0x40, 0, 64, .live, fun _ => 0, fun _ => true⟩
def F.FLM_OL_EVT_HOLDS : Fld := ⟨0x400018, 0x40, 16, 16, .ro, fun _ => 0, fun _ => true⟩
def F.FLM_OL_EVT_SEQ : Fld := ⟨0x400018, 0x40, 0, 16, .ro, fun _ => 0, fun _ => true⟩
def F.FLM_OL_FRAMES_COUNT : Fld := ⟨0x400020, 0x40, 0, 64, .ro, fun _ => 0, fun _ => true⟩
def F.FLM_OL_FRAMES_SNAP_COUNT : Fld := ⟨0x400028, 0x40, 0, 64, .ro, fun _ => 0, fun _ => true⟩
def F.FLM_IL_CTL_COMP : Fld := ⟨0x401000, 0x40, 8, 4, .cfg, fun n => n, fun _ => true⟩
def F.FLM_IL_CTL_RATE : Fld := ⟨0x401000, 0x40, 1, 2, .cfg, fun _ => 0, fun _ => true⟩
def F.FLM_IL_CTL_EN : Fld := ⟨0x401000, 0x40, 0, 1, .live, fun _ => 0, fun _ => true⟩
def F.FLM_IL_STAT_ENCAUSE : Fld := ⟨0x401004, 0x40, 8, 4, .ro, fun _ => 0, fun _ => true⟩
def F.FLM_IL_STAT_CFG_BAD : Fld := ⟨0x401004, 0x40, 7, 1, .ro, fun _ => 0, fun _ => true⟩
def F.FLM_IL_STAT_LOOPING : Fld := ⟨0x401004, 0x40, 5, 1, .st, fun _ => 0, fun _ => true⟩
def F.FLM_IL_STAT_DRIFT : Fld := ⟨0x401004, 0x40, 4, 1, .st, fun _ => 0, fun _ => true⟩
def F.FLM_IL_STAT_STATE : Fld := ⟨0x401004, 0x40, 0, 3, .ro, fun _ => 0, fun _ => true⟩
def F.FLM_IL_HS_HSB : Fld := ⟨0x401008, 0x40, 16, 16, .ro, fun _ => 0, fun _ => true⟩
def F.FLM_IL_HS_HSA : Fld := ⟨0x401008, 0x40, 0, 16, .ro, fun _ => 0, fun _ => true⟩
def F.FLM_IL_HEAD_SAMP : Fld := ⟨0x40100c, 0x40, 16, 16, .ro, fun _ => 0, fun _ => true⟩
def F.FLM_IL_HEAD_TURN : Fld := ⟨0x40100c, 0x40, 0, 16, .ro, fun _ => 0, fun _ => true⟩
def F.FLM_IL_LAT_RXPIPE : Fld := ⟨0x401010, 0x40, 16, 16, .ro, fun _ => 0, fun _ => true⟩
def F.FLM_IL_LAT_LAMBDA : Fld := ⟨0x401010, 0x40, 0, 16, .ro, fun _ => 0, fun _ => true⟩
def F.FLM_IL_RT_PROP : Fld := ⟨0x401014, 0x40, 16, 16, .ro, fun _ => 0, fun _ => true⟩
def F.FLM_IL_RT_RT : Fld := ⟨0x401014, 0x40, 0, 16, .ro, fun _ => 0, fun _ => true⟩
def F.FLM_IL_ERR_CRC : Fld := ⟨0x401018, 0x40, 16, 16, .ro, fun _ => 0, fun _ => true⟩
def F.FLM_IL_ERR_SEQGAP : Fld := ⟨0x401018, 0x40, 8, 8, .ro, fun _ => 0, fun _ => true⟩
def F.FLM_IL_ERR_CTMIS : Fld := ⟨0x401018, 0x40, 0, 8, .ro, fun _ => 0, fun _ => true⟩
def F.FLM_IL_ERR2_LOSSES : Fld := ⟨0x40101c, 0x40, 24, 8, .ro, fun _ => 0, fun _ => true⟩
def F.FLM_IL_ERR2_ECHO : Fld := ⟨0x40101c, 0x40, 16, 8, .ro, fun _ => 0, fun _ => true⟩
def F.FLM_IL_ERR2_DRIFTS : Fld := ⟨0x40101c, 0x40, 8, 8, .ro, fun _ => 0, fun _ => true⟩
def F.FLM_IL_ERR2_ISOLATIONS : Fld := ⟨0x40101c, 0x40, 0, 8, .ro, fun _ => 0, fun _ => true⟩
def F.FLM_IL_CMD_REMEASURE : Fld := ⟨0x401020, 0x40, 1, 1, .cmd, fun _ => 0, fun _ => true⟩
def F.FLM_IL_CMD_CLR : Fld := ⟨0x401020, 0x40, 0, 1, .cmd, fun _ => 0, fun _ => true⟩
def F.FLM_IL_HEADID_OUTLAT : Fld := ⟨0x401024, 0x40, 16, 16, .ro, fun _ => 0, fun _ => true⟩
def F.FLM_IL_HEADID_HEAD_ID : Fld := ⟨0x401024, 0x40, 0, 16, .ro, fun _ => 0, fun _ => true⟩
def F.FLM_IL_HDEF_HDEF : Fld := ⟨0x401028, 0x40, 0, 56, .ro, fun _ => 0, fun _ => true⟩
def F.FLM_IL_FRAMES_COUNT : Fld := ⟨0x401030, 0x40, 0, 64, .ro, fun _ => 0, fun _ => true⟩
def F.FLM_IL_FRAMES_SNAP_COUNT : Fld := ⟨0x401038, 0x40, 0, 64, .ro, fun _ => 0, fun _ => true⟩
def F.RAKE_CTL_FENCE : Fld := ⟨0x500000, 0x0, 24, 6, .live, fun _ => 8, fun v => decide (1 ≤ v ∧ v ≤ 64)⟩
def F.RAKE_CTL_ROLE : Fld := ⟨0x500000, 0x0, 16, 2, .cfg, fun _ => 0, fun v => decide (v ≤ 2)⟩
def F.RAKE_CTL_AUTO_ENUM : Fld := ⟨0x500000, 0x0, 2, 1, .cfg, fun _ => 1, fun _ => true⟩
def F.RAKE_CTL_EN : Fld := ⟨0x500000, 0x0, 0, 1, .live, fun _ => 1, fun _ => true⟩
def F.RAKE_STAT_FENCE_ACT : Fld := ⟨0x500004, 0x0, 8, 6, .ro, fun _ => 8, fun _ => true⟩
def F.RAKE_STAT_FENCE_PEND : Fld := ⟨0x500004, 0x0, 7, 1, .st, fun _ => 0, fun _ => true⟩
def F.RAKE_STAT_FENCE_SHORT : Fld := ⟨0x500004, 0x0, 6, 1, .st, fun _ => 0, fun _ => true⟩
def F.RAKE_STAT_ENUM_BUSY : Fld := ⟨0x500004, 0x0, 5, 1, .st, fun _ => 0, fun _ => true⟩
def F.RAKE_STAT_TIMED : Fld := ⟨0x500004, 0x0, 4, 1, .st, fun _ => 0, fun _ => true⟩
def F.RAKE_STAT_STEER_HOLD : Fld := ⟨0x500004, 0x0, 3, 1, .st, fun _ => 0, fun _ => true⟩
def F.RAKE_STAT_ROLE_ACT : Fld := ⟨0x500004, 0x0, 0, 2, .ro, fun _ => 0, fun _ => true⟩
def F.RAKE_CMD_CLR : Fld := ⟨0x500008, 0x0, 4, 1, .cmd, fun _ => 0, fun _ => true⟩
def F.RAKE_CMD_ENUM_FULL : Fld := ⟨0x500008, 0x0, 3, 1, .cmd, fun _ => 0, fun _ => true⟩
def F.RAKE_CMD_CT_LOAD : Fld := ⟨0x500008, 0x0, 2, 1, .cmd, fun _ => 0, fun _ => true⟩
def F.RAKE_CMD_PULSE : Fld := ⟨0x500008, 0x0, 1, 1, .cmd, fun _ => 0, fun _ => true⟩
def F.RAKE_CMD_ENUM : Fld := ⟨0x500008, 0x0, 0, 1, .cmd, fun _ => 0, fun _ => true⟩
def F.RAKE_TREE_DEVICES : Fld := ⟨0x50000c, 0x0, 16, 13, .ro, fun _ => 1, fun _ => true⟩
def F.RAKE_TREE_MAXDEPTH : Fld := ⟨0x50000c, 0x0, 0, 5, .ro, fun _ => 0, fun _ => true⟩
def F.RAKE_FMIN_FMIN : Fld := ⟨0x500010, 0x0, 0, 16, .ro, fun _ => 0, fun _ => true⟩
def F.RAKE_PULSE_PER : Fld := ⟨0x500014, 0x0, 8, 5, .live, fun _ => 10, fun v => decide (v ≤ 24)⟩
def F.RAKE_PULSE_MODE : Fld := ⟨0x500014, 0x0, 0, 2, .live, fun _ => 0, fun v => decide (v ≤ 1)⟩
def F.RAKE_CT_LOAD_CT : Fld := ⟨0x500018, 0x0, 0, 64, .live, fun _ => 0, fun _ => true⟩
def F.RAKE_THETA_THETA : Fld := ⟨0x500020, 0x0, 0, 64, .ro, fun _ => 0, fun _ => true⟩
def F.RAKE_JOIN_THETA : Fld := ⟨0x500028, 0x0, 0, 64, .ro, fun _ => 0, fun _ => true⟩
def F.RAKE_ERR_PIN_CONFLICT : Fld := ⟨0x500030, 0x0, 24, 8, .ro, fun _ => 0, fun _ => true⟩
def F.RAKE_ERR_NOROUTE : Fld := ⟨0x500030, 0x0, 16, 8, .ro, fun _ => 0, fun _ => true⟩
def F.RAKE_ERR_EV_LATE : Fld := ⟨0x500030, 0x0, 8, 8, .ro, fun _ => 0, fun _ => true⟩
def F.RAKE_ERR_EV_DROP : Fld := ⟨0x500030, 0x0, 0, 8, .ro, fun _ => 0, fun _ => true⟩
def F.RAKE_EV_RAISE_RAISE : Fld := ⟨0x500038, 0x0, 0, 64, .cmd, fun _ => 0, fun _ => true⟩
def F.RAKE_TMO_TIMEOUT : Fld := ⟨0x500040, 0x0, 0, 16, .live, fun _ => 10, fun v => decide (1 ≤ v)⟩
def F.RAKE_P_CTL_SWING : Fld := ⟨0x500100, 0x40, 8, 4, .cfg, fun _ => 8, fun v => decide (v ≤ 12)⟩
def F.RAKE_P_CTL_EN : Fld := ⟨0x500100, 0x40, 0, 1, .live, fun _ => 1, fun _ => true⟩
def F.RAKE_P_STAT_ICAUSE : Fld := ⟨0x500104, 0x40, 4, 4, .ro, fun _ => 0, fun _ => true⟩
def F.RAKE_P_STAT_STATE : Fld := ⟨0x500104, 0x40, 0, 3, .ro, fun _ => 0, fun _ => true⟩
def F.RAKE_P_DELAY_DELAY : Fld := ⟨0x500108, 0x40, 0, 32, .ro, fun _ => 0, fun _ => true⟩
def F.RAKE_P_SKEW_RX : Fld := ⟨0x50010c, 0x40, 16, 16, .ro, fun _ => 0, fun _ => true⟩
def F.RAKE_P_SKEW_TX : Fld := ⟨0x50010c, 0x40, 0, 16, .ro, fun _ => 0, fun _ => true⟩
def F.RAKE_P_ERR_BAD : Fld := ⟨0x500110, 0x40, 16, 16, .ro, fun _ => 0, fun _ => true⟩
def F.RAKE_P_ERR_LOSSES : Fld := ⟨0x500110, 0x40, 8, 8, .ro, fun _ => 0, fun _ => true⟩
def F.RAKE_P_ERR_ISOLATIONS : Fld := ⟨0x500110, 0x40, 0, 8, .ro, fun _ => 0, fun _ => true⟩
def F.RAKE_P_ERR2_SIDE_DROP : Fld := ⟨0x500114, 0x40, 24, 8, .ro, fun _ => 0, fun _ => true⟩
def F.RAKE_P_ERR2_RAIL_CONFLICT : Fld := ⟨0x500114, 0x40, 16, 8, .ro, fun _ => 0, fun _ => true⟩
def F.RAKE_P_ERR2_AGE_OVF : Fld := ⟨0x500114, 0x40, 8, 8, .ro, fun _ => 0, fun _ => true⟩
def F.RAKE_P_ERR2_HOPS_DROP : Fld := ⟨0x500114, 0x40, 0, 8, .ro, fun _ => 0, fun _ => true⟩
def F.RAKE_P_CMD_CLR : Fld := ⟨0x500118, 0x40, 0, 1, .cmd, fun _ => 0, fun _ => true⟩
def F.RAKE_P_CELLS_COUNT : Fld := ⟨0x500120, 0x40, 0, 64, .ro, fun _ => 0, fun _ => true⟩
def F.RAKE_P_CELLS_SNAP_COUNT : Fld := ⟨0x500128, 0x40, 0, 64, .ro, fun _ => 0, fun _ => true⟩
def F.RAKE_EV_SRC_SRC : Fld := ⟨0x500400, 0x4, 8, 8, .live, fun _ => 0, fun v => rakeSrcListed v⟩
def F.RAKE_EV_SRC_EDGE : Fld := ⟨0x500400, 0x4, 4, 2, .live, fun _ => 3, fun _ => true⟩
def F.RAKE_RPUB_PLAYER : Fld := ⟨0x500600, 0x20, 8, 6, .live, fun _ => 0, fun _ => true⟩
def F.RAKE_RPUB_EN : Fld := ⟨0x500600, 0x20, 0, 1, .live, fun _ => 0, fun _ => true⟩
def F.RAKE_RSTAT_LATE : Fld := ⟨0x500604, 0x20, 16, 16, .ro, fun _ => 0, fun _ => true⟩
def F.RAKE_RSTAT_HIGHFIX : Fld := ⟨0x500604, 0x20, 8, 8, .ro, fun _ => 0, fun _ => true⟩
def F.RAKE_RSTAT_PUBLISHING : Fld := ⟨0x500604, 0x20, 1, 1, .st, fun _ => 0, fun _ => true⟩
def F.RAKE_RSTAT_LOST : Fld := ⟨0x500604, 0x20, 0, 1, .st, fun _ => 1, fun _ => true⟩
def F.RAKE_RAIL_X : Fld := ⟨0x500608, 0x20, 0, 64, .ro, fun _ => 0, fun _ => true⟩
def F.RAKE_RAIL_SNAP_X : Fld := ⟨0x500610, 0x20, 0, 64, .ro, fun _ => 0, fun _ => true⟩
def F.HST_CTL_SVC_EN : Fld := ⟨0x600000, 0x0, 8, 1, .live, fun _ => 1, fun _ => true⟩
def F.HST_CTL_LOSS_POL : Fld := ⟨0x600000, 0x0, 0, 2, .live, fun _ => 0, fun v => decide (v ≤ 2)⟩
def F.HST_LINK_SVC : Fld := ⟨0x600004, 0x0, 8, 1, .st, fun _ => 0, fun _ => true⟩
def F.HST_LINK_LANES : Fld := ⟨0x600004, 0x0, 6, 2, .st, fun _ => 0, fun _ => true⟩
def F.HST_LINK_GEN : Fld := ⟨0x600004, 0x0, 4, 2, .st, fun _ => 0, fun _ => true⟩
def F.HST_LINK_STATE : Fld := ⟨0x600004, 0x0, 0, 3, .st, fun _ => 0, fun _ => true⟩
def F.HST_ERR_BAR2_DISC : Fld := ⟨0x600008, 0x0, 16, 16, .ro, fun _ => 0, fun _ => true⟩
def F.HST_ERR_FRAME : Fld := ⟨0x600008, 0x0, 8, 8, .ro, fun _ => 0, fun _ => true⟩
def F.HST_ERR_LOSSES : Fld := ⟨0x600008, 0x0, 0, 8, .ro, fun _ => 0, fun _ => true⟩
def F.HST_ERR2_BAR2_UE : Fld := ⟨0x60000c, 0x0, 16, 16, .ro, fun _ => 0, fun _ => true⟩
def F.HST_ERR2_DMA : Fld := ⟨0x60000c, 0x0, 0, 16, .ro, fun _ => 0, fun _ => true⟩
def F.HST_CMD_CLR : Fld := ⟨0x600010, 0x0, 0, 1, .cmd, fun _ => 0, fun _ => true⟩
def F.HST_BAR2_BASE_BASE : Fld := ⟨0x600018, 0x0, 16, 48, .live, fun _ => 0, fun _ => true⟩
def F.HST_BYTES_COUNT : Fld := ⟨0x600020, 0x0, 0, 64, .ro, fun _ => 0, fun _ => true⟩
def F.HST_BYTES_SNAP_COUNT : Fld := ⟨0x600028, 0x0, 0, 64, .ro, fun _ => 0, fun _ => true⟩
def F.HST_QPEND_PEND : Fld := ⟨0x600040, 0x4, 0, 32, .st, fun _ => 0, fun _ => true⟩
def F.CLK_REF_SLEW_PPM : Fld := ⟨0x10000, 0x0, 16, 5, .live, fun _ => 20, fun v => decide (1 ≤ v ∧ v ≤ 20)⟩
def F.CLK_REF_POLICY : Fld := ⟨0x10000, 0x0, 8, 2, .live, fun _ => 0, fun v => decide (v ≤ 2)⟩
def F.CLK_REF_REFOUT_EN : Fld := ⟨0x10000, 0x0, 7, 1, .live, fun _ => 0, fun _ => true⟩
def F.CLK_REF_TERM : Fld := ⟨0x10000, 0x0, 5, 1, .cfg, fun _ => 1, fun _ => true⟩
def F.CLK_REF_FREQ : Fld := ⟨0x10000, 0x0, 4, 1, .cfg, fun _ => 0, fun _ => true⟩
def F.CLK_REF_SEL : Fld := ⟨0x10000, 0x0, 0, 2, .live, fun _ => 0, fun _ => true⟩
def F.CLK_STAT_STEP_PEND : Fld := ⟨0x10004, 0x0, 11, 1, .st, fun _ => 0, fun _ => true⟩
def F.CLK_STAT_SLEWING : Fld := ⟨0x10004, 0x0, 10, 1, .st, fun _ => 0, fun _ => true⟩
def F.CLK_STAT_RAKE_LOCK : Fld := ⟨0x10004, 0x0, 9, 1, .st, fun _ => 0, fun _ => true⟩
def F.CLK_STAT_FLUME_LOCK : Fld := ⟨0x10004, 0x0, 8, 1, .st, fun _ => 0, fun _ => true⟩
def F.CLK_STAT_STBY_LOCK : Fld := ⟨0x10004, 0x0, 7, 1, .st, fun _ => 0, fun _ => true⟩
def F.CLK_STAT_SPLL_LOCK : Fld := ⟨0x10004, 0x0, 6, 1, .st, fun _ => 0, fun _ => true⟩
def F.CLK_STAT_RKUP_OK : Fld := ⟨0x10004, 0x0, 5, 1, .st, fun _ => 0, fun _ => true⟩
def F.CLK_STAT_REFIN_OK : Fld := ⟨0x10004, 0x0, 4, 1, .st, fun _ => 0, fun _ => true⟩
def F.CLK_STAT_ON_STANDBY : Fld := ⟨0x10004, 0x0, 3, 1, .st, fun _ => 0, fun _ => true⟩
def F.CLK_STAT_ACT : Fld := ⟨0x10004, 0x0, 0, 2, .ro, fun _ => 2, fun _ => true⟩
def F.CLK_OFFSET_O : Fld := ⟨0x10008, 0x0, 0, 64, .ro, fun _ => 0, fun _ => true⟩
def F.CLK_REMAIN_REMAIN : Fld := ⟨0x10010, 0x0, 0, 64, .ro, fun _ => 0, fun _ => true⟩
def F.CLK_SLEW_MAX_MAX : Fld := ⟨0x10018, 0x0, 0, 16, .live, fun _ => 1000, fun _ => true⟩
def F.CLK_EVT_LOSSES : Fld := ⟨0x1001c, 0x0, 16, 16, .ro, fun _ => 0, fun _ => true⟩
def F.CLK_EVT_UNLOCKS : Fld := ⟨0x1001c, 0x0, 8, 8, .ro, fun _ => 0, fun _ => true⟩
def F.CLK_EVT_RETURNS : Fld := ⟨0x1001c, 0x0, 0, 8, .ro, fun _ => 0, fun _ => true⟩
def F.CLK_CMD_CLR : Fld := ⟨0x10020, 0x0, 0, 1, .cmd, fun _ => 0, fun _ => true⟩
def F.CLK_SPLL_BAND_MANUAL : Fld := ⟨0x10030, 0x0, 8, 1, .cfg, fun _ => 0, fun _ => true⟩
def F.CLK_SPLL_BAND_BAND : Fld := ⟨0x10030, 0x0, 0, 6, .cfg, fun _ => 0, fun _ => true⟩
def F.CUP_STAT_FAIL_STEP : Fld := ⟨0x800000, 0x0, 28, 4, .ro, fun _ => 0, fun _ => true⟩
def F.CUP_STAT_INDEX : Fld := ⟨0x800000, 0x0, 16, 8, .ro, fun _ => 0, fun _ => true⟩
def F.CUP_STAT_SCOPE : Fld := ⟨0x800000, 0x0, 14, 2, .ro, fun _ => 0, fun _ => true⟩
def F.CUP_STAT_NOSTORE : Fld := ⟨0x800000, 0x0, 7, 1, .ro, fun _ => 0, fun _ => true⟩
def F.CUP_STAT_ABANDONED : Fld := ⟨0x800000, 0x0, 6, 1, .ro, fun _ => 0, fun _ => true⟩
def F.CUP_STAT_BUSY : Fld := ⟨0x800000, 0x0, 5, 1, .st, fun _ => 0, fun _ => true⟩
def F.CUP_STAT_STEP : Fld := ⟨0x800000, 0x0, 0, 4, .st, fun _ => 0, fun _ => true⟩
def F.CUP_BYP_B : Fld := ⟨0x800004, 0x0, 0, 32, .ro, fun _ => Config.calByp.toNat, fun _ => true⟩
def F.CUP_TEMP_TEMP : Fld := ⟨0x800008, 0x0, 0, 16, .ro, fun _ => Config.calTemp.toNat, fun _ => true⟩
def F.CUP_CT_CT : Fld := ⟨0x800010, 0x0, 0, 64, .ro, fun _ => 0, fun _ => true⟩
def F.NVM_BOOT_FALLBACK : Fld := ⟨0x800800, 0x0, 2, 1, .ro, fun _ => 0, fun _ => true⟩
def F.NVM_BOOT_NEXT : Fld := ⟨0x800800, 0x0, 1, 1, .ro, fun _ => 0, fun _ => true⟩
def F.NVM_BOOT_ACTIVE : Fld := ⟨0x800800, 0x0, 0, 1, .ro, fun _ => 0, fun _ => true⟩
def F.NVM_BOOT_LOCK_LOCK : Fld := ⟨0x800804, 0x0, 0, 1, .wo1, fun _ => 0, fun _ => true⟩
def F.NVM_CAL_LOCK_LOCK : Fld := ⟨0x800808, 0x0, 0, 1, .wo1, fun _ => 0, fun _ => true⟩
def F.NVM_STAT_VALID : Fld := ⟨0x80080c, 0x0, 8, 6, .ro, fun _ => 7, fun _ => true⟩
def F.NVM_STAT_OP : Fld := ⟨0x80080c, 0x0, 1, 3, .st, fun _ => 0, fun _ => true⟩
def F.NVM_STAT_BUSY : Fld := ⟨0x80080c, 0x0, 0, 1, .st, fun _ => 0, fun _ => true⟩
def F.NVM_GEN_GEN : Fld := ⟨0x800810, 0x4, 0, 32, .ro, fun i => if i == 0 || i == 4 then 1 else 0, fun _ => true⟩
def F.NVM_ERR_ABANDONED : Fld := ⟨0x800830, 0x0, 16, 16, .ro, fun _ => 0, fun _ => true⟩
def F.NVM_ERR_CHECKFAIL : Fld := ⟨0x800830, 0x0, 0, 16, .ro, fun _ => 0, fun _ => true⟩
def F.NVM_ERASE_GO : Fld := ⟨0x800834, 0x0, 8, 1, .pst, fun _ => 0, fun _ => true⟩
def F.NVM_ERASE_REGION : Fld := ⟨0x800834, 0x0, 0, 2, .pst, fun _ => 0, fun _ => true⟩
def F.NVM_PBUSY_BUSY : Fld := ⟨0x800ffc, 0x0, 0, 1, .ro, fun _ => 0, fun _ => true⟩
def F.LOG_EV_STAT_PENDING : Fld := ⟨0x900000, 0x0, 1, 1, .st, fun _ => 0, fun _ => true⟩
def F.LOG_EV_STAT_ABOVE : Fld := ⟨0x900000, 0x0, 0, 1, .st, fun _ => 0, fun _ => true⟩
def F.LOG_EV_WR_RECNO : Fld := ⟨0x900004, 0x0, 0, 32, .ro, fun _ => 0, fun _ => true⟩
def F.LOG_EV_OLD_RECNO : Fld := ⟨0x900008, 0x0, 0, 32, .ro, fun _ => 0, fun _ => true⟩
def F.LOG_EV_RD_RECNO : Fld := ⟨0x90000c, 0x0, 0, 32, .live, fun _ => 0, fun _ => true⟩
def F.LOG_EV_LVL_LEVEL : Fld := ⟨0x900010, 0x0, 0, 20, .live, fun _ => 4096, fun v => decide (1 ≤ v ∧ v ≤ 524288)⟩
def F.LOG_EV_NOTE_ACK : Fld := ⟨0x900014, 0x0, 8, 8, .live, fun _ => 0, fun _ => true⟩
def F.LOG_EV_NOTE_XCNT : Fld := ⟨0x900014, 0x0, 0, 8, .ro, fun _ => 0, fun _ => true⟩
def F.LOG_EV_DROP_DROPPED : Fld := ⟨0x900018, 0x0, 0, 32, .ro, fun _ => 0, fun _ => true⟩
def F.LOG_EV_OVW_COUNT : Fld := ⟨0x90001c, 0x0, 0, 32, .ro, fun _ => 0, fun _ => true⟩
def F.LOG_EV_BASE_BASE : Fld := ⟨0x900020, 0x0, 0, 64, .ro, fun _ => 15015608320, fun _ => true⟩
def F.LOG_EV_TOTAL_COUNT : Fld := ⟨0x900028, 0x0, 0, 64, .ro, fun _ => 0, fun _ => true⟩
def F.LOG_EV_TOTAL_SNAP_COUNT : Fld := ⟨0x900030, 0x0, 0, 64, .ro, fun _ => 0, fun _ => true⟩
def F.LOG_CMD_AUD_FLUSH : Fld := ⟨0x900038, 0x0, 1, 1, .cmd, fun _ => 0, fun _ => true⟩
def F.LOG_CMD_CLR : Fld := ⟨0x900038, 0x0, 0, 1, .cmd, fun _ => 0, fun _ => true⟩
def F.LOG_AUD_SEQ_AUDSEQ : Fld := ⟨0x900040, 0x0, 0, 32, .ro, fun _ => 1, fun _ => true⟩
def F.LOG_AUD_NVM_AUDSEQ : Fld := ⟨0x900044, 0x0, 0, 32, .ro, fun _ => 1, fun _ => true⟩
def F.LOG_AUD_STAT_SKIPPED : Fld := ⟨0x900048, 0x0, 16, 16, .ro, fun _ => 0, fun _ => true⟩
def F.LOG_AUD_STAT_REBUILD : Fld := ⟨0x900048, 0x0, 2, 1, .st, fun _ => 0, fun _ => true⟩
def F.LOG_AUD_STAT_FLUSHING : Fld := ⟨0x900048, 0x0, 1, 1, .st, fun _ => 0, fun _ => true⟩
def F.LOG_AUD_STAT_BACKLOG : Fld := ⟨0x900048, 0x0, 0, 1, .st, fun _ => 0, fun _ => true⟩
def F.LOG_AUD_BASE_BASE : Fld := ⟨0x900050, 0x0, 0, 64, .ro, fun _ => 15007219712, fun _ => true⟩
def F.PWR_STAT_VIO : Fld := ⟨0xb00000, 0x0, 10, 2, .st, fun _ => 0, fun _ => true⟩
def F.PWR_STAT_VBAK_OK : Fld := ⟨0xb00000, 0x0, 9, 1, .st, fun _ => 0, fun _ => true⟩
def F.PWR_STAT_CONV_OK : Fld := ⟨0xb00000, 0x0, 8, 1, .st, fun _ => 0, fun _ => true⟩
def F.PWR_STAT_THERM : Fld := ⟨0xb00000, 0x0, 1, 1, .st, fun _ => 0, fun _ => true⟩
def F.PWR_STAT_PF : Fld := ⟨0xb00000, 0x0, 0, 1, .st, fun _ => 0, fun _ => true⟩
def F.PWR_VIN_VBAK : Fld := ⟨0xb00004, 0x0, 16, 16, .ro, fun _ => 0, fun _ => true⟩
def F.PWR_VIN_VIN : Fld := ⟨0xb00004, 0x0, 0, 16, .ro, fun _ => 0, fun _ => true⟩
def F.PWR_PIN_PEAK : Fld := ⟨0xb00008, 0x0, 16, 16, .ro, fun _ => 0, fun _ => true⟩
def F.PWR_PIN_PIN : Fld := ⟨0xb00008, 0x0, 0, 16, .ro, fun _ => 0, fun _ => true⟩
def F.PWR_TEMP_DRAM : Fld := ⟨0xb0000c, 0x0, 16, 16, .ro, fun _ => 0, fun _ => true⟩
def F.PWR_TEMP_DIE : Fld := ⟨0xb0000c, 0x0, 0, 16, .ro, fun _ => 0, fun _ => true⟩
def F.PWR_CTL_SSC : Fld := ⟨0xb00010, 0x0, 2, 1, .pst, fun _ => 0, fun _ => true⟩
def F.PWR_CTL_FSW : Fld := ⟨0xb00010, 0x0, 0, 2, .pst, fun _ => 0, fun v => decide (v ≤ 2)⟩
def F.PWR_EVT_PF : Fld := ⟨0xb00014, 0x0, 24, 8, .ro, fun _ => 0, fun _ => true⟩
def F.PWR_EVT_THERM : Fld := ⟨0xb00014, 0x0, 16, 8, .ro, fun _ => 0, fun _ => true⟩
def F.PWR_CMD_CLR : Fld := ⟨0xb00018, 0x0, 0, 1, .cmd, fun _ => 0, fun _ => true⟩
def F.PWR_ENERGY_MJ : Fld := ⟨0xb00020, 0x0, 0, 64, .ro, fun _ => 0, fun _ => true⟩
def F.PWR_ENERGY_SNAP_MJ : Fld := ⟨0xb00028, 0x0, 0, 64, .ro, fun _ => 0, fun _ => true⟩
def F.PWR_PBUSY_BUSY : Fld := ⟨0xb00ffc, 0x0, 0, 1, .ro, fun _ => 0, fun _ => true⟩
def F.CHN_BQ_B0 (i : Nat) : Fld := ⟨(0x200080 + 0x20 * i), 0x400, 0, 32, .live, fun _ => 1073741824, fun _ => true⟩
def F.CHN_BQ_B1 (i : Nat) : Fld := ⟨(0x200084 + 0x20 * i), 0x400, 0, 32, .live, fun _ => 0, fun _ => true⟩
def F.CHN_BQ_B2 (i : Nat) : Fld := ⟨(0x200088 + 0x20 * i), 0x400, 0, 32, .live, fun _ => 0, fun _ => true⟩
def F.CHN_BQ_A1 (i : Nat) : Fld := ⟨(0x20008c + 0x20 * i), 0x400, 0, 32, .live, fun _ => 0, fun _ => true⟩
def F.CHN_BQ_A2 (i : Nat) : Fld := ⟨(0x200090 + 0x20 * i), 0x400, 0, 32, .live, fun _ => 0, fun _ => true⟩
def F.CAR_BYTES_RD_V : Fld := ⟨0x20400, 0x20, 0, 64, .ro, fun _ => 0, fun _ => true⟩
def F.CAR_BYTES_WR_V : Fld := ⟨0x20408, 0x20, 0, 64, .ro, fun _ => 0, fun _ => true⟩
def F.CAR_BYTES_RD_SNAP_V : Fld := ⟨0x20410, 0x20, 0, 64, .ro, fun _ => 0, fun _ => true⟩
def F.CAR_BYTES_WR_SNAP_V : Fld := ⟨0x20418, 0x20, 0, 64, .ro, fun _ => 0, fun _ => true⟩
def F.HST_SQ_CTL_RQ : Fld := ⟨0x600100, 0x20, 8, 3, .cfg, fun _ => 0, fun _ => true⟩
def F.HST_SQ_CTL_SIZE : Fld := ⟨0x600100, 0x20, 1, 5, .cfg, fun _ => 12, fun v => decide (12 ≤ v ∧ v ≤ 24)⟩
def F.HST_SQ_CTL_EN : Fld := ⟨0x600100, 0x20, 0, 1, .live, fun _ => 0, fun _ => true⟩
def F.HST_SQ_STAT_ECAUSE : Fld := ⟨0x600104, 0x20, 8, 3, .ro, fun _ => 0, fun _ => true⟩
def F.HST_SQ_STAT_STATE : Fld := ⟨0x600104, 0x20, 0, 2, .st, fun _ => 0, fun _ => true⟩
def F.HST_SQ_BASE_V : Fld := ⟨0x600108, 0x20, 0, 64, .cfg, fun _ => 0, fun _ => true⟩
def F.HST_SQ_SHADOW_V : Fld := ⟨0x600110, 0x20, 0, 64, .cfg, fun _ => 0, fun _ => true⟩
def F.HST_SQ_HEAD_V : Fld := ⟨0x600118, 0x20, 0, 25, .ro, fun _ => 0, fun _ => true⟩
def F.HST_RQ_CTL_VEC : Fld := ⟨0x600500, 0x20, 24, 6, .cfg, fun s => s, fun _ => true⟩
def F.HST_RQ_CTL_HOLDOFF : Fld := ⟨0x600500, 0x20, 16, 8, .cfg, fun _ => 1, fun _ => true⟩
def F.HST_RQ_CTL_SIZE : Fld := ⟨0x600500, 0x20, 1, 5, .cfg, fun _ => 12, fun v => decide (12 ≤ v ∧ v ≤ 24)⟩
def F.HST_RQ_CTL_EN : Fld := ⟨0x600500, 0x20, 0, 1, .live, fun _ => 0, fun _ => true⟩
def F.HST_RQ_STAT_ECAUSE : Fld := ⟨0x600504, 0x20, 8, 3, .ro, fun _ => 0, fun _ => true⟩
def F.HST_RQ_STAT_STATE : Fld := ⟨0x600504, 0x20, 0, 2, .st, fun _ => 0, fun _ => true⟩
def F.HST_RQ_BASE_V : Fld := ⟨0x600508, 0x20, 0, 64, .cfg, fun _ => 0, fun _ => true⟩
def F.HST_RQ_SHADOW_V : Fld := ⟨0x600510, 0x20, 0, 64, .cfg, fun _ => 0, fun _ => true⟩
def F.HST_RQ_TAIL_V : Fld := ⟨0x600518, 0x20, 0, 25, .ro, fun _ => 0, fun _ => true⟩
def F.HST_XR_CTL_VEC : Fld := ⟨0x600900, 0x20, 24, 6, .cfg, fun x => 52 + x, fun _ => true⟩
def F.HST_XR_CTL_GROUP : Fld := ⟨0x600900, 0x20, 8, 2, .cfg, fun _ => 0, fun _ => true⟩
def F.HST_XR_CTL_SIZE : Fld := ⟨0x600900, 0x20, 1, 5, .cfg, fun _ => 8, fun v => decide (4 ≤ v ∧ v ≤ 16)⟩
def F.HST_XR_CTL_EN : Fld := ⟨0x600900, 0x20, 0, 1, .live, fun _ => 0, fun _ => true⟩
def F.HST_XR_STAT_ECAUSE : Fld := ⟨0x600904, 0x20, 8, 3, .ro, fun _ => 0, fun _ => true⟩
def F.HST_XR_STAT_STATE : Fld := ⟨0x600904, 0x20, 0, 2, .st, fun _ => 0, fun _ => true⟩
def F.HST_XR_BASE_V : Fld := ⟨0x600908, 0x20, 0, 64, .cfg, fun _ => 0, fun _ => true⟩
def F.HST_XR_HEAD_V : Fld := ⟨0x600918, 0x20, 0, 17, .ro, fun _ => 0, fun _ => true⟩
def F.HST_SQ_DB_TAIL : Fld := ⟨0x601000, 0x8, 0, 25, .cmd, fun _ => 0, fun _ => true⟩
def F.HST_RQ_DB_HEAD : Fld := ⟨0x601004, 0x8, 0, 25, .cmd, fun _ => 0, fun _ => true⟩
def F.HST_XR_DB_TAIL : Fld := ⟨0x601100, 0x4, 0, 17, .cmd, fun _ => 0, fun _ => true⟩
def F.CLK_PLL_N : Fld := ⟨0x10100, 0x10, 0, 11, .ro, fun x => pllReset x 0, fun _ => true⟩
def F.CLK_PLL_NUM : Fld := ⟨0x10104, 0x10, 0, 24, .ro, fun x => pllReset x 1, fun _ => true⟩
def F.CLK_PLL_DEN : Fld := ⟨0x10108, 0x10, 0, 24, .ro, fun x => pllReset x 2, fun _ => true⟩
def F.CLK_PLL_PLL_DSEED : Fld := ⟨0x1010c, 0x10, 0, 24, .cfg, fun _ => 1, fun v => decide (v ≠ 0)⟩

def rowsGlbId : List Row :=
  [⟨0x0, false, [F.GLB_ID_VENDOR, F.GLB_ID_PART]⟩,
   ⟨0x4, false, [F.GLB_REV_DIE_MAJ, F.GLB_REV_DIE_MIN, F.GLB_REV_GRADE]⟩,
   ⟨0x8, false, [F.GLB_ADDR_DEPTH, F.GLB_ADDR_PINNED, F.GLB_ADDR_VALID, F.GLB_ADDR_ADDR]⟩,
   ⟨0xc, false, [F.GLB_ADDR_PIN_ADDR]⟩,
   ⟨0x10, false, [F.GLB_MODE_CHANGES, F.GLB_MODE_TRANSIT, F.GLB_MODE_DEPTH, F.GLB_MODE_PREV, F.GLB_MODE_MODE]⟩,
   ⟨0x14, false, [F.GLB_MODE_REQ_RESULT, F.GLB_MODE_REQ_DEPTH, F.GLB_MODE_REQ_TARGET]⟩,
   ⟨0x18, false, [F.GLB_REG_ERR_CLR, F.GLB_REG_ERR_ORIGIN, F.GLB_REG_ERR_CAUSE, F.GLB_REG_ERR_COUNT]⟩,
   ⟨0x1c, false, [F.GLB_REG_ERR_ADDR_ADDR]⟩,
   ⟨0x20, false, [F.GLB_FAULT_SUM_FAULT_N, F.GLB_FAULT_SUM_PARITY, F.GLB_FAULT_SUM_BLOCK]⟩,
   ⟨0x24, false, [F.GLB_SNAP_SEQ, F.GLB_SNAP_GO]⟩,
   ⟨0x28, false, [F.GLB_BATCH_LAST_ID, F.GLB_BATCH_COMMITS, F.GLB_BATCH_STAGED, F.GLB_BATCH_STORING, F.GLB_BATCH_OPEN]⟩,
   ⟨0x30, true, [F.GLB_TICK_TICK]⟩,
   ⟨0x38, true, [F.GLB_CT_TICKS, F.GLB_CT_FRAC]⟩,
   ⟨0x40, true, [F.GLB_TICK_SNAP_TICK]⟩,
   ⟨0x48, true, [F.GLB_CT_SNAP_CT]⟩]

def rowsGlbPermCmd : List Row :=
  [⟨0x0, false, [F.GLB_PERM_CMD_CLASSES]⟩,
   ⟨0x4, false, [F.GLB_PERM_REG_GROUPS]⟩]

def rowsRsrcCtl : List Row :=
  [⟨0x0, false, [F.RSRC_CTL_COMP, F.RSRC_CTL_ABS, F.RSRC_CTL_LOSS_POL, F.RSRC_CTL_SEL, F.RSRC_CTL_SRC, F.RSRC_CTL_EN]⟩,
   ⟨0x4, false, [F.RSRC_CMD_CLR, F.RSRC_CMD_REANCHOR, F.RSRC_CMD_LOAD]⟩,
   ⟨0x8, false, [F.RSRC_STAT_WRAPS, F.RSRC_STAT_CFG_BAD, F.RSRC_STAT_AUTO_REANCHORED, F.RSRC_STAT_LOST, F.RSRC_STAT_RATE_LIMIT]⟩,
   ⟨0xc, false, [F.RSRC_EVT_LOSSES, F.RSRC_EVT_LIMITS]⟩,
   ⟨0x10, false, [F.RSRC_SLIP_SLIP]⟩,
   ⟨0x18, true, [F.RSRC_RATE_RATE]⟩,
   ⟨0x20, true, [F.RSRC_SCALE_SCALE]⟩,
   ⟨0x28, true, [F.RSRC_LOAD_LOAD]⟩,
   ⟨0x30, true, [F.RSRC_RAIL_RAIL]⟩,
   ⟨0x38, true, [F.RSRC_LAG_LAG]⟩,
   ⟨0x40, true, [F.RSRC_ANCH_A]⟩,
   ⟨0x48, true, [F.RSRC_XREF_X_A]⟩,
   ⟨0x50, true, [F.RSRC_RAIL_SNAP_RAIL]⟩]

def rowsEncCtl : List Row :=
  [⟨0x0, false, [F.ENC_CTL_TERM, F.ENC_CTL_INDEX, F.ENC_CTL_FILT, F.ENC_CTL_INVERT, F.ENC_CTL_MODE, F.ENC_CTL_EN]⟩,
   ⟨0x4, false, [F.ENC_SSI_PERIOD, F.ENC_SSI_CLKDIV, F.ENC_SSI_GRAY, F.ENC_SSI_LEN]⟩,
   ⟨0x8, false, [F.ENC_SINCOS_AMP_HI, F.ENC_SINCOS_AMP_LO]⟩,
   ⟨0xc, false, [F.ENC_STAT_CFG_BAD, F.ENC_STAT_IDX_SEEN, F.ENC_STAT_LOST]⟩,
   ⟨0x10, true, [F.ENC_POS_COUNT, F.ENC_POS_FRAC]⟩,
   ⟨0x18, true, [F.ENC_IDX_POS]⟩,
   ⟨0x20, false, [F.ENC_ERR_AMP, F.ENC_ERR_ILLEGAL]⟩,
   ⟨0x24, false, [F.ENC_CMD_CLR, F.ENC_CMD_ZERO]⟩,
   ⟨0x28, true, [F.ENC_POS_SNAP_POS]⟩]

def rowsRsrcLtCtl : List Row :=
  [⟨0x0, false, [F.RSRC_LT_CTL_MAINS, F.RSRC_LT_CTL_MISS_MAX, F.RSRC_LT_CTL_WIN, F.RSRC_LT_CTL_IN_SEL, F.RSRC_LT_CTL_AVG, F.RSRC_LT_CTL_EDGE, F.RSRC_LT_CTL_SLEW, F.RSRC_LT_CTL_EN]⟩,
   ⟨0x4, false, [F.RSRC_LT_NOM_NOM]⟩,
   ⟨0x8, false, [F.RSRC_LT_HYST_HYST]⟩,
   ⟨0xc, false, [F.RSRC_LT_PER_EST]⟩,
   ⟨0x10, false, [F.RSRC_LT_STAT_CFG_BAD, F.RSRC_LT_STAT_FLYWHEEL, F.RSRC_LT_STAT_LOST, F.RSRC_LT_STAT_LOCKED]⟩,
   ⟨0x14, false, [F.RSRC_LT_ERR_MISSED, F.RSRC_LT_ERR_REJECTED]⟩,
   ⟨0x18, true, [F.RSRC_LT_CNT_K]⟩,
   ⟨0x20, true, [F.RSRC_LT_CNT_SNAP_K]⟩,
   ⟨0x28, false, [F.RSRC_LT_CMD_CLR]⟩]

def rowsPlyStepBase0 : List Row :=
  [⟨0x0, false, [F.PLY_CTL_BIND, F.PLY_CTL_STARVE_POL, F.PLY_CTL_ECC_POL, F.PLY_CTL_UNDER_POL, F.PLY_CTL_MODE, F.PLY_CTL_WIDTH, F.PLY_CTL_EN]⟩,
   ⟨0x4, false, [F.PLY_CHAN_CH3, F.PLY_CHAN_CH2, F.PLY_CHAN_CH1, F.PLY_CHAN_CH0]⟩,
   ⟨0x8, false, [F.PLY_STATE_HELD_MODE, F.PLY_STATE_CMD_REJ, F.PLY_STATE_CFG_BAD, F.PLY_STATE_UNDERRUN, F.PLY_STATE_RAMPING, F.PLY_STATE_START_PEND, F.PLY_STATE_ARM_BUSY, F.PLY_STATE_HELD_FROM, F.PLY_STATE_STATE]⟩,
   ⟨0xc, false, [F.PLY_CMD_CLR, F.PLY_CMD_SKIP, F.PLY_CMD_STOP, F.PLY_CMD_RESUME, F.PLY_CMD_HOLD, F.PLY_CMD_START, F.PLY_CMD_ARM]⟩,
   ⟨0x10, false, [F.PLY_START_EVT, F.PLY_START_SRC]⟩,
   ⟨0x18, true, [F.PLY_START_CT_AT_CT]⟩,
   ⟨0x20, false, [F.PLY_PF_PAN, F.PLY_PF_OFFSET, F.PLY_PF_SIZE]⟩,
   ⟨0x24, false, [F.PLY_PF_LVL_REFILL, F.PLY_PF_LVL_PANIC]⟩,
   ⟨0x28, false, [F.PLY_PF_STAT_LEAD, F.PLY_PF_STAT_PANIC, F.PLY_PF_STAT_DIR]⟩,
   ⟨0x2c, false, [F.PLY_STREAM_QUEUE]⟩,
   ⟨0x30, false, [F.PLY_STREAM_STAT_DROP_LEFT, F.PLY_STREAM_STAT_BADPKT, F.PLY_STREAM_STAT_SEQGAP]⟩,
   ⟨0x34, false, [F.PLY_SKIP_TIMING, F.PLY_SKIP_DROP]⟩,
   ⟨0x38, false, [F.PLY_ERR_STARVES, F.PLY_ERR_UNDERRUNS, F.PLY_ERR_ECC, F.PLY_ERR_PANICS]⟩,
   ⟨0x3c, false, [F.PLY_STARVE_TICKS_TICKS]⟩,
   ⟨0x40, false, [F.PLY_UNDER_TICKS_TICKS]⟩,
   ⟨0x44, false, [F.PLY_FAULT_SKIPPED, F.PLY_FAULT_CHAN, F.PLY_FAULT_CAUSE]⟩,
   ⟨0x48, true, [F.PLY_ECC_LAST_SEG, F.PLY_ECC_LAST_FRAME]⟩,
   ⟨0x50, true, [F.PLY_STARTED_CT_CT]⟩,
   ⟨0x100, false, [F.PLY_STEP_BASE_BASE]⟩,
   ⟨0x104, false, [F.PLY_STEP_COUNT_COUNT]⟩]

def rowsPlyStepBase1 : List Row :=
  [⟨0x108, false, [F.PLY_START_STEP_START]⟩,
   ⟨0x10c, false, [F.PLY_SEQ_STAT_STEP, F.PLY_SEQ_STAT_HIST, F.PLY_SEQ_STAT_REDO, F.PLY_SEQ_STAT_LATE, F.PLY_SEQ_STAT_CLAMPED, F.PLY_SEQ_STAT_WAITING, F.PLY_SEQ_STAT_REVERSE]⟩,
   ⟨0x110, false, [F.PLY_ITER_ITER]⟩,
   ⟨0x118, true, [F.PLY_POS_S]⟩,
   ⟨0x120, true, [F.PLY_ORIGIN_O]⟩,
   ⟨0x128, false, [F.PLY_EVPEND_PEND]⟩,
   ⟨0x12c, false, [F.PLY_SEQ_CMD_CLR, F.PLY_SEQ_CMD_EV_CLR]⟩,
   ⟨0x130, false, [F.PLY_JUMP_GO, F.PLY_JUMP_TIMING, F.PLY_JUMP_TARGET]⟩,
   ⟨0x134, false, [F.PLY_PHASE_GO, F.PLY_PHASE_VALUE]⟩,
   ⟨0x138, false, [F.PLY_MARK_OUT, F.PLY_MARK_RAW]⟩,
   ⟨0x13c, false, [F.PLY_SEQ_EVT_LATE, F.PLY_SEQ_EVT_DEFERRED, F.PLY_SEQ_EVT_HIST_OVF, F.PLY_SEQ_EVT_DROPPED]⟩,
   ⟨0x140, false, [F.PLY_CLAMP_TICKS_TICKS]⟩,
   ⟨0x144, false, [F.PLY_LATE_TICKS_TICKS]⟩,
   ⟨0x148, false, [F.PLY_ARM_ERR_STEP, F.PLY_ARM_ERR_CAUSE]⟩,
   ⟨0x150, true, [F.PLY_WAIT_CT_CT]⟩,
   ⟨0x158, true, [F.PLY_ENTRIES_COUNT]⟩,
   ⟨0x160, true, [F.PLY_ENTRIES_SNAP_COUNT]⟩]

def rowsPlyStepBase : List Row := rowsPlyStepBase0 ++ rowsPlyStepBase1

def rowsTrgEvsel : List Row :=
  [⟨0x0, false, [F.TRG_EVSEL_SRC_H 0, F.TRG_EVSEL_EDGE_H 0, F.TRG_EVSEL_SRC_L 0, F.TRG_EVSEL_EDGE_L 0]⟩,
   ⟨0x4, false, [F.TRG_EVSEL_SRC_H 1, F.TRG_EVSEL_EDGE_H 1, F.TRG_EVSEL_SRC_L 1, F.TRG_EVSEL_EDGE_L 1]⟩,
   ⟨0x8, false, [F.TRG_EVSEL_SRC_H 2, F.TRG_EVSEL_EDGE_H 2, F.TRG_EVSEL_SRC_L 2, F.TRG_EVSEL_EDGE_L 2]⟩,
   ⟨0xc, false, [F.TRG_EVSEL_SRC_H 3, F.TRG_EVSEL_EDGE_H 3, F.TRG_EVSEL_SRC_L 3, F.TRG_EVSEL_EDGE_L 3]⟩,
   ⟨0x10, false, [F.TRG_EVSEL_SRC_H 4, F.TRG_EVSEL_EDGE_H 4, F.TRG_EVSEL_SRC_L 4, F.TRG_EVSEL_EDGE_L 4]⟩,
   ⟨0x14, false, [F.TRG_EVSEL_SRC_H 5, F.TRG_EVSEL_EDGE_H 5, F.TRG_EVSEL_SRC_L 5, F.TRG_EVSEL_EDGE_L 5]⟩,
   ⟨0x18, false, [F.TRG_EVSEL_SRC_H 6, F.TRG_EVSEL_EDGE_H 6, F.TRG_EVSEL_SRC_L 6, F.TRG_EVSEL_EDGE_L 6]⟩,
   ⟨0x1c, false, [F.TRG_EVSEL_SRC_H 7, F.TRG_EVSEL_EDGE_H 7, F.TRG_EVSEL_SRC_L 7, F.TRG_EVSEL_EDGE_L 7]⟩]

def rowsTrgTap : List Row :=
  [⟨0x0, false, [F.TRG_TAP_PLAYER, F.TRG_TAP_EN, F.TRG_TAP_BIT]⟩]

def rowsTrgSw : List Row :=
  [⟨0x0, false, [F.TRG_SW_SW]⟩,
   ⟨0x4, false, [F.TRG_GP_STAT_LEVEL]⟩]

def rowsChnCtl0 : List Row :=
  [⟨0x0, false, [F.CHN_CTL_BQ_EN, F.CHN_CTL_LIM_POL, F.CHN_CTL_TYPE, F.CHN_CTL_INTERP, F.CHN_CTL_EN]⟩,
   ⟨0x4, false, [F.CHN_RATE_OFFSET, F.CHN_RATE_DM1]⟩,
   ⟨0x8, false, [F.CHN_DEST_GP_MASK, F.CHN_DEST_DOUBLE, F.CHN_DEST_SLOT, F.CHN_DEST_UNIT, F.CHN_DEST_KIND]⟩,
   ⟨0xc, false, [F.CHN_STAT_ENCAUSE, F.CHN_STAT_SAFE_CAUSE, F.CHN_STAT_BQ_PEND, F.CHN_STAT_LIMITING, F.CHN_STAT_AT_REST, F.CHN_STAT_RAMPING, F.CHN_STAT_CFG_BAD, F.CHN_STAT_STATE]⟩,
   ⟨0x10, false, [F.CHN_CMD_RESEED, F.CHN_CMD_CLR, F.CHN_CMD_BQ_APPLY]⟩,
   ⟨0x14, false, [F.CHN_GAIN_GAIN]⟩,
   ⟨0x18, false, [F.CHN_OFFSET_OFFSET]⟩,
   ⟨0x1c, false, [F.CHN_CAL_GAIN_CAL_GAIN]⟩,
   ⟨0x20, false, [F.CHN_CAL_OFFSET_CAL_OFFSET]⟩,
   ⟨0x24, false, [F.CHN_REST_REST]⟩,
   ⟨0x28, false, [F.CHN_RAMP_RAMP]⟩,
   ⟨0x2c, false, [F.CHN_POS_MIN_POS_MIN]⟩,
   ⟨0x30, false, [F.CHN_POS_MAX_POS_MAX]⟩,
   ⟨0x34, false, [F.CHN_VEL_MAX_VEL_MAX]⟩,
   ⟨0x38, false, [F.CHN_ACC_MAX_ACC_MAX]⟩,
   ⟨0x3c, false, [F.CHN_RQ_NS_COEF, F.CHN_RQ_ORDER, F.CHN_RQ_DITHER, F.CHN_RQ_WIDTH]⟩,
   ⟨0x40, false, [F.CHN_DSEED_DSEED]⟩,
   ⟨0x44, false, [F.CHN_LIM_POS_COUNT]⟩,
   ⟨0x48, false, [F.CHN_LIM_VA_VEL, F.CHN_LIM_VA_ACC]⟩,
   ⟨0x4c, false, [F.CHN_ERR_RQ_SAT, F.CHN_ERR_SAT]⟩]

def rowsChnCtl1 : List Row :=
  [⟨0x50, false, [F.CHN_LAST_Y]⟩,
   ⟨0x54, false, [F.CHN_LAT_TICKS]⟩,
   ⟨0x58, true, [F.CHN_SAMPLES_COUNT]⟩,
   ⟨0x60, true, [F.CHN_SAMPLES_SNAP_COUNT]⟩,
   ⟨0x80, false, [F.CHN_BQ_B0 0]⟩,
   ⟨0x84, false, [F.CHN_BQ_B1 0]⟩,
   ⟨0x88, false, [F.CHN_BQ_B2 0]⟩,
   ⟨0x8c, false, [F.CHN_BQ_A1 0]⟩,
   ⟨0x90, false, [F.CHN_BQ_A2 0]⟩,
   ⟨0xa0, false, [F.CHN_BQ_B0 1]⟩,
   ⟨0xa4, false, [F.CHN_BQ_B1 1]⟩,
   ⟨0xa8, false, [F.CHN_BQ_B2 1]⟩,
   ⟨0xac, false, [F.CHN_BQ_A1 1]⟩,
   ⟨0xb0, false, [F.CHN_BQ_A2 1]⟩,
   ⟨0xc0, false, [F.CHN_BQ_B0 2]⟩,
   ⟨0xc4, false, [F.CHN_BQ_B1 2]⟩,
   ⟨0xc8, false, [F.CHN_BQ_B2 2]⟩,
   ⟨0xcc, false, [F.CHN_BQ_A1 2]⟩,
   ⟨0xd0, false, [F.CHN_BQ_A2 2]⟩,
   ⟨0xe0, false, [F.CHN_BQ_B0 3]⟩]

def rowsChnCtl2 : List Row :=
  [⟨0xe4, false, [F.CHN_BQ_B1 3]⟩,
   ⟨0xe8, false, [F.CHN_BQ_B2 3]⟩,
   ⟨0xec, false, [F.CHN_BQ_A1 3]⟩,
   ⟨0xf0, false, [F.CHN_BQ_A2 3]⟩]

def rowsChnCtl : List Row := rowsChnCtl0 ++ rowsChnCtl1 ++ rowsChnCtl2

def rowsCnvDacCtl : List Row :=
  [⟨0x0, false, [F.CNV_DAC_CTL_EN]⟩,
   ⟨0x4, false, [F.CNV_DAC_STAT_CODE, F.CNV_DAC_STAT_OVLD, F.CNV_DAC_STAT_DRIVEN]⟩,
   ⟨0x8, false, [F.CNV_DAC_ERR_OVLD]⟩]

def rowsCnvAdcCtl : List Row :=
  [⟨0x0, false, [F.CNV_ADC_CTL_PHASE, F.CNV_ADC_CTL_EN]⟩,
   ⟨0x4, false, [F.CNV_ADC_DATA_CODE]⟩,
   ⟨0x8, false, [F.CNV_ADC_STAT_OVR_CNT, F.CNV_ADC_STAT_OVR, F.CNV_ADC_STAT_VALID]⟩,
   ⟨0xc, false, [F.CNV_ADC_LAT_LAT]⟩]

def rowsDmdCtl : List Row :=
  [⟨0x0, false, [F.DMD_CTL_REF_PLAYER, F.DMD_CTL_IN_UNIT, F.DMD_CTL_REF_MODE, F.DMD_CTL_IN_KIND, F.DMD_CTL_K, F.DMD_CTL_EN]⟩,
   ⟨0x4, false, [F.DMD_CYC_CYC]⟩,
   ⟨0x8, false, [F.DMD_PHASE_PHASE]⟩,
   ⟨0xc, false, [F.DMD_STAT_OVR_CNT, F.DMD_STAT_ENCAUSE, F.DMD_STAT_CFG_BAD, F.DMD_STAT_OVR, F.DMD_STAT_REF_LOST, F.DMD_STAT_SETTLING, F.DMD_STAT_VALID]⟩,
   ⟨0x10, false, [F.DMD_I_V]⟩,
   ⟨0x14, false, [F.DMD_Q_V]⟩,
   ⟨0x18, true, [F.DMD_CT_CT]⟩]

def rowsCapCtl : List Row :=
  [⟨0x0, false, [F.CAP_CTL_TAG_PLAYER, F.CAP_CTL_TAG, F.CAP_CTL_DEC_MODE, F.CAP_CTL_GATE, F.CAP_CTL_UNIT, F.CAP_CTL_KIND, F.CAP_CTL_EN]⟩,
   ⟨0x4, false, [F.CAP_MASK_MASK]⟩,
   ⟨0x8, false, [F.CAP_DEC_PKT_REC, F.CAP_DEC_DM1]⟩,
   ⟨0xc, false, [F.CAP_GATE_GATE_PLAYER, F.CAP_GATE_MPOL, F.CAP_GATE_MSEL, F.CAP_GATE_MBIT, F.CAP_GATE_STOP_SRC, F.CAP_GATE_START_SRC]⟩,
   ⟨0x10, false, [F.CAP_Q_AGE, F.CAP_Q_QUEUE]⟩,
   ⟨0x14, false, [F.CAP_CMD_REARM, F.CAP_CMD_CLR, F.CAP_CMD_FLUSH]⟩,
   ⟨0x18, false, [F.CAP_STAT_ENCAUSE, F.CAP_STAT_CFG_BAD, F.CAP_STAT_DONE, F.CAP_STAT_PKT_OPEN, F.CAP_STAT_OPEN]⟩,
   ⟨0x1c, false, [F.CAP_LOST_LOST]⟩,
   ⟨0x20, false, [F.CAP_ERR_OVF, F.CAP_ERR_NOROOM]⟩,
   ⟨0x28, true, [F.CAP_RECS_COUNT]⟩,
   ⟨0x30, true, [F.CAP_RECS_SNAP_COUNT]⟩]

def rowsRefCtl0 : List Row :=
  [⟨0x0, false, [F.REF_CTL_PAIR, F.REF_CTL_PLAYER, F.REF_CTL_WD_POL, F.REF_CTL_LIM_POL, F.REF_CTL_CYCLIC, F.REF_CTL_WORD, F.REF_CTL_EN]⟩,
   ⟨0x4, false, [F.REF_SRC_SHIFT, F.REF_SRC_COMP, F.REF_SRC_MEMBER, F.REF_SRC_UNIT, F.REF_SRC_KIND]⟩,
   ⟨0x8, false, [F.REF_MGAIN_MGAIN]⟩,
   ⟨0xc, false, [F.REF_MOFF_MOFF]⟩,
   ⟨0x10, false, [F.REF_LAW_NH, F.REF_LAW_LEAD, F.REF_LAW_LGAIN]⟩,
   ⟨0x14, false, [F.REF_WD_WD_MARGIN, F.REF_WD_WD_N]⟩,
   ⟨0x18, false, [F.REF_CMD_CLR, F.REF_CMD_ZERO, F.REF_CMD_UNFREEZE, F.REF_CMD_FREEZE]⟩,
   ⟨0x1c, false, [F.REF_STAT_ENCAUSE, F.REF_STAT_RISE, F.REF_STAT_CFG_BAD, F.REF_STAT_PASS, F.REF_STAT_FRZ_PEND, F.REF_STAT_ACTIVE, F.REF_STAT_STATE]⟩,
   ⟨0x20, false, [F.REF_RMS_RMS]⟩,
   ⟨0x24, false, [F.REF_F0_F]⟩,
   ⟨0x28, false, [F.REF_F1_F]⟩,
   ⟨0x2c, false, [F.REF_CNT_FREEZES, F.REF_CNT_DISCARDS, F.REF_CNT_CYCLES]⟩,
   ⟨0x30, false, [F.REF_ERR_LOST, F.REF_ERR_ECC]⟩,
   ⟨0x34, false, [F.REF_MSEG_MSEG]⟩,
   ⟨0x38, true, [F.REF_SWAP_CT_CT]⟩,
   ⟨0x40, false, [F.REF_QCOEF_HI 0, F.REF_QCOEF_LO 0]⟩,
   ⟨0x44, false, [F.REF_QCOEF_HI 1, F.REF_QCOEF_LO 1]⟩,
   ⟨0x48, false, [F.REF_QCOEF_HI 2, F.REF_QCOEF_LO 2]⟩,
   ⟨0x4c, false, [F.REF_QCOEF_HI 3, F.REF_QCOEF_LO 3]⟩,
   ⟨0x50, false, [F.REF_QCOEF_HI 4, F.REF_QCOEF_LO 4]⟩]

def rowsRefCtl1 : List Row :=
  [⟨0x54, false, [F.REF_QCOEF_HI 5, F.REF_QCOEF_LO 5]⟩,
   ⟨0x58, false, [F.REF_QCOEF_HI 6, F.REF_QCOEF_LO 6]⟩,
   ⟨0x5c, false, [F.REF_QCOEF_HI 7, F.REF_QCOEF_LO 7]⟩,
   ⟨0x60, false, [F.REF_QCOEF_HI 8, F.REF_QCOEF_LO 8]⟩,
   ⟨0x64, false, [F.REF_QCOEF_HI 9, F.REF_QCOEF_LO 9]⟩,
   ⟨0x68, false, [F.REF_QCOEF_HI 10, F.REF_QCOEF_LO 10]⟩,
   ⟨0x6c, false, [F.REF_QCOEF_HI 11, F.REF_QCOEF_LO 11]⟩,
   ⟨0x70, false, [F.REF_QCOEF_HI 12, F.REF_QCOEF_LO 12]⟩,
   ⟨0x74, false, [F.REF_QCOEF_HI 13, F.REF_QCOEF_LO 13]⟩,
   ⟨0x78, false, [F.REF_QCOEF_HI 14, F.REF_QCOEF_LO 14]⟩,
   ⟨0x7c, false, [F.REF_QCOEF_HI 15, F.REF_QCOEF_LO 15]⟩]

def rowsRefCtl : List Row := rowsRefCtl0 ++ rowsRefCtl1

def rowsRefGctl : List Row :=
  [⟨0x0, false, [F.REF_GCTL_PAN]⟩]

def rowsCarCtl : List Row :=
  [⟨0x0, false, [F.CAR_CTL_PAGE_IDLE, F.CAR_CTL_SCRUB_EN, F.CAR_CTL_AUTO_SR, F.CAR_CTL_MAP]⟩,
   ⟨0x4, false, [F.CAR_STAT_OVERTEMP, F.CAR_STAT_HOT, F.CAR_STAT_TRAINED, F.CAR_STAT_PWR, F.CAR_STAT_MAP_ACT]⟩,
   ⟨0x8, false, [F.CAR_QOS_U3, F.CAR_QOS_U2, F.CAR_QOS_U1]⟩,
   ⟨0xc, false, [F.CAR_RH_TH, F.CAR_RH_THROTTLE, F.CAR_RH_PSHIFT]⟩,
   ⟨0x10, false, [F.CAR_RH_SEED_SEED]⟩,
   ⟨0x14, false, [F.CAR_REF_MODE]⟩,
   ⟨0x18, false, [F.CAR_REF_STAT_RATE2X, F.CAR_REF_STAT_OWED]⟩,
   ⟨0x1c, false, [F.CAR_TRAIN_FORCE_FULL, F.CAR_TRAIN_TEST]⟩,
   ⟨0x20, false, [F.CAR_TRAIN_STAT_DURATION, F.CAR_TRAIN_STAT_FAIL_STEP, F.CAR_TRAIN_STAT_QUICK, F.CAR_TRAIN_STAT_LANE_OK]⟩,
   ⟨0x24, false, [F.CAR_TOVR_EN, F.CAR_TOVR_TRCD, F.CAR_TOVR_TRP, F.CAR_TOVR_TRFC]⟩,
   ⟨0x28, false, [F.CAR_PWR_ABORTS, F.CAR_PWR_BOUNCES, F.CAR_PWR_IDLE_SR]⟩,
   ⟨0x2c, false, [F.CAR_ECC_CE, F.CAR_ECC_UE]⟩,
   ⟨0x30, true, [F.CAR_ECC_LAST_UE, F.CAR_ECC_LAST_PORT, F.CAR_ECC_LAST_ADDR]⟩,
   ⟨0x38, false, [F.CAR_SCRUB_PERIOD]⟩,
   ⟨0x3c, false, [F.CAR_RH_STAT_THROTTLES, F.CAR_RH_STAT_FORCED]⟩,
   ⟨0x40, false, [F.CAR_CMD_SCRUB_NOW, F.CAR_CMD_CLR]⟩,
   ⟨0x48, true, [F.CAR_RH_PROB_COUNT]⟩,
   ⟨0x50, true, [F.CAR_RH_PROB_SNAP_COUNT]⟩]

def rowsCarPortLat : List Row :=
  [⟨0x0, false, [F.CAR_PORT_LAT_LAT_MAX, F.CAR_PORT_LAT_OVER400]⟩,
   ⟨0x4, false, [F.CAR_PORT_EVT_DL_MISS, F.CAR_PORT_EVT_THROTTLED]⟩]

def rowsPanOwn : List Row :=
  [⟨0x0, false, [F.PAN_OWN_B_OWNER, F.PAN_OWN_OWNER]⟩,
   ⟨0x4, false, [F.PAN_STAT_TEST_BUSY, F.PAN_STAT_SLICE, F.PAN_STAT_HANDOVER, F.PAN_STAT_WAKING, F.PAN_STAT_ASLEEP]⟩,
   ⟨0x8, false, [F.PAN_ERR_CE, F.PAN_ERR_UE]⟩,
   ⟨0xc, false, [F.PAN_COLL_COUNT]⟩]

def rowsPanConf : List Row :=
  [⟨0x0, false, [F.PAN_CONF_COUNT, F.PAN_CONF_PAN]⟩]

def rowsPanRet : List Row :=
  [⟨0x0, false, [F.PAN_RET_SLEEP, F.PAN_RET_RET]⟩,
   ⟨0x4, false, [F.PAN_MBIST_MASK, F.PAN_MBIST_INTERVAL, F.PAN_MBIST_EN]⟩,
   ⟨0x8, false, [F.PAN_MBIST_STAT_YIELDS, F.PAN_MBIST_STAT_FAIL]⟩,
   ⟨0xc, false, [F.PAN_MBIST_FAIL_PAN, F.PAN_MBIST_FAIL_WORD]⟩,
   ⟨0x10, false, [F.PAN_CMD_CLR]⟩]

def rowsBrnCtl : List Row :=
  [⟨0x0, false, [F.BRN_CTL_B, F.BRN_CTL_A, F.BRN_CTL_WR_SIDE, F.BRN_CTL_DEEP, F.BRN_CTL_EN]⟩,
   ⟨0x4, false, [F.BRN_STORE_PAN, F.BRN_STORE_OFFSET, F.BRN_STORE_SEG]⟩,
   ⟨0x8, false, [F.BRN_IDX_PAN, F.BRN_IDX_OFFSET]⟩,
   ⟨0xc, false, [F.BRN_LVL_SENSE, F.BRN_LVL_LEVEL]⟩,
   ⟨0x10, false, [F.BRN_NOTE_ACK, F.BRN_NOTE_XCNT]⟩,
   ⟨0x14, false, [F.BRN_STAT_ENCAUSE, F.BRN_STAT_CFG_BAD, F.BRN_STAT_RD_CLAIM, F.BRN_STAT_WR_CLAIM, F.BRN_STAT_HELD, F.BRN_STAT_OPEN, F.BRN_STAT_PENDING, F.BRN_STAT_ABOVE, F.BRN_STAT_EMPTY]⟩,
   ⟨0x18, false, [F.BRN_WP_PTR]⟩,
   ⟨0x1c, false, [F.BRN_CP_PTR]⟩,
   ⟨0x20, false, [F.BRN_RP_PTR]⟩,
   ⟨0x24, false, [F.BRN_IPTR_ICP, F.BRN_IPTR_IRP]⟩,
   ⟨0x28, false, [F.BRN_FREE_WORDS]⟩,
   ⟨0x2c, false, [F.BRN_FILL_WORDS]⟩,
   ⟨0x30, false, [F.BRN_ERR_OVERSIZE, F.BRN_ERR_PTR, F.BRN_ERR_ABANDON, F.BRN_ERR_TRUNC]⟩,
   ⟨0x34, false, [F.BRN_EVT_EMPTY_RD, F.BRN_EVT_ECC]⟩,
   ⟨0x38, false, [F.BRN_CMD_CLR, F.BRN_CMD_DROP, F.BRN_CMD_FLUSH]⟩]

def rowsFlmOlCtl : List Row :=
  [⟨0x0, false, [F.FLM_OL_CTL_TRAIN_SF, F.FLM_OL_CTL_ORDER, F.FLM_OL_CTL_MARK_EN, F.FLM_OL_CTL_MPLAYER, F.FLM_OL_CTL_RATE, F.FLM_OL_CTL_EN]⟩,
   ⟨0x4, false, [F.FLM_OL_STAT_ENCAUSE, F.FLM_OL_STAT_CFG_BAD, F.FLM_OL_STAT_HCAUSE, F.FLM_OL_STAT_STATE]⟩,
   ⟨0x8, false, [F.FLM_OL_PHY_DEEMPH, F.FLM_OL_PHY_SWING]⟩,
   ⟨0xc, false, [F.FLM_OL_LAT_LAT]⟩,
   ⟨0x10, true, [F.FLM_OL_HCFG_HCFG]⟩,
   ⟨0x18, false, [F.FLM_OL_EVT_HOLDS, F.FLM_OL_EVT_SEQ]⟩,
   ⟨0x20, true, [F.FLM_OL_FRAMES_COUNT]⟩,
   ⟨0x28, true, [F.FLM_OL_FRAMES_SNAP_COUNT]⟩]

def rowsFlmIlCtl : List Row :=
  [⟨0x0, false, [F.FLM_IL_CTL_COMP, F.FLM_IL_CTL_RATE, F.FLM_IL_CTL_EN]⟩,
   ⟨0x4, false, [F.FLM_IL_STAT_ENCAUSE, F.FLM_IL_STAT_CFG_BAD, F.FLM_IL_STAT_LOOPING, F.FLM_IL_STAT_DRIFT, F.FLM_IL_STAT_STATE]⟩,
   ⟨0x8, false, [F.FLM_IL_HS_HSB, F.FLM_IL_HS_HSA]⟩,
   ⟨0xc, false, [F.FLM_IL_HEAD_SAMP, F.FLM_IL_HEAD_TURN]⟩,
   ⟨0x10, false, [F.FLM_IL_LAT_RXPIPE, F.FLM_IL_LAT_LAMBDA]⟩,
   ⟨0x14, false, [F.FLM_IL_RT_PROP, F.FLM_IL_RT_RT]⟩,
   ⟨0x18, false, [F.FLM_IL_ERR_CRC, F.FLM_IL_ERR_SEQGAP, F.FLM_IL_ERR_CTMIS]⟩,
   ⟨0x1c, false, [F.FLM_IL_ERR2_LOSSES, F.FLM_IL_ERR2_ECHO, F.FLM_IL_ERR2_DRIFTS, F.FLM_IL_ERR2_ISOLATIONS]⟩,
   ⟨0x20, false, [F.FLM_IL_CMD_REMEASURE, F.FLM_IL_CMD_CLR]⟩,
   ⟨0x24, false, [F.FLM_IL_HEADID_OUTLAT, F.FLM_IL_HEADID_HEAD_ID]⟩,
   ⟨0x28, true, [F.FLM_IL_HDEF_HDEF]⟩,
   ⟨0x30, true, [F.FLM_IL_FRAMES_COUNT]⟩,
   ⟨0x38, true, [F.FLM_IL_FRAMES_SNAP_COUNT]⟩]

def rowsRakeCtl : List Row :=
  [⟨0x0, false, [F.RAKE_CTL_FENCE, F.RAKE_CTL_ROLE, F.RAKE_CTL_AUTO_ENUM, F.RAKE_CTL_EN]⟩,
   ⟨0x4, false, [F.RAKE_STAT_FENCE_ACT, F.RAKE_STAT_FENCE_PEND, F.RAKE_STAT_FENCE_SHORT, F.RAKE_STAT_ENUM_BUSY, F.RAKE_STAT_TIMED, F.RAKE_STAT_STEER_HOLD, F.RAKE_STAT_ROLE_ACT]⟩,
   ⟨0x8, false, [F.RAKE_CMD_CLR, F.RAKE_CMD_ENUM_FULL, F.RAKE_CMD_CT_LOAD, F.RAKE_CMD_PULSE, F.RAKE_CMD_ENUM]⟩,
   ⟨0xc, false, [F.RAKE_TREE_DEVICES, F.RAKE_TREE_MAXDEPTH]⟩,
   ⟨0x10, false, [F.RAKE_FMIN_FMIN]⟩,
   ⟨0x14, false, [F.RAKE_PULSE_PER, F.RAKE_PULSE_MODE]⟩,
   ⟨0x18, true, [F.RAKE_CT_LOAD_CT]⟩,
   ⟨0x20, true, [F.RAKE_THETA_THETA]⟩,
   ⟨0x28, true, [F.RAKE_JOIN_THETA]⟩,
   ⟨0x30, false, [F.RAKE_ERR_PIN_CONFLICT, F.RAKE_ERR_NOROUTE, F.RAKE_ERR_EV_LATE, F.RAKE_ERR_EV_DROP]⟩,
   ⟨0x38, true, [F.RAKE_EV_RAISE_RAISE]⟩,
   ⟨0x40, false, [F.RAKE_TMO_TIMEOUT]⟩]

def rowsRakePCtl : List Row :=
  [⟨0x0, false, [F.RAKE_P_CTL_SWING, F.RAKE_P_CTL_EN]⟩,
   ⟨0x4, false, [F.RAKE_P_STAT_ICAUSE, F.RAKE_P_STAT_STATE]⟩,
   ⟨0x8, false, [F.RAKE_P_DELAY_DELAY]⟩,
   ⟨0xc, false, [F.RAKE_P_SKEW_RX, F.RAKE_P_SKEW_TX]⟩,
   ⟨0x10, false, [F.RAKE_P_ERR_BAD, F.RAKE_P_ERR_LOSSES, F.RAKE_P_ERR_ISOLATIONS]⟩,
   ⟨0x14, false, [F.RAKE_P_ERR2_SIDE_DROP, F.RAKE_P_ERR2_RAIL_CONFLICT, F.RAKE_P_ERR2_AGE_OVF, F.RAKE_P_ERR2_HOPS_DROP]⟩,
   ⟨0x18, false, [F.RAKE_P_CMD_CLR]⟩,
   ⟨0x20, true, [F.RAKE_P_CELLS_COUNT]⟩,
   ⟨0x28, true, [F.RAKE_P_CELLS_SNAP_COUNT]⟩]

def rowsRakeEvSrc : List Row :=
  [⟨0x0, false, [F.RAKE_EV_SRC_SRC, F.RAKE_EV_SRC_EDGE]⟩]

def rowsRakeRpub : List Row :=
  [⟨0x0, false, [F.RAKE_RPUB_PLAYER, F.RAKE_RPUB_EN]⟩,
   ⟨0x4, false, [F.RAKE_RSTAT_LATE, F.RAKE_RSTAT_HIGHFIX, F.RAKE_RSTAT_PUBLISHING, F.RAKE_RSTAT_LOST]⟩,
   ⟨0x8, true, [F.RAKE_RAIL_X]⟩,
   ⟨0x10, true, [F.RAKE_RAIL_SNAP_X]⟩]

def rowsHstCtl : List Row :=
  [⟨0x0, false, [F.HST_CTL_SVC_EN, F.HST_CTL_LOSS_POL]⟩,
   ⟨0x4, false, [F.HST_LINK_SVC, F.HST_LINK_LANES, F.HST_LINK_GEN, F.HST_LINK_STATE]⟩,
   ⟨0x8, false, [F.HST_ERR_BAR2_DISC, F.HST_ERR_FRAME, F.HST_ERR_LOSSES]⟩,
   ⟨0xc, false, [F.HST_ERR2_BAR2_UE, F.HST_ERR2_DMA]⟩,
   ⟨0x10, false, [F.HST_CMD_CLR]⟩,
   ⟨0x18, true, [F.HST_BAR2_BASE_BASE]⟩,
   ⟨0x20, true, [F.HST_BYTES_COUNT]⟩,
   ⟨0x28, true, [F.HST_BYTES_SNAP_COUNT]⟩]

def rowsHstQpend : List Row :=
  [⟨0x0, false, [F.HST_QPEND_PEND]⟩]

def rowsClkRef : List Row :=
  [⟨0x0, false, [F.CLK_REF_SLEW_PPM, F.CLK_REF_POLICY, F.CLK_REF_REFOUT_EN, F.CLK_REF_TERM, F.CLK_REF_FREQ, F.CLK_REF_SEL]⟩,
   ⟨0x4, false, [F.CLK_STAT_STEP_PEND, F.CLK_STAT_SLEWING, F.CLK_STAT_RAKE_LOCK, F.CLK_STAT_FLUME_LOCK, F.CLK_STAT_STBY_LOCK, F.CLK_STAT_SPLL_LOCK, F.CLK_STAT_RKUP_OK, F.CLK_STAT_REFIN_OK, F.CLK_STAT_ON_STANDBY, F.CLK_STAT_ACT]⟩,
   ⟨0x8, true, [F.CLK_OFFSET_O]⟩,
   ⟨0x10, true, [F.CLK_REMAIN_REMAIN]⟩,
   ⟨0x18, false, [F.CLK_SLEW_MAX_MAX]⟩,
   ⟨0x1c, false, [F.CLK_EVT_LOSSES, F.CLK_EVT_UNLOCKS, F.CLK_EVT_RETURNS]⟩,
   ⟨0x20, false, [F.CLK_CMD_CLR]⟩,
   ⟨0x30, false, [F.CLK_SPLL_BAND_MANUAL, F.CLK_SPLL_BAND_BAND]⟩]

def rowsCupStat : List Row :=
  [⟨0x0, false, [F.CUP_STAT_FAIL_STEP, F.CUP_STAT_INDEX, F.CUP_STAT_SCOPE, F.CUP_STAT_NOSTORE, F.CUP_STAT_ABANDONED, F.CUP_STAT_BUSY, F.CUP_STAT_STEP]⟩,
   ⟨0x4, false, [F.CUP_BYP_B]⟩,
   ⟨0x8, false, [F.CUP_TEMP_TEMP]⟩,
   ⟨0x10, true, [F.CUP_CT_CT]⟩,
   ⟨0x800, false, [F.NVM_BOOT_FALLBACK, F.NVM_BOOT_NEXT, F.NVM_BOOT_ACTIVE]⟩,
   ⟨0x804, false, [F.NVM_BOOT_LOCK_LOCK]⟩,
   ⟨0x808, false, [F.NVM_CAL_LOCK_LOCK]⟩,
   ⟨0x80c, false, [F.NVM_STAT_VALID, F.NVM_STAT_OP, F.NVM_STAT_BUSY]⟩,
   ⟨0x830, false, [F.NVM_ERR_ABANDONED, F.NVM_ERR_CHECKFAIL]⟩,
   ⟨0x834, false, [F.NVM_ERASE_GO, F.NVM_ERASE_REGION]⟩,
   ⟨0xffc, false, [F.NVM_PBUSY_BUSY]⟩]

def rowsNvmGen : List Row :=
  [⟨0x0, false, [F.NVM_GEN_GEN]⟩]

def rowsLogEvStat : List Row :=
  [⟨0x0, false, [F.LOG_EV_STAT_PENDING, F.LOG_EV_STAT_ABOVE]⟩,
   ⟨0x4, false, [F.LOG_EV_WR_RECNO]⟩,
   ⟨0x8, false, [F.LOG_EV_OLD_RECNO]⟩,
   ⟨0xc, false, [F.LOG_EV_RD_RECNO]⟩,
   ⟨0x10, false, [F.LOG_EV_LVL_LEVEL]⟩,
   ⟨0x14, false, [F.LOG_EV_NOTE_ACK, F.LOG_EV_NOTE_XCNT]⟩,
   ⟨0x18, false, [F.LOG_EV_DROP_DROPPED]⟩,
   ⟨0x1c, false, [F.LOG_EV_OVW_COUNT]⟩,
   ⟨0x20, true, [F.LOG_EV_BASE_BASE]⟩,
   ⟨0x28, true, [F.LOG_EV_TOTAL_COUNT]⟩,
   ⟨0x30, true, [F.LOG_EV_TOTAL_SNAP_COUNT]⟩,
   ⟨0x38, false, [F.LOG_CMD_AUD_FLUSH, F.LOG_CMD_CLR]⟩,
   ⟨0x40, false, [F.LOG_AUD_SEQ_AUDSEQ]⟩,
   ⟨0x44, false, [F.LOG_AUD_NVM_AUDSEQ]⟩,
   ⟨0x48, false, [F.LOG_AUD_STAT_SKIPPED, F.LOG_AUD_STAT_REBUILD, F.LOG_AUD_STAT_FLUSHING, F.LOG_AUD_STAT_BACKLOG]⟩,
   ⟨0x50, true, [F.LOG_AUD_BASE_BASE]⟩]

def rowsPwrStat : List Row :=
  [⟨0x0, false, [F.PWR_STAT_VIO, F.PWR_STAT_VBAK_OK, F.PWR_STAT_CONV_OK, F.PWR_STAT_THERM, F.PWR_STAT_PF]⟩,
   ⟨0x4, false, [F.PWR_VIN_VBAK, F.PWR_VIN_VIN]⟩,
   ⟨0x8, false, [F.PWR_PIN_PEAK, F.PWR_PIN_PIN]⟩,
   ⟨0xc, false, [F.PWR_TEMP_DRAM, F.PWR_TEMP_DIE]⟩,
   ⟨0x10, false, [F.PWR_CTL_SSC, F.PWR_CTL_FSW]⟩,
   ⟨0x14, false, [F.PWR_EVT_PF, F.PWR_EVT_THERM]⟩,
   ⟨0x18, false, [F.PWR_CMD_CLR]⟩,
   ⟨0x20, true, [F.PWR_ENERGY_MJ]⟩,
   ⟨0x28, true, [F.PWR_ENERGY_SNAP_MJ]⟩,
   ⟨0xffc, false, [F.PWR_PBUSY_BUSY]⟩]

def rowsCarBytesRd : List Row :=
  [⟨0x0, true, [F.CAR_BYTES_RD_V]⟩,
   ⟨0x8, true, [F.CAR_BYTES_WR_V]⟩,
   ⟨0x10, true, [F.CAR_BYTES_RD_SNAP_V]⟩,
   ⟨0x18, true, [F.CAR_BYTES_WR_SNAP_V]⟩]

def rowsHstSqCtl : List Row :=
  [⟨0x0, false, [F.HST_SQ_CTL_RQ, F.HST_SQ_CTL_SIZE, F.HST_SQ_CTL_EN]⟩,
   ⟨0x4, false, [F.HST_SQ_STAT_ECAUSE, F.HST_SQ_STAT_STATE]⟩,
   ⟨0x8, true, [F.HST_SQ_BASE_V]⟩,
   ⟨0x10, true, [F.HST_SQ_SHADOW_V]⟩,
   ⟨0x18, false, [F.HST_SQ_HEAD_V]⟩]

def rowsHstRqCtl : List Row :=
  [⟨0x0, false, [F.HST_RQ_CTL_VEC, F.HST_RQ_CTL_HOLDOFF, F.HST_RQ_CTL_SIZE, F.HST_RQ_CTL_EN]⟩,
   ⟨0x4, false, [F.HST_RQ_STAT_ECAUSE, F.HST_RQ_STAT_STATE]⟩,
   ⟨0x8, true, [F.HST_RQ_BASE_V]⟩,
   ⟨0x10, true, [F.HST_RQ_SHADOW_V]⟩,
   ⟨0x18, false, [F.HST_RQ_TAIL_V]⟩]

def rowsHstXrCtl : List Row :=
  [⟨0x0, false, [F.HST_XR_CTL_VEC, F.HST_XR_CTL_GROUP, F.HST_XR_CTL_SIZE, F.HST_XR_CTL_EN]⟩,
   ⟨0x4, false, [F.HST_XR_STAT_ECAUSE, F.HST_XR_STAT_STATE]⟩,
   ⟨0x8, true, [F.HST_XR_BASE_V]⟩,
   ⟨0x18, false, [F.HST_XR_HEAD_V]⟩]

def rowsHstSqDb : List Row :=
  [⟨0x0, false, [F.HST_SQ_DB_TAIL]⟩,
   ⟨0x4, false, [F.HST_RQ_DB_HEAD]⟩]

def rowsHstXrDb : List Row :=
  [⟨0x0, false, [F.HST_XR_DB_TAIL]⟩]

def rowsClkPll : List Row :=
  [⟨0x0, false, [F.CLK_PLL_N]⟩,
   ⟨0x4, false, [F.CLK_PLL_NUM]⟩,
   ⟨0x8, false, [F.CLK_PLL_DEN]⟩,
   ⟨0xc, false, [F.CLK_PLL_PLL_DSEED]⟩]

/-- Every run of units of the register space, in ascending order of base. -/
def blks : List Blk :=
  [⟨0x0, 0x1000000, 1, 0, rowsGlbId⟩,
   ⟨0x80, 0x8, 7, 0, rowsGlbPermCmd⟩,
   ⟨0x10000, 0x1000000, 1, 1, rowsClkRef⟩,
   ⟨0x10100, 0x10, 5, 1, rowsClkPll⟩,
   ⟨0x20000, 0x1000000, 1, 2, rowsCarCtl⟩,
   ⟨0x20100, 0x8, 72, 2, rowsCarPortLat⟩,
   ⟨0x20400, 0x20, 4, 2, rowsCarBytesRd⟩,
   ⟨0x30000, 0x20, 16, 3, rowsPanOwn⟩,
   ⟨0x30200, 0x4, 9, 3, rowsPanConf⟩,
   ⟨0x30300, 0x1000000, 1, 3, rowsPanRet⟩,
   ⟨0x40000, 0x40, 128, 4, rowsBrnCtl⟩,
   ⟨0x100000, 0x1000, 64, 5, rowsPlyStepBase⟩,
   ⟨0x200000, 0x400, 256, 6, rowsChnCtl⟩,
   ⟨0x300000, 0x80, 64, 7, rowsRsrcCtl⟩,
   ⟨0x302000, 0x40, 8, 7, rowsEncCtl⟩,
   ⟨0x303000, 0x40, 8, 7, rowsRsrcLtCtl⟩,
   ⟨0x310000, 0x20, 8, 8, rowsCnvDacCtl⟩,
   ⟨0x310100, 0x20, 8, 8, rowsCnvAdcCtl⟩,
   ⟨0x320000, 0x40, 16, 9, rowsDmdCtl⟩,
   ⟨0x330000, 0x40, 32, 10, rowsCapCtl⟩,
   ⟨0x400000, 0x40, 16, 11, rowsFlmOlCtl⟩,
   ⟨0x401000, 0x40, 8, 11, rowsFlmIlCtl⟩,
   ⟨0x500000, 0x1000000, 1, 12, rowsRakeCtl⟩,
   ⟨0x500100, 0x40, 4, 12, rowsRakePCtl⟩,
   ⟨0x500400, 0x4, 64, 12, rowsRakeEvSrc⟩,
   ⟨0x500600, 0x20, 16, 12, rowsRakeRpub⟩,
   ⟨0x600000, 0x1000000, 1, 13, rowsHstCtl⟩,
   ⟨0x600040, 0x4, 4, 13, rowsHstQpend⟩,
   ⟨0x600100, 0x20, 32, 13, rowsHstSqCtl⟩,
   ⟨0x600500, 0x20, 32, 13, rowsHstRqCtl⟩,
   ⟨0x600900, 0x20, 8, 13, rowsHstXrCtl⟩,
   ⟨0x601000, 0x8, 32, 13, rowsHstSqDb⟩,
   ⟨0x601100, 0x4, 8, 13, rowsHstXrDb⟩,
   ⟨0x700000, 0x80, 8, 14, rowsRefCtl⟩,
   ⟨0x700400, 0x1000000, 1, 14, rowsRefGctl⟩,
   ⟨0x800000, 0x1000000, 1, 15, rowsCupStat⟩,
   ⟨0x800810, 0x4, 6, 15, rowsNvmGen⟩,
   ⟨0x900000, 0x1000000, 1, 16, rowsLogEvStat⟩,
   ⟨0xa00000, 0x40, 64, 17, rowsTrgEvsel⟩,
   ⟨0xa01000, 0x4, 32, 17, rowsTrgTap⟩,
   ⟨0xa01080, 0x1000000, 1, 17, rowsTrgSw⟩,
   ⟨0xb00000, 0x1000000, 1, 18, rowsPwrStat⟩]

def counterFlds0 : List (Fld × Nat) :=
  [(F.GLB_MODE_CHANGES, 1), (F.GLB_REG_ERR_COUNT, 1), (F.GLB_BATCH_COMMITS, 1), (F.RSRC_STAT_WRAPS, 64), (F.RSRC_EVT_LOSSES, 64), (F.RSRC_EVT_LIMITS, 64), (F.RSRC_SLIP_SLIP, 64), (F.ENC_ERR_AMP, 8), (F.ENC_ERR_ILLEGAL, 8), (F.RSRC_LT_ERR_MISSED, 8), (F.RSRC_LT_ERR_REJECTED, 8), (F.PLY_SEQ_EVT_LATE, 64), (F.PLY_SEQ_EVT_DEFERRED, 64), (F.PLY_SEQ_EVT_HIST_OVF, 64), (F.PLY_SEQ_EVT_DROPPED, 64), (F.PLY_CLAMP_TICKS_TICKS, 64), (F.PLY_LATE_TICKS_TICKS, 64), (F.PLY_STREAM_STAT_BADPKT, 64), (F.PLY_STREAM_STAT_SEQGAP, 64), (F.PLY_ERR_STARVES, 64)]

def counterFlds1 : List (Fld × Nat) :=
  [(F.PLY_ERR_UNDERRUNS, 64), (F.PLY_ERR_ECC, 64), (F.PLY_ERR_PANICS, 64), (F.PLY_STARVE_TICKS_TICKS, 64), (F.PLY_UNDER_TICKS_TICKS, 64), (F.PLY_FAULT_SKIPPED, 64), (F.CHN_LIM_POS_COUNT, 256), (F.CHN_LIM_VA_VEL, 256), (F.CHN_LIM_VA_ACC, 256), (F.CHN_ERR_RQ_SAT, 256), (F.CHN_ERR_SAT, 256), (F.CNV_DAC_ERR_OVLD, 8), (F.CNV_ADC_STAT_OVR_CNT, 8), (F.DMD_STAT_OVR_CNT, 16), (F.CAP_LOST_LOST, 32), (F.CAP_ERR_OVF, 32), (F.CAP_ERR_NOROOM, 32), (F.CAP_RECS_COUNT, 32), (F.REF_CNT_FREEZES, 8), (F.REF_CNT_DISCARDS, 8)]

def counterFlds2 : List (Fld × Nat) :=
  [(F.REF_CNT_CYCLES, 8), (F.REF_ERR_LOST, 8), (F.REF_ERR_ECC, 8), (F.CAR_PWR_ABORTS, 1), (F.CAR_PWR_BOUNCES, 1), (F.CAR_ECC_CE, 1), (F.CAR_ECC_UE, 1), (F.CAR_RH_STAT_THROTTLES, 1), (F.CAR_RH_STAT_FORCED, 1), (F.CAR_RH_PROB_COUNT, 1), (F.CAR_PORT_LAT_OVER400, 72), (F.CAR_PORT_EVT_DL_MISS, 72), (F.CAR_PORT_EVT_THROTTLED, 72), (F.PAN_ERR_CE, 16), (F.PAN_ERR_UE, 16), (F.PAN_COLL_COUNT, 16), (F.PAN_CONF_COUNT, 9), (F.PAN_MBIST_STAT_YIELDS, 1), (F.BRN_NOTE_XCNT, 128), (F.BRN_ERR_OVERSIZE, 128)]

def counterFlds3 : List (Fld × Nat) :=
  [(F.BRN_ERR_PTR, 128), (F.BRN_ERR_ABANDON, 128), (F.BRN_ERR_TRUNC, 128), (F.BRN_EVT_EMPTY_RD, 128), (F.BRN_EVT_ECC, 128), (F.FLM_OL_EVT_HOLDS, 16), (F.FLM_OL_FRAMES_COUNT, 16), (F.FLM_IL_ERR_CRC, 8), (F.FLM_IL_ERR_SEQGAP, 8), (F.FLM_IL_ERR_CTMIS, 8), (F.FLM_IL_ERR2_LOSSES, 8), (F.FLM_IL_ERR2_ECHO, 8), (F.FLM_IL_ERR2_DRIFTS, 8), (F.FLM_IL_ERR2_ISOLATIONS, 8), (F.FLM_IL_FRAMES_COUNT, 8), (F.RAKE_ERR_PIN_CONFLICT, 1), (F.RAKE_ERR_NOROUTE, 1), (F.RAKE_ERR_EV_LATE, 1), (F.RAKE_ERR_EV_DROP, 1), (F.RAKE_P_ERR_BAD, 4)]

def counterFlds4 : List (Fld × Nat) :=
  [(F.RAKE_P_ERR_LOSSES, 4), (F.RAKE_P_ERR_ISOLATIONS, 4), (F.RAKE_P_ERR2_SIDE_DROP, 4), (F.RAKE_P_ERR2_RAIL_CONFLICT, 4), (F.RAKE_P_ERR2_AGE_OVF, 4), (F.RAKE_P_ERR2_HOPS_DROP, 4), (F.RAKE_P_CELLS_COUNT, 4), (F.RAKE_RSTAT_LATE, 16), (F.RAKE_RSTAT_HIGHFIX, 16), (F.HST_ERR_BAR2_DISC, 1), (F.HST_ERR_FRAME, 1), (F.HST_ERR_LOSSES, 1), (F.HST_ERR2_BAR2_UE, 1), (F.HST_ERR2_DMA, 1), (F.HST_BYTES_COUNT, 1), (F.CLK_EVT_LOSSES, 1), (F.CLK_EVT_UNLOCKS, 1), (F.CLK_EVT_RETURNS, 1), (F.NVM_ERR_ABANDONED, 1), (F.NVM_ERR_CHECKFAIL, 1)]

def counterFlds5 : List (Fld × Nat) :=
  [(F.LOG_EV_NOTE_XCNT, 1), (F.LOG_EV_DROP_DROPPED, 1), (F.LOG_EV_OVW_COUNT, 1), (F.LOG_EV_TOTAL_COUNT, 1), (F.LOG_AUD_STAT_SKIPPED, 1), (F.PWR_EVT_PF, 1), (F.PWR_EVT_THERM, 1), (F.PWR_ENERGY_MJ, 1), (F.RSRC_LT_CNT_K, 8), (F.PLY_ENTRIES_COUNT, 64), (F.CHN_SAMPLES_COUNT, 256), (F.CAR_BYTES_RD_V, 4), (F.CAR_BYTES_WR_V, 4), (F.GLB_SNAP_SEQ, 1)]

/-- The counters of the device with their number of units: saturating, modulo and 64-bit (R391). -/
def counterFlds : List (Fld × Nat) := counterFlds0 ++ counterFlds1 ++ counterFlds2 ++ counterFlds3 ++ counterFlds4 ++ counterFlds5

def snapPairs0 : List (Fld × Fld × Nat) :=
  [(F.GLB_TICK_TICK, F.GLB_TICK_SNAP_TICK, 1), (F.RSRC_RAIL_RAIL, F.RSRC_RAIL_SNAP_RAIL, 64), (F.RSRC_LT_CNT_K, F.RSRC_LT_CNT_SNAP_K, 8), (F.PLY_ENTRIES_COUNT, F.PLY_ENTRIES_SNAP_COUNT, 64), (F.CHN_SAMPLES_COUNT, F.CHN_SAMPLES_SNAP_COUNT, 256), (F.CAP_RECS_COUNT, F.CAP_RECS_SNAP_COUNT, 32), (F.CAR_RH_PROB_COUNT, F.CAR_RH_PROB_SNAP_COUNT, 1), (F.FLM_OL_FRAMES_COUNT, F.FLM_OL_FRAMES_SNAP_COUNT, 16), (F.FLM_IL_FRAMES_COUNT, F.FLM_IL_FRAMES_SNAP_COUNT, 8), (F.RAKE_P_CELLS_COUNT, F.RAKE_P_CELLS_SNAP_COUNT, 4), (F.RAKE_RAIL_X, F.RAKE_RAIL_SNAP_X, 16), (F.HST_BYTES_COUNT, F.HST_BYTES_SNAP_COUNT, 1), (F.LOG_EV_TOTAL_COUNT, F.LOG_EV_TOTAL_SNAP_COUNT, 1), (F.PWR_ENERGY_MJ, F.PWR_ENERGY_SNAP_MJ, 1), (F.CAR_BYTES_RD_V, F.CAR_BYTES_RD_SNAP_V, 4), (F.CAR_BYTES_WR_V, F.CAR_BYTES_WR_SNAP_V, 4)]

/-- 64-bit values of one field, each with its holding pair and the number of units (R43). -/
def snapPairs : List (Fld × Fld × Nat) := snapPairs0

end Sys2Proof.Machine
end

