-- ==== Sys2Proof/Machine/Crc.lean ====
section
/-! DEFINITION. CRC-32C and the words of an audit entry (R309, R386). -/

namespace Sys2Proof.Machine

/-! ### CRC-32C (R309) -/

/-- One bit of the reflected CRC-32C register, polynomial 0x1EDC6F41 (reflected 0x82F63B78). -/
def crcBit (c : Nat) : Nat := if c % 2 == 1 then (c / 2) ^^^ 0x82F63B78 else c / 2

/-- One byte taken into the register. -/
def crcByte (c b : Nat) : Nat := crcBit (crcBit (crcBit (crcBit (crcBit (crcBit (crcBit (crcBit (c ^^^ b))))))))

/-- One word, least significant byte first. -/
def crcWord (c v : Nat) : Nat :=
  crcByte (crcByte (crcByte (crcByte c (v % 256)) (v / 256 % 256)) (v / 65536 % 256)) (v / 16777216 % 256)

/-- CRC-32C over words: initial value all ones, result complemented. -/
def crc32c (ws : List Nat) : Nat := (ws.foldl crcWord 0xFFFFFFFF) ^^^ 0xFFFFFFFF

/-- The words 0 to 14 of an audit entry and its CRC (R386). -/
def auditWords (kind seq ct addr : Nat) (chain bar0 : Nat) (src o tag batch members : Nat) (per : List Nat) : List Nat :=
  let w := [kind * 2 ^ 24 + chain * 2 ^ 17 + bar0 * 2 ^ 16 + 1, seq, ct % 2 ^ 32, ct / 2 ^ 32 % 2 ^ 32,
    addr * 2 ^ 20 + src * 2 ^ 8 + o, tag, batch * 2 ^ 16 + members] ++ (per ++ List.replicate 8 0).take 8
  w ++ [crc32c w]

end Sys2Proof.Machine
end

