-- ==== Sys2Proof/Machine/State.lean ====
section
/-! DEFINITION. The state of the module as plain data: the register store, the memories, the units' own state that no
register shows, and the queue of waiting commands. -/

namespace Sys2Proof.Machine

/-- A sparse table: ascending keys, one entry a key. -/
abbrev Tab (α : Type) := List (Nat × α)

/-! ### Replies and commands in progress -/

/-- Bits of a register that were written for the coming tick: the tick, the address of the register, the writer's rank,
the bits (R32, R46, R59). The rank is twice the origin code, and one more for an access through BAR0, which acts after the ring packets of its
origin (R295); 15 is a step's entry. -/
structure Wrote where
  tick : Nat
  reg : Nat
  rank : Nat
  mask : Nat
  deriving DecidableEq, Repr

/-- A reply (R307): opcode, tag, status, detail, RESPONDER, CT, the flags of word 0 and the data words. -/
structure Reply where
  opcode : Nat
  tag : Nat
  status : Nat
  detail : Nat
  responder : Nat
  ct : Nat
  crc : Bool
  final : Bool
  pend : Bool
  dup : Bool
  data : List Nat
  deriving DecidableEq, Repr

/-- An entry of a tag window (R310): PENDING until its final reply is held. -/
structure TagEnt where
  tag : Nat
  opcode : Nat
  done : Bool
  job : Nat
  reply : Option Reply
  deriving DecidableEq, Repr

/-- The tag window of an origin, or of one sending module for CHAIN (R310, R313). -/
structure Win where
  seen : Bool
  h : Nat
  ents : List TagEnt
  deriving DecidableEq, Repr

/-- A command that has been accepted and has not completed: where its final reply goes (R314, R315). -/
structure Job where
  id : Nat
  org : Nat
  src : Nat
  tag : Nat
  opcode : Nat
  unit : Nat
  path : Path
  want : Bool
  crc : Bool
  batch : Nat
  member : Bool
  dup : Bool
  deriving DecidableEq, Repr

/-- What leaves the module toward the host, the peers and the balls, oldest first. -/
inductive Out where
  | reply (path : Path) (org : Nat) (r : Reply)
  | msix (vec : Nat)
  | hostWrite (ring : Nat) (kind : Nat) (value : Nat)
  | xferDone (ring : Nat) (status : Nat) (result : Nat) (cookie : Nat) (data : List Nat)
  | bar2Data (data : List Nat)
  | notice (vec ct : Nat)
  | cell (port index : Nat) (data : List Nat) (crc : Nat)
  | frame (lane seq ctLo cmd pat mark : Nat) (slots : List Nat) (crc : Nat)
  deriving DecidableEq, Repr

/-- A batch in the making or staged (R44, R45): its members are packets, in accepted order. -/
structure Batch where
  org : Nat
  src : Nat
  id : Nat
  members : List Pkt
  words : Nat
  lastTick : Nat
  deriving DecidableEq, Repr

/-- A staged batch: its commit's job, its commit tick (0: at once), whether AT_CT had passed, when staging completes. -/
structure Staged where
  batch : Batch
  job : Nat
  tag : Nat
  atCt : Nat
  ready : Bool
  late : Bool
  stageBy : Nat
  deriving DecidableEq, Repr

/-! ### Segments, players -/

/-- A segment descriptor (R76) and a pin copy or unpin in progress (R424: the job, and whether it is an unpin). -/
structure Seg where
  state : Nat
  width : Nat
  cpair : Bool
  locks : Nat
  lenG : Nat
  base : Nat
  markBase : Nat
  markCount : Nat
  loads : Nat
  pin : Option (Nat × Bool)
  deriving DecidableEq, Repr

/-- A segment whose descriptor reads as zeros: ABSENT. -/
def Seg.absent : Seg := ⟨0, 0, false, 0, 0, 0, 0, 0, 0, none⟩

/-- Where frames come from: a segment, or a packet in queue storage (queue, word pointer of its header, frames). -/
inductive Src where
  | seg (i : Nat)
  | pkt (q start frames : Nat)
  deriving DecidableEq, Repr

/-- A stream packet whose header has been accepted (R128): index pointer, word pointer, header fields. -/
structure SPkt where
  idx : Nat
  start : Nat
  frames : Nat
  rep : Nat
  rate : Nat
  w3 : Nat
  mark : Nat
  last : Bool
  seq : Nat
  deriving DecidableEq, Repr

/-- The successor chosen at a decision tick (R92): none (play goes on past a granule), the next iteration, a step, the
next packet, END, or play on from a PHASE value at a granule boundary. -/
inductive Succ where
  | stay
  | iter
  | step (n : Nat)
  | packet
  | done
  | cont (pos : Nat)
  deriving DecidableEq, Repr

/-- A decision taken at a boundary: its frame, its tick T_B, the successor and its candidate code, the entry position in rail
units, whether the overshoot carries, whether the boundary is held for lateness, the event line used, the lines deferred, whether a
JUMP was used, and the PHASE request used. -/
structure Dec where
  b : Nat
  tb : Nat
  succ : Succ
  code : Nat
  pos : Nat
  carry : Bool
  late : Bool
  te : Option Nat
  evUsed : Option Nat
  deferred : List Nat
  jumpUsed : Bool
  phase : Option Nat
  deriving DecidableEq, Repr

/-- A wait in progress (R96 to R98): T_E, the waited step (or the next packet), the entry position that a PHASE request
gave, the decision tick that chose it (none for a start), the lines deferred then, and the release: its reference tick,
its registration tick, whether the wait's own line made it, and its target. -/
structure Wait where
  te : Nat
  target : Succ
  pos : Option Nat
  tb : Option Nat
  deferred : List Nat
  rel : Option (Nat × Nat × Bool × Succ)
  deriving DecidableEq, Repr

/-- A pending start (R115). -/
structure StartP where
  src : Nat
  evt : Nat
  eff : Nat
  ts : Option Nat
  ct : Option Nat
  job : Option Nat
  late : Bool
  deriving DecidableEq, Repr

/-- A STOP, HOLD or RESUME that acts in a tick and is answered at its end, because an earlier action of that tick makes it void (R113):
its tick, its place in the order, the job that waits, whether it came as a register write, and what stood before it: HELD_FROM,
and whether the player's channels ramped. -/
structure Act where
  tick : Nat
  rank : Nat
  job : Option Nat
  reg : Bool
  from_ : Nat
  ramp : Bool
  deriving DecidableEq, Repr

/-- The part of a player's state that no register shows. -/
structure Ply where
  dec : Option Dec
  ready : Tab Nat
  evReg : Tab Nat
  jump : Option (Nat × Nat × Nat)
  phase : Option (Nat × Nat)
  skip : Option (Nat × Nat)
  hist : List (Nat × Nat × Nat)
  redo : List (Nat × Nat)
  front : Nat
  far : Int
  wait : Option Wait
  hold : Option (List Nat × List Nat)
  needF : Option Int
  start : Option StartP
  arm : Option (Option Nat × Nat)
  ringLo : Int
  ringHi : Int
  reqs : Nat
  locks : List Nat
  ramp : Bool
  ended : Bool
  starveTb : Option Nat
  lastPlayed : Nat
  ent : Int
  starveRel : Option Nat
  lateRev : Bool
  anchor : Bool
  starveMin : Nat
  resumedAt : Option Nat
  cur : Option SPkt
  nxt : Option SPkt
  lastSeq : Option Nat
  eccUnits : List Nat
  marks : List (Nat × Nat)
  pkts : List Nat
  iter : Nat
  cache : Tab (List Nat)
  acts : List Act
  stale : Bool
  badBuf : List (Bool × Src × Nat)
  deriving DecidableEq, Repr

/-- A player after WAKE. -/
def Ply.fresh : Ply :=
  { dec := none, ready := [], evReg := [], jump := none, phase := none, skip := none, hist := [], redo := [], front := 1, far := 0,
    wait := none, hold := none, needF := none, start := none, arm := none, ringLo := 0, ringHi := 0, reqs := 0, locks := [],
    ramp := false, ended := false, starveTb := none, lastPlayed := 0, ent := 0, starveRel := none, lateRev := false, anchor := false, starveMin := 0, resumedAt := none, cur := none,
    nxt := none, lastSeq := none, eccUnits := [], marks := [], pkts := [], iter := 0, cache := [], acts := [], stale := false, badBuf := [] }

/-- What the sequencer tells the learning lanes in a tick (R106, R184, R190): player, the step and iteration left
forward when the step has LEARN, the step and iteration entered, whether forward, the decision tick (none where no
decision chose the entry), whether it is the start, the tick. -/
structure SeqEv where
  p : Nat
  rep : Option (Nat × Nat)
  step : Nat
  iter : Nat
  forward : Bool
  tb : Option Nat
  start : Bool
  te : Nat
  deriving DecidableEq, Repr

/-- A trigger-source edge on its way to registration (R89): source code, rising or falling, reference quarter tick,
registration tick. -/
structure Trig where
  src : Nat
  rising : Bool
  rq : Nat
  reg : Nat
  deriving DecidableEq, Repr

/-! ### Rails, encoders, trackers -/

/-- A rail unit beside its registers: whether the next evaluation anchors (R54), the scale in force before writes of the
coming tick, the actions of R57 that the coming tick performs, the load target of a TIME rail, the input held while
its source is lost (R72). -/
structure Rail where
  anchor : Bool
  oldScale : Option Nat
  reanchor : Bool
  load : Option Nat
  tl : Option Nat
  heldX : Option Nat
  deriving DecidableEq, Repr

def Rail.fresh : Rail := ⟨false, none, false, none, none, none⟩

/-- A chain rail (R68): whether an update has been applied, V, R, T_S, the apply tick t0 and the correction e, and the
value held while it is LOST. -/
structure ChRail where
  seen : Bool
  v : Int
  r : Int
  ts : Nat
  t0 : Nat
  e : Int
  held : Nat
  deriving DecidableEq, Repr

def ChRail.fresh : ChRail := ⟨false, 0, 0, 0, 0, 0, 0⟩

/-- What an encoder port has accepted and not yet acted on: A and B with the SINCOS phase, Z, a position of SSI with the tick of its
frame's first clock edge (R61, R62, R71). -/
inductive EncEv where
  | ab (a b : Bool) (phase : Nat)
  | z (level : Bool)
  | word (w start : Nat)
  deriving DecidableEq, Repr

/-- An encoder port (R61 to R63): the accepted levels, the SINCOS phase, the consecutive bad SSI frames, the start and
end of the last SSI frame, whether one is under way, the last good SSI word and the start of its frame; the changes on their way to the
position, in the order of the ball (quarter tick, tick in which they act), and the level of Z that the last of them leaves. -/
structure Enc where
  a : Bool
  b : Bool
  z : Bool
  phase : Nat
  ssiBad : Nat
  ssiStart : Option Nat
  ssiEnd : Option Nat
  ssiBusy : Bool
  ssiLast : Option Nat
  ssiVal : Option Nat
  evs : List (Nat × Nat × EncEv)
  zIn : Bool
  deriving DecidableEq, Repr

def Enc.fresh : Enc := ⟨false, false, false, 0, 0, none, none, false, none, none, [], false⟩

/-- A line tracker (R64 to R66): the last pulse's quarter tick, the intervals of the mean (newest first), whether the
last pulse was real, the misses since the last real edge, the SLEW correction e, the edges on their way to the tracker (their quarter
ticks, ascending), the level of its zero-crossing comparator. -/
structure Trk where
  seen : Bool
  qk : Nat
  ivs : List Nat
  misses : Nat
  real : Bool
  e : Int
  evs : List Nat
  cmp : Bool
  deriving DecidableEq, Repr

def Trk.fresh : Trk := ⟨false, 0, [], 0, false, 0, [], false⟩

/-! ### Channels -/

/-- A sample in a channel's pipeline (R139, R140, R156): its sample tick, the configuration it entered with, the words of
its window and of its correction window, the fraction, whether its source is PLAY, ramp or REST (0, 1, 2), whether it is
the first of its configuration, the number of the enable that it belongs to with the coefficients, the seed and the latency that came with it,
whether the channel still drives a DAC, and the value that the stages pass on. -/
structure Samp where
  t0 : Nat
  ctl : Nat
  dest : Nat
  rest : Nat
  rq : Nat
  ws : List Nat
  cs : List Nat
  u : Nat
  kind : Nat
  first : Bool
  gen : Nat
  coef : List (List Nat)
  seed : Nat
  lat : Nat
  drv : Bool
  v : Int
  deriving DecidableEq, Repr

/-- The configuration a channel latched at its last accepted enable (R156), its filters, limiter, requantiser, the
samples in its pipeline and the words of its latest samples. `gen` counts its accepted enables; `oldPend`, `oldCal`, `g2` and `o2` are the
pending coefficients, the calibration, the gain and the offset of the samples that entered before the last one. -/
structure Chn where
  everOn : Bool
  ctl : Nat
  dm1 : Nat
  offset : Nat
  dest : Nat
  rest : Nat
  rq : Nat
  seed : Nat
  newCoef : List (List Nat)
  first : Bool
  coef : List (List Nat)
  coefPend : Tab (List Nat)
  oldPend : Tab (List Nat)
  gen : Nat
  oldCal : Int × Int
  g : Int
  o : Int
  g2 : Int
  o2 : Int
  hist : List (List Int)
  p1 : Int
  v1 : Int
  z1 : Int
  lfsr : Nat
  e1 : Int
  e2 : Int
  ramping : Bool
  limFlags : Nat
  pipe : List Samp
  lastT : Option Nat
  word : Nat
  deriving DecidableEq, Repr

/-- A channel before its first enable: the reset values of its registers are what it would latch. -/
def Chn.fresh : Chn :=
  { everOn := false, ctl := 2, dm1 := 7, offset := 0, dest := 0, rest := 0, rq := 0x80000018, seed := 1,
    newCoef := List.replicate 4 [0x40000000, 0, 0, 0, 0], first := false,
    coef := List.replicate 4 [0x40000000, 0, 0, 0, 0], coefPend := [], oldPend := [], gen := 0, oldCal := (0x40000000, 0),
    g := 0x40000000, o := 0, g2 := 0x40000000, o2 := 0,
    hist := List.replicate 4 [0, 0, 0, 0], p1 := 0, v1 := 0, z1 := 0,
    lfsr := 1, e1 := 0, e2 := 0, ramping := false, limFlags := 0, pipe := [], lastT := none, word := 0 }

/-! ### Queues -/

/-- A brine queue's state beside its pointers (R234): the rewind mark, the open packet's words and its transfer ring,
whether the packet's rest is being discarded, the claims, whether the head is held and its successor decided, the
index pointers of packets dropped behind a held one, and the packet the holding player recorded. -/
structure Queue where
  m : Nat
  opened : Bool
  words : Nat
  ring : Option Nat
  rewound : Option Nat
  writer : Option Nat
  reader : Option Nat
  held : Bool
  decided : Bool
  dropped : List Nat
  safe : Bool
  deriving DecidableEq, Repr

def Queue.fresh : Queue := ⟨0, false, 0, none, none, none, none, false, false, [], false⟩

/-! ### Capture and demodulation -/

/-- What the history of R164 and R183 keeps of a player in a tick: rail, position, step, iteration, `MARK_RAW`,
`MARK_OUT`. -/
structure HEnt where
  rail : Nat
  pos : Int
  step : Nat
  iter : Nat
  raw : Nat
  out : Nat
  deriving DecidableEq, Repr

def HEnt.zero : HEnt := ⟨0, 0, 0, 0, 0, 0⟩

/-- An input record of a capture unit (R165, R167): what orders it (its ball tick, or the number of a demodulator's output), its ball
tick, the ball CT of its lowest member, the tick in which its gate is decided, the words of the members that have answered (none where a
member supplies no word), whether it is a bad in-lane frame's, whether its in-lane relocks (R178), and the tag that a demodulator
latched. -/
structure Rec where
  key : Nat
  b : Nat
  ct : Nat
  due : Nat
  parts : List (Nat × List Nat)
  bad : Bool
  miss : Bool
  tag : Option HEnt
  deriving DecidableEq, Repr

/-- What stands in a capture unit's staging (R171): the opening of a packet, words of its records, or its end with the header (SEQ
aside), the number of its records and the records lost before it. -/
inductive CapItem where
  | mark
  | data (ws : List Nat)
  | done (hdr : List Nat) (recs lost : Nat)
  deriving DecidableEq, Repr

/-- A capture unit beside its registers: records not yet decided, the 16 most recent start and stop edges (newest first:
whether a start, the reference tick), whether one has left that list, the gate of the latest record, the ONE_SHOT start,
the group being decimated (records taken, word values or sums, first ball CT, tag tick, latched tag), the open packet
(its number of records, first CT, first tag, arrival of its first record), the records lost since the last packet, the
packet sequence number, an episode without room, the queue of the enable, the staging in PAN13 that has not moved to the queue with the
next word of its 8 KiB, the items that the unit's request at port 64 covers, and a disable not yet committed. -/
structure Cap where
  pend : List Rec
  edges : List (Bool × Nat)
  edgeOvf : Bool
  gate : Bool
  shot : Bool
  n : Nat
  sums : List Int
  ct0 : Nat
  tagTick : Nat
  tag : Option Nat
  isOpen : Bool
  recs : Nat
  pct0 : Nat
  ptag0 : Nat
  born : Nat
  lost : Nat
  seq : Nat
  episode : Bool
  q : Nat
  stage : List CapItem
  sp : Nat
  asked : Option Nat
  closing : Bool
  deriving DecidableEq, Repr

def Cap.fresh : Cap :=
  { pend := [], edges := [], edgeOvf := false, gate := false, shot := false, n := 0, sums := [], ct0 := 0, tagTick := 0,
    tag := none, isOpen := false, recs := 0, pct0 := 0, ptag0 := 0, born := 0, lost := 0, seq := 0,
    episode := false, q := 0, stage := [], sp := 0, asked := none, closing := false }

/-- A demodulator beside its registers: R_A, the values of `PHASE` with the ticks from which they act (newest first), the integrators
and combs of I and Q, the CIC outputs of the FIR (newest first), the latched references by input index and ball CT, outputs since the
last restart, inputs since the last overrange, and the output waiting for its tick with its number. -/
structure Dmd where
  ra : Nat
  phases : List (Nat × Nat)
  intI : List Int
  intQ : List Int
  combI : List Int
  combQ : List Int
  firI : List Int
  firQ : List Int
  latch : List (Nat × Nat × HEnt)
  outs : Nat
  ovr : Option Nat
  next : Option (Nat × Int × Int × Nat × Bool × HEnt)
  deriving DecidableEq, Repr

def Dmd.fresh : Dmd := ⟨0, [], [0, 0, 0, 0], [0, 0, 0, 0], [0, 0, 0, 0], [0, 0, 0, 0], [], [], [], 0, none, none⟩

/-- A measured word for the learning lanes: source codes of R165, ball tick, value (R183). -/
structure Meas where
  kind : Nat
  unit : Nat
  mem : Nat
  b : Nat
  x : Int
  deriving DecidableEq, Repr

/-- A learning lane beside its registers (R184 to R194): the collected step and iteration, T_0, T_x, the tick from which
the close delay counts when the player left, the words waiting, the previous word's position, value and ball tick, the
recorded range, whether the source was unavailable, the PLAY samples' limit flags; the passes to run (0 update, 1 copy, 2 zero; the first
runs), its start, the law it read, the tick from which the lane collects or runs passes, whether the collection is discarded; the freeze
requested for this cycle (1 KEEP, 2 ZERO), RMS_prev, the pair for which a pass has completed since its last swap, the tick of the last
completion. -/
structure Lane where
  step : Nat
  iter : Nat
  t0 : Nat
  tx : Option Nat
  left : Option Nat
  words : List (Nat × Int × Int)
  prev : Option (Int × Int × Nat)
  rng : Option (Nat × Nat)
  lostSrc : Bool
  lims : List (Nat × Bool)
  passes : List Nat
  pstart : Nat
  law : List Int
  busyAt : Nat
  discard : Bool
  freeze : Nat
  rmsPrev : Option Nat
  donePass : Option Nat
  lastDone : Nat
  deriving DecidableEq, Repr

def Lane.fresh : Lane :=
  { step := 0, iter := 0, t0 := 0, tx := none, left := none, words := [], prev := none, rng := none,
    lostSrc := false, lims := [], passes := [], pstart := 0, law := [], busyAt := 0, discard := false, freeze := 0, rmsPrev := none,
    donePass := none, lastDone := 0 }

/-- A conversion on its way to its consumers: ADC, tick in which it becomes available, code, overrange, whether it is delivered (R162). -/
structure AdcW where
  i : Nat
  avail : Nat
  code : Int
  ovr : Bool
  dlv : Bool
  deriving DecidableEq, Repr

/-- A request at a Carafe port (R201 to R204): port, whether it writes, byte address, bytes, entry tick, deadline tick,
whether its deadline has been counted as missed, the client behind the port that waits for it (0 for none), and the channels that have
issued their part of it. -/
structure CarReq where
  port : Nat
  wr : Bool
  addr : Nat
  len : Nat
  born : Nat
  deadline : Option Nat
  missed : Bool
  client : Nat
  done : List Nat
  deriving DecidableEq, Repr

/-- A bank: its open row, the tick of the last access to it and `PAGE_IDLE` as that access found it (R206), the blocks of the open row whose
check bytes its check cache holds (R198), and the tracker of R209 (row, activates in the window). -/
structure CarBank where
  row : Option Nat
  used : Nat
  idle : Nat
  chk : List Nat
  trk : List (Nat × Nat)
  deriving DecidableEq, Repr

def CarBank.fresh : CarBank := ⟨none, 0, 0, [], []⟩

/-- The Carafe controller beside its registers: requests waiting in their channels' queues, reads issued and not yet
returned, requests held at their ports by the power state (R212), the banks (channel·16 + bank), the generator of R210
and the neighbour refreshes that wait (bank key, row, activates of the bank since, whether of R209's threshold), the throttled rows (bank
key, row) and the bulk activates in the window (port, bank key, row, tick), refreshes pulled in, the bank due for refresh and the time from
which the next refresh is due (hundredths of a tick) by channel, the start of the activate window, the last request, the units on R214's
list (newest first), blocks to write back, the unit that a patrol pass reads next and the start of the last pass, the tick of the last
drift adjustment, the byte lanes' delays, and the DRAM temperatures by channel in 1/16 °C. -/
structure Car where
  reqs : List CarReq
  flight : List CarReq
  held : List CarReq
  banks : Tab CarBank
  lfsr : Nat
  nbr : List (Nat × Nat × Nat × Bool)
  thr : List (Nat × Nat)
  thrUse : List (Nat × Nat × Nat × Nat)
  ahead : Tab Nat
  nextBank : Tab Nat
  refAt : Tab Nat
  rhAt : Nat
  lastReq : Nat
  ueList : List Nat
  wbs : List Nat
  scrub : Option Nat
  scrubAt : Nat
  driftAt : Nat
  delays : List Int
  temps : List Int
  deriving DecidableEq, Repr

/-- The controller after training. -/
def Car.fresh : Car :=
  { reqs := [], flight := [], held := [], banks := [], lfsr := 1, nbr := [], thr := [], thrUse := [], ahead := [],
    nextBank := [], refAt := [], rhAt := 0, lastReq := 0, ueList := [], wbs := [], scrub := none, scrubAt := 0, driftAt := 0,
    delays := [0, 0, 0, 0, 0, 0, 0, 0], temps := [0, 0, 0, 0] }

/-- The pans beside their registers: handovers waiting (pan, whether of port B, the new owner), held transfers by pan that
wake (R227), the slice the background test holds (pan, slice) and the slice it visits next, the tick of the last visit. -/
structure PanX where
  hand : List (Nat × Bool × Nat)
  slice : Option (Nat × Nat)
  cursor : Nat
  visited : Nat
  found : List Nat
  broken : Bool
  deriving DecidableEq, Repr

def PanX.fresh : PanX := ⟨[], none, 0, 0, [], false⟩

/-- Calibration that no register shows (R158, R162, R370, R372): trim and latency of each DAC, latency of the GP pads, timestamp offsets of
encoder ports (0 to 7) and GP inputs (8 to 23), the calibration of each ADC as measured (its form is not stated). -/
structure Cal where
  dacGain : Tab Nat
  dacOff : Tab Nat
  dacLat : Tab Nat
  gpLat : Nat
  inOff : Tab Int
  adc : Tab Int
  deriving DecidableEq, Repr

/-- Calibration with every trim neutral and every latency 0 (assumption 14). -/
def Cal.fresh : Cal := ⟨[], [], [], 0, [], []⟩

/-- An out-lane beside its registers (R251, R253, R257): the slots' words, the slots assigned since its enable and those of
DOUBLE pairs, the pattern word, frames sent since TRAIN, whole superframes sent in the present state and whether the present
superframe began in it, frames with HOLD = 1 sent, the message of the present superframe, the last four superframes' CT
and departure (quarter ticks), the tick of the last frame. -/
structure OLane where
  slots : Tab Nat
  valid : Nat
  dbl : Nat
  pat : Nat
  patOn : Bool
  seq : Nat
  sf : Nat
  whole : Bool
  holds : Nat
  msg : Nat
  sent : List (Nat × Nat)
  lastT : Option Nat
  deriving DecidableEq, Repr

def OLane.fresh : OLane := ⟨[], 0, 0, 0, false, 0, 0, false, 0, 0, [], none⟩

/-- The lock of an in-lane's receiver (R248): block lock with the headers, and the invalid ones, of the count that runs; blocks since the
last reference header; superframe lock with the reference headers seen and missed in a row; whether the last header was invalid. -/
structure ILock where
  blk : Bool
  n : Nat
  bad : Nat
  pos : Nat
  sf : Bool
  seen : Nat
  miss : Nat
  hbad : Bool
  had : Bool
  deriving DecidableEq, Repr

def ILock.fresh : ILock := ⟨false, 0, 0, 0, false, 0, 0, false, false⟩

/-- An in-lane beside its registers (R261 to R263): its receiver's lock; consecutive bad frames, frames since the last good one with that
frame's CT_LO and SEQ, its words; the index of the present frame in its superframe, the message bits so far and whether every frame of the
superframe was good, the last whole message (R255); whether a message has been applied, the round trips of MEASURE, consecutive round
trips that depart, the ticks of the losses of the last second, whether it relocks after a loss in RUN (R178). -/
structure ILane where
  lock : ILock
  bad : Nat
  since : Nat
  ctLo : Option Nat
  seq : Nat
  words : List Nat
  j : Nat
  bits : Nat
  sfOk : Bool
  msg : Option Nat
  seen : Bool
  rts : List Nat
  drift : Nat
  losses : List Nat
  relock : Bool
  deriving DecidableEq, Repr

def ILane.fresh : ILane := ⟨ILock.fresh, 0, 0, none, 0, [], 0, 0, false, none, false, [], 0, [], false⟩

/-! ### The Rake tree -/

/-- A record of R271 on its way: kind (0 event, 1 rail, 2 HIGH), event or rail number, whether a pulse, T_R or T_S in
ticks of CT, V_LO or V_HI, the rate, and the CT tick from which it may leave. -/
structure RkRec where
  kind : Nat
  id : Nat
  pulse : Bool
  t : Nat
  v : Nat
  r : Nat
  ready : Nat
  deriving DecidableEq, Repr

/-- A module of a subtree (R276): its path from the module that holds the entry, its depth below it, its pin, and the sum
of hop delay + 600 ns over the hops to it, in 1/256 tick (R279). -/
structure RkEntry where
  path : Nat
  depth : Nat
  pin : Nat
  dsum : Nat
  deriving DecidableEq, Repr

/-- The side packet that a port receives (R284): payload bytes of this superframe and whether one of its cells was bad; the bytes since START,
whether a packet has begun, whether it has a bad cell; the packets received whole. -/
structure RkSide where
  pay : List Nat
  cellBad : Bool
  buf : List Nat
  begun : Bool
  bad : Bool
  whole : List (Bool × List Nat)
  deriving DecidableEq, Repr

def RkSide.fresh : RkSide := ⟨[], false, [], false, false, []⟩

/-- A Rake port beside its registers (R272 to R278, R284): consecutive bad cells, good cells 0 of ALIGN, the ticks of the
losses of the last second, measurements since MEASURE, the last θ and delays (newest first), CT and stamp of the last
cell 0 received, CT fields sent (newest first), the tick of the join, records waiting by kind, side packets waiting with their source, the source last served, the
bytes left of the packet being sent and whether it has begun, this superframe's payload and control byte, the child's
subtree, the tick of the last cell sent, the cell that is received next (in ALIGN the cells since the last K28.5), the side packet that
comes in. -/
structure RkPort where
  badRun : Nat
  goods : Nat
  losses : List Nat
  meas : Nat
  thetas : List Int
  delays : List Int
  rxCt : Nat
  rxStamp : Nat
  sent : List Nat
  joinAt : Nat
  evQ : List RkRec
  railQ : List RkRec
  highQ : List RkRec
  sideOut : List (Nat × List Nat)
  lastSrc : Nat
  tx : List Nat
  txOn : Bool
  pay : List Nat
  payCtl : Nat
  report : List RkEntry
  lastTx : Option Nat
  cell : Nat
  rx : RkSide
  deriving DecidableEq, Repr

def RkPort.fresh : RkPort :=
  { badRun := 0, goods := 0, losses := [], meas := 0, thetas := [], delays := [], rxCt := 0, rxStamp := 0, sent := [],
    joinAt := 0, evQ := [], railQ := [], highQ := [], sideOut := [], lastSrc := 0, tx := [], txOn := false, pay := [], payCtl := 0,
    report := [], lastTx := none, cell := 0, rx := RkSide.fresh }

/-- A forwarded or broadcast command that waits for its replies (R285, R323, R325): forward tag, job on this module, the tick at
which it times out, whether it is a broadcast, the addresses that have replied, whether the summary has been written. -/
structure Fwd where
  tag : Nat
  job : Job
  due : Nat
  bcast : Bool
  from_ : List Nat
  done : Bool
  deriving DecidableEq, Repr

/-- The Rake block beside its registers: whether RK_UP has ever joined, the tick of the enable, the end of the steering
freeze, acts that wait (pulse, ID, act tick) and acts known (pulse, ID, T_R), fences by first superframe (newest first) and the one pending,
whether a CT load is requested, the superframes that carry CT_STEP and HOLD_STEER, the island's offset that waits, the tick
of the last change heard, the running assignment (full or not) and the jobs that wait for it, the addresses assigned
(path, depth, address, pinned), the routes (address, port), rail updates and HIGH records that wait, the source port of each
rail, each published rail's last updates (T_S, V), the superframe that the parent announces for its fence change, the forward tags used and
the commands forwarded. -/
structure Rake where
  everJoined : Bool
  enabledAt : Nat
  steerUntil : Option Nat
  acts : List (Bool × Nat × Nat)
  known : List (Bool × Nat × Nat)
  fences : List (Nat × Nat)
  fencePend : Option (Nat × Nat)
  ctLoad : Bool
  stepSf : Option Nat
  steerSf : List Nat
  islandO : Option Int
  change : Option Nat
  enumJobs : List Nat
  enumFull : Bool
  assigned : List (Nat × Nat × Nat × Bool)
  routes : Tab Nat
  updates : List RkRec
  highs : List RkRec
  srcPort : Tab Nat
  lastPub : Tab (List (Nat × Nat))
  fenceSf : Option Nat
  fwdTag : Nat
  fwds : List Fwd
  deriving DecidableEq, Repr

def Rake.fresh : Rake :=
  { everJoined := false, enabledAt := 0, steerUntil := none, acts := [], known := [], fences := [], fencePend := none,
    ctLoad := false, stepSf := none, steerSf := [], islandO := none, change := none, enumJobs := [], enumFull := false,
    assigned := [], routes := [], updates := [], highs := [], srcPort := [], lastPub := [], fenceSf := none, fwdTag := 0, fwds := [] }

/-! ### Clocks, cupping, NVM, modes -/

/-- The clocks beside their registers (R360 to R369): whether the tick has a relation to the selected reference, an offset
that waits, a walk (offset, first tick, ppm), whether the Flume section's input is to move, the
dither seed that each PLL's generator loaded at its last lock (R363: how the generator runs on from it is not stated). -/
structure Clk where
  relation : Bool
  wait : Option Int
  walk : Option (Int × Nat × Nat)
  flumeMove : Bool
  dither : Tab Nat
  deriving DecidableEq, Repr

def Clk.fresh : Clk := ⟨true, none, none, false, []⟩

/-- A mode request that waits for its tick (R341, R343): target, depth, the job that it answers. -/
structure Ask where
  target : Nat
  depth : Nat
  job : Option Nat
  deriving DecidableEq, Repr

/-- A cupping run (R370, R371): scope, index, the job that waits for it, the mode it left. -/
structure CupRun where
  scope : Nat
  index : Nat
  job : Nat
  back : Nat
  deriving DecidableEq, Repr

/-- The body of a calibration slot: register fields, trims, trained delays (R370, R374). -/
structure CalImg where
  flds : Tab Nat
  cal : Cal
  delays : List Int
  deriving DecidableEq, Repr

/-- The body of a shelf slot (R47): every CFG and LIVE field that differs from its reset value, and the batch ID. -/
structure ShelfImg where
  flds : Tab Nat
  id : Nat
  deriving DecidableEq, Repr

/-- A pinned segment in NVM (R79, R424): index, descriptor, contents (offset, byte) and marker words. -/
structure Pinned where
  seg : Nat
  desc : Seg
  bytes : List Host.Cell
  marks : List Nat
  deriving DecidableEq, Repr

/-- An NVM operation, queued or in progress (R375). -/
inductive NvmOp where
  | cal (job : Option Nat) (img : CalImg)
  | shelf (img : ShelfImg)
  | pin (seg job : Nat)
  | unpin (seg job : Nat)
  | fwWrite (job off : Nat) (words : List Nat)
  | boot (job : Option Nat) (slot : Nat) (bootLock calLock : Bool)
  | erase (region : Nat)
  deriving DecidableEq, Repr

/-- The firmware image in Carafe (R11, R12): whether its slot had been erased whole, and the words programmed since, by their place. -/
structure FwImg where
  blank : Bool
  words : Tab Nat
  deriving DecidableEq, Repr

/-- NVM and what concerns it (R373 to R377, R388): slot validity (bits as `NVM_STAT.VALID`), generations (as `NVM_GEN`), which
slots hold content that fails its check, the slots' bodies, the boot records (slot, boot lock, calibration lock), words
programmed into the firmware slots since delivery (slot·2^21 + word), the pinned segments, the audit ring, operations in
order, image checks that run (job, slot), posted writes (address, word), the audit budget, whether it is suspended, the next
entry of the mirror's rebuild, the newest commit's image and the commits since the last completed store, whether a newer
store waits. -/
structure Nvm where
  valid : Nat
  gens : List Nat
  broken : Nat
  cals : Tab CalImg
  shelves : Tab ShelfImg
  boots : Tab (Nat × Bool × Bool)
  fw : Tab Nat
  fwBlank : Nat
  pins : List Pinned
  audit : Tab (List Nat)
  ops : List NvmOp
  checks : List (Nat × Nat)
  posted : List (Nat × Nat)
  audLevel : Nat
  audTick : Nat
  rebuild : Nat
  staged : Option ShelfImg
  since : List Nat
  again : Bool
  deriving DecidableEq, Repr

/-- NVM as shipped (R421), with the entry of the first BOOT already programmed. -/
def Nvm.shipped (cal : CalImg) (boot : List Nat) : Nvm :=
  { valid := 7, gens := [1, 0, 0, 0, 1, 0], broken := 0, cals := [(0, cal)], shelves := [], boots := [(0, (0, false, false))],
    fw := [], fwBlank := 0, pins := [], audit := [(0, boot)], ops := [], checks := [], posted := [], audLevel := 1024 * 160000000, audTick := 0,
    rebuild := 0, staged := none, since := [], again := false }

/-- Stages of start-up (R346) and the conditions in which the logic die does not run: 0 running, 1 without power, 2 power-on
reset, 3 rails and oscillators starting, 4 boot check, 5 training, 6 ECC fill, 7 test, 8 firmware image, 9 pinned
segments, 10 pans, 11 shelf image and reference; 12 SHELF. `warm` is set for a start from SHELF-WARM, `service` for a TRAIN
that SERVICE requested. `shelf` is a SHELF entry in progress (depth, step), `shut` the tick at which a shutdown began, `shutReq`
a SAFE request that waits, `resetN`, `pwrEn`, `vin` the balls, `vbakFell` a VBAK below 2.7 V during SHELF-COLD, `notes` the
records to write at the next WAKE (kind, D0), `svcOnly` a device without a valid firmware image, `audLost` the highest
AUDSEQ in NVM at boot, `cold` the start that BOOT reports, `quickBad` a quick train that has failed in this TRAIN (R217). -/
structure Boot where
  stage : Nat
  warm : Bool
  service : Bool
  shelf : Option (Nat × Nat)
  shut : Option Nat
  shutReq : Bool
  resetN : Bool
  pwrEn : Bool
  vin : Bool
  vbakFell : Bool
  notes : List (Nat × Nat)
  svcOnly : Bool
  resetAt : Option Nat
  wakeReq : Bool
  quickBad : Bool
  deriving DecidableEq, Repr

def Boot.running : Boot :=
  { stage := 0, warm := false, service := false, shelf := none, shut := none, shutReq := false, resetN := true, pwrEn := true,
    vin := true, vbakFell := false, notes := [], svcOnly := false, resetAt := none, wakeReq := false, quickBad := false }

/-- RECOVER (R354 to R357): its stage (0 none, 1, 2), cause, the jobs that INTERNAL answers, whether it ends in SERVICE, the
ticks of the entries of the last 600 s. -/
structure Recov where
  stage : Nat
  cause : Nat
  jobs : List Nat
  service : Bool
  entries : List Nat
  lost : List Nat
  deriving DecidableEq, Repr

def Recov.none : Recov := ⟨0, 0, [], false, [], []⟩

/-- A transfer descriptor and what goes with it (R301, R302, R303): ring (8 and above: USB3 pair 3), the eight words, the data
that a WRITE carries. -/
structure Xfer where
  ring : Nat
  desc : List Nat
  data : List Nat
  deriving DecidableEq, Repr

/-- The host link beside its registers: submission bytes consumed since the last shadow write and the tick of the first,
transfers that wait for a pan, the packets being rewound (128·ring + queue), the last message of each vector, the
transfer ring served next, the words of host memory between head and tail of each submission ring, the descriptors between head and tail of each
transfer ring, OUT transfers that wait while no packet is fetched (pair, 5 the service device, plus 8 where bytes follow the words; words), and the submission
ring that the round-robin serves next. -/
structure Hst where
  shadow : Tab (Nat × Nat)
  heldX : List Xfer
  rewoundX : Tab Bool
  msixLast : Tab Nat
  xrNext : Nat
  sqBuf : Tab (List Nat)
  xrBuf : Tab (List Xfer)
  usbWait : List (Nat × List Nat)
  sqNext : Nat
  deriving DecidableEq, Repr

def Hst.fresh : Hst := ⟨[], [], [], [], 0, [], [], [], 0⟩

/-- The faults of the block: none. Every command of the spec has an effect or is answered by a status, and a command that
reaches a module without power leaves it as it is; safe. -/
inductive Fault where
  deriving DecidableEq, Repr

/-- The refusals of the model. -/
inductive Refusal where
  /-- A command without a meaning yet, raised by its arm in Dispatch.lean; safe. -/
  | notModelled (mnemonic : String)
  deriving DecidableEq, Repr

/-- The module: its registers, its memories, what its units hold beside their registers, and the queue of commands. -/
structure State where
  /-- The commands that wait, first in, first out (the block's queue). -/
  pending : List Instr
  /-- Whether the coming tick is the one that what happens now belongs to: so for the effects of commands (R32). -/
  cmd : Bool
  /-- The register fields that differ from their reset values, by key (R30, R33); a 64-bit pair is one field. -/
  flds : Tab Nat
  /-- The keys of the WO1 fields that have been written since the power-on reset (R36). -/
  wo1 : List Nat
  /-- The model's own: how many free values have been read (assumption 3). -/
  freeN : Nat
  /-- The Carafe's bytes that differ from 0, rising addresses (R12, R198). -/
  carafe : List Host.Cell
  /-- The pans' bytes that differ from 0, pan k from 262,144·k, rising addresses (R219). -/
  pans : List Host.Cell
  /-- The event ring, by slot: the eight words of each record (R380, R383). -/
  evRing : Tab (List Nat)
  fwImg : Option FwImg
  /-- The audit mirror, by slot: the sixteen words of each entry (R386, R388). -/
  audMirror : Tab (List Nat)
  /-- The next sequence number of each source of event records (R378, R379). -/
  logSeq : Tab Nat
  /-- The level of the event log's rate cap, in 1/160,000,000 record (R382). -/
  logLevel : Nat
  /-- The tick to which the rate cap has been filled (R382). -/
  logTick : Nat
  /-- Records that each limited cause has written in the present second: the second and the count (R39; assumption 8). -/
  rates : Tab (Nat × Nat)
  /-- The vectors whose message waits for its holdoff (R300). -/
  msixWait : List Nat
  /-- The words of the MSI-X table that are not 0, by word (R294; assumption 65). -/
  msixTab : Tab Nat
  /-- What leaves toward the host, the peers and the balls, oldest first. -/
  out : List Out
  /-- The tag windows by origin, or by sending module for CHAIN (R310, R313). -/
  wins : Tab Win
  /-- The results of CHAIN that are cached, oldest first: window and tag (R313). -/
  pool : List (Nat × Nat)
  /-- The commands accepted and not completed (R314). -/
  jobs : List Job
  /-- The model's own: the number that the next accepted command is given. -/
  nextJob : Nat
  /-- Packets fetched that have not started (R317, R318). -/
  heldPkts : List Pkt
  /-- The head of each reply ring as last given by its doorbell (R297, R299). -/
  rqHead : Tab Nat
  /-- Replies that wait for room in their reply ring (R299, R315). -/
  rqWait : Tab (List (Nat × Reply))
  /-- The open batches (R44). -/
  opens : List Batch
  /-- The batches committed and not yet applied (R45, R46). -/
  staged : List Staged
  /-- The segment descriptors that are not ABSENT (R76, R77). -/
  segs : Tab Seg
  /-- The 64-byte units of the Carafe whose content cannot be corrected (R214). -/
  badUnits : List Nat
  /-- The 64-bit words of the pans, 32,768 to a pan, that read uncorrectable in queue storage and indexes (R219). -/
  badPans : List Nat
  /-- The players beside their registers (R86 to R137). -/
  plys : Tab Ply
  /-- Trigger-source edges on their way to registration (R89). -/
  trigs : List Trig
  /-- What the sequencer told the learning lanes in the present tick (R106, R184, R190). -/
  seqEvs : List SeqEv
  /-- The rails beside their registers (R51 to R57, R72). -/
  rails : Tab Rail
  /-- The chain rails (R68). -/
  chRails : Tab ChRail
  /-- The taps whose bit was last seen as 1 (R89). -/
  tapBits : List Nat
  /-- The encoder ports beside their registers (R60 to R63). -/
  encs : Tab Enc
  /-- The line trackers beside their registers (R65, R66). -/
  trks : Tab Trk
  /-- The channels beside their registers (R139 to R157). -/
  chns : Tab Chn
  /-- The samples that entered their last stage in the present tick, for measurement: channel and sample tick (R140, R165). -/
  chnOut : List (Nat × Nat)
  /-- The GP pins that a channel drives (R155). -/
  gpDrive : Nat
  /-- The levels that channels last gave the GP pins (R155). -/
  gpValue : Nat
  /-- Levels on their way to a GP pin: quarter tick at the ball, pin, level (R155). -/
  gpQueue : List (Nat × Nat × Bool)
  /-- The brine queues beside their registers (R231 to R244). -/
  queues : Tab Queue
  /-- The capture units beside their registers (R165 to R171). -/
  caps : Tab Cap
  /-- The demodulators beside their registers (R172 to R177). -/
  dmds : Tab Dmd
  /-- The tick of the enable from which each enabled ADC samples (R162). -/
  adcOn : Tab Nat
  /-- Conversions on their way to their consumers (R162, R163). -/
  adcQ : List AdcW
  /-- The history of R164 by player, newest first: from which tick on the player showed what. -/
  hist : Tab (List (Nat × HEnt))
  /-- The learning lanes beside their registers (R179 to R196). -/
  lanes : Tab Lane
  /-- The measured words of the present tick, for the lanes (R183). -/
  meas : List Meas
  /-- Of the PLAY samples that the limiter saw in the present tick: channel, sample tick, whether a limit acted (R149, R186). -/
  limOut : List (Nat × Nat × Bool)
  /-- `GLB_FAULT_SUM`, gathered anew at the end of every command (R352, R353). -/
  faultSum : Nat
  /-- The Carafe controller beside its registers (R199 to R217). -/
  car : Car
  /-- Accesses to the Carafe that commands, transfers and logs have made since the controller's last tick: port, whether a write, byte address,
  bytes (R201). -/
  carAsks : List (Nat × Bool × Nat × Nat)
  /-- The pans' handovers and their background test (R224 to R230). -/
  panX : PanX
  /-- Calibration that no register shows (R158, R372). -/
  cal : Cal
  /-- The out-lanes beside their registers (R249 to R258). -/
  ols : Tab OLane
  /-- The in-lanes beside their registers (R259 to R263). -/
  ils : Tab ILane
  /-- The Rake ports beside their registers (R269 to R286). -/
  rkPorts : Tab RkPort
  /-- The Rake block beside its registers (R267 to R289). -/
  rake : Rake
  /-- The clocks beside their registers (R360 to R369). -/
  clk : Clk
  /-- The cupping run in progress (R370, R371). -/
  cup : Option CupRun
  /-- The tick of the last cause that prevails over requests of its tick: a SAFE cause, or a loss of the reference that changed the mode
  (R343). -/
  safeAt : Option Nat
  /-- Mode requests that wait for the tick in which they act (R343). -/
  asks : List Ask
  /-- NVM and its operations (R373 to R377, R388). -/
  nvm : Nvm
  /-- Start-up, SHELF and the power balls (R346 to R351, R408, R409). -/
  boot : Boot
  /-- RECOVER (R354 to R358). -/
  recov : Recov
  /-- The host link beside its registers (R292 to R305). -/
  hst : Hst
  /-- The addresses of stored CFG words with an odd number of upset bits, not yet detected (R38). -/
  parOdd : List Nat
  /-- The addresses of CFG words whose parity mismatch is detected and not cured (R38). -/
  parBad : List Nat
  /-- The addresses of the units that are in the SAFE of R426. -/
  unitSafe : List Nat
  /-- The register bits written for the coming tick (R32, R46, R59). -/
  wrote : List Wrote
  /-- Whether a snapshot is due in the coming tick (R43). -/
  snapReq : Bool
  /-- The commands that the snapshot completes (R43, R329). -/
  snapJobs : List Nat
  /-- The FENCE commands that have not completed: their jobs (R318). -/
  fences : List Nat
  /-- Segment loads whose writes are not yet visible: job, segment, whether with LAST (R79, R330). -/
  segLoads : List (Nat × Nat × Bool)
  /-- STEP_WRITE commands whose writes are not yet visible: their jobs (R204, R330). -/
  stepLoads : List Nat
  /-- PAN_GRANT commands that wait for a handover: job and pan (R224). -/
  panGrants : List (Nat × Nat)
  deriving DecidableEq, Repr

/-- The audit entry of the first WAKE (R387, R421): BOOT, cold start, slot A, no entry found in NVM. -/
def bootAudit : List Nat := auditWords 6 0 0 0 0 0 0 6 0 0 0 [4, Config.fwVersion.toNat, 0xFFFFFFFF]

/-- The module in the first tick of SETUP after the first WAKE of a module as shipped (R346, R421): registers at the values
of their reset columns, but for the status that the first WAKE leaves (Scenario 1, step 2). -/
def State.reset : State :=
  { pending := []
    cmd := false
    flds := [(F.CLK_STAT_ACT.key 0, 0), (F.CLK_STAT_REFIN_OK.key 0, 1), (F.CLK_STAT_SPLL_LOCK.key 0, 1), (F.CLK_STAT_STBY_LOCK.key 0, 1),
      (F.CLK_STAT_FLUME_LOCK.key 0, 1), (F.CLK_STAT_RAKE_LOCK.key 0, 1), (F.CAR_STAT_TRAINED.key 0, 1),
      (F.CAR_TRAIN_STAT_LANE_OK.key 0, 255), (F.CAR_TRAIN_STAT_QUICK.key 0, 1), (F.PWR_STAT_CONV_OK.key 0, 1)]
    wo1 := []
    freeN := 0
    carafe := []
    pans := []
    evRing := []
    fwImg := some ⟨false, []⟩
    audMirror := [(0, bootAudit)]
    logSeq := []
    logLevel := 65536 * 160000000
    logTick := 0
    rates := []
    msixWait := []
    msixTab := []
    out := []
    wins := []
    pool := []
    jobs := []
    nextJob := 0
    heldPkts := []
    rqHead := []
    rqWait := []
    opens := []
    staged := []
    segs := []
    badUnits := []
    badPans := []
    plys := []
    trigs := []
    seqEvs := []
    rails := []
    chRails := []
    tapBits := []
    encs := []
    trks := []
    chns := []
    chnOut := []
    gpDrive := 0
    gpValue := 0
    gpQueue := []
    queues := []
    caps := []
    dmds := []
    adcOn := []
    adcQ := []
    hist := []
    lanes := []
    meas := []
    limOut := []
    faultSum := 0
    car := Car.fresh
    carAsks := []
    panX := PanX.fresh
    cal := Cal.fresh
    ols := []
    ils := []
    rkPorts := []
    rake := Rake.fresh
    clk := Clk.fresh
    cup := none
    safeAt := none
    asks := []
    nvm := Nvm.shipped ⟨[], Cal.fresh, Car.fresh.delays⟩ bootAudit
    boot := Boot.running
    recov := Recov.none
    hst := Hst.fresh
    parOdd := []
    parBad := []
    unitSafe := []
    wrote := []
    snapReq := false
    snapJobs := []
    fences := []
    segLoads := []
    stepLoads := []
    panGrants := [] }

end Sys2Proof.Machine
end

