-- ==== Sys2Proof/Machine/Ops.lean ====
section
/-! DEFINITION. The named operations over the register store, the sparse tables and Carafe's bytes, and the arithmetic
of R3, R4 and R9 that every family uses. -/

namespace Sys2Proof.Machine

/-! ### Sparse tables: ascending keys, one entry a key -/

/-- The entry under a key, if one is listed. -/
def tabGet {α : Type} (t : Tab α) (k : Nat) : Option α :=
  match t with
  | [] => none
  | (j, v) :: r => if j == k then some v else tabGet r k

/-- The table with one entry written; the keys stay ascending. -/
def tabPut {α : Type} (t : Tab α) (k : Nat) (v : α) : Tab α :=
  match t with
  | [] => [(k, v)]
  | (j, w) :: r => if k < j then (k, v) :: (j, w) :: r else if j == k then (k, v) :: r else (j, w) :: tabPut r k v

/-- The table without the entry of a key. -/
def tabDel {α : Type} (t : Tab α) (k : Nat) : Tab α :=
  match t with
  | [] => []
  | (j, w) :: r => if j == k then tabDel r k else (j, w) :: tabDel r k

/-- The table with one entry written, or taken out where the value is the one that an unlisted key reads as. -/
def tabSet {α : Type} [DecidableEq α] (d : α) (t : Tab α) (k : Nat) (v : α) : Tab α :=
  if v = d then tabDel t k else tabPut t k v

/-- The keys ascend strictly. -/
def tabSorted {α : Type} : Tab α → Bool
  | [] => true
  | [_] => true
  | a :: b :: r => decide (a.1 < b.1) && tabSorted (b :: r)

/-! ### Arithmetic (R3, R9) -/

/-- The low `w` bits of a number read as a signed integer. -/
def sgn (w v : Nat) : Int :=
  if v % 2 ^ w < 2 ^ (w - 1) then ((v % 2 ^ w : Nat) : Int) else ((v % 2 ^ w : Nat) : Int) - ((2 ^ w : Nat) : Int)

/-- The low `w` bits of an integer: R9's narrowing assignment. -/
def uns (w : Nat) (i : Int) : Nat := (i % ((2 ^ w : Nat) : Int)).toNat

/-- R9's `sat` to `w` signed bits. -/
def satS (w : Nat) (i : Int) : Int :=
  if i < -((2 ^ (w - 1) : Nat) : Int) then -((2 ^ (w - 1) : Nat) : Int)
  else if i > ((2 ^ (w - 1) : Nat) : Int) - 1 then ((2 ^ (w - 1) : Nat) : Int) - 1 else i

/-- A value held between two bounds. -/
def clampI (lo hi i : Int) : Int := if i < lo then lo else if i > hi then hi else i

/-- Division rounding toward zero. -/
def divZ (a b : Int) : Int := a.tdiv b

/-- An arithmetic shift right: rounding toward minus infinity (R9). -/
def asr (i : Int) (n : Nat) : Int := i / ((2 ^ n : Nat) : Int)

/-- Sign of an integer. -/
def signI (i : Int) : Int := if i < 0 then -1 else if i = 0 then 0 else 1

/-- Bits `hi` to `lo` of a number. -/
def bitsOf (v hi lo : Nat) : Nat := v / 2 ^ lo % 2 ^ (hi + 1 - lo)

/-- Bit `i` of a number. -/
def bitOf (v i : Nat) : Bool := v / 2 ^ i % 2 == 1

/-- 0 or 1. -/
def b2n (b : Bool) : Nat := if b then 1 else 0

/-- Serial difference `a − b` modulo 2^w, read as signed. -/
def serial (w a b : Nat) : Int := sgn w (a % 2 ^ w + 2 ^ w - b % 2 ^ w)

/-- Whether a list holds a number. -/
def memN (l : List Nat) (n : Nat) : Bool := l.any (· == n)

/-- The list with a number at its end unless it holds it. -/
def addN (l : List Nat) (n : Nat) : List Nat := if memN l n then l else l ++ [n]

/-- The list without a number. -/
def delN (l : List Nat) (n : Nat) : List Nat := l.filter (· != n)

/-! ### The register store -/

/-- The value of a register field of unit `u`: the stored one, or its reset value, within the field's width. -/
def State.rd (s : State) (f : Fld) (u : Nat) : Nat := (tabGet s.flds (f.key u)).getD (f.rst u) % 2 ^ f.width

/-- A field of unit `u` written; the low bits of the value are kept (R9). -/
def State.wr (s : State) (f : Fld) (u : Nat) (v : Nat) : State :=
  { s with flds := tabSet (f.rst u) s.flds (f.key u) (v % 2 ^ f.width) }

/-- A field read as signed. -/
def State.rdI (s : State) (f : Fld) (u : Nat) : Int := sgn f.width (s.rd f u)

/-- A signed value written to a field. -/
def State.wrI (s : State) (f : Fld) (u : Nat) (i : Int) : State := s.wr f u (uns f.width i)

/-- A one-bit field as a truth value. -/
def State.on (s : State) (f : Fld) (u : Nat) : Bool := s.rd f u == 1

/-- A one-bit field written from a truth value. -/
def State.wrB (s : State) (f : Fld) (u : Nat) (b : Bool) : State := s.wr f u (b2n b)

/-- A field that a row of a table names with several numbers: a list of writes in order. -/
def State.wrs (s : State) (l : List (Fld × Nat × Nat)) : State := l.foldl (fun t e => t.wr e.1 e.2.1 e.2.2) s

/-- A saturating counter (R391) raised by `n`. -/
def State.bumpBy (s : State) (f : Fld) (u n : Nat) : State := s.wr f u (min (s.rd f u + n) (2 ^ f.width - 1))

/-- A saturating counter raised by one. -/
def State.bump (s : State) (f : Fld) (u : Nat) : State := s.bumpBy f u 1

/-- A modulo or 64-bit counter (R391) raised by `n`. -/
def State.tallyBy (s : State) (f : Fld) (u n : Nat) : State := s.wr f u (s.rd f u + n)

/-- A modulo counter raised by one. -/
def State.tally (s : State) (f : Fld) (u : Nat) : State := s.tallyBy f u 1

/-! ### Time -/

/-- `GLB_TICK`: the tick last evaluated. -/
def State.now (s : State) : Nat := s.rd F.GLB_TICK_TICK 0

/-- The tick in which a command that is taken now takes effect (R32). -/
def State.eff (s : State) : Nat := s.now + 1

/-- Chain time with its fraction, in 1/256 tick. -/
def State.ct (s : State) : Nat := s.rd F.GLB_CT_TICKS 0 * 256 + s.rd F.GLB_CT_FRAC 0

/-- Chain time written, modulo 2^64. -/
def State.setCt (s : State) (v : Nat) : State :=
  (s.wr F.GLB_CT_TICKS 0 (v % 2 ^ 64 / 256)).wr F.GLB_CT_FRAC 0 (v % 256)

/-- The chain time of the tick `t`, which lies a known number of ticks from the present one. -/
def State.ctOf (s : State) (t : Nat) : Nat := uns 64 ((s.ct : Int) + 256 * ((t : Int) - (s.now : Int)))

/-- The chain time of what happens now: of the coming tick while a command from outside is applied, which takes effect there
(R32), else of the present tick. -/
def State.ctEv (s : State) : Nat := if s.cmd then s.ctOf (s.now + 1) else s.ct

/-- The state in which a command from outside acts: it takes effect in the coming tick (R32). -/
def State.coming (s : State) : State := { s with cmd := true }

/-- The state after it. -/
def State.rested (s : State) : State := { s with cmd := false }

/-- What a command from outside does: it takes effect at the start of the coming tick. -/
def byHost (f : State → State) (s : State) : State := (f s.coming).rested

/-- A number of ticks in microseconds, milliseconds, seconds: 160 ticks to the microsecond. -/
def usTicks (n : Nat) : Nat := 160 * n
def msTicks (n : Nat) : Nat := 160000 * n
def secTicks (n : Nat) : Nat := 160000000 * n

/-! ### Writes of one tick (R32, R46, R59) -/

/-- The bits of a register that a write of rank `o` does not reach in the coming tick: a higher rank has written them. A batch's
write (`batch`) acts before every other write of the tick. -/
def State.heldBits (s : State) (batch : Bool) (o reg : Nat) : Nat :=
  (s.wrote.filter (fun w => w.tick == s.eff && w.reg == reg && (batch || decide (o < w.rank)))).foldl (fun m w => m ||| w.mask) 0

/-- The bits of a mask that a write reaches. -/
def State.openBits (s : State) (batch : Bool) (o reg mask : Nat) : Nat := mask - (mask &&& s.heldBits batch o reg)

/-- Bits of a register are written for a tick by a writer of a rank. -/
def State.noteWriteAt (s : State) (t o reg mask : Nat) : State :=
  { s with wrote := s.wrote.filter (fun w => w.tick == t) ++ [⟨t, reg, o, mask⟩] }

/-- Bits of a register are written for the coming tick by a writer of a rank. -/
def State.noteWrite (s : State) (o reg mask : Nat) : State := s.noteWriteAt s.eff o reg mask

/-! ### Free values (assumption 3) -/

/-- A value of `w` bits on which nothing is known, and the state with the count of free values advanced. -/
def State.free (s : State) (w : Nat) : Nat × State :=
  ((Config.freeValue s.freeN).toNat % 2 ^ w, { s with freeN := s.freeN + 1 })

/-! ### Bytes of Carafe -/

/-! #### Carafe's layout (R12, R213, R214) -/

/-- Usable space: 14 GiB. -/
def carafeEnd : Nat := 0x380000000
/-- The reserved region: the top 128 MiB. -/
def reservedBase : Nat := 0x378000000
def fwImageBase : Nat := 0x378000000
def workStoreBase : Nat := 0x379000000
def stepTableBase : Nat := 0x37C000000
def descBase : Nat := 0x37E000000
def audMirrorBase : Nat := 0x37E800000
def evRingBase : Nat := 0x37F000000

/-- A port's access to a range of the Carafe, which the controller sees in its next tick; an untrained Carafe serves none (R201, R218). -/
def State.ask (s : State) (port : Nat) (wr : Bool) (a n : Nat) : State :=
  if s.on F.CAR_STAT_TRAINED 0 && n != 0 then { s with carAsks := s.carAsks ++ [(port, wr, a, n)] } else s

/-- The byte at an address; a byte that nothing has written reads 0 (R217: the ECC fill; assumption 5). -/
def memRd (m : List Host.Cell) (a : Nat) : Byte := (tabGet m a).getD 0

/-- A byte written; writing 0 takes the entry out, so that the form stays canonical. -/
def memWr (m : List Host.Cell) (a : Nat) (b : Byte) : List Host.Cell := tabSet 0 m a b

/-- The canonical form of a memory: addresses strictly rising and no entry equal to what an unlisted address reads as. -/
def memWf (m : List Host.Cell) : Bool := tabSorted m && m.all (fun c => c.2 != 0)

/-- The little-endian word at an address (R4). -/
def memRdW (m : List Host.Cell) (a : Nat) : Nat :=
  (memRd m a).toNat + 256 * (memRd m (a + 1)).toNat + 65536 * (memRd m (a + 2)).toNat + 16777216 * (memRd m (a + 3)).toNat

/-- A word written least significant byte first (R4). -/
def memWrW (m : List Host.Cell) (a v : Nat) : List Host.Cell :=
  memWr (memWr (memWr (memWr m a (BitVec.ofNat 8 v)) (a + 1) (BitVec.ofNat 8 (v / 256)))
    (a + 2) (BitVec.ofNat 8 (v / 65536))) (a + 3) (BitVec.ofNat 8 (v / 16777216))

/-- Words written from an address upward. -/
def memWrWs (m : List Host.Cell) (a : Nat) : List Nat → List Host.Cell
  | [] => m
  | v :: r => memWrWs (memWrW m a v) (a + 4) r

/-- `n` words read from an address upward. -/
def memRdWs (m : List Host.Cell) (a : Nat) : Nat → List Nat
  | 0 => []
  | n + 1 => memRdW m a :: memRdWs m (a + 4) n

/-- Bytes written from an address upward. -/
def memWrBs (m : List Host.Cell) (a : Nat) : List Byte → List Host.Cell
  | [] => m
  | b :: r => memWrBs (memWr m a b) (a + 1) r

/-- The memory with every entry of a range of addresses taken out: the range reads 0 again. -/
def memZero (m : List Host.Cell) (a n : Nat) : List Host.Cell :=
  m.filter (fun c => decide (c.1 < a) || decide (a + n ≤ c.1))

end Sys2Proof.Machine
end

