-- ==== Sys2Proof/Machine/Log.lean ====
section
/-! DEFINITION. The event log, the audit log, flagged accesses and MSI-X causes (R39, R48, R300, R378 to R390). -/

namespace Sys2Proof.Machine

/-! ### Source IDs (R378) -/

def srcDevice : Nat := 0x0000
def srcClocks : Nat := 0x0001
def srcCarafe : Nat := 0x0002
def srcPans : Nat := 0x0003
def srcNvm : Nat := 0x0004
def srcRegs : Nat := 0x0005
def srcCp : Nat := 0x0006
def srcOrigin (o : Nat) : Nat := 0x0010 + o
def srcPlayer (p : Nat) : Nat := 0x0100 + p
def srcRail (p : Nat) : Nat := 0x0140 + p
def srcQueue (q : Nat) : Nat := 0x0180 + q
def srcLearn (l : Nat) : Nat := 0x0240 + l
def srcChannel (c : Nat) : Nat := 0x0300 + c
def srcOutLane (n : Nat) : Nat := 0x0400 + n
def srcInLane (n : Nat) : Nat := 0x0410 + n
def srcRake (n : Nat) : Nat := 0x0420 + n
def srcTree : Nat := 0x0424

/-! ### MSI-X causes (R300) -/

/-- A cause of an MSI-X vector arises: the vector waits for its next message. -/
def msixRaise (v : Nat) (s : State) : State := { s with msixWait := addN s.msixWait v }

/-! ### The event log (R380 to R384) -/

/-- Records of the event log that the host has not read (R383). -/
def logUnread (s : State) : Nat := (s.rd F.LOG_EV_WR_RECNO 0 + 2 ^ 32 - s.rd F.LOG_EV_RD_RECNO 0) % 2 ^ 32

/-- R384: the notice follows the level; an upward crossing counts when `count` is set. -/
def logNotice (count : Bool) (s : State) : State :=
  let above := decide (s.rd F.LOG_EV_LVL_LEVEL 0 ≤ logUnread s)
  let s1 := if count && above && !s.on F.LOG_EV_STAT_ABOVE 0 then msixRaise 51 (s.tally F.LOG_EV_NOTE_XCNT 0) else s
  let s2 := s1.wrB F.LOG_EV_STAT_ABOVE 0 above
  let pend := s2.rd F.LOG_EV_NOTE_XCNT 0 != s2.rd F.LOG_EV_NOTE_ACK 0
  let s3 := s2.wrB F.LOG_EV_STAT_PENDING 0 pend
  if pend then msixRaise 51 s3 else s3

/-- Kinds whose records are always written (R382). -/
def kindAlways (k : Nat) : Bool :=
  (decide (0x02 ≤ k) && decide (k ≤ 0x0E)) || k == 0x10 || k == 0x30 || k == 0x41 || k == 0x21

/-- The records that the rate cap admits, in units of one 160,000,000th of a record (R382: 262,144 a second on average,
a burst of 65,536). -/
def logBucket (s : State) : Nat :=
  min (65536 * 160000000) (s.logLevel + 262144 * (s.now - s.logTick))

/-- A record placed in the ring under the next record number (R383). -/
def logPlace (w : List Nat) (s : State) : State :=
  let r := s.rd F.LOG_EV_WR_RECNO 0
  let slot := r % 524288
  let past := decide (524288 ≤ (r + 2 ^ 32 - s.rd F.LOG_EV_OLD_RECNO 0) % 2 ^ 32)
  let old := s.rd F.LOG_EV_OLD_RECNO 0
  let unreadLost := past && decide (0 ≤ serial 32 old (s.rd F.LOG_EV_RD_RECNO 0))
  let s1 := { s with evRing := tabPut s.evRing slot w }.ask 70 true (evRingBase + 32 * slot) 32
  let s2 := if past then s1.wr F.LOG_EV_OLD_RECNO 0 (old + 1) else s1
  let s3 := if unreadLost then (s2.bump F.LOG_EV_OVW_COUNT 0).wr F.LOG_EV_RD_RECNO 0 (old + 1) else s2
  ((s3.wr F.LOG_EV_WR_RECNO 0 (r + 1)).tally F.LOG_EV_TOTAL_COUNT 0)

/-- An event record of a source with its kind, data and chain time (R380 to R382). -/
def logAt (ct : Nat) (always : Bool) (src kind d0 d1 d2 : Nat) (s : State) : State :=
  let seq := (tabGet s.logSeq src).getD 0
  let s1 := { s with logSeq := tabPut s.logSeq src ((seq + 1) % 2 ^ 32) }
  let lvl := logBucket s1
  let al := always || kindAlways kind
  if al || decide (160000000 ≤ lvl) then
    let s2 := { s1 with logLevel := lvl - 160000000, logTick := s1.now }
    let w := [src * 65536 + kind * 256 + b2n al, seq, ct % 2 ^ 32, ct / 2 ^ 32, s2.rd F.LOG_EV_WR_RECNO 0,
      d0 % 2 ^ 32, d1 % 2 ^ 32, d2 % 2 ^ 32]
    logNotice true (logPlace w s2)
  else
    let s3 := s1.bump F.LOG_EV_DROP_DROPPED 0
    { s3 with logLevel := lvl, logTick := s1.now }

/-- An event record at the present chain time. -/
def logEvent (src kind d0 d1 d2 : Nat) (s : State) : State := logAt s.ctEv false src kind d0 d1 d2 s

/-- Whether a cause that may write `lim` records a second may write one more, and the count advanced (R39, R213, R221,
R225, R321; assumption 8). -/
def rateOkN (lim cause : Nat) (s : State) : Bool × State :=
  let win := s.now / 160000000
  let e := (tabGet s.rates cause).getD (0, 0)
  let n := if e.1 == win then e.2 else 0
  if n < lim then (true, { s with rates := tabPut s.rates cause (win, n + 1) }) else (false, s)

/-- The same with the limit of 1,000 a second. -/
def rateOk (cause : Nat) (s : State) : Bool × State := rateOkN 1000 cause s

/-- An event record of a cause that is limited to 1,000 records a second. -/
def logLimited (cause src kind d0 d1 d2 : Nat) (s : State) : State :=
  let r := rateOk cause s
  if r.1 then logEvent src kind d0 d1 d2 r.2 else r.2

/-! ### Flagged accesses (R39) -/

/-- Causes of `GLB_REG_ERR.CAUSE`. -/
def cCfgEnabled : Nat := 1
def cWo1Rewrite : Nat := 2
def cBadWidth : Nat := 3
def cBadAlign : Nat := 4
def cPstBusy : Nat := 5
def cBadEncoding : Nat := 6
def cDenied : Nat := 7
def cRoWrite : Nat := 8
def cUnmapped : Nat := 9

/-- A flagged access: counted, its cause, origin and address kept, and a record written (R36, R39). -/
def flag (cause o addr word : Nat) (s : State) : State :=
  let s1 := (((s.bump F.GLB_REG_ERR_COUNT 0).wr F.GLB_REG_ERR_CAUSE 0 cause).wr F.GLB_REG_ERR_ORIGIN 0 o).wr
    F.GLB_REG_ERR_ADDR_ADDR 0 addr
  let d1 := o * 2 ^ 24 + cause * 2 ^ 20
  if cause == cWo1Rewrite then logAt s1.ctEv true srcRegs 0x11 addr d1 word s1
  else logLimited 39 srcRegs 0x11 addr d1 word s1

/-! ### The audit log (R386 to R388) -/

/-- An audit entry enters the mirror in the tick of its change; an entry not yet programmed that it overwrites is
skipped (R388). -/
def audit (kind : Nat) (chain bar0 : Bool) (src o tag batch members : Nat) (per : List Nat) (s : State) : State :=
  let n := s.rd F.LOG_AUD_SEQ_AUDSEQ 0
  let nv := s.rd F.LOG_AUD_NVM_AUDSEQ 0
  let skip := decide (131072 ≤ (n + 2 ^ 32 - nv) % 2 ^ 32)
  let w := auditWords kind n s.ctEv (s.rd F.GLB_ADDR_ADDR 0) (b2n chain) (b2n bar0) src o tag batch members per
  let s1 := { s with audMirror := tabPut s.audMirror (n % 131072) w }.ask 70 true (audMirrorBase + 64 * (n % 131072)) 64
  let s2 := if skip then (s1.bump F.LOG_AUD_STAT_SKIPPED 0).wr F.LOG_AUD_NVM_AUDSEQ 0 (nv + 1) else s1
  (s2.wr F.LOG_AUD_SEQ_AUDSEQ 0 (n + 1)).wrB F.LOG_AUD_STAT_BACKLOG 0 true

end Sys2Proof.Machine
end

