-- ==== Sys2Proof/Machine/Reply.lean ====
section
/-! DEFINITION. Replies, tag windows and the commands in progress (R299, R307, R310 to R316, R338). -/

namespace Sys2Proof.Machine

/-! ### Status codes (R338) -/

def stOk : Nat := 0x0000
def stPending : Nat := 0x0001
def stDuplicate : Nat := 0x0002
def stBadOpcode : Nat := 0x0100
def stBadLength : Nat := 0x0101
def stBadParam : Nat := 0x0102
def stBadCrc : Nat := 0x0103
def stBadAlign : Nat := 0x0104
def stBadWidth : Nat := 0x0105
def stDenied : Nat := 0x0200
def stLocked : Nat := 0x0201
def stEnabled : Nat := 0x0202
def stBusy : Nat := 0x0203
def stWrongMode : Nat := 0x0204
def stNoMemory : Nat := 0x0300
def stAbsent : Nat := 0x0301
def stEccUncorr : Nat := 0x0400
def stParity : Nat := 0x0401
def stChainTimeout : Nat := 0x0500
def stTagGap : Nat := 0x0501
def stTagStale : Nat := 0x0502
def stInternal : Nat := 0x0600

/-- RESPONDER of this module's replies (R307). -/
def responder (s : State) : Nat := if s.on F.GLB_ADDR_VALID 0 then s.rd F.GLB_ADDR_ADDR 0 else 0xFFF

/-- Words of a reply: header of six words, data, trailer (R307, R308). -/
def replyWords (r : Reply) : Nat := 6 + r.data.length + b2n r.crc

/-! ### Writing a reply to its transport -/

/-- The reply ring of a submission ring: one of its own group (R299). -/
def rqOf (s : State) (sq : Nat) : Nat := 8 * (sq / 8) + s.rd F.HST_SQ_CTL_RQ sq

/-- Free bytes of a reply ring (R299). -/
def rqFree (s : State) (r : Nat) : Nat :=
  let n := s.rd F.HST_RQ_CTL_SIZE r
  2 ^ n - (s.rd F.HST_RQ_TAIL_V r + 2 ^ (n + 1) - (tabGet s.rqHead r).getD 0) % 2 ^ (n + 1)

/-- Whether a submission ring is bound to a reply ring. -/
def sqBound (s : State) (r sq : Nat) : Bool := s.on F.HST_SQ_CTL_EN sq && rqOf s sq == r

/-- The submission rings bound to a reply ring show STALL, or RUN again (R299). -/
def sqStall (r : Nat) (stall : Bool) (s : State) : State :=
  (List.range 32).foldl (fun t sq =>
    if sqBound t r sq && t.rd F.HST_SQ_STAT_STATE sq != 3 then t.wr F.HST_SQ_STAT_STATE sq (if stall then 2 else 1) else t) s

/-- The reply is written at the tail, and only then the tail to the shadow address; the ring's vector is raised. -/
def rqWrite (r : Nat) (sq : Fin 32) (org : Nat) (rep : Reply) (s : State) : State :=
  let n := s.rd F.HST_RQ_CTL_SIZE r
  let bytes := 4 * replyWords rep
  let tail := (s.rd F.HST_RQ_TAIL_V r + bytes) % 2 ^ (n + 1)
  let s1 := { s with out := s.out ++ [Out.reply (.ring sq) org rep, Out.hostWrite r 1 tail] }
  let s2 := (s1.wr F.HST_RQ_TAIL_V r tail).tallyBy F.HST_BYTES_COUNT 0 bytes
  msixRaise (s2.rd F.HST_RQ_CTL_VEC r) s2

/-- Whether a reply can be written to a reply ring now. -/
def rqRoom (s : State) (r : Nat) (rep : Reply) : Bool :=
  s.on F.HST_RQ_CTL_EN r && (s.rd F.HST_RQ_STAT_STATE r == 1 || s.rd F.HST_RQ_STAT_STATE r == 2) &&
    decide (4 * replyWords rep ≤ rqFree s r)

/-- Waiting replies of a reply ring are written in order as long as they fit (R299, R315). -/
def rqDrain (r : Nat) (l : List (Nat × Reply)) (s : State) : State :=
  match l with
  | [] =>
    let s1 := { s with rqWait := tabSet [] s.rqWait r [] }
    if s1.rd F.HST_RQ_STAT_STATE r == 2 then sqStall r false (s1.wr F.HST_RQ_STAT_STATE r 1) else s1
  | (k, rep) :: rest =>
    if rqRoom s r rep then rqDrain r rest (rqWrite r (Fin.ofNat 32 (k % 32)) (k / 32) rep s)
    else
      let s1 := { s with rqWait := tabSet [] s.rqWait r ((k, rep) :: rest) }
      let s2 := if s1.rd F.HST_RQ_STAT_STATE r == 1 then s1.wr F.HST_RQ_STAT_STATE r 2 else s1
      sqStall r true s2

/-- A reply leaves toward its transport; on a ring it waits while it does not fit (R299, R315). -/
def send (path : Path) (org : Nat) (rep : Reply) (s : State) : State :=
  match path with
  | .ring sq =>
    let r := rqOf s sq.val
    rqDrain r (((tabGet s.rqWait r).getD []) ++ [(org * 32 + sq.val, rep)]) s
  | .none => s
  | p => { s with out := s.out ++ [Out.reply p org rep] }.tallyBy F.HST_BYTES_COUNT 0
      (match p with | .side _ => 0 | _ => 4 * replyWords rep)

/-! ### Tag windows -/

/-- Key of a window: the origin's code, or 1000 + SRC for origin CHAIN (R313). -/
def winKey (org src : Nat) : Nat := if org == 5 then 1000 + src else org

def winOf (s : State) (k : Nat) : Win := (tabGet s.wins k).getD ⟨false, 0, []⟩

def setWin (k : Nat) (w : Win) (s : State) : State := { s with wins := tabPut s.wins k w }

/-- The entry of a tag, if the window holds one. -/
def winEnt (w : Win) (tag : Nat) : Option TagEnt := w.ents.find? (fun e => e.tag == tag)

/-- Entries whose tag is still within 256 of H (R310, R312). -/
def winTrim (w : Win) : Win :=
  { w with ents := w.ents.filter (fun e => let d := serial 32 e.tag w.h; decide (-255 ≤ d) && decide (d ≤ 0)) }

/-- A new tag entered as PENDING (R312): H follows a tag ahead of it. -/
def winEnter (k tag opcode job : Nat) (s : State) : State :=
  let w := winOf s k
  let h := if !w.seen || decide (0 < serial 32 tag w.h) then tag else w.h
  setWin k (winTrim { seen := true, h := h, ents := w.ents.filter (fun e => e.tag != tag) ++ [⟨tag, opcode, false, job, none⟩] }) s

/-- The results of CHAIN share one pool of 256; the oldest result leaves it (R313). -/
def poolAdd (k tag : Nat) (s : State) : State :=
  if k < 1000 then s else
    let pl := s.pool ++ [(k, tag)]
    if pl.length ≤ 256 then { s with pool := pl } else
      match pl with
      | [] => s
      | (k0, t0) :: rest =>
        let w := winOf s k0
        setWin k0 { w with ents := w.ents.map (fun e => if e.tag == t0 && e.done then { e with reply := none } else e) }
          { s with pool := rest }

/-- The final reply of a job cached under its tag, if the window still holds the tag for that job (R311, R312). -/
def winDone (k job : Nat) (rep : Reply) (s : State) : State :=
  let w := winOf s k
  if w.ents.any (fun e => e.job == job && !e.done) then
    poolAdd k rep.tag
      (setWin k { w with ents := w.ents.map (fun e => if e.job == job && !e.done then { e with done := true, reply := some rep } else e) } s)
  else s

/-! ### Jobs -/

/-- The job of a number. -/
def jobOf (s : State) (j : Nat) : Option Job := s.jobs.find? (fun b => b.id == j)

/-- A packet becomes a job. -/
def newJob (p : Pkt) (s : State) : Nat × State :=
  (s.nextJob, { s with
    jobs := s.jobs ++ [⟨s.nextJob, p.org, p.src, p.tag, p.opcode, p.unit, p.path, p.reply, p.crc, p.batchId, p.batch, false⟩]
    nextJob := s.nextJob + 1 })

/-- The reply of a job at the present chain time. -/
def jobReply (s : State) (b : Job) (final pend : Bool) (status detail : Nat) (data : List Nat) : Reply :=
  { opcode := b.opcode, tag := b.tag, status := status, detail := detail % 65536, responder := responder s, ct := s.ctEv,
    crc := b.crc, final := final, pend := pend, dup := false, data := data }

/-- The interim reply of an accepted command, written only when a reply is wanted (R314, R315). -/
def interim (j : Nat) (s : State) : State :=
  match jobOf s j with
  | none => s
  | some b => if b.want then send b.path b.org (jobReply s b false true stPending 0 []) s else s

/-- The final reply of a job with a CT of its own: cached, and written when wanted or when the status is not OK (R315). During
RECOVER the jobs that it found wait for their `INTERNAL` (R356). -/
def completeCt (ct j status detail : Nat) (data : List Nat) (s : State) : State :=
  match if s.recov.stage != 0 && memN s.recov.jobs j then none else jobOf s j with
  | none => s
  | some b =>
    let rep := { jobReply s b true false status detail data with ct := ct }
    let s1 := winDone (winKey b.org b.src) j rep { s with jobs := s.jobs.filter (fun x => x.id != j) }
    if b.want || status != stOk then send b.path b.org rep s1 else s1

/-- The final reply of a job at the present chain time. -/
def complete (j status detail : Nat) (data : List Nat) (s : State) : State := completeCt s.ctEv j status detail data s

/-- The final reply of a job that may not exist. -/
def completeOpt (j : Option Nat) (status detail : Nat) (data : List Nat) (s : State) : State :=
  match j with
  | none => s
  | some i => complete i status detail data s

end Sys2Proof.Machine
end

