-- ==== Sys2Proof/Machine/Segs.lean ====
section
/-! DEFINITION. Segments, their descriptors, marker lists and locks; steps; the fixed Carafe regions (R12, R75 to R85,
R107, R424). -/

namespace Sys2Proof.Machine

/-! ### Segments -/

/-- Number of descriptors. -/
def segCount : Nat := 262144

/-- The segment index that names none. -/
def noSeg : Nat := 0x3FFFF

/-! ### Descriptors -/

/-- The descriptor of a segment. -/
def segOf (s : State) (i : Nat) : Seg := (tabGet s.segs i).getD Seg.absent

/-- A descriptor written. -/
def setSeg (i : Nat) (d : Seg) (s : State) : State := { s with segs := tabSet Seg.absent s.segs i d }

/-- The eight words of a descriptor (R76). -/
def segWords (d : Seg) : List Nat :=
  [d.state * 2 ^ 29 + d.width * 2 ^ 27 + b2n d.cpair * 2 ^ 26 + d.locks * 2 ^ 16, d.lenG, d.base % 2 ^ 32, d.base / 2 ^ 32,
    d.markBase % 2 ^ 32, d.markBase / 2 ^ 32, d.markCount, d.loads % 2 ^ 32]

/-- Words of a frame: 1, 2 or 4 (R75). -/
def widthWords (w : Nat) : Nat := 2 ^ w

/-- Frames of a segment. -/
def segLen (d : Seg) : Nat := 64 * d.lenG

/-- Bytes of a segment. -/
def segBytes (d : Seg) : Nat := 256 * widthWords d.width * d.lenG

/-- READY, LOCKED or PINNED: a step may name it (R77, R84). -/
def segPlayable (d : Seg) : Bool := d.state == 2 || d.state == 3 || d.state == 4

/-- Storage of a segment in whole units of 4 KiB (R75). -/
def segStore (d : Seg) : Nat := (segBytes d + 4095) / 4096 * 4096

/-- Storage of a marker list, 16 bytes an entry, in whole units of 4 KiB (R80). -/
def markStore (n : Nat) : Nat := (16 * n + 4095) / 4096 * 4096

/-- The ranges of Carafe that segments and marker lists hold, in ascending order of base. -/
def usedRanges (s : State) : Tab Nat :=
  s.segs.foldl (fun (t : Tab Nat) e =>
    let t1 := if e.2.state == 0 then t else tabPut t e.2.base (segStore e.2)
    if e.2.markCount == 0 then t1 else tabPut t1 e.2.markBase (markStore e.2.markCount)) []

/-- The first gap of a size above `a` in a list of ranges. -/
def firstGap (a n : Nat) : Tab Nat → Option Nat
  | [] => if a + n ≤ reservedBase then some a else none
  | (b, l) :: r => if a + n ≤ b then some a else firstGap (max a (b + l)) n r

/-- Whether a range is free. -/
def rangeFree (a n : Nat) (l : Tab Nat) : Bool :=
  decide (a + n ≤ reservedBase) && l.all (fun e => decide (a + n ≤ e.1) || decide (e.1 + e.2 ≤ a))

/-- Storage of a size on a 4 KiB boundary: where it lies is the device's choice (a free value, assumption 9); none when
no gap fits. -/
def allocIn (used : Tab Nat) (n : Nat) (s : State) : Option (Nat × State) :=
  match firstGap 0 n used with
  | none => none
  | some a =>
    let f := s.free 32
    let b := f.1 * 4096
    some (if rangeFree b n used then b else a, f.2)

/-- The ranges that hold storage, and under MAP2 the channels that CHMASK shuts out (R330). -/
def chUsed (s : State) (mask : Nat) : Tab Nat :=
  if mask == 0 || s.rd F.CAR_STAT_MAP_ACT 0 != 2 then usedRanges s
  else (List.range 4).foldl (fun t m => if bitOf mask m then t else tabPut t (3758096384 * m) 3758096384) (usedRanges s)

/-! ### What no register shows of a player -/

def plyOf (s : State) (p : Nat) : Ply := (tabGet s.plys p).getD Ply.fresh

def setPly (p : Nat) (v : Ply) (s : State) : State := { s with plys := tabSet Ply.fresh s.plys p v }

/-! ### Steps (R82, R83) -/

/-- Byte address of an absolute step. -/
def stepAddr (i : Nat) : Nat := stepTableBase + 32 * i

/-- The eight words of an absolute step. -/
def stepWords (s : State) (i : Nat) : List Nat := memRdWs s.carafe (stepAddr i) 8

/-- Word `w` of relative step `r` of a player: from its step cache, or from the table where no entry holds the step (R105). -/
def stepW (s : State) (p r w : Nat) : Nat :=
  match tabGet (plyOf s p).cache r with
  | some l => l.getD w 0
  | none => memRdW s.carafe (stepAddr (s.rd F.PLY_STEP_BASE_BASE p + r) + 4 * w)

def stSeg (s : State) (p r : Nat) : Nat := bitsOf (stepW s p r 0) 31 14
def stRepeat (s : State) (p r : Nat) : Nat := stepW s p r 1
def stRate (s : State) (p r : Nat) : Nat := stepW s p r 2
def stPhase (s : State) (p r : Nat) : Nat := bitsOf (stepW s p r 3) 31 8
def stPhaseEn (s : State) (p r : Nat) : Bool := bitOf (stepW s p r 3) 7
def stWaitEn (s : State) (p r : Nat) : Bool := bitOf (stepW s p r 3) 6
def stWaitEvt (s : State) (p r : Nat) : Nat := bitsOf (stepW s p r 3) 5 2
def stLearn (s : State) (p r : Nat) : Bool := bitOf (stepW s p r 3) 1
def stReversible (s : State) (p r : Nat) : Bool := bitOf (stepW s p r 3) 0
def stMask (s : State) (p r : Nat) : Nat := bitsOf (stepW s p r 4) 31 16
def stNext (s : State) (p r : Nat) : Nat := bitsOf (stepW s p r 4) 15 0
def stCorr (s : State) (p r : Nat) : Nat := bitsOf (stepW s p r 5) 31 14
/-- Timing, event line and target of ON entry `i`, 0 to 3. -/
def stOnTim (s : State) (p r i : Nat) : Nat :=
  let w := stepW s p r (if i < 2 then 0 else 5)
  if i % 2 == 0 then bitsOf w 13 12 else bitsOf w 7 6
def stOnEvt (s : State) (p r i : Nat) : Nat :=
  let w := stepW s p r (if i < 2 then 0 else 5)
  if i % 2 == 0 then bitsOf w 11 8 else bitsOf w 5 2
def stOnTgt (s : State) (p r i : Nat) : Nat :=
  let w := stepW s p r (if i < 2 then 6 else 7)
  if i % 2 == 0 then bitsOf w 31 16 else bitsOf w 15 0

/-- RATE of a step or packet that asks for no change. -/
def noRate : Nat := 0x80000000

/-! ### Locks (R78) -/

/-- The table of active halves, at byte 0 of the Refine pan (R180). -/
def refTable (s : State) : Nat := 262144 * s.rd F.REF_GCTL_PAN 0

/-- The byte of the table that holds a pair's bit, and the bit. -/
def refByte (s : State) (i : Nat) : Nat := (memRd s.pans (refTable s + i / 8)).toNat
def refBit (s : State) (i : Nat) : Bool := bitOf (refByte s i) (i % 8)

/-- The active half of a correction pair, A while the Refine pan is not REFINE's, or the segment itself (R107, R180, R191). -/
def pairHalf (s : State) (i : Nat) : Nat :=
  if (segOf s i).cpair && s.rd F.PAN_OWN_OWNER (s.rd F.REF_GCTL_PAN 0) == 6 && refBit s i then i + 1 else i

/-- The segments that a player's window names as SEG or CORR, each once (R78). -/
def windowSegs (s : State) (p : Nat) : List Nat :=
  (List.range (s.rd F.PLY_STEP_COUNT_COUNT p)).foldl (fun l r =>
    let l1 := addN l (stSeg s p r)
    let c := stCorr s p r
    if c == noSeg then l1 else
      let l2 := addN l1 c
      if (segOf s c).cpair then addN l2 (c + 1) else l2) []

/-- One more player holds a segment: READY becomes LOCKED. -/
def lockSeg (i : Nat) (s : State) : State :=
  let d := segOf s i
  setSeg i { d with locks := d.locks + 1, state := if d.state == 2 then 3 else d.state } s

/-- One player fewer holds a segment: LOCKED with no lock left becomes READY. -/
def unlockSeg (i : Nat) (s : State) : State :=
  let d := segOf s i
  let n := d.locks - 1
  setSeg i { d with locks := n, state := if d.state == 3 && n == 0 then 2 else d.state } s

/-! ### Ranges of Carafe that hold a segment (R20, R78) -/

/-- Whether a byte address lies in the frames of a segment. -/
def inSeg (d : Seg) (a : Nat) : Bool := d.state != 0 && decide (d.base ≤ a) && decide (a < d.base + segBytes d)

/-- A byte that a BAR2 write may not change: the reserved region, beyond the usable space, a LOCKED or PINNED segment,
or one whose pin copy is in progress (R20, R296, R424). -/
def writeBarred (s : State) (a : Nat) : Bool :=
  decide (reservedBase ≤ a) ||
    s.segs.any (fun e => (e.2.state == 3 || e.2.state == 4 || (match e.2.pin with | some (_, u) => !u | none => false)) && inSeg e.2 a)

/-! ### Marker lists (R80, R81) -/

/-- Offset, bits and duration of entry `i` of a marker list. -/
def markAt (s : State) (d : Seg) (i : Nat) : Nat × Nat × Nat :=
  (memRdW s.carafe (d.markBase + 16 * i), memRdW s.carafe (d.markBase + 16 * i + 4) % 65536,
    memRdW s.carafe (d.markBase + 16 * i + 8))

/-- Whether an entry covers a frame: a DURATION of 0 covers to the end. -/
def markCovers (e : Nat × Nat × Nat) (f : Nat) : Bool :=
  decide (e.1 ≤ f) && (e.2.2 == 0 || decide (f < e.1 + e.2.2))

/-- OR of the bits of every entry that covers a frame (R81). -/
def marksAt (s : State) (d : Seg) (f : Nat) : Nat :=
  (List.range d.markCount).foldl (fun m i => let e := markAt s d i; if markCovers e f then m ||| e.2.1 else m) 0

/-! ### What a read of Carafe sees of the tables that the logs and firmware keep (R76, R383, R388) -/

/-- A word of a firmware slot: as programmed, else as erased or as delivered. -/
def fwWordOf (blank : Bool) (t : Tab Nat) (i : Nat) : Nat :=
  (tabGet t i).getD (if blank then 0xFFFFFFFF else (Config.fwWord i).toNat)

/-- The word of Carafe at a 4-byte aligned address: descriptors, audit mirror, event ring and the copy of the firmware slot are shown from the
state that holds them, every other address from Carafe's bytes. -/
def carWord (s : State) (a : Nat) : Nat :=
  if decide (descBase ≤ a) && decide (a < audMirrorBase) then
    (segWords (segOf s ((a - descBase) / 32))).getD ((a - descBase) % 32 / 4) 0
  else if decide (audMirrorBase ≤ a) && decide (a < evRingBase) then
    (((tabGet s.audMirror ((a - audMirrorBase) / 64)).getD []).getD ((a - audMirrorBase) % 64 / 4) 0)
  else if decide (evRingBase ≤ a) && decide (a < carafeEnd) then
    (((tabGet s.evRing ((a - evRingBase) / 32)).getD []).getD ((a - evRingBase) % 32 / 4) 0)
  else if decide (carafeEnd ≤ a) then 0
  else if decide (fwImageBase ≤ a) && decide (a < fwImageBase + 2 ^ 23) then
    (match s.fwImg with
     | some f => fwWordOf f.blank f.words ((a - fwImageBase) / 4)
     | none => memRdW s.carafe a)
  else memRdW s.carafe a

/-! ### Uncorrectable units -/

/-- A read meets an uncorrectable unit: a first find joins the list, counts and is recorded (R214). -/
def carUe (port u : Nat) (s : State) : State :=
  let s0 := { s with badUnits := addN s.badUnits u }
  if memN s.car.ueList u then s0
  else
    let a := 64 * u
    let s1 := (s0.bump F.CAR_ECC_UE 0).wrs [(F.CAR_ECC_LAST_UE, 0, 1), (F.CAR_ECC_LAST_PORT, 0, port), (F.CAR_ECC_LAST_ADDR, 0, a)]
    logEvent srcCarafe 0x21 (a % 2 ^ 32) (a / 2 ^ 32) port
      { s1 with car := { s1.car with ueList := (u :: s1.car.ueList).take 256 } }

/-- Whether a range holds an uncorrectable unit. -/
def carBad (s : State) (a n : Nat) : Bool := s.badUnits.any (fun u => decide (a / 64 ≤ u) && decide (64 * u < a + n))

/-- A read of a range by a port: its uncorrectable units are found. -/
def carScan (port a n : Nat) (s0 : State) : State :=
  let s := s0.ask port false a n
  (s.badUnits.filter (fun u => decide (a / 64 ≤ u) && decide (64 * u < a + n))).foldl (fun t u => carUe port u t) s

/-- A unit rewritten whole: its error is gone (R215). -/
def carHeal (u : Nat) (s : State) : State :=
  { s with badUnits := delN s.badUnits u, car := { s.car with ueList := delN s.car.ueList u } }

/-- The units that a range covers whole lose their errors. -/
def carHealRange (a n : Nat) (s : State) : State :=
  (s.badUnits.filter (fun u => decide (a ≤ 64 * u) && decide (64 * u + 64 ≤ a + n))).foldl (fun t u => carHeal u t) s

end Sys2Proof.Machine
end

