-- ==== Sys2Proof/Machine/Queue.lean ====
section
/-! DEFINITION. Brine queues: storage and index, pointers, commit, rewind, pass, drop, flush and the crossing notice
(R231, R234 to R243). -/

namespace Sys2Proof.Machine

def quOf (s : State) (q : Nat) : Queue := (tabGet s.queues q).getD Queue.fresh

def setQu (q : Nat) (v : Queue) (s : State) : State := { s with queues := tabSet Queue.fresh s.queues q v }

/-! ### Storage and index (R231) -/

/-- Words of the storage ring and entries of the index ring. -/
def qWords (s : State) (q : Nat) : Nat := 2 ^ s.rd F.BRN_CTL_A q
def qEnts (s : State) (q : Nat) : Nat := 2 ^ s.rd F.BRN_CTL_B q

def qDeep (s : State) (q : Nat) : Bool := s.on F.BRN_CTL_DEEP q

/-- Byte address in Carafe, or in the pans (256 KiB each), of word `i` of a queue's storage. -/
def qWordAddr (s : State) (q i : Nat) : Nat :=
  if qDeep s q then (segOf s (s.rd F.BRN_STORE_SEG q)).base + 4 * (i % qWords s q)
  else 262144 * s.rd F.BRN_STORE_PAN q + 4096 * s.rd F.BRN_STORE_OFFSET q + 4 * (i % qWords s q)

/-- Byte address of index entry `i`. -/
def qIdxAddr (s : State) (q i : Nat) : Nat :=
  if qDeep s q then (segOf s (s.rd F.BRN_STORE_SEG q)).base + 4 * (qWords s q + i % qEnts s q)
  else 262144 * s.rd F.BRN_IDX_PAN q + 256 * s.rd F.BRN_IDX_OFFSET q + 4 * (i % qEnts s q)

/-- A word of a queue's memory. -/
def qMemRd (s : State) (q a : Nat) : Nat := if qDeep s q then memRdW s.carafe a else memRdW s.pans a

/-- A word written: writes of deep queues are whole units (R215). A written word of a pan has valid check bits again (R219). -/
def qMemWr (q a v : Nat) (s : State) : State :=
  if qDeep s q then carHeal (a / 64) { s with carafe := memWrW s.carafe a v }
  else { s with pans := memWrW s.pans a v, badPans := delN s.badPans (a / 8) }

/-- Whether a byte of a queue's memory lies in an uncorrectable unit of the Carafe, or 64-bit word of a pan (R214, R219). -/
def qBad (s : State) (q a : Nat) : Bool := if qDeep s q then memN s.badUnits (a / 64) else memN s.badPans (a / 8)

/-- Word `i` of the storage ring. -/
def qWord (s : State) (q i : Nat) : Nat := qMemRd s q (qWordAddr s q i)

/-- The length that index entry `i` holds. -/
def qLen (s : State) (q i : Nat) : Nat := qMemRd s q (qIdxAddr s q i) % 2 ^ 28

/-! ### Pointers (R234) -/

/-- The modulus of word pointers and of index pointers. -/
def qMod (s : State) (q : Nat) : Nat := 2 * qWords s q
def qIMod (s : State) (q : Nat) : Nat := 2 * qEnts s q

/-- Committed packets that have not been passed. -/
def qAvail (s : State) (q : Nat) : Nat :=
  (s.rd F.BRN_IPTR_ICP q + qIMod s q - s.rd F.BRN_IPTR_IRP q) % qIMod s q

/-- Words of storage written and not passed. -/
def qUsed (s : State) (q : Nat) : Nat := (s.rd F.BRN_WP_PTR q + qMod s q - s.rd F.BRN_RP_PTR q) % qMod s q

def qFull (s : State) (q : Nat) : Bool := qUsed s q == qWords s q
def qIdxFull (s : State) (q : Nat) : Bool := qAvail s q == qEnts s q

/-- The index pointers of the packets that a reader sees, oldest first: not passed and not dropped (R240). -/
def qVisible (s : State) (q : Nat) : List Nat :=
  ((List.range (qAvail s q)).map (fun i => (s.rd F.BRN_IPTR_IRP q + i) % qIMod s q)).filter
    (fun i => !memN (quOf s q).dropped i)

/-- The word pointer of the packet under an index pointer. -/
def qStart (s : State) (q i : Nat) : Nat :=
  let n := (i + qIMod s q - s.rd F.BRN_IPTR_IRP q) % qIMod s q
  (List.range n).foldl (fun a k => (a + qLen s q (s.rd F.BRN_IPTR_IRP q + k)) % qMod s q) (s.rd F.BRN_RP_PTR q)

/-! ### The notice (R243) and the status fields -/

/-- `BRN_FREE` and `BRN_FILL` (R234). -/
def qFree (s : State) (q : Nat) : Nat :=
  if qIdxFull s q && !(quOf s q).opened then 0 else qWords s q - qUsed s q

def qFill (s : State) (q : Nat) : Nat := (s.rd F.BRN_CP_PTR q + qMod s q - s.rd F.BRN_RP_PTR q) % qMod s q

/-- The notice's own vector and the queue's bit of HST_QPEND (R243, R300). -/
def qNotice (q : Nat) (cross : Bool) (s : State) : State :=
  let pend := s.rd F.BRN_NOTE_XCNT q != s.rd F.BRN_NOTE_ACK q
  let new := pend && (cross || !s.on F.BRN_STAT_PENDING q)
  let s1 := s.wrB F.BRN_STAT_PENDING q pend
  let w := s1.rd F.HST_QPEND_PEND (q / 32)
  let s2 := s1.wr F.HST_QPEND_PEND (q / 32)
    (if pend then w ||| 2 ^ (q % 32) else if bitOf w (q % 32) then w - 2 ^ (q % 32) else w)
  if new then msixRaise (32 + q % 16) s2 else s2

/-- The fields that follow the pointers, and the crossing notice; an upward crossing counts when `count` is set. -/
def qSync (count : Bool) (q : Nat) (s : State) : State :=
  let u := quOf s q
  let s1 := s.wrs [(F.BRN_FREE_WORDS, q, qFree s q), (F.BRN_FILL_WORDS, q, qFill s q),
    (F.BRN_STAT_EMPTY, q, b2n (qVisible s q).isEmpty), (F.BRN_STAT_HELD, q, b2n u.held),
    (F.BRN_STAT_OPEN, q, b2n u.opened), (F.BRN_STAT_WR_CLAIM, q, b2n u.writer.isSome),
    (F.BRN_STAT_RD_CLAIM, q, b2n u.reader.isSome)]
  let v := if s1.on F.BRN_LVL_SENSE q then s1.rd F.BRN_FREE_WORDS q else s1.rd F.BRN_FILL_WORDS q
  let above := s1.on F.BRN_CTL_EN q && decide (s1.rd F.BRN_LVL_LEVEL q ≤ v)
  let cross := count && above && !s1.on F.BRN_STAT_ABOVE q
  let s2 := if cross then s1.tally F.BRN_NOTE_XCNT q else s1
  qNotice q cross (s2.wrB F.BRN_STAT_ABOVE q above)

/-! ### Writing (R234 to R237) -/

/-- The open packet vanishes: WP returns to its first word (R236, R237). -/
def qRewind (abandon : Bool) (q : Nat) (s : State) : State :=
  let u := quOf s q
  let s1 := s.wr F.BRN_WP_PTR q u.m
  let s2 := if abandon then s1.bump F.BRN_ERR_ABANDON q else s1.bump F.BRN_ERR_OVERSIZE q
  let s3 := setQu q { u with opened := false, words := 0, ring := none } s2
  qSync true q (logEvent (srcQueue q) 0x40 u.words (b2n abandon) 0 s3)

/-- A packet opens: the mark is set; false when the index is full (R234). -/
def qOpen (q : Nat) (ring : Option Nat) (s : State) : Bool × State :=
  if qIdxFull s q then (false, s)
  else (true, setQu q { quOf s q with opened := true, m := s.rd F.BRN_WP_PTR q, words := 0, ring := ring } s)

/-- Words enter the open packet until the storage is full; false when it is. -/
def qPut (q : Nat) (ws : List Nat) (s : State) : Bool × State :=
  match ws with
  | [] => (true, s)
  | v :: r =>
    if qFull s q then (false, s) else
      let wp := s.rd F.BRN_WP_PTR q
      let s1 := qMemWr q (qWordAddr s q wp) v s
      let u := quOf s1 q
      qPut q r (setQu q { u with words := u.words + 1 } (s1.wr F.BRN_WP_PTR q ((wp + 1) % qMod s q)))

/-- The packet's last word has been written: its index entry makes it visible (R235). -/
def qCommit (q : Nat) (s : State) : State :=
  let u := quOf s q
  let icp := s.rd F.BRN_IPTR_ICP q
  let s1 := qMemWr q (qIdxAddr s q icp) u.words s
  let s2 := (s1.wr F.BRN_CP_PTR q (s1.rd F.BRN_WP_PTR q)).wr F.BRN_IPTR_ICP q ((icp + 1) % qIMod s q)
  qSync true q (setQu q { u with opened := false, words := 0, ring := none } s2)

/-! ### Passing, dropping, flushing (R234, R240, R241) -/

/-- The head packet is passed; packets dropped behind it pass with it. -/
def qPassFuel (fuel q : Nat) (s : State) : State :=
  match fuel with
  | 0 => s
  | n + 1 =>
    if qAvail s q == 0 then s else
      let irp := s.rd F.BRN_IPTR_IRP q
      let nxt := (irp + 1) % qIMod s q
      let s1 := (s.wr F.BRN_RP_PTR q ((s.rd F.BRN_RP_PTR q + qLen s q irp) % qMod s q)).wr F.BRN_IPTR_IRP q nxt
      let u := quOf s1 q
      let s2 := setQu q { u with dropped := delN u.dropped irp } s1
      if memN u.dropped nxt && qAvail s2 q != 0 then qPassFuel n q s2 else s2

/-- `pass` of R234, with the dropped packets behind it (R240). -/
def qPass (q : Nat) (s : State) : State := qSync true q (qPassFuel (qEnts s q) q s)

/-- The visible packets that are neither held nor decided as a successor, oldest first. -/
def qLoose (s : State) (q : Nat) : List Nat :=
  let u := quOf s q
  (qVisible s q).drop (b2n u.held + b2n u.decided)

/-- The visible packet behind the first `n` is dropped: at the head it passes at once, behind a held one it leaves visibility (R240). -/
def qDropAt (n q : Nat) (s : State) : State :=
  match (qVisible s q).drop n with
  | [] => s
  | i :: _ =>
    let u := quOf s q
    let s1 := setQu q { u with decided := u.decided && n != b2n u.held } s
    if i == s.rd F.BRN_IPTR_IRP q then qPass q s1
    else qSync true q (setQu q { quOf s1 q with dropped := u.dropped ++ [i] } s1)

/-- `BRN_CMD.DROP` and `Q_DROP`: the oldest visible packet that is not held is dropped, a decided successor too (R240). -/
def qDrop (q : Nat) (s : State) : State := qDropAt (b2n (quOf s q).held) q s

/-- `STREAM_SKIP` and the header checks drop the oldest packet that is neither held nor decided (R135, R240). -/
def qSkip (q : Nat) (s : State) : State := qDropAt (b2n (quOf s q).held + b2n (quOf s q).decided) q s

/-- FLUSH: the open packet and every unheld packet go; with a held packet the pointers are rebuilt around it (R241). -/
def qFlush (q : Nat) (s : State) : State :=
  let u := quOf s q
  let u1 := { u with opened := false, words := 0, ring := none, dropped := [], decided := false,
                     m := if u.held then (s.rd F.BRN_RP_PTR q + qLen s q (s.rd F.BRN_IPTR_IRP q)) % qMod s q else 0 }
  let s1 :=
    if u.held then
      let e := (s.rd F.BRN_RP_PTR q + qLen s q (s.rd F.BRN_IPTR_IRP q)) % qMod s q
      s.wrs [(F.BRN_CP_PTR, q, e), (F.BRN_WP_PTR, q, e), (F.BRN_IPTR_ICP, q, (s.rd F.BRN_IPTR_IRP q + 1) % qIMod s q)]
    else s.wrs [(F.BRN_WP_PTR, q, 0), (F.BRN_CP_PTR, q, 0), (F.BRN_RP_PTR, q, 0), (F.BRN_IPTR_ICP, q, 0), (F.BRN_IPTR_IRP, q, 0)]
  qSync true q (setQu q u1 s1)

/-- Every pointer and notice count at 0: the queue is empty (R232). -/
def qEmpty (q : Nat) (s : State) : State :=
  setQu q Queue.fresh (s.wrs [(F.BRN_WP_PTR, q, 0), (F.BRN_CP_PTR, q, 0), (F.BRN_RP_PTR, q, 0), (F.BRN_IPTR_ICP, q, 0),
    (F.BRN_IPTR_IRP, q, 0), (F.BRN_NOTE_XCNT, q, 0), (F.BRN_NOTE_ACK, q, 0)])

/-- The held mark of a queue's head packet. -/
def qHold (q : Nat) (b : Bool) (s : State) : State :=
  let u := quOf s q
  qSync true q (setQu q { u with held := b } s)

/-- The claims of a queue (R233). -/
def qClaimReader (q : Nat) (p : Option Nat) (s : State) : State :=
  let u := quOf s q
  qSync true q (setQu q { u with reader := p, held := u.held && p.isSome, decided := u.decided && p.isSome } s)

def qClaimWriter (q : Nat) (c : Option Nat) (s : State) : State :=
  let u := quOf s q
  qSync true q (setQu q { u with writer := c } s)

end Sys2Proof.Machine
end

