-- ==== Sys2Proof/Machine/Player.lean ====
section
/-! DEFINITION. Players: binding, states, arming, starting, holding, stopping and SAFE (R55, R110 to R121, R137). -/

namespace Sys2Proof.Machine

def chnOf (s : State) (c : Nat) : Chn := (tabGet s.chns c).getD Chn.fresh

def setChn (c : Nat) (v : Chn) (s : State) : State := { s with chns := tabSet Chn.fresh s.chns c v }

/-! ### State codes (R112) and device modes (R339) -/

def psIdle : Nat := 0
def psLoaded : Nat := 1
def psArmed : Nat := 2
def psRunning : Nat := 3
def psWaiting : Nat := 4
def psStarved : Nat := 5
def psHeld : Nat := 6
def psDone : Nat := 7
def psSafe : Nat := 8

def mdShelf : Nat := 0
def mdWake : Nat := 1
def mdTrain : Nat := 2
def mdSetup : Nat := 3
def mdArmed : Nat := 4
def mdRun : Nat := 5
def mdHold : Nat := 6
def mdCoast : Nat := 7
def mdCupping : Nat := 8
def mdSafe : Nat := 9
def mdService : Nat := 10
def mdRecover : Nat := 11

def mode (s : State) : Nat := s.rd F.GLB_MODE_MODE 0

def pst (s : State) (p : Nat) : Nat := s.rd F.PLY_STATE_STATE p

def setPst (p st : Nat) (s : State) : State := s.wr F.PLY_STATE_STATE p st

/-- RUNNING, WAITING, STARVED or HELD (R340). -/
def active (s : State) (p : Nat) : Bool := let t := pst s p; t == psRunning || t == psWaiting || t == psStarved || t == psHeld

/-- ARMED or active: the states that hold locks and a read claim (R112, R233). -/
def engaged (s : State) (p : Nat) : Bool := pst s p == psArmed || active s p

/-! ### Binding (R110) -/

/-- Words of a player's frame. -/
def plyW (s : State) (p : Nat) : Nat := widthWords (s.rd F.PLY_CTL_WIDTH p)

/-- The channel that word `w` drives. -/
def plyChan (s : State) (p w : Nat) : Nat :=
  if w == 0 then s.rd F.PLY_CHAN_CH0 p else if w == 1 then s.rd F.PLY_CHAN_CH1 p
  else if w == 2 then s.rd F.PLY_CHAN_CH2 p else s.rd F.PLY_CHAN_CH3 p

/-- The words that BIND binds. -/
def plyBinds (s : State) (p : Nat) : List Nat := (List.range 4).filter (fun w => bitOf (s.rd F.PLY_CTL_BIND p) w)

/-- The channels a player binds, by word. -/
def plyChans (s : State) (p : Nat) : List Nat := (plyBinds s p).map (plyChan s p)

/-- The channels a player binds that are enabled. -/
def plyOnChans (s : State) (p : Nat) : List Nat := (plyChans s p).filter (fun c => s.on F.CHN_CTL_EN c)

/-- The smallest D of the enabled bound channels, 4 if there is none (R55). -/
def dmin (s : State) (p : Nat) : Nat :=
  match plyOnChans s p with
  | [] => 4
  | c :: r => r.foldl (fun m d => min m ((chnOf s d).dm1 + 1)) ((chnOf s c).dm1 + 1)

/-- Whether a channel that has run has not yet reached REST: P16 channels never ramp (R141, R146). -/
def chnRampLeft (s : State) (c : Nat) : Bool :=
  let h := chnOf s c
  h.everOn && !bitOf h.ctl 4 && h.z1 != sgn 32 h.rest

/-- Every bound channel has reached REST. -/
def plyRampDone (s : State) (p : Nat) : Bool := (plyChans s p).all (fun c => !chnRampLeft s c)

/-- `PLY_STATE.RAMPING` follows the ramp of the bound channels. -/
def plyRampSync (p : Nat) (s : State) : State := s.wrB F.PLY_STATE_RAMPING p ((plyOf s p).ramp && !plyRampDone s p)

/-- The player whose frames a channel follows: an enabled player that binds it, or one in SAFE whose ramp has not
completed (R119, R145). -/
def driver (s : State) (c : Nat) : Option Nat :=
  (List.range 64).find? (fun p => memN (plyChans s p) c && (s.on F.PLY_CTL_EN p || (pst s p == psSafe && !plyRampDone s p)))

/-! ### The stream packet a player holds (R130, R240) -/

def plyStream (s : State) (p : Nat) : Bool := s.on F.PLY_CTL_MODE p

def plyQueue (s : State) (p : Nat) : Nat := s.rd F.PLY_STREAM_QUEUE p

/-- The queue passes the packet that a player holds. -/
def plyPass (p : Nat) (s : State) : State :=
  if (plyOf s p).cur.isSome then
    let q := plyQueue s p
    setPly p { plyOf s p with cur := none } (qPass q (setQu q { quOf s q with held := false } s))
  else s

/-! ### The order of a tick's actions (R113) -/

/-- A STOP (3), HOLD (4) or RESUME (5) that acts now is kept until its tick ends. -/
def actNote (rank : Nat) (job : Option Nat) (reg : Bool) (p : Nat) (s : State) : State :=
  let y := plyOf s p
  setPly p { y with acts := y.acts ++ [⟨s.eff, rank, job, reg, s.rd F.PLY_STATE_HELD_FROM p, y.ramp⟩] } s

/-- A void action leaves no trace: HELD_FROM and the ramp are as before it, and the command answers `WRONG_MODE`, or as a register
write sets CMD_REJ. -/
def actVoid (p : Nat) (a : Act) (s : State) : State :=
  let s1 := if a.rank == 4 then s.wr F.PLY_STATE_HELD_FROM p a.from_ else s
  let s2 := if a.rank == 3 then plyRampSync p (setPly p { plyOf s1 p with ramp := a.ramp } s1) else s1
  let s3 := if a.reg then s2.wr F.PLY_STATE_CMD_REJ p 1 else s2
  completeOpt a.job stWrongMode 0 [] s3

/-- An action of a rank comes before the later ones of its tick, the newest of which is undone first (R113). -/
def actsVoid (rank p : Nat) (s : State) : State :=
  let l := (plyOf s p).acts
  let s1 := setPly p { plyOf s p with acts := l.filter (fun a => decide (a.rank ≤ rank)) } s
  (l.filter (fun a => decide (rank < a.rank))).reverse.foldl (fun t a => actVoid p a t) s1

/-- The tick of a player's actions ends: those that stood are answered. -/
def actsDone (p : Nat) (s : State) : State :=
  let l := (plyOf s p).acts
  if l.isEmpty then s
  else
    let s1 := setPly p { plyOf s p with acts := l.filter (fun a => decide (s.now < a.tick)) } s
    (l.filter (fun a => decide (a.tick ≤ s.now))).foldl (fun t a => completeOpt a.job stOk 0 [] t) s1

/-- Edges that registered in the tick in which a player enters HELD, DONE or SAFE are discarded (R113). -/
def edgesVoid (p : Nat) (s : State) : State :=
  let y := plyOf s p
  let reg := y.evReg.filter (fun e => decide (e.2 < s.eff))
  if reg.length == y.evReg.length then s
  else (setPly p { y with evReg := reg } s).wr F.PLY_EVPEND_PEND p (reg.foldl (fun a e => a + 2 ^ e.1) 0)

/-! ### Leaving play -/

/-- Every lock the player holds is released (R78). -/
def plyUnlock (p : Nat) (s : State) : State :=
  let s1 := (plyOf s p).locks.foldl (fun t i => unlockSeg i t) s
  setPly p { plyOf s1 p with locks := [] } s1

/-- An ARM in progress is cancelled: its reply is WRONG_MODE and its locks go (R114). -/
def armCancel (p : Nat) (s : State) : State :=
  match (plyOf s p).arm with
  | none => s
  | some (j, _) =>
    let s1 := (setPly p { plyOf s p with arm := none } s).wr F.PLY_STATE_ARM_BUSY p 0
    completeOpt j stWrongMode 0 [] (plyUnlock p s1)

/-- A pending start is cancelled before t_s (R115). -/
def startCancel (p : Nat) (s : State) : State :=
  match (plyOf s p).start with
  | none => s
  | some st => completeOpt st.job stWrongMode 0 []
      ((setPly p { plyOf s p with start := none } s).wr F.PLY_STATE_START_PEND p 0)

/-- What entry into IDLE, DONE or SAFE ends: an ARM, a start, requests, locks, the held packet, the read claim (R78,
R93, R114, R115, R130, R233); the prefetch port asks for nothing, and shows no lead (R125). -/
def plyLeave (p : Nat) (s : State) : State :=
  let s1 := edgesVoid p (plyPass p (plyUnlock p (startCancel p (armCancel p s))))
  let y := plyOf s1 p
  let s2 := setPly p { y with jump := none, phase := none, skip := none, dec := none, wait := none, nxt := none,
                              starveRel := none, reqs := 0, lateRev := false, anchor := false } s1
  let s3 := s2.wrs [(F.PLY_STATE_HELD_MODE, p, 0), (F.PLY_STATE_UNDERRUN, p, 0), (F.PLY_SEQ_STAT_WAITING, p, 0),
    (F.PLY_SEQ_STAT_LATE, p, 0), (F.PLY_SEQ_STAT_CLAMPED, p, 0), (F.PLY_SEQ_STAT_REDO, p, 0), (F.PLY_PF_STAT_LEAD, p, 0),
    (F.PLY_PF_STAT_PANIC, p, 0)]
  if plyStream s3 p && (quOf s3 (plyQueue s3 p)).reader == some p then qClaimReader (plyQueue s3 p) none s3 else s3

/-- Entry into SAFE with a cause, for a player that is enabled (R119). -/
def plySafe (p cause chan : Nat) (s : State) : State :=
  if s.on F.PLY_CTL_EN p then
    let s1 := setPst p psSafe ((plyLeave p (actsVoid 1 p s)).wr F.PLY_CTL_EN p 0)
    let s2 := (setPly p { plyOf s1 p with ramp := true, ended := false, hold := (plyOf s1 p).hold } s1).wrs
      [(F.PLY_FAULT_CAUSE, p, cause), (F.PLY_FAULT_CHAN, p, chan)]
    plyRampSync p (logEvent (srcPlayer p) 0x30 cause chan 0 s2)
  else s

/-- EN := 0 (R112, R114, R115): any state but SAFE becomes IDLE, and a ramp begun earlier completes. -/
def plyDisable (p : Nat) (s : State) : State :=
  let s1 := (plyLeave p (actsVoid 2 p s)).wr F.PLY_CTL_EN p 0
  if pst s p == psSafe then s1 else setPst p psIdle s1

/-! ### STOP, HOLD, RESUME (R117, R118, R120, R121) -/

/-- Whether STOP is admitted (R121). -/
def stopOk (s : State) (p : Nat) : Bool :=
  !(pst s p == psIdle || pst s p == psSafe) && (pst s p != psLoaded || (plyOf s p).arm.isSome)

/-- STOP: in LOADED it only cancels the ARM; elsewhere the channels ramp and the player is DONE (R118). -/
def plyStop (p : Nat) (s : State) : State :=
  if pst s p == psLoaded then armCancel p s
  else
    let s1 := setPst p psDone (plyLeave p (actsVoid 3 p s))
    plyRampSync p (setPly p { plyOf s1 p with ramp := true, ended := false } s1)

/-- STOP, HOLD or RESUME as a command: it acts, and stands unless an earlier action of its tick makes it void (R113). -/
def plyAct (rank : Nat) (job : Option Nat) (reg : Bool) (p : Nat) (f : State → State) (s : State) : State :=
  f (actNote rank job reg p s)

/-- The states that HOLD and mode HOLD stop (R117, R120). -/
def holdable (s : State) (p : Nat) : Bool :=
  pst s p == psRunning || pst s p == psWaiting || (pst s p == psStarved && !s.on F.PLY_CTL_STARVE_POL p)

/-- Whether HOLD is admitted (R117, R121). A HOLD of the tick in which the player resumes comes before the RESUME, and
finds the player HELD (R113). -/
def holdOk (s : State) (p : Nat) : Bool :=
  (plyOf s p).resumedAt != some s.eff && holdable s p

/-- HOLD: position and markers freeze; HELD_FROM records the state left (R117). -/
def plyHold (byMode : Bool) (p : Nat) (s : State) : State :=
  (edgesVoid p s).wrs [(F.PLY_STATE_HELD_FROM, p, pst s p), (F.PLY_STATE_STATE, p, psHeld), (F.PLY_STATE_HELD_MODE, p, b2n byMode)]

/-- Whether RESUME is admitted (R121). -/
def resumeOk (s : State) (p : Nat) : Bool :=
  pst s p == psHeld || (pst s p == psStarved && s.on F.PLY_CTL_STARVE_POL p)

/-- RESUME taking effect in tick `t`: the position is anchored to the rail of that tick; a wait must be released, and a
starved player resumes, from that tick on (R117, R134): a release taken before the HOLD is gone, and the first RESUME of a starved
player is its release. While the device is in HOLD, a player that would return to RUNNING or WAITING stays HELD, by the mode from
now on (R344). -/
def plyResume (t p : Nat) (s : State) : State :=
  let y := { plyOf s p with resumedAt := some t }
  let from_ := s.rd F.PLY_STATE_HELD_FROM p
  if pst s p == psStarved then setPly p { y with starveRel := some (y.starveRel.getD t) } s
  else if mode s == mdHold && (from_ == psRunning || from_ == psWaiting) then (setPly p y s).wr F.PLY_STATE_HELD_MODE p 1
  else
    let s1 := s.wrs [(F.PLY_STATE_STATE, p, s.rd F.PLY_STATE_HELD_FROM p), (F.PLY_STATE_HELD_MODE, p, 0)]
    setPly p { y with anchor := true, starveMin := t, wait := y.wait.map (fun w => { w with te := max w.te t, rel := none }) } s1

/-- A state that play enters: HELD instead while the device is in HOLD (R344). -/
def enterPlay (p st : Nat) (s : State) : State :=
  if mode s == mdHold && (st == psRunning || st == psWaiting) then
    s.wrs [(F.PLY_STATE_HELD_FROM, p, st), (F.PLY_STATE_STATE, p, psHeld), (F.PLY_STATE_HELD_MODE, p, 1)]
  else setPst p st s

/-! ### Enabling (R111) -/

/-- The pan bytes of a player's buffer. -/
def plyBuf (s : State) (p : Nat) : Nat × Nat :=
  (262144 * s.rd F.PLY_PF_PAN p + 4096 * s.rd F.PLY_PF_OFFSET p, 4096 * s.rd F.PLY_PF_SIZE p)

/-- Whether two byte ranges overlap. -/
def overlap (a b : Nat × Nat) : Bool := decide (a.1 < b.1 + b.2) && decide (b.1 < a.1 + a.2)

/-- Frames of the main ring; negative when the buffer is too small for its head slots (R122). -/
def nRing (s : State) (p : Nat) : Int := ((s.rd F.PLY_PF_SIZE p * 1024 / plyW s p : Nat) : Int) - 576

/-- The ring rule (R123). -/
def ringRule (s : State) (p : Nat) : Bool :=
  decide (((s.rd F.PLY_PF_LVL_REFILL p + 64 + 64 / plyW s p : Nat) : Int) ≤ nRing s p)

/-- Whether a list of numbers names one twice. -/
def hasDup : List Nat → Bool
  | [] => false
  | a :: r => memN r a || hasDup r

/-- Whether R111 refuses the enable of a player; `par` says that a register of the player holds a mismatch. -/
def plyEnableBad (par : Bool) (p : Nat) (s : State) : Bool :=
  let bind := s.rd F.PLY_CTL_BIND p
  let others := (List.range 64).filter (fun o => o != p)
  bind == 0 || decide (2 ^ plyW s p ≤ bind) || hasDup (plyChans s p)
    || others.any (fun o => (s.on F.PLY_CTL_EN o || (pst s o == psSafe && !plyRampDone s o))
        && (plyChans s p).any (fun c => memN (plyChans s o) c))
    || decide (64 < s.rd F.PLY_PF_OFFSET p + s.rd F.PLY_PF_SIZE p)
    || s.rd F.PAN_OWN_OWNER (s.rd F.PLY_PF_PAN p) != 2
    || others.any (fun o => s.on F.PLY_CTL_EN o && overlap (plyBuf s p) (plyBuf s o))
    || !ringRule s p
    || (pst s p == psSafe && !plyRampDone s p) || par

/-- An accepted EN := 1: LOADED (R111, R112). -/
def plyEnable (p : Nat) (s : State) : State :=
  setPly p { Ply.fresh with eccUnits := [] }
    (s.wrs [(F.PLY_CTL_EN, p, 1), (F.PLY_STATE_CFG_BAD, p, 0), (F.PLY_STATE_STATE, p, psLoaded), (F.PLY_STATE_RAMPING, p, 0)])

/-! ### Arming (R84, R114) -/

/-- The event edge selection of a line (R90): 0 rising, 1 falling, 2 both, 3 disabled. -/
def evEdge (s : State) (p e : Nat) : Nat :=
  if e % 2 == 0 then s.rd (F.TRG_EVSEL_EDGE_L (e / 2)) p else s.rd (F.TRG_EVSEL_EDGE_H (e / 2)) p

/-- The source code of a line. -/
def evSrc (s : State) (p e : Nat) : Nat :=
  if e % 2 == 0 then s.rd (F.TRG_EVSEL_SRC_L (e / 2)) p else s.rd (F.TRG_EVSEL_SRC_H (e / 2)) p

/-- A cause of R84 that a step of the window fails, 0 for none. Where one step fails several checks the lowest cause is taken, a choice that
R84 leaves open (assumption 69). -/
def stepCause (s : State) (p r : Nat) : Nat :=
  let n := s.rd F.PLY_STEP_COUNT_COUNT p
  let d := segOf s (stSeg s p r)
  let c := segOf s (stCorr s p r)
  let ons := (List.range 4).filter (fun i => stOnTim s p r i != 0)
  if (stNext s p r != 0xFFFF && decide (n ≤ stNext s p r)) || ons.any (fun i => decide (n ≤ stOnTgt s p r i)) then 2
  else if !segPlayable d then 3
  else if d.width != s.rd F.PLY_CTL_WIDTH p then 4
  else if stRate s p r != noRate && s.rd F.RSRC_CTL_SRC p != 0 then 5
  else if stPhaseEn s p r && decide (256 * segLen d ≤ stPhase s p r) then 6
  else if stCorr s p r != noSeg && (!segPlayable c || c.lenG != d.lenG || c.width != d.width) then 7
  else if (stWaitEn s p r && evEdge s p (stWaitEvt s p r) == 3) || ons.any (fun i => evEdge s p (stOnEvt s p r i) == 3) then 8
  else 0

/-- The first failing step in ascending order from `r`, with its cause. -/
def windowCause (s : State) (p : Nat) : Nat → Nat → Option (Nat × Nat)
  | 0, _ => none
  | n + 1, r => let c := stepCause s p r; if c == 0 then windowCause s p n (r + 1) else some (c, r)

/-- The check of an ARM: cause and step of the first failure (R84; cause 9 of R114). R84 names no step for cause 1: the start step is recorded
(assumption 69). -/
def armCheck (s : State) (p : Nat) : Option (Nat × Nat) :=
  if plyStream s p then
    let q := plyQueue s p
    let other := match (quOf s q).reader with | none => false | some o => o != p && engaged s o
    if !s.on F.BRN_CTL_EN q || other then some (9, 0) else none
  else
    let n := s.rd F.PLY_STEP_COUNT_COUNT p
    if decide (n ≤ s.rd F.PLY_START_STEP_START p) || decide (1048576 < s.rd F.PLY_STEP_BASE_BASE p + n) then
      some (1, s.rd F.PLY_START_STEP_START p)
    else windowCause s p n 0

/-- An access to a sleeping pan starts its wake, and SLEEP returns to 0 (R227). -/
def panTouch (k : Nat) (s : State) : State :=
  if s.on F.PAN_STAT_ASLEEP k && !s.on F.PAN_STAT_WAKING k then
    let v := s.rd F.PAN_RET_SLEEP 0
    (s.wr F.PAN_STAT_WAKING k 1).wr F.PAN_RET_SLEEP 0 (v - v / 2 ^ k % 2 * 2 ^ k)
  else s

/-- The pan of the step caches: the lowest owned by STEPCACHE (R223). -/
def cachePan (s : State) : Option Nat := (List.range 16).find? (fun k => s.rd F.PAN_OWN_OWNER k == 3)

/-- Whether the step caches stand in a sleeping pan (R227). -/
def cacheAsleep (s : State) : Bool := match cachePan s with | some k => s.on F.PAN_STAT_ASLEEP k | none => false

/-- Whether some pan is owned by STEPCACHE (R223). -/
def stepPan (s : State) : Bool := (List.range 16).any (fun k => s.rd F.PAN_OWN_OWNER k == 3)

/-- ARM: a status, and the state; OK means that the ARM is in progress and answers at its completion (R114, R223). -/
def plyArm (par : Bool) (j : Option Nat) (p : Nat) (s : State) : Nat × State :=
  if (plyOf s p).arm.isSome then (stBusy, s)
  else if !(pst s p == psLoaded || pst s p == psDone) then (stWrongMode, s)
  else if par then (stParity, s)
  else if !stepPan s then (stNoMemory, s)
  else match armCheck s p with
    | some (c, r) => (stBadParam, (s.wr F.PLY_ARM_ERR_CAUSE p c).wr F.PLY_ARM_ERR_STEP p r)
    | none =>
      let l := if plyStream s p then [] else windowSegs s p
      let s1 := l.foldl (fun t i => lockSeg i t) s
      let s2 := setPly p { plyOf s1 p with locks := l, arm := some (j, s1.eff), evReg := [], jump := none, phase := none,
                                           skip := none, dec := none, hist := [], redo := [], eccUnits := [], lastSeq := none,
                                           ready := [], cache := [] } s1
      (stOk, s2.wrs [(F.PLY_STATE_ARM_BUSY, p, 1), (F.PLY_EVPEND_PEND, p, 0), (F.PLY_SEQ_STAT_HIST, p, 0)])

/-! ### The step cache (R94, R95, R105, R122) -/

/-- Targets of a step: NEXT and the enabled ON entries. -/
def stepTargets (s : State) (p r : Nat) : List Nat :=
  (if stNext s p r == 0xFFFF then [] else [stNext s p r])
    ++ ([0, 1, 2, 3].filter (fun i => stOnTim s p r i != 0)).map (stOnTgt s p r)

/-- Whether the step cache holds a step. -/
def inCache (s : State) (p r : Nat) : Bool := (tabGet (plyOf s p).cache r).isSome

/-- The chain of NEXT steps from a step on, as far as the cache knows it. -/
def nextChain (s : State) (p : Nat) : Nat → Nat → List Nat
  | 0, _ => []
  | n + 1, r =>
    if !inCache s p r || stNext s p r == 0xFFFF then [] else stNext s p r :: nextChain s p n (stNext s p r)

/-- What the cache keeps while step `r` plays, the first 64 in this order: the step, its candidates, the history, a JUMP target, further NEXT
steps (R105). -/
def cacheWant (s : State) (p r : Nat) : List Nat :=
  let y := plyOf s p
  let j := match y.jump with | some (n, _, _) => [n] | none => []
  ((r :: stepTargets s p r ++ y.hist.map (·.1) ++ j ++ nextChain s p 64 r).foldl addN []).take 64

/-- A step is read into the cache through the step-cache port, 69; one with an uncorrectable unit is not (R136). -/
def cacheFill (p r : Nat) (s : State) : State :=
  if inCache s p r then s
  else
    let i := s.rd F.PLY_STEP_BASE_BASE p + r
    let u := stepAddr i / 64
    if memN s.badUnits u then carUe 69 u s
    else setPly p { plyOf s p with cache := tabPut (plyOf s p).cache r (stepWords s i) } (s.ask 69 false (stepAddr i) 32)

/-- The entries that the cache no longer keeps go. -/
def cacheTrim (p r : Nat) (s : State) : State :=
  let y := plyOf s p
  let w := cacheWant s p r
  setPly p { y with cache := y.cache.filter (fun e => memN w e.1) } s

/-- Further NEXT steps are read while the cache has room. -/
def cacheChain (p : Nat) : Nat → Nat → State → State
  | 0, _, s => s
  | n + 1, r, s =>
    if !inCache s p r || stNext s p r == 0xFFFF || decide (64 ≤ (plyOf s p).cache.length) then s
    else cacheChain p n (stNext s p r) (cacheFill p (stNext s p r) s)

/-- ARM's load: the start step, its candidates and the chain of NEXT steps. -/
def cacheLoad (p r : Nat) (s : State) : State :=
  let s1 := cacheFill p r s
  let s2 := if inCache s1 p r then (stepTargets s1 p r).foldl (fun t n => cacheFill p n t) s1 else s1
  cacheChain p 64 r s2

/-- The step, iteration (1, or 0 for the next one of the same step) and entry position of a candidate of step `r`, by its code: 0 the next
iteration, 1 NEXT, 2 to 5 the ON targets, 6 the JUMP target; none for the others and for streams. -/
def candKey (s : State) (p r code : Nat) : Option (Nat × Nat × Nat) :=
  let at1 (n : Nat) : Option (Nat × Nat × Nat) := some (n, 1, if stPhaseEn s p n then stPhase s p n else 0)
  if plyStream s p then none
  else if code == 0 then some (r, 0, 0)
  else if code == 1 then if stNext s p r == 0xFFFF then none else at1 (stNext s p r)
  else if code ≤ 5 then if stOnTim s p r (code - 2) == 0 then none else at1 (stOnTgt s p r (code - 2))
  else if code == 6 then (match (plyOf s p).jump with | some (n, _, _) => at1 n | none => none)
  else none

/-- Length of the segment of the start step, its entry frame and entry position (R116). -/
def startLen (s : State) (p : Nat) : Nat := segLen (segOf s (stSeg s p (s.rd F.PLY_START_STEP_START p)))

/-- Entry position of a step: 0, or PHASE in rail units (R92, R116). -/
def stepEntry (s : State) (p r : Nat) : Nat := if stPhaseEn s p r then stPhase s p r * 65536 else 0

/-- Completion of an ARM: the step cache is loaded, the buffer is filled and the player is ARMED (R105, R114). -/
def armDone (p : Nat) (s : State) : State :=
  match (plyOf s p).arm with
  | none => s
  | some (j, _) =>
    let st := s.rd F.PLY_START_STEP_START p
    let s0 := if plyStream s p then s else cacheLoad p st s
    let f := if plyStream s p then 0 else stepEntry s0 p st / 2 ^ 24
    let n := if plyStream s p then 0 else startLen s0 p
    let hi := min n (f + 4 + s.rd F.PLY_PF_LVL_REFILL p)
    let ready := [0, 1, 2, 3, 4, 5].filter (fun c => match candKey s0 p st c with | some k => inCache s0 p k.1 | none => false)
    let s1 := setPly p { plyOf s0 p with arm := none, ramp := false, ended := false, ringLo := f, ringHi := hi, ent := f, far := 0,
                                         badBuf := [], ready := ready.map (fun c => (c, s.now)) } s0
    let s2 := s1.wrs [(F.PLY_STATE_ARM_BUSY, p, 0), (F.PLY_STATE_STATE, p, psArmed), (F.PLY_ARM_ERR_CAUSE, p, 0),
      (F.PLY_ARM_ERR_STEP, p, 0), (F.PLY_ENTRIES_COUNT, p, 0), (F.PLY_STATE_RAMPING, p, 0),
      (F.PLY_PF_STAT_LEAD, p, min 65535 (hi - (f + 4) + if hi == n && memN ready (if stRepeat s0 p st == 1 then 1 else 0) then 64 else 0)),
      (F.PLY_PF_STAT_PANIC, p, 0)]
    let s3 := if plyStream s2 p then qClaimReader (plyQueue s2 p) (some p) s2 else s2
    completeOpt j stOk 0 [s3.rd F.PLY_ARM_ERR_STEP p * 65536 + s3.rd F.PLY_ARM_ERR_CAUSE p] s3

/-! ### Starting (R115) -/

/-- START taking effect in tick `t` with the values in `PLY_START`: status, state; OK means that the start is pending. -/
def plyStart (t : Nat) (j : Option Nat) (p : Nat) (s : State) : Nat × State :=
  let src := s.rd F.PLY_START_SRC p
  let atc := s.rd F.PLY_START_CT_AT_CT p
  if pst s p != psArmed then (stWrongMode, s)
  else if (plyOf s p).start.isSome then (stBusy, s)
  else
    let dt := serial 64 atc (s.ctOf t)
    if src == 1 && decide (dt > 256 * 1600000000) then (stBadParam, s)
    else
      let dTicks : Int := sgn 56 (atc / 256 + 2 ^ 56 - s.ctOf t / 256)
      let late := src == 1 && decide (dTicks < 20)
      let st : StartP :=
        { src := src, evt := s.rd F.PLY_START_EVT p, eff := t,
          ts := if src == 0 || late then some (t + 20) else none,
          ct := if src == 1 && !late then some atc else none, job := j, late := late }
      (stOk, (setPly p { plyOf s p with start := some st } s).wr F.PLY_STATE_START_PEND p 1)

/-- Whether a pending start's t_s has come: its tick, or the tick containing AT_CT. -/
def startDue (s : State) (st : StartP) : Bool :=
  (match st.ts with | some t => decide (t ≤ s.now) | none => false) ||
    (match st.ct with | some c => decide (sgn 56 (c / 256 + 2 ^ 56 - s.ct / 256) ≤ 0) | none => false)

/-! ### Requests (R93, R121, R135) -/

/-- Whether JUMP is admitted (R121). -/
def jumpOk (s : State) (p : Nat) : Bool :=
  !plyStream s p && (pst s p == psRunning || pst s p == psWaiting || pst s p == psHeld)

/-- Whether PHASE is admitted (R121). -/
def phaseOk (s : State) (p : Nat) : Bool := active s p

/-- Whether STREAM_SKIP is admitted (R121). -/
def skipOk (s : State) (p : Nat) : Bool :=
  plyStream s p && !(pst s p == psIdle || pst s p == psLoaded || pst s p == psSafe)

/-- A JUMP registered in tick `t`; while WAITING it is a release with r the tick it takes effect (R93, R98). In the 20 ticks after a
release it replaces the entry that they lead to, where edges of that time only set their pending bit (assumption 70). -/
def plyJump (t p target timing : Nat) (s : State) : State :=
  let y := plyOf s p
  match pst s p == psWaiting, y.wait with
  | true, some w => setPly p { y with wait := some { w with rel := some (t, t, false, .step target) } } (s.wr F.PLY_WAIT_CT_CT p (s.ctOf t))
  | _, _ => setPly p { y with jump := some (target, timing, t), ready := y.ready.filter (fun e => e.1 != 6) } s

/-- A PHASE request registered in tick `t`. -/
def plyPhase (t p value : Nat) (s : State) : State :=
  let y := plyOf s p
  setPly p { y with phase := some (value, t), ready := y.ready.filter (fun e => e.1 != 7) } s

/-- STREAM_SKIP: a jump to the next packet, and packets to drop (R135): the drops follow in the stream's work of the tick. -/
def plySkip (t p timing drop : Nat) (s : State) : State :=
  let y := plyOf s p
  let s1 :=
    if timing == 0 || pst s p == psStarved then s
    else match pst s p == psWaiting, y.wait with
      | true, some w => (setPly p { y with wait := some { w with rel := some (t, t, false, .packet) } } s).wr F.PLY_WAIT_CT_CT p (s.ctOf t)
      | _, _ => setPly p { y with skip := some (timing, t) } s
  s1.bumpBy F.PLY_STREAM_STAT_DROP_LEFT p drop

end Sys2Proof.Machine
end

