-- ==== Sys2Proof/Machine/Rails.lean ====
section
/-! DEFINITION. Encoder ports, line trackers, chain rails and rail units (R50 to R74, R425). -/

namespace Sys2Proof.Machine

def railOf (s : State) (p : Nat) : Rail := (tabGet s.rails p).getD Rail.fresh

def setRail (p : Nat) (v : Rail) (s : State) : State := { s with rails := tabSet Rail.fresh s.rails p v }

def encOf (s : State) (e : Nat) : Enc := (tabGet s.encs e).getD Enc.fresh

def setEnc (e : Nat) (v : Enc) (s : State) : State := { s with encs := tabSet Enc.fresh s.encs e v }

def trkOf (s : State) (j : Nat) : Trk := (tabGet s.trks j).getD Trk.fresh

def setTrk (j : Nat) (v : Trk) (s : State) : State := { s with trks := tabSet Trk.fresh s.trks j v }

def chRailOf (s : State) (i : Nat) : ChRail := (tabGet s.chRails i).getD ChRail.fresh

def setChRail (i : Nat) (v : ChRail) (s : State) : State := { s with chRails := tabSet ChRail.fresh s.chRails i v }

/-- An edge at the input of a line tracker: it is on its way from quarter tick `q` where `EDGE` selects its direction; one edge a quarter
tick (R64). -/
def trkIn (j : Nat) (rising : Bool) (q : Nat) (s : State) : State :=
  let v := trkOf s j
  let m := s.rd F.RSRC_LT_CTL_EDGE j
  if !s.on F.RSRC_LT_CTL_EN j || !(m == 2 || (m == 0) == rising) || memN v.evs q || (v.seen && v.qk == q && v.real) then s
  else setTrk j { v with evs := v.evs.filter (fun x => decide (x < q)) ++ [q] ++ v.evs.filter (fun x => decide (q < x)) } s

/-- An edge of a trigger source reaches the trackers whose `IN_SEL` names it: codes 0x00 to 0xF7, the GP pins first. Codes that R89
reserves are taken and give no edge, a choice that R5 and R64 leave open (R64; assumptions 68 and 88). -/
def trkFeed (src : Nat) (rising : Bool) (rq : Nat) (s : State) : State :=
  (List.range 8).foldl (fun t j => if t.rd F.RSRC_LT_CTL_IN_SEL j == src then trkIn j rising rq t else t) s

/-- A trigger-source edge is on its way to registration (R89), and to the line trackers that take it (R64). -/
def pushTrig (src : Nat) (rising : Bool) (rq reg : Nat) (s : State) : State :=
  let t := { s with trigs := s.trigs ++ [⟨src, rising, rq, reg⟩] }
  if src < 0xF8 then trkFeed src rising rq t else t

/-- The zero-crossing comparators on an ADC: a tracker's comparator goes high above +HYST and low below −HYST, and its change is an
edge at the tracker's input (R64). -/
def adcCross (i : Nat) (code : Int) (q : Nat) (s : State) : State :=
  (List.range 8).foldl (fun t j =>
    if t.rd F.RSRC_LT_CTL_IN_SEL j != 0xF8 + i then t
    else
      let v := trkOf t j
      let h : Int := t.rd F.RSRC_LT_HYST_HYST j
      let up := if decide (h < code) then true else if decide (code < -h) then false else v.cmp
      if up == v.cmp then t else trkIn j up q (setTrk j { v with cmp := up } t)) s

/-! ### Encoder position (R60, R61) -/

/-- The position in 2^−12 counts, modulo 2^60. -/
def encPos (s : State) (e : Nat) : Nat := s.rd F.ENC_POS_COUNT e * 4096 + s.rd F.ENC_POS_FRAC e

def setEncPos (e v : Nat) (s : State) : State :=
  (s.wr F.ENC_POS_COUNT e (v % 2 ^ 60 / 4096)).wr F.ENC_POS_FRAC e (v % 4096)

/-- The position moves by a number of 2^−12 counts; INVERT reverses (R61). -/
def encMove (e : Nat) (d : Int) (s : State) : State :=
  let d1 := if s.on F.ENC_CTL_INVERT e then -d else d
  setEncPos e (uns 60 ((encPos s e : Int) + d1)) s

/-- The place of levels A, B in the quadrature cycle that counts up: 00, 10, 11, 01. -/
def quadPhase (a b : Bool) : Nat :=
  match a, b with
  | false, false => 0
  | true, false => 1
  | true, true => 2
  | false, true => 3

/-- An accepted change of A or B acts (R60, R61, R63): in QUAD one count by the side that leads, none and ILLEGAL when both
change; in PULSE one count at a rising A by the B accepted before; in SINCOS `ph` is the interpolated phase. -/
def encAct (e : Nat) (a b : Bool) (ph : Nat) (s : State) : State :=
  let v := encOf s e
  let md := s.rd F.ENC_CTL_MODE e
  let s1 := setEnc e { v with a := a, b := b, phase := ph % 4096 } s
  if !s.on F.ENC_CTL_EN e then s1
  else if md == 0 then
    if v.a != a && v.b != b then s1.bump F.ENC_ERR_ILLEGAL e
    else if v.a == a && v.b == b then s1
    else if quadPhase a b == (quadPhase v.a v.b + 1) % 4 then encMove e 4096 s1
    else encMove e (-4096) s1
  else if md == 3 then
    if !v.a && a then encMove e (if v.b then 4096 else -4096) s1 else s1
  else if md == 1 then encMove e (serial 12 ph v.phase) s1
  else s1

/-- The format of `ENC_POS`: bit 59 extended. -/
def encPosWord (s : State) (e : Nat) : Nat := uns 64 (sgn 60 (encPos s e))

/-- An accepted Z edge acts: the position is latched, and zeroed where `INDEX` calls for it (R62). -/
def encZ (e : Nat) (level : Bool) (s : State) : State :=
  let v := encOf s e
  let s1 := setEnc e { v with z := level } s
  let ix := s.rd F.ENC_CTL_INDEX e
  if !s.on F.ENC_CTL_EN e || s.rd F.ENC_CTL_MODE e == 2 || v.z == level || !level || ix == 0 then s1
  else
    let seen := s1.on F.ENC_STAT_IDX_SEEN e
    let s3 := (s1.wr F.ENC_IDX_POS e (encPosWord s1 e)).wr F.ENC_STAT_IDX_SEEN e 1
    if ix == 3 || (ix == 2 && !seen) then setEncPos e 0 s3 else s3

/-- The ticks from the ball to the position: 3 + ⌈FILT/4⌉, in SINCOS 4 for A and B (R62, R71). -/
def encDelay (s : State) (e : Nat) : Nat := 3 + (s.rd F.ENC_CTL_FILT e + 3) / 4

/-- Whether a level that a ball holds for a number of core cycles passes the filter: `FILT` + 1 of them (R61). -/
def encPasses (s : State) (e held : Nat) : Bool := decide (s.rd F.ENC_CTL_FILT e < held)

/-- A change joins those on their way: in the order of the ball, and in one core cycle the counts before the index (R62). -/
def encPut (q due : Nat) (x : EncEv) : List (Nat × Nat × EncEv) → List (Nat × Nat × EncEv)
  | [] => [(q, due, x)]
  | y :: r =>
    let late (z : EncEv) : Bool := match z with | .z _ => true | _ => false
    if decide (q < y.1) || (q == y.1 && late y.2.2 && !late x) then (q, due, x) :: y :: r else y :: encPut q due x r

/-- Levels of A and B at the ball at a quarter tick, which hold for a number of core cycles: filtered in QUAD and PULSE, they act after
the delay of R71 (R61). -/
def encEdge (e : Nat) (a b : Bool) (ph q held : Nat) (s : State) : State :=
  let md := s.rd F.ENC_CTL_MODE e
  let v := encOf s e
  if (md == 0 || md == 3) && !encPasses s e held then s
  else setEnc e { v with evs := encPut q (q / 4 + (if md == 1 then 4 else encDelay s e)) (.ab a b ph) v.evs } s

/-- A Z edge at the ball at a quarter tick, held for a number of core cycles: its trigger source registers and, after the delay, it acts
(R62, R89). -/
def encIndex (e : Nat) (level : Bool) (q held : Nat) (s : State) : State :=
  let v := encOf s e
  if s.rd F.ENC_CTL_MODE e == 2 || v.zIn == level || !encPasses s e held then s
  else
    let s1 := setEnc e { v with zIn := level, evs := encPut q (q / 4 + encDelay s e) (.z level) v.evs } s
    if s.on F.ENC_CTL_EN e then pushTrig (0x10 + e) level q (q / 4 + max 4 (encDelay s e)) s1 else s1

/-- A position by SSI acts (R61): the smaller step across the wrap of the word's range. -/
def encWord (e w start : Nat) (s : State) : State :=
  let v := encOf s e
  let n := s.rd F.ENC_SSI_LEN e
  let s1 := setEnc e { v with ssiLast := some w, ssiVal := some start } s
  if !s.on F.ENC_CTL_EN e then s
  else match v.ssiLast with
  | none => encMove e ((w : Int) * 4096) (setEncPos e 0 s1)
  | some l =>
    let d : Int := (w : Int) - (l : Int)
    let r : Int := ((2 ^ n : Nat) : Int)
    let d1 := if 2 * d > r then d - r else if 2 * d < -r then d + r else d
    encMove e (d1 * 4096) s1

/-- One change acts. -/
def encDo (e : Nat) (x : EncEv) (s : State) : State :=
  match x with
  | .ab a b ph => encAct e a b ph s
  | .z level => encZ e level s
  | .word w start => encWord e w start s

/-- The changes whose tick has come act, before the rails of the tick (R61, R62, R71). -/
def encTick (t : Nat) (s : State) : State :=
  s.encs.foldl (fun u g =>
    let due := g.2.evs.filter (fun x => decide (x.2.1 ≤ t))
    if due.isEmpty then u
    else due.foldl (fun w x => encDo g.1 x.2.2 w) (setEnc g.1 { encOf u g.1 with evs := g.2.evs.filter (fun x => !decide (x.2.1 ≤ t)) } u)) s

/-- A disabled port has no SSI frame under way: its position holds (R61, R426). -/
def encQuiet (e : Nat) (s : State) : State :=
  setEnc e { encOf s e with ssiBusy := false, evs := (encOf s e).evs.filter (fun x => match x.2.2 with | .word _ _ => false | _ => true) } s

/-- A write of an encoder's enable (R61, R62, R425): a status of R338, and the state. -/
def encEnable (par : Bool) (e : Nat) (en : Bool) (s : State) : Bool × State :=
  if !en then (true, encQuiet e (s.wr F.ENC_CTL_EN e 0))
  else if par then (true, (s.wr F.ENC_CTL_EN e 0).wr F.ENC_STAT_CFG_BAD e 1)
  else if s.rd F.ENC_CTL_MODE e == 2 && s.rd F.ENC_CTL_INDEX e != 0 then
    (false, (s.wr F.ENC_CTL_EN e 0).wr F.ENC_STAT_CFG_BAD e 1)
  else if s.on F.ENC_CTL_EN e then (true, s)
  else
    (true, setEnc e { encOf s e with ssiBad := 0, ssiStart := none, ssiEnd := none, ssiBusy := false, ssiLast := none, ssiVal := none }
      (s.wrs [(F.ENC_CTL_EN, e, 1), (F.ENC_STAT_CFG_BAD, e, 0)]))

/-- Gray code of `n` bits to binary: each bit is the parity of the bits from it upward. -/
def grayBin (n g : Nat) : Nat :=
  (List.range n).foldl (fun b i => b ^^^ (g / 2 ^ i)) 0 % 2 ^ n

/-- An SSI port may start a frame: its period has elapsed and 1 µs has passed since the last one ended (R61). -/
def ssiDue (s : State) (e : Nat) : Bool :=
  let v := encOf s e
  s.on F.ENC_CTL_EN e && s.rd F.ENC_CTL_MODE e == 2 && !v.ssiBusy
    && (match v.ssiStart with | none => true | some t => decide (t + 16 * s.rd F.ENC_SSI_PERIOD e ≤ s.now))
    && (match v.ssiEnd with | none => true | some t => decide (t + 160 ≤ s.now))

def ssiBegin (e : Nat) (s : State) : State :=
  if ssiDue s e then setEnc e { encOf s e with ssiBusy := true, ssiStart := some s.now } s else s

/-- The ticks that `LEN` bits and one more take at 80 MHz/(`CLKDIV` + 1) (R61, R71). -/
def ssiTicks (s : State) (e : Nat) : Nat := 2 * (s.rd F.ENC_SSI_CLKDIV e + 1) * (s.rd F.ENC_SSI_LEN e + 1)

/-- An SSI frame completes: `ok` is false without a start bit or with stuck data (R61, R63). Before its `LEN` bits are clocked it is not
complete; its word shows on the rail two ticks after the last half period (R71). -/
def ssiEnd (e word : Nat) (ok : Bool) (s : State) : State :=
  let v := encOf s e
  let t0 := v.ssiStart.getD 0
  if !s.on F.ENC_CTL_EN e || !v.ssiBusy || decide (s.now < t0 + 2 * (s.rd F.ENC_SSI_CLKDIV e + 1) * s.rd F.ENC_SSI_LEN e) then s
  else
    let v1 := { v with ssiBusy := false, ssiEnd := some s.now }
    if !ok then (setEnc e { v1 with ssiBad := v.ssiBad + 1 } s).bump F.ENC_ERR_ILLEGAL e
    else
      let n := s.rd F.ENC_SSI_LEN e
      let w := if s.on F.ENC_SSI_GRAY e then grayBin n (word % 2 ^ n) else word % 2 ^ n
      setEnc e { v1 with ssiBad := 0, evs := encPut (4 * s.now) (t0 + ssiTicks s e + 2) (.word w t0) v.evs } s

/-! ### Line trackers (R65, R66) -/

/-- The SNAP value at a quarter tick. -/
def trkXs (s : State) (j q : Nat) : Nat :=
  let est := max 1 (s.rd F.RSRC_LT_PER_EST j)
  s.rd F.RSRC_LT_CNT_K j * 2 ^ 24 + min (2 ^ 24 * (q - (trkOf s j).qk) / est) (2 ^ 24)

/-- x of a tracker in tick `t` (R66); while the tracker is LOST it holds at its cap. -/
def trkX (s : State) (j t : Nat) : Nat :=
  let v := trkOf s j
  let cap : Nat := (s.rd F.RSRC_LT_CNT_K j + 1) * 2 ^ 24
  if !v.seen then 0
  else if s.on F.RSRC_LT_STAT_LOST j then uns 64 (cap : Int)
  else
    let est := max 1 (s.rd F.RSRC_LT_PER_EST j)
    let rem : Int := ((est - (4 * t - v.qk) : Nat) : Int)
    let x : Int := (trkXs s j (4 * t) : Int) + divZ (v.e * rem) (est : Int)
    uns 64 (min x (cap : Int))

/-- Number of intervals of the mean. -/
def trkN (s : State) (j : Nat) : Nat := 2 ^ s.rd F.RSRC_LT_CTL_AVG j

/-- The estimate from the intervals held: their mean rounded to nearest, or NOM (R65). -/
def trkEst (s : State) (j : Nat) (ivs : List Nat) : Nat :=
  if ivs.isEmpty then s.rd F.RSRC_LT_NOM_NOM j else (2 * ivs.foldl (· + ·) 0 + ivs.length) / (2 * ivs.length)

/-- The status bits that follow from the intervals and the misses. -/
def trkSync (j : Nat) (s : State) : State :=
  let v := trkOf s j
  (s.wrB F.RSRC_LT_STAT_LOCKED j (decide (trkN s j ≤ v.ivs.length))).wrB F.RSRC_LT_STAT_FLYWHEEL j (decide (0 < v.misses))

/-- A write of a tracker's enable (R65, R425). -/
def trkEnable (par : Bool) (j : Nat) (en : Bool) (s : State) : State :=
  if !en then s.wr F.RSRC_LT_CTL_EN j 0
  else if par then (s.wr F.RSRC_LT_CTL_EN j 0).wr F.RSRC_LT_STAT_CFG_BAD j 1
  else if s.on F.RSRC_LT_CTL_EN j then s
  else
    setTrk j { Trk.fresh with cmp := (trkOf s j).cmp } (s.wrs [(F.RSRC_LT_CTL_EN, j, 1), (F.RSRC_LT_STAT_CFG_BAD, j, 0), (F.RSRC_LT_STAT_LOCKED, j, 0),
      (F.RSRC_LT_STAT_LOST, j, 0), (F.RSRC_LT_STAT_FLYWHEEL, j, 0), (F.RSRC_LT_CNT_K, j, 0),
      (F.RSRC_LT_PER_EST, j, s.rd F.RSRC_LT_NOM_NOM j)])

/-! ### The input of a rail unit (R53) -/

def railSrc (s : State) (p : Nat) : Nat := s.rd F.RSRC_CTL_SRC p
def railSel (s : State) (p : Nat) : Nat := s.rd F.RSRC_CTL_SEL p
def railRate (s : State) (p : Nat) : Int := s.rdI F.RSRC_RATE_RATE p

/-- x of chain rail `i` in tick `t` (R68). -/
def chRailX (s : State) (i t : Nat) : Nat :=
  let c := chRailOf s i
  if s.on F.RAKE_RSTAT_LOST i then c.held
  else if !c.seen then 0
  else
    let tk := s.ctOf t / 256
    let xn := c.v + c.r * sgn 56 (tk + 2 ^ 56 - c.ts)
    uns 64 (xn + divZ (c.e * max (160 - ((t : Int) - (c.t0 : Int))) 0) 160)

/-- The input x of a rail unit in tick `t`, before the hold of R72. -/
def railXRaw (s : State) (p t : Nat) : Nat :=
  let src := railSrc s p
  let i := railSel s p
  if src == 1 then encPos s i
  else if src == 2 then trkX s i t
  else if src == 3 then chRailX s i t
  else if src == 4 then s.rd F.RSRC_RAIL_RAIL i
  else if src == 5 then
    uns 64 (sgn 32 (if s.on F.RSRC_CTL_COMP p then s.rd F.DMD_Q_V i else s.rd F.DMD_I_V i) * 4096)
  else 0

/-- Bits of x: 60 for COUNT, 64 elsewhere. -/
def railXBits (s : State) (p : Nat) : Nat := if railSrc s p == 1 then 60 else 64

/-- The input x of a rail unit: held while its source is lost (R72). -/
def railX (s : State) (p t : Nat) : Nat := ((railOf s p).heldX).getD (railXRaw s p t)

/-- A plus the function of Δ that R53 gives the source, under a scale. -/
def railFrom (s : State) (p a xa x scale : Nat) : Nat :=
  let d := serial (railXBits s p) x xa
  let sc := sgn 40 scale
  let src := railSrc s p
  let m : Int := if src == 1 || src == 5 then d * sc else if src == 3 then d else asr (d * sc) 24
  uns 64 ((a : Int) + m)

/-- Whether a unit's source is lost (R63, R65, R68, R70, R72). -/
def railSrcLost (s : State) (p : Nat) : Bool :=
  let src := railSrc s p
  let i := railSel s p
  if src == 1 then s.on F.ENC_STAT_LOST i
  else if src == 2 then s.on F.RSRC_LT_STAT_LOST i
  else if src == 3 then s.on F.RAKE_RSTAT_LOST i
  else if src == 5 then !s.on F.DMD_STAT_VALID i
  else false

/-! ### Loss and return (R72) -/

/-- `RSRC_STAT.LOST` follows the unit's source. -/
def railLoss (p : Nat) (s : State) : State :=
  if !s.on F.RSRC_CTL_EN p then s
  else
    let lost := railSrcLost s p
    let was := s.on F.RSRC_STAT_LOST p
    let src := railSrc s p
    if lost && !was then
      let v := railOf s p
      let s1 := setRail p { v with heldX := if src == 1 || src == 5 then some (railXRaw s p s.now) else none } s
      let s2 := (s1.wr F.RSRC_STAT_LOST p 1).bump F.RSRC_EVT_LOSSES p
      if s2.on F.RSRC_CTL_LOSS_POL p then plySafe p 3 0 s2 else s2
    else if !lost && was then
      let v := railOf s p
      let auto := src == 1 || src == 5
      let s1 := setRail p { v with heldX := none, reanchor := v.reanchor || auto } (s.wr F.RSRC_STAT_LOST p 0)
      if auto then s1.wr F.RSRC_STAT_AUTO_REANCHORED p 1 else s1
    else s

/-- Every unit that takes a source follows its loss or return. -/
def railLossAll (src i : Nat) (s : State) : State :=
  (List.range 64).foldl (fun t p => if railSrc t p == src && railSel t p == i then railLoss p t else t) s

/-! ### Tracker edges -/

/-- One missing pulse by the flywheel: k advances, and too many misses lose the tracker (R65). -/
def trkMiss (j : Nat) (s : State) : State :=
  let v := trkOf s j
  let est := s.rd F.RSRC_LT_PER_EST j
  let s1 := setTrk j { v with qk := v.qk + est, misses := v.misses + 1, real := false, e := 0 }
    ((s.tally F.RSRC_LT_CNT_K j).bump F.RSRC_LT_ERR_MISSED j)
  if s.rd F.RSRC_LT_CTL_MISS_MAX j < v.misses + 1 then
    railLossAll 2 j (trkSync j (setTrk j { trkOf s1 j with ivs := [] }
      (s1.wrs [(F.RSRC_LT_STAT_LOST, j, 1), (F.RSRC_LT_PER_EST, j, s1.rd F.RSRC_LT_NOM_NOM j)])))
  else trkSync j s1

/-- Whether the flywheel counts a missing pulse, no edge being accepted up to quarter tick `q` (R65). -/
def trkOver (s : State) (j q : Nat) : Bool :=
  let est := s.rd F.RSRC_LT_PER_EST j
  s.on F.RSRC_LT_CTL_EN j && (trkOf s j).seen && !s.on F.RSRC_LT_STAT_LOST j
    && decide ((trkOf s j).qk * 256 + est * 256 + est * s.rd F.RSRC_LT_CTL_WIN j < q * 256)

/-- Missing pulses counted up to a quarter tick. -/
def trkMisses (fuel j q : Nat) (s : State) : State :=
  match fuel with
  | 0 => s
  | n + 1 => if trkOver s j q then trkMisses n j q (trkMiss j s) else s

/-- A pulse is accepted at quarter tick `q`; `iv` is the interval that enters the mean, if one does (R65, R66). -/
def trkAccept (j q : Nat) (iv : Option Nat) (s : State) : State :=
  let v := trkOf s j
  let old := trkX s j s.now
  let ivs := match iv with
    | none => v.ivs
    | some d => (d :: v.ivs).take (trkN s j)
  let s1 := if v.seen then s.tally F.RSRC_LT_CNT_K j else s.wr F.RSRC_LT_CNT_K j 0
  let s2 := setTrk j { v with seen := true, qk := q, ivs := ivs, misses := 0, real := true, e := 0 }
    (s1.wr F.RSRC_LT_PER_EST j (trkEst s j ivs))
  let e : Int := (old : Int) - (trkXs s2 j (4 * s2.now) : Int)
  let slew := s2.on F.RSRC_LT_CTL_SLEW j && v.seen && decide (e.natAbs ≤ 2 ^ 23)
  let s3 := setTrk j { trkOf s2 j with e := if slew then e else 0 } s2
  let s4 := trkSync j (s3.wr F.RSRC_LT_STAT_LOST j 0)
  railLossAll 2 j (pushTrig (0x18 + j) true q (max (s.now + 1) (q / 4 + 4)) s4)

/-- An edge of quarter tick `q` reaches the tracker: accepted or rejected in the present tick (R65). -/
def trkEdge (j q : Nat) (s0 : State) : State :=
  let s := trkMisses 17 j q s0
  let v := trkOf s j
  let iv := q - v.qk
  let nom := s.rd F.RSRC_LT_NOM_NOM j
  let est := s.rd F.RSRC_LT_PER_EST j
  if !s.on F.RSRC_LT_CTL_EN j then s
  else if !v.seen || s.on F.RSRC_LT_STAT_LOST j then trkAccept j q none s
  else if s.on F.RSRC_LT_STAT_LOCKED j then
    if decide (iv < est) && decide (est * s.rd F.RSRC_LT_CTL_WIN j < (est - iv) * 256) then s.bump F.RSRC_LT_ERR_REJECTED j
    else trkAccept j q (if v.real then some iv else none) s
  else if 2 * iv < nom then s.bump F.RSRC_LT_ERR_REJECTED j
  else trkAccept j q (if v.real && decide (iv ≤ 2 * nom) then some iv else none) s

/-- The edges of the trackers that reached a ball three ticks ago or earlier act on x, before the rails of tick `t` (R66). -/
def trkTick (t : Nat) (s : State) : State :=
  s.trks.foldl (fun u g =>
    let due := g.2.evs.filter (fun q => decide (q / 4 + 3 ≤ t))
    if due.isEmpty then u
    else due.foldl (fun w q => trkEdge g.1 q w) (setTrk g.1 { trkOf u g.1 with evs := g.2.evs.filter (fun q => !decide (q / 4 + 3 ≤ t)) } u)) s

/-- The end of a tracker's window without an edge, none being on its way (R65). -/
def trkLapse (j q : Nat) (s : State) : State :=
  let v := trkOf s j
  let est := s.rd F.RSRC_LT_PER_EST j
  if v.evs.any (fun x => decide (x * 256 ≤ v.qk * 256 + est * 256 + est * s.rd F.RSRC_LT_CTL_WIN j)) then s
  else trkMisses 1 j q s

/-! ### Enable and commands of a rail unit (R52, R54, R57, R69, R70, R425) -/

/-- Whether R69 or R70 refuses the enable of a rail unit. -/
def railEnableBad (s : State) (p : Nat) : Bool :=
  let src := railSrc s p
  let i := railSel s p
  ((src == 1 || src == 2) && decide (7 < i)) || ((src == 3 || src == 5) && decide (15 < i))
    || (src == 4 && (i == p || railSrc s i == 4 ||
        (List.range 64).any (fun o => s.on F.RSRC_CTL_EN o && railSrc s o == 4 && railSel s o == p)))
    || (src == 5 && decide (i ≤ 15) && s.rd F.DMD_CTL_REF_PLAYER i == p)

/-- A write of a rail unit's enable. -/
def railEnable (par : Bool) (p : Nat) (en : Bool) (s : State) : State :=
  if !en then
    setRail p { railOf s p with heldX := none } (s.wrs [(F.RSRC_CTL_EN, p, 0), (F.RSRC_STAT_RATE_LIMIT, p, 0),
      (F.RSRC_STAT_LOST, p, if par && s.on F.RSRC_STAT_LOST p then 1 else 0)])
  else if par || railEnableBad s p then (s.wr F.RSRC_CTL_EN p 0).wr F.RSRC_STAT_CFG_BAD p 1
  else if s.on F.RSRC_CTL_EN p then s
  else
    railLoss p (setRail p { Rail.fresh with anchor := true } (s.wrs [(F.RSRC_CTL_EN, p, 1), (F.RSRC_STAT_CFG_BAD, p, 0)]))

/-- REANCHOR and LOAD, in the coming tick; without effect on a disabled unit (R52, R57). -/
def railReanchor (p : Nat) (s : State) : State :=
  let s1 := s.wr F.RSRC_STAT_AUTO_REANCHORED p 0
  if s.on F.RSRC_CTL_EN p then setRail p { railOf s1 p with reanchor := true } s1 else s1

def railLoad (p : Nat) (s : State) : State :=
  let s1 := s.wr F.RSRC_STAT_AUTO_REANCHORED p 0
  if s.on F.RSRC_CTL_EN p then setRail p { railOf s1 p with load := some (s.rd F.RSRC_LOAD_LOAD p) } s1 else s1

/-- A write of SCALE: the scale in force before the coming tick's first write is kept for the rebase of R57. -/
def railScale (p v : Nat) (s : State) : State :=
  let r := railOf s p
  let s1 := s.wr F.RSRC_SCALE_SCALE p v
  if s.on F.RSRC_CTL_EN p then
    setRail p { r with oldScale := match r.oldScale with | some o => some o | none => some (s.rd F.RSRC_SCALE_SCALE p) } s1
  else s1

/-! ### One update per tick (R53 to R57) -/

/-- Rebase, scale, REANCHOR and LOAD of one tick, then the target: the state with A, X_A and the load target updated,
and the target of tick `t`. -/
def railTarget (p t : Nat) (s : State) : Nat × State :=
  let r := railOf s p
  let src := railSrc s p
  let rail := s.rd F.RSRC_RAIL_RAIL p
  if src == 0 then
    match r.load with
    | some v => (v, setRail p { Rail.fresh with tl := some v } s)
    | none =>
      match (if r.reanchor || r.anchor then none else r.tl) with
      | some v => let w := uns 64 ((v : Int) + railRate s p); (w, setRail p { Rail.fresh with tl := some w } s)
      | none => (uns 64 ((rail : Int) + railRate s p), setRail p Rail.fresh s)
  else
    let x := railX s p t
    let sc := s.rd F.RSRC_SCALE_SCALE p
    let sc0 := r.oldScale.getD sc
    let ax0 : Nat × Nat :=
      if r.anchor then
        if src == 3 then (x, x) else if (src == 1 || src == 5) && s.on F.RSRC_CTL_ABS p then (0, 0) else (rail, x)
      else (s.rd F.RSRC_ANCH_A p, s.rd F.RSRC_XREF_X_A p)
    let far := decide ((2 ^ (railXBits s p - 2) : Nat) < (serial (railXBits s p) x ax0.2).natAbs)
    let ax1 := if far then (railFrom s p ax0.1 ax0.2 x sc0, x) else ax0
    let ax2 := if r.oldScale.isSome && !r.anchor then (railFrom s p ax1.1 ax1.2 x sc0, x) else ax1
    let ax3 := if r.reanchor then (rail, x) else ax2
    let ax4 := match r.load with | some v => (v, x) | none => ax3
    (railFrom s p ax4.1 ax4.2 x sc,
      setRail p { Rail.fresh with heldX := r.heldX } ((s.wr F.RSRC_ANCH_A p ax4.1).wr F.RSRC_XREF_X_A p ax4.2))

/-- Whether a channel bound to the player has limiter policy FAULT (R55). -/
def faultBound (s : State) (p : Nat) : Bool := (plyChans s p).any (fun c => s.on F.CHN_CTL_LIM_POL c)

/-- The rail moves to a value; WRAPS counts a pass of the ends of the signed range (R50). -/
def railSet (p v : Nat) (s : State) : State :=
  let old := s.rd F.RSRC_RAIL_RAIL p
  let sum := sgn 64 old + serial 64 v old
  let s1 := s.wr F.RSRC_RAIL_RAIL p v
  if decide (sum < -(2 ^ 63)) || decide (2 ^ 63 ≤ sum) then s1.tally F.RSRC_STAT_WRAPS p else s1

/-- A rail unit evaluated in tick `t` (R55). -/
def railTick (t p : Nat) (s0 : State) : State :=
  if !s0.on F.RSRC_CTL_EN p then setRail p { Rail.fresh with heldX := none } s0
  else
    let g := railTarget p t s0
    let s := g.2
    let tgt := g.1
    let rail := s.rd F.RSRC_RAIL_RAIL p
    let d := serial 64 tgt rail
    let lim : Int := ((2 ^ 25 / dmin s p : Nat) : Int)
    let s1 :=
      if pst s p == psRunning && decide (lim < d.natAbs) then
        let a := if faultBound s p then plySafe p 2 0 s else s
        let b := railSet p (uns 64 ((rail : Int) + signI d * lim)) a
        let c := if b.on F.RSRC_STAT_RATE_LIMIT p then b else b.bump F.RSRC_EVT_LIMITS p
        (c.wr F.RSRC_STAT_RATE_LIMIT p 1).bump F.RSRC_SLIP_SLIP p
      else (railSet p tgt s).wr F.RSRC_STAT_RATE_LIMIT p 0
    let s2 := s1.wrI F.RSRC_LAG_LAG p (serial 64 tgt (s1.rd F.RSRC_RAIL_RAIL p))
    let r := railOf s2 p
    if r.tl == some (s2.rd F.RSRC_RAIL_RAIL p) then setRail p { r with tl := none } s2 else s2

/-- Every rail of a tick: first the units that are not LINKED, then the LINKED ones (R14). -/
def railsTick (t : Nat) (s : State) : State :=
  let s1 := (List.range 64).foldl (fun u p => if railSrc u p == 4 then u else railTick t p u) s
  (List.range 64).foldl (fun u p => if railSrc u p == 4 then railTick t p u else u) s1

end Sys2Proof.Machine
end

