-- ==== Sys2Proof/Machine/Lanes.lean ====
section
/-! DEFINITION. Learning lanes: state codes, groups, locks and the conditions of a swap (R180, R182, R189, R190). -/

namespace Sys2Proof.Machine

def laneOf (s : State) (l : Nat) : Lane := (tabGet s.lanes l).getD Lane.fresh

def setLane (l : Nat) (v : Lane) (s : State) : State := { s with lanes := tabSet Lane.fresh s.lanes l v }

def lsOff : Nat := 0
def lsReady : Nat := 1
def lsCollect : Nat := 2
def lsUpdate : Nat := 3
def lsSwapWait : Nat := 4
def lsFrozen : Nat := 5
def lsClosing : Nat := 6
def lsSafe : Nat := 7

def laneSt (s : State) (l : Nat) : Nat := s.rd F.REF_STAT_STATE l
def lanePair (s : State) (l : Nat) : Nat := s.rd F.REF_CTL_PAIR l
def lanePly (s : State) (l : Nat) : Nat := s.rd F.REF_CTL_PLAYER l

/-- Lanes that are not OFF. -/
def lanesOn (s : State) : List Nat := (List.range 8).filter (fun l => laneSt s l != lsOff)

/-- The lanes that are not OFF and name a pair (R179). -/
def laneGroup (s : State) (pair : Nat) : List Nat := (lanesOn s).filter (fun l => lanePair s l == pair)

/-- Whether a lane that is not OFF names a segment, as a half of its pair or as its store (R182). -/
def laneNames (s : State) (i : Nat) : Bool :=
  (lanesOn s).any (fun l => lanePair s l == i || lanePair s l + 1 == i || s.rd F.REF_MSEG_MSEG l == i)

/-- Lanes that have completed a pass for a pair since its last swap (R190). -/
def lanesDone (s : State) (pair : Nat) : List Nat := (List.range 8).filter (fun l => (laneOf s l).donePass == some pair)

/-- Whether a lane collected or ran a pass at tick `t`, as far as it still does. -/
def laneBusy (s : State) (t l : Nat) : Bool :=
  (laneSt s l == lsCollect || !(laneOf s l).passes.isEmpty) && decide ((laneOf s l).busyAt ≤ t)

/-- The second and third conditions of R190 at tick `t`: a pass completed since the last swap, nothing collected or running. -/
def swapIdle (s : State) (pair t : Nat) : Bool :=
  !(lanesDone s pair).isEmpty && (laneGroup s pair).all (fun l => !laneBusy s t l)

/-- Whether a decided entry with decision tick `tb` into a step swaps the step's pair (R190). -/
def swapAt (s : State) (p step tb : Nat) : Bool :=
  let pair := stCorr s p step
  stLearn s p step && pair != noSeg && (segOf s pair).cpair && swapIdle s pair tb
    && (lanesDone s pair).all (fun l => decide ((laneOf s l).lastDone + 1024 ≤ tb))

end Sys2Proof.Machine
end

