-- ==== Sys2Proof/Machine/Sequencer.lean ====
section
/-! DEFINITION. The sequencer and the prefetch buffer: position, decisions, entries, waits, reverse motion, streams,
markers, lead, underrun and substitution (R81, R86 to R107, R116, R122 to R136). -/

namespace Sys2Proof.Machine

/-! ### Frames (R86, R110, R128, R136) -/

/-- A frame: where it lies, the CORR segment that goes with it, its index, and whether the pair's other half supplies the
correction (R191). -/
structure Ref where
  src : Src
  corr : Nat
  f : Nat
  flip : Bool
  deriving DecidableEq, Repr

/-- Frames of a source. -/
def srcLen (s : State) : Src → Nat
  | .seg i => segLen (segOf s i)
  | .pkt _ _ n => n

/-- Byte address of word `w` of frame `f` of a source of frame width `n` words, and whether it lies in Carafe. -/
def srcAddr (s : State) (n : Nat) (src : Src) (f w : Nat) : Nat × Bool :=
  match src with
  | .seg i => ((segOf s i).base + 4 * (n * f + w), true)
  | .pkt q start _ => (qWordAddr s q (start + 8 + n * f + w), qDeep s q)

/-- Whether a frame has a word in an uncorrectable unit, of a shallow queue's packet in an uncorrectable word of its pan (R136, R219). -/
def frameBad (s : State) (n : Nat) (src : Src) (f : Nat) : Bool :=
  (List.range n).any (fun w => let a := srcAddr s n src f w; if a.2 then memN s.badUnits (a.1 / 64) else memN s.badPans (a.1 / 8))

/-- The frames of a source that a player's buffer holds in uncorrectable words (R219). -/
def bufBad (s : State) (p : Nat) (src : Src) : List Nat :=
  ((plyOf s p).badBuf.filter (fun e => !e.1 && e.2.1 == src)).map (·.2.2)

/-- The nearest good frame at or before `f` in the prefetch direction (R136). -/
def goodFrame (s : State) (n : Nat) (src : Src) (bad : List Nat) (back : Bool) : Nat → Nat → Option Nat
  | 0, _ => none
  | k + 1, f =>
    if !frameBad s n src f && !memN bad f then some f
    else if back then (if srcLen s src ≤ f + 1 then none else goodFrame s n src bad back k (f + 1))
    else if f == 0 then none else goodFrame s n src bad back k (f - 1)

/-- Word `w` of a frame as its reader has it, the frames `bad` of a buffer unreadable; `d` stands where no good frame precedes (R136). -/
def frameWord (s : State) (n : Nat) (src : Src) (bad : List Nat) (back : Bool) (f w d : Nat) : Nat :=
  match goodFrame s n src bad back (16 * s.badUnits.length + 2 * s.badPans.length + bad.length + 1) f with
  | none => d
  | some g =>
    let a := srcAddr s n src g w
    if a.2 then memRdW s.carafe a.1 else memRdW s.pans a.1

def plyBack (s : State) (p : Nat) : Bool := s.on F.PLY_PF_STAT_DIR p

/-- Data words of a frame. -/
def refWords (s : State) (p : Nat) (r : Ref) : List Nat :=
  (List.range (plyW s p)).map (fun w => frameWord s (plyW s p) r.src (bufBad s p r.src) (plyBack s p) r.f w (s.rd F.CHN_REST_REST (plyChan s p w)))

/-- The half of a frame's correction pair that supplies its correction (R107, R191). -/
def refHalf (s : State) (r : Ref) : Nat :=
  let h := pairHalf s r.corr
  if r.flip && (segOf s r.corr).cpair then 2 * r.corr + 1 - h else h

/-- Correction word `w` of a frame: 0 where there is no CORR (R107). -/
def refCorrW (s : State) (p : Nat) (r : Ref) (w : Nat) : Nat :=
  if r.corr == noSeg then 0 else frameWord s (plyW s p) (.seg (refHalf s r)) (bufBad s p (.seg (refHalf s r))) (plyBack s p) r.f w 0

/-- Correction words of a frame. -/
def refCorr (s : State) (p : Nat) (r : Ref) : List Nat := (List.range (plyW s p)).map (refCorrW s p r)

/-! ### The step or packet that plays -/

def curStep (s : State) (p : Nat) : Nat := s.rd F.PLY_SEQ_STAT_STEP p
/-- The iteration that plays, counted in full: `PLY_ITER` shows it modulo 2^32. -/
def curIter (s : State) (p : Nat) : Nat := (plyOf s p).iter

/-- The iteration is set. -/
def setIter (p n : Nat) (s : State) : State := (setPly p { plyOf s p with iter := n } s).wr F.PLY_ITER_ITER p n

/-- A frame of a step, held to the segment. -/
def refStep (s : State) (p r : Nat) (f : Int) : Ref :=
  let n := segLen (segOf s (stSeg s p r))
  ⟨.seg (stSeg s p r), stCorr s p r, (clampI 0 ((n : Int) - 1) f).toNat, false⟩

/-- A frame of a packet, held to the packet. -/
def refPkt (s : State) (p : Nat) (k : SPkt) (f : Int) : Ref :=
  ⟨.pkt (plyQueue s p) k.start k.frames, noSeg, (clampI 0 ((k.frames : Int) - 1) f).toNat, false⟩

/-- A frame of what plays now. -/
def refCur (s : State) (p : Nat) (f : Int) : Ref :=
  match plyStream s p, (plyOf s p).cur with
  | true, some k => refPkt s p k f
  | true, none => ⟨.pkt 0 0 0, noSeg, 0, false⟩
  | false, _ => refStep s p (curStep s p) f

/-- Frames of the current step or packet. -/
def curLen (s : State) (p : Nat) : Nat := srcLen s (refCur s p 0).src

/-- Length of a successor. -/
def succLen (s : State) (p : Nat) : Succ → Nat
  | .step n => segLen (segOf s (stSeg s p n))
  | .packet => match (plyOf s p).nxt with | some k => k.frames | none => 64
  | _ => curLen s p

/-- A frame of a successor. -/
def refSucc (s : State) (p : Nat) (u : Succ) (f : Int) : Ref :=
  match u with
  | .step n => refStep s p n f
  | .packet => match (plyOf s p).nxt with | some k => refPkt s p k f | none => refCur s p f
  | _ => refCur s p f

def pktPhaseEn (k : SPkt) : Bool := bitOf k.w3 7
def pktWaitEn (k : SPkt) : Bool := bitOf k.w3 6
def pktWaitEvt (k : SPkt) : Nat := bitsOf k.w3 5 2

/-- Entry position of a successor in rail units: 0, or PHASE (R92, R99). -/
def succEntry (s : State) (p : Nat) : Succ → Nat
  | .step n => stepEntry s p n
  | .packet => match (plyOf s p).nxt with
    | some k => if pktPhaseEn k then bitsOf k.w3 31 8 * 65536 else 0
    | none => 0
  | _ => 0

/-- Whether a successor waits: WAIT_EN at iteration 1 (R88), which a step outside the cache does not show yet (R105). -/
def succWaits (s : State) (p : Nat) : Succ → Bool
  | .step n => inCache s p n && stWaitEn s p n
  | .packet => match (plyOf s p).nxt with | some k => pktWaitEn k | none => false
  | _ => false

/-- Event line of a successor's wait. -/
def succWaitEvt (s : State) (p : Nat) : Succ → Nat
  | .step n => stWaitEvt s p n
  | .packet => match (plyOf s p).nxt with | some k => pktWaitEvt k | none => 0
  | _ => 0

/-- REPEAT of what plays. -/
def curRepeat (s : State) (p : Nat) : Nat :=
  match plyStream s p, (plyOf s p).cur with
  | true, some k => k.rep
  | true, none => 1
  | false, _ => stRepeat s p (curStep s p)

/-- Whether two candidates are one: the same code, or the same step, iteration and entry position, which share a slot (R122). -/
def sameCand (s : State) (p a b : Nat) : Bool :=
  a == b || (match candKey s p (curStep s p) a, candKey s p (curStep s p) b with | some k, some m => k == m | _, _ => false)

/-- The tick in which a candidate became ready. -/
def readyAt (s : State) (p code : Nat) : Option Nat :=
  ((plyOf s p).ready.find? (fun e => sameCand s p e.1 code)).map (·.2)

def isReady (s : State) (p code : Nat) : Bool := (readyAt s p code).isSome

/-! ### Position -/

def plyS (s : State) (p : Nat) : Int := sgn 64 (s.rd F.PLY_POS_S p)
def setPos (p : Nat) (v : Int) (s : State) : State := s.wrI F.PLY_POS_S p v
def railVal (s : State) (p : Nat) : Nat := s.rd F.RSRC_RAIL_RAIL p

/-- s = rail − O, signed (R86). -/
def railS (s : State) (p : Nat) : Int := serial 64 (railVal s p) (s.rd F.PLY_ORIGIN_O p)

/-- O := rail − v, and the position v. -/
def setS (p : Nat) (v : Int) (s : State) : State :=
  setPos p v (s.wrI F.PLY_ORIGIN_O p ((railVal s p : Int) - v))

def frameOf (v : Int) : Int := asr v 24

/-- Whether the player plays at its furthest forward iteration and step (R104). -/
def atFront (s : State) (p : Nat) : Bool :=
  let y := plyOf s p
  y.redo.isEmpty && decide (y.front ≤ curIter s p)

/-- The next boundary above the furthest forward position (R87, R104). -/
def nextB (y : Ply) : Nat := ((asr y.far 30) * 64 + 64).toNat

/-! ### The decision (R91 to R95, R130 to R132) -/

/-- The candidates at a boundary. -/
structure Pick where
  succ : Succ
  code : Nat
  evUsed : Option Nat
  deferred : List Nat
  defers : Nat
  jumpUsed : Bool
  deriving DecidableEq, Repr

/-- Whether a timing code applies at a boundary (R92). -/
def timingApplies (timing : Nat) (isEnd lastIter : Bool) : Bool :=
  timing == 1 || (timing == 2 && isEnd) || (timing == 3 && isEnd && lastIter)

/-- Choice 2: the ON entries from index `i` on (R92, R95). -/
def pickOn (s : State) (p t : Nat) (isEnd lastIter : Bool) : List Nat → Pick → Option Pick × Pick
  | [], a => (none, a)
  | i :: r, a =>
    let st := curStep s p
    let e := stOnEvt s p st i
    let tim := stOnTim s p st i
    let due := match tabGet (plyOf s p).evReg e with | none => false | some g => decide (g + 48 ≤ t)
    if tim != 0 && due && timingApplies tim isEnd lastIter then
      if isReady s p (2 + i) then (some { a with succ := .step (stOnTgt s p st i), code := 2 + i, evUsed := some e }, a)
      else pickOn s p t isEnd lastIter r { a with deferred := a.deferred ++ [e], defers := a.defers + 1 }
    else pickOn s p t isEnd lastIter r a

/-- The successor at a boundary in SEGMENT mode (R92). -/
def pickSeg (s : State) (p t : Nat) (isEnd : Bool) : Pick :=
  let y := plyOf s p
  let rep := curRepeat s p
  let last := rep == 0 || curIter s p == rep
  let a0 : Pick := ⟨.stay, 0, none, [], 0, false⟩
  let j : Bool × Pick := match y.jump with
    | some (tgt, tim, g) =>
      if decide (g + 48 ≤ t) && timingApplies tim isEnd last then
        if isReady s p 6 then (true, { a0 with succ := .step tgt, code := 6, jumpUsed := true })
        else (false, { a0 with defers := 1 })
      else (false, a0)
    | none => (false, a0)
  if j.1 then j.2
  else
    let o := pickOn s p t isEnd last [0, 1, 2, 3] j.2
    match o.1 with
    | some k => k
    | none =>
      if !isEnd then o.2
      else if rep == 0 || curIter s p < rep then { o.2 with succ := .iter, code := 0 }
      else if stNext s p (curStep s p) == 0xFFFF then { o.2 with succ := .done, code := 9 }
      else { o.2 with succ := .step (stNext s p (curStep s p)), code := 1 }

/-- Whether the packet that plays is the stream's last (R128). -/
def curLast (s : State) (p : Nat) : Bool := match (plyOf s p).cur with | some k => k.last | none => false

/-- The successor at a boundary in STREAM mode (R130, R131, R135). -/
def pickStream (s : State) (p t : Nat) (isEnd : Bool) : Pick :=
  let y := plyOf s p
  let rep := curRepeat s p
  let a0 : Pick := ⟨.stay, 0, none, [], 0, false⟩
  let due := match y.skip with
    | some (tim, g) => decide (g + 48 ≤ t) && (tim == 1 || isEnd)
    | none => false
  if due && curLast s p then { a0 with succ := .done, code := 9, jumpUsed := true }
  else if due && isReady s p 1 then { a0 with succ := .packet, code := 1, jumpUsed := true }
  else
    let a := if due then { a0 with defers := 1 } else a0
    if !isEnd then a
    else if rep == 0 then
      if !curLast s p && isReady s p 1 then { a with succ := .packet, code := 1 } else { a with succ := .iter, code := 0 }
    else if curIter s p < rep then { a with succ := .iter, code := 0 }
    else if curLast s p then { a with succ := .done, code := 9 }
    else { a with succ := .packet, code := 1 }

/-- The position that a PHASE request's value gives in a successor (R93). -/
def phaseIn (s : State) (p : Nat) (u : Succ) (v : Nat) : Nat := v % (256 * max 1 (succLen s p u)) * 65536

/-- The entry position of a decision as the successor stands now: a late packet has its header by its entry (R99, R132). -/
def decPos (s : State) (p : Nat) (d : Dec) : Nat :=
  match d.phase with
  | some v => phaseIn s p d.succ v
  | none => succEntry s p d.succ

/-- A decision is withdrawn: its packet is no decided successor any more (R87, R240). -/
def undecide (p : Nat) (s : State) : State :=
  let y := plyOf s p
  let s1 := setPly p { y with dec := none } s
  match y.dec with
  | some d =>
    let q := plyQueue s p
    if d.succ == .packet then setQu q { quOf s1 q with decided := false } s1 else s1
  | none => s1

/-- The decision of boundary `b` in tick `t` (R92, R93, R95). -/
def plyDecide (t b p : Nat) (s : State) : State :=
  let isEnd := decide (curLen s p ≤ b)
  let k := if plyStream s p then pickStream s p t isEnd else pickSeg s p t isEnd
  let y := plyOf s p
  let ph : Option Nat := match y.phase with | some (v, g) => if g + 48 ≤ t then some v else none | none => none
  let phActs := ph.isSome && k.succ != .done
  let phReady := phActs && isReady s p 7
  let u : Succ := if k.succ == .stay && phReady then .cont (phaseIn s p .stay (ph.getD 0)) else k.succ
  let step1 := match u with | .step _ => true | .packet => true | _ => false
  let late := (step1 || (u == .iter && !plyStream s p)) && k.code != 9 && !isReady s p k.code && !succWaits s p u
  let phased := match u with
    | .step n => stPhaseEn s p n
    | .packet => (match y.nxt with | some q => pktPhaseEn q | none => false)
    | _ => false
  let d : Dec :=
    { b := b, tb := t, succ := u, code := k.code, pos := if phReady then phaseIn s p u (ph.getD 0) else succEntry s p u,
      carry := !phReady && !(step1 && phased) && !late, late := late, te := none, evUsed := k.evUsed, deferred := k.deferred,
      jumpUsed := k.jumpUsed, phase := if phReady then ph else none }
  let n := k.defers + b2n (phActs && !phReady)
  let s1 := setPly p { y with dec := some d } (s.bumpBy F.PLY_SEQ_EVT_DEFERRED p n)
  let s2 := if u == .packet && y.nxt.isSome then setQu (plyQueue s p) { quOf s1 (plyQueue s p) with decided := true } s1 else s1
  if late && !plyStream s p then (s2.bump F.PLY_SEQ_EVT_LATE p).wr F.PLY_SEQ_STAT_LATE p 1 else s2

/-! ### Entries (R87, R90, R92, R99, R100, R106) -/

/-- RATE of a step or packet at its entry: it acts from the next tick on, and a host write of the same tick is lost to it (R59, R100). -/
def entryRate (p rate : Nat) (s : State) : State :=
  if rate == noRate then s
  else (s.wrI F.RSRC_RATE_RATE p (sgn 32 rate)).noteWriteAt (s.now + 1) 15 (F.RSRC_RATE_RATE.addr p) (2 ^ 64 - 1)

/-- The pending bits without the one that an entry used; one set after its decision stays. -/
def usedEvent (tb : Nat) (used : Option Nat) (reg : Tab Nat) : Tab Nat :=
  match used with
  | some e => reg.filter (fun x => !(x.1 == e && decide (x.2 + 48 ≤ tb)))
  | none => reg

/-- The requests left after an entry: JUMP, STREAM_SKIP and PHASE that its decision used are gone, later ones wait (R91, R93). -/
def usedJump (tb : Option Nat) (j : Option (Nat × Nat × Nat)) : Option (Nat × Nat × Nat) :=
  j.filter (fun x => match tb with | some b => decide (b < x.2.2 + 48) | none => false)
def usedPair (tb : Option Nat) (j : Option (Nat × Nat)) : Option (Nat × Nat) :=
  j.filter (fun x => match tb with | some b => decide (b < x.2 + 48) | none => false)

/-- Pending events that a decided entry drops (R90). -/
def dropEvents (p tb : Nat) (used : Option Nat) (deferred : List Nat) (s : State) : State :=
  let y := plyOf s p
  let reg1 := usedEvent tb used y.evReg
  let gone := reg1.filter (fun e => decide (e.2 + 48 ≤ tb) && !memN deferred e.1)
  let reg2 := reg1.filter (fun e => !(decide (e.2 + 48 ≤ tb) && !memN deferred e.1))
  let s1 := setPly p { y with evReg := reg2 } (s.bumpBy F.PLY_SEQ_EVT_DROPPED p gone.length)
  s1.wr F.PLY_EVPEND_PEND p (reg2.foldl (fun a e => a + 2 ^ e.1) 0)

/-- The current step is left forward: a record of the history (R102). -/
def pushHist (p : Nat) (s : State) : State :=
  let y := plyOf s p
  let h := (curStep s p, curIter s p, s.rd F.PLY_ORIGIN_O p) :: y.hist
  let s1 := if 16 < h.length then s.bump F.PLY_SEQ_EVT_HIST_OVF p else s
  (setPly p { y with hist := h.take 16 } s1).wr F.PLY_SEQ_STAT_HIST p (min 16 h.length)

/-- The queue takes the next packet into play: the one before it is passed (R130). -/
def takePacket (p : Nat) (s : State) : State :=
  let s1 := plyPass p s
  let y := plyOf s1 p
  let q := plyQueue s1 p
  let s2 := setPly p { y with cur := y.nxt, nxt := none, lastPlayed := (y.nxt.map (·.seq)).getD y.lastPlayed } s1
  qSync true q (setQu q { quOf s2 q with held := true, decided := false } s2)

/-- The main ring begins at the entry frame with the frames of its slot: 64, or none where the slot was not filled (R122). What the slot
holds unreadably the ring then holds so (R219). -/
def ringStart (p : Nat) (k : Nat) (v : Int) (s : State) : State :=
  let f := frameOf v
  let y := plyOf s p
  let src := (refCur s p 0).src
  setPly p { y with
    ent := f, ringLo := f, ringHi := min (f + k) (max (curLen s p : Int) 1), reqs := 0, needF := none
    badBuf := (y.badBuf.filter (fun e => e.1 && e.2.1 == src)).map (fun e => (false, e.2)) } s

/-- A successor is entered in the present tick with its position set: `tb` is the decision tick, none for the start
(R92, R99, R100, R106). -/
def enterSucc (p : Nat) (u : Succ) (v : Option Nat) (ovs : Int) (tb : Option Nat) (used : Option Nat)
    (deferred : List Nat) (jumpUsed phaseUsed leave : Bool) (s : State) : State :=
  let rep := if leave && !plyStream s p && stLearn s p (curStep s p) then some (curStep s p, curIter s p) else none
  let rate := match u with
    | .step n => stRate s p n
    | .packet => (match (plyOf s p).nxt with | some k => k.rate | none => noRate)
    | _ => noRate
  let s1 := match u with
    | .iter => setIter p (curIter s p + 1) s
    | .step n =>
      let a := if leave then pushHist p s else s
      cacheFill p n (setIter p 1 (a.wr F.PLY_SEQ_STAT_STEP p n))
    | .packet => setIter p 1 (takePacket p s)
    | _ => s
  let s2 := match v with
    | some e => setS p (e : Int) s1
    | none => setS p ovs s1
  let y := plyOf s2 p
  let jump := if jumpUsed then usedJump tb y.jump else y.jump
  let phase := if phaseUsed then usedPair tb y.phase else y.phase
  let y1 := { y with
    dec := none, wait := none, anchor := false, stale := false, redo := [], front := curIter s2 p, far := plyS s2 p, starveRel := none, starveMin := 0,
    jump := jump, skip := if jumpUsed then usedPair tb y.skip else y.skip, phase := phase,
    ready := y.ready.filter (fun e => if e.1 == 6 then jump.isSome else if e.1 == 7 then phase.isSome else u == .iter) }
  let full := u != .iter || isReady s p 0 || !(plyStream s p && qDeep s (plyQueue s p))
  let s3 := ringStart p (if full then 64 else 0) (plyS s2 p) (cacheTrim p (curStep s2 p) (setPly p y1 s2))
  let s4 := s3.wrs [(F.PLY_SEQ_STAT_LATE, p, 0), (F.PLY_SEQ_STAT_WAITING, p, 0), (F.PLY_SEQ_STAT_REDO, p, 0)]
  let s5 := match tb with
    | some b =>
      let a := (dropEvents p b used deferred s4).tally F.PLY_ENTRIES_COUNT p
      pushTrig (0x60 + p) true (4 * a.now) (a.now + 1) a
    | none => s4
  let s6 := { s5 with seqEvs := s5.seqEvs ++ [⟨p, rep, curStep s5 p, curIter s5 p, true, tb, tb.isNone, s5.now⟩] }
  entryRate p rate s6

/-- The last frame played, which a held output keeps: its words and its correction words. -/
def holdFrame (p : Nat) (r : Ref) (s : State) : State :=
  setPly p { plyOf s p with hold := some (refWords s p r, refCorr s p r) } s

/-! ### Waits (R96 to R98) -/

/-- The lowest ON entry of the waited step that a line matches (R98). -/
def waitOn (s : State) (p : Nat) (u : Succ) (line : Nat) : Option Nat :=
  match u with
  | .step n => ([0, 1, 2, 3].find? (fun i => stOnTim s p n i != 0 && stOnEvt s p n i == line)).map (stOnTgt s p n)
  | _ => none

/-- A release with reference tick `r`, reference quarter tick `rq`, registered in tick `g`, by the wait's own line or by
an ON match, into a target (R97, R98). -/
def waitRelease (p r rq g : Nat) (own : Bool) (u : Succ) (s : State) : State :=
  match (plyOf s p).wait with
  | none => s
  | some w =>
    let ctq := uns 64 ((s.ctOf (rq / 4) : Int) + 64 * ((rq % 4 : Nat) : Int))
    (setPly p { plyOf s p with wait := some { w with rel := some (r, g, own, u) } } s).wr F.PLY_WAIT_CT_CT p ctq

/-- WAITING is entered with T_E = `te` (R96, R98): the wait's own line loses its pending bit unless it matches an ON
entry, and a pending event that matches an ON entry releases at T_E. Where several pending lines match, the lowest line releases, a choice
that R98 leaves open (assumption 70). -/
def enterWait (p te : Nat) (u : Succ) (pos tb : Option Nat) (deferred : List Nat) (s : State) : State :=
  let y := plyOf s p
  let evt := succWaitEvt s p u
  let reg := if (waitOn s p u evt).isSome then y.evReg else tabDel y.evReg evt
  let hit := reg.find? (fun e => (waitOn s p u e.1).isSome)
  let reg1 := match hit with | some e => tabDel reg e.1 | none => reg
  let s1 := setPly p { y with dec := none, evReg := reg1, wait := some ⟨te, u, pos, tb, deferred, none⟩ } s
  let s2 := (s1.wr F.PLY_EVPEND_PEND p (reg1.foldl (fun a e => a + 2 ^ e.1) 0)).wrs
    [(F.PLY_SEQ_STAT_WAITING, p, 1), (F.PLY_SEQ_STAT_LATE, p, 0), (F.PLY_PF_STAT_LEAD, p, s.rd F.PLY_PF_LVL_REFILL p),
     (F.PLY_PF_STAT_PANIC, p, 0)]
  let s3 := match hit with
    | some e => (match waitOn s p u e.1 with
      | some tgt => waitRelease p te (4 * te) te false (.step tgt) s2
      | none => s2)
    | none => s2
  enterPlay p psWaiting s3

/-- STARVED is entered with the decision tick and, after a wait, the release: counted, recorded, and a held packet
passed (R130, R132, R133). -/
def enterStarve (p : Nat) (tb rel : Option Nat) (s : State) : State :=
  let y := plyOf s p
  let s1 := setPly p { y with dec := none, wait := none, starveRel := rel, starveMin := rel.getD 0, starveTb := tb,
                              ramp := s.on F.PLY_CTL_STARVE_POL p }
    ((s.bump F.PLY_ERR_STARVES p).bump F.PLY_STARVE_TICKS_TICKS p)
  let s2 := logEvent (srcPlayer p) 0x31 y.lastPlayed 0 0 (plyPass p s1)
  plyRampSync p ((setPst p psStarved s2).wrs [(F.PLY_SEQ_STAT_WAITING, p, 0), (F.PLY_PF_STAT_LEAD, p, s.rd F.PLY_PF_LVL_REFILL p),
    (F.PLY_PF_STAT_PANIC, p, 0)])

/-! ### Markers (R81) -/

/-- MARK_RAW of the position of a player that plays. -/
def markAtPos (s : State) (p : Nat) : Nat :=
  match plyStream s p, (plyOf s p).cur with
  | true, some k => k.mark
  | true, none => 0
  | false, _ =>
    let st := curStep s p
    marksAt s (segOf s (stSeg s p st)) (frameOf (plyS s p)).toNat &&& stMask s p st

/-- `PLY_MARK.RAW` in the present tick: frozen in HELD and in DONE after END, 0 where the state says so. -/
def markTick (p : Nat) (s : State) : State :=
  let st := pst s p
  if st == psRunning then s.wr F.PLY_MARK_RAW p (markAtPos s p)
  else if st == psHeld || (st == psDone && (plyOf s p).ended) then s
  else s.wr F.PLY_MARK_RAW p 0

/-- `CHN_LAT` of the lowest-numbered bound channel in whole ticks, halves up (R81, R158). -/
def markDelay (s : State) (p : Nat) : Nat :=
  match plyChans s p with
  | [] => 0
  | c :: r => (s.rd F.CHN_LAT_TICKS (r.foldl min c) + 2) / 4

/-- The value that a history of changes, newest first, gives at a tick. -/
def markOld (t : Nat) : List (Nat × Nat) → Nat
  | [] => 0
  | (g, v) :: r => if g ≤ t then v else markOld t r

/-- The history without entries older than the one that holds at tick `t`. -/
def markTrim (t : Nat) : List (Nat × Nat) → List (Nat × Nat)
  | [] => []
  | (g, v) :: r => if g ≤ t then [(g, v)] else (g, v) :: markTrim t r

/-- `PLY_MARK.OUT`: RAW delayed (R81). -/
def markOutTick (p : Nat) (s : State) : State :=
  let y := plyOf s p
  let raw := s.rd F.PLY_MARK_RAW p
  let m := if markOld s.now y.marks == raw then y.marks else (s.now, raw) :: y.marks
  let d := markDelay s p
  let m1 := if d ≤ s.now then markTrim (s.now - d) m else m
  (setPly p { y with marks := if m1 == [(0, 0)] then [] else m1 } s).wr F.PLY_MARK_OUT p (if d ≤ s.now then markOld (s.now - d) m1 else 0)

/-! ### Crossing a boundary in its entry tick -/

/-- The frame before boundary `b`, which a held boundary keeps (R88). -/
def lastRef (s : State) (p b : Nat) : Ref := refCur s p ((b : Int) - 1)

/-- The position at which a boundary is held. -/
def heldPos (b : Nat) : Int := ((b : Int) - 1) * 2 ^ 24

/-- Whether a decision holds its boundary (R88). -/
def decHeld (s : State) (p : Nat) (d : Dec) : Bool := d.succ == .done || d.late || succWaits s p d.succ

/-- Whether a late successor became ready 20 ticks ago (R95, R132). -/
def lateOk (s : State) (p : Nat) (d : Dec) : Bool :=
  match readyAt s p d.code with | some r => decide (r + 20 ≤ s.now) | none => false

/-- The decided entry, ordinary or late: overshoot `ovs` carries unless the decision says otherwise; a late step that waits begins its
wait (R95, R96). -/
def decEnter (p : Nat) (d : Dec) (ovs : Int) (s : State) : State :=
  if d.late && succWaits s p d.succ then
    enterWait p s.now d.succ (d.phase.map (phaseIn s p d.succ)) (some d.tb) d.deferred (holdFrame p (lastRef s p d.b) s)
  else enterSucc p d.succ (if d.carry then none else some (decPos s p d)) ovs (some d.tb) d.evUsed d.deferred d.jumpUsed d.phase.isSome true s

/-- T_E of the decision `d` (R87, R88, R95, R96, R132), with the position `v` that the rail gives. -/
def crossB (p : Nat) (d : Dec) (v : Int) (s : State) : State :=
  let t := s.now
  let hp := heldPos d.b
  match d.succ with
  | .stay => setPos p v (setPly p { plyOf s p with dec := none, far := v } s)
  | .cont e =>
    let s1 := setS p (e : Int) s
    let ph := usedPair (some d.tb) (plyOf s1 p).phase
    let rdy := (plyOf s1 p).ready
    ringStart p 64 e (setPly p { plyOf s1 p with dec := none, phase := ph, far := e, ready := if ph.isSome then rdy else tabDel rdy 7 } s1)
  | .done =>
    let s0 := setPos p hp (holdFrame p (lastRef s p d.b) s)
    let s1 := plyLeave p (s0.wr F.PLY_MARK_RAW p (markAtPos s0 p))
    let rep := if !plyStream s p && stLearn s p (curStep s p) then some (curStep s p, curIter s p) else none
    let s2 := { s1 with seqEvs := s1.seqEvs ++ [⟨p, rep, 0xFFFF, 0, true, some d.tb, false, t⟩] }
    setPst p psDone (setPly p { plyOf s2 p with ended := true } s2)
  | u =>
    if !d.late && succWaits s p u then
      let y := plyOf s p
      let s1 := setPly p { y with
          jump := if d.jumpUsed then usedJump (some d.tb) y.jump else y.jump
          skip := if d.jumpUsed then usedPair (some d.tb) y.skip else y.skip
          phase := if d.phase.isSome then usedPair (some d.tb) y.phase else y.phase
          evReg := usedEvent d.tb d.evUsed y.evReg } s
      enterWait p t u (d.phase.map (phaseIn s p u)) (some d.tb) d.deferred
        (setPos p hp (holdFrame p (lastRef s1 p d.b) s1))
    else if d.late && !lateOk s p d then
      if plyStream s p then enterStarve p (some d.tb) none (setPos p hp (holdFrame p (lastRef s p d.b) s))
      else (setPly p { plyOf s p with dec := some { d with te := some t } } (setPos p hp s)).bump F.PLY_LATE_TICKS_TICKS p
    else decEnter p d (v - (d.b : Int) * 2 ^ 24) s

/-! ### Running backwards (R101 to R104) -/

/-- The main ring holds the granule at frames `lo` to `hi` − 1 after a crossing. -/
def ringAt (p : Nat) (lo hi : Int) (s : State) : State :=
  setPly p { plyOf s p with ent := lo, ringLo := lo, ringHi := hi, reqs := 0, needF := none, badBuf := [] } s

/-- A crossing that is no decided entry is reported to the learning lanes. -/
def seqBack (p : Nat) (fwd : Bool) (s : State) : State :=
  { s with seqEvs := s.seqEvs ++ [⟨p, none, curStep s p, curIter s p, fwd, none, false, s.now⟩] }

/-- s below 0: the previous iteration, the predecessor, or a clamp. -/
def reverseCross (p : Nat) (v : Int) (s : State) : State :=
  let y := plyOf s p
  let n : Int := (curLen s p : Int)
  let wait (_ : Unit) : State :=
    let s1 := if y.lateRev then s else s.bump F.PLY_SEQ_EVT_LATE p
    (setPos p 0 (setPly p { y with lateRev := true } (s1.wr F.PLY_SEQ_STAT_LATE p 1))).bump F.PLY_LATE_TICKS_TICKS p
  if curIter s p != 1 then
    if y.stale then wait () else
    let s1 := (setIter p (curIter s p - 1) s).wr F.PLY_SEQ_STAT_CLAMPED p 0
    seqBack p false (ringAt p (max 0 (n - 64)) n (setS p (v + n * 2 ^ 24) s1))
  else
    match y.hist, !plyStream s p && stReversible s p (curStep s p) with
    | (st, it, _) :: rest, true =>
      if isReady s p 8 then
        let s1 := setPly p { y with hist := rest, redo := (curStep s p, y.front) :: y.redo, front := it, lateRev := false,
                                    dec := none, ready := tabDel y.ready 8 } s
        let s2 := (setIter p it s1).wrs [(F.PLY_SEQ_STAT_STEP, p, st), (F.PLY_SEQ_STAT_HIST, p, rest.length),
          (F.PLY_SEQ_STAT_LATE, p, 0), (F.PLY_SEQ_STAT_CLAMPED, p, 0)]
        let m : Int := (curLen s2 p : Int)
        seqBack p false (ringAt p (max 0 (m - 64)) m (setS p (v + m * 2 ^ 24) s2))
      else wait ()
    | _, _ => (setPos p 0 (s.wr F.PLY_SEQ_STAT_CLAMPED p 1)).bump F.PLY_CLAMP_TICKS_TICKS p

/-- A boundary crossed backward is crossed forward again (R104). -/
def redoCross (p : Nat) (v : Int) (s : State) : State :=
  let y := plyOf s p
  let n : Int := (curLen s p : Int)
  let ovs := v - n * 2 ^ 24
  if curIter s p < y.front then
    seqBack p true (ringAt p 0 (min 64 n) (setS p ovs (setIter p (curIter s p + 1) s)))
  else
    match y.redo with
    | [] => s
    | (st, fr) :: rest =>
      let s1 := pushHist p s
      let s2 := setPly p { plyOf s1 p with redo := rest, front := fr } s1
      let s3 := setIter p 1 (s2.wr F.PLY_SEQ_STAT_STEP p st)
      seqBack p true (ringAt p 0 (min 64 (curLen s3 p : Int)) (setS p ovs s3))

/-! ### The prefetch buffer (R122 to R127, R136) -/

/-- Whether the player's correction is a pair whose table of active halves lies in a Refine pan that sleeps (R107, R180, R227). -/
def pairAsleep (s : State) (p : Nat) : Bool :=
  let k := s.rd F.REF_GCTL_PAN 0
  let c := stCorr s p (curStep s p)
  !plyStream s p && s.on F.PAN_STAT_ASLEEP k && s.rd F.PAN_OWN_OWNER k == 6 && c != noSeg && (segOf s c).cpair

/-- Whether every frame of the window at frame `f` that the main ring, or the pan of a shallow queue, must supply is in it, and its pan
awake (R126, R227). -/
def winComplete (s : State) (p : Nat) (f : Int) : Bool :=
  let y := plyOf s p
  let lo := max 0 (f - 2)
  let hi := min ((curLen s p : Int) - 1) (f + 3)
  let pan := if plyStream s p && !qDeep s (plyQueue s p) then s.rd F.BRN_STORE_PAN (plyQueue s p) else s.rd F.PLY_PF_PAN p
  !s.on F.PAN_STAT_ASLEEP pan && !pairAsleep s p && decide (hi < y.ringHi) && (decide (y.ringLo ≤ lo) || (decide (y.ringLo = y.ent) && decide (y.ringLo ≤ f)))

/-- One unit of 64 bytes that reads uncorrectable counts once per ARM among the last 16 (R136). -/
def eccUnit (p unit seg frame : Nat) (safe : Bool) (s : State) : State :=
  let y := plyOf s p
  let s1 :=
    if memN y.eccUnits unit then s
    else
      let a := setPly p { y with eccUnits := (unit :: y.eccUnits).take 16 } (s.bump F.PLY_ERR_ECC p)
      logEvent (srcPlayer p) 0x34 seg frame 0 (a.wrs [(F.PLY_ECC_LAST_SEG, p, seg), (F.PLY_ECC_LAST_FRAME, p, frame)])
  if safe && s.on F.PLY_CTL_ECC_POL p then plySafe p 6 0 s1 else s1

/-- The frames from `lo` up to `hi` of a source were read: its uncorrectable units are reported (R136). -/
def eccScan (p : Nat) (src : Src) (seg lo hi : Nat) (safe : Bool) (s : State) : State :=
  let n := plyW s p
  let fs := (List.range (hi - lo)).map (· + lo)
  fs.foldl (fun t f => (List.range n).foldl (fun u w =>
    let a := srcAddr u n src f w
    if a.2 && memN u.badUnits (a.1 / 64) then eccUnit p (a.1 / 64) seg f safe (carUe p (a.1 / 64) u) else u) t) s

/-- The scan of frames of a step or packet, with its correction (R136). -/
def eccRef (p : Nat) (r : Ref) (lo hi : Nat) (s : State) : State :=
  let seg := match r.src with | .seg i => i | .pkt _ _ _ => noSeg
  let s1 := eccScan p r.src seg lo hi true s
  if r.corr == noSeg then s1 else eccScan p (.seg (pairHalf s1 r.corr)) (pairHalf s1 r.corr) lo hi false s1

/-- The scan of what plays now. -/
def eccCur (p lo hi : Nat) (s : State) : State :=
  if s.badUnits.isEmpty then s else eccRef p (refCur s p 0) lo hi s

/-- The scan of `k` frames of a step from a frame on. -/
def eccStep (p n lo k : Nat) (s : State) : State :=
  eccRef p (refStep s p n lo) lo (min (lo + k) (segLen (segOf s (stSeg s p n)))) s

/-- The 64 frames of a step's head slot, from its entry position (R122). -/
def eccSlot (p n : Nat) (s : State) : State := eccStep p n (stepEntry s p n / 2 ^ 24) 64 s

/-- The head slot of a candidate of step `st` was filled (R122, R136). -/
def eccCand (p st code : Nat) (s : State) : State :=
  let y := plyOf s p
  if s.badUnits.isEmpty then s
  else if plyStream s p then
    (match code, y.nxt with
     | 1, some k => let f := succEntry s p .packet / 2 ^ 24; eccRef p (refPkt s p k 0) f (min (f + 64) k.frames) s
     | _, _ => s)
  else if code == 0 then eccStep p st 0 64 s
  else if code == 1 then if stNext s p st == 0xFFFF then s else eccSlot p (stNext s p st) s
  else if code ≤ 5 then if stOnTim s p st (code - 2) == 0 then s else eccSlot p (stOnTgt s p st (code - 2)) s
  else if code == 6 then (match y.jump with | some (n, _, _) => eccSlot p n s | none => s)
  else if code == 7 then
    (match y.phase with | some (v, _) => eccStep p st (v / 256 % max 1 (curLen s p)) 64 s | none => s)
  else match y.hist with
    | (n, _, _) :: _ => eccStep p n (segLen (segOf s (stSeg s p n)) - 64) 64 s
    | [] => s

/-- What an ARM read: the main ring and the head slots of the start step's candidates (R114, R136). -/
def armScan (p : Nat) (s : State) : State :=
  if s.badUnits.isEmpty || pst s p != psArmed || plyStream s p then s
  else
    let st := s.rd F.PLY_START_STEP_START p
    let y := plyOf s p
    [0, 1, 2, 3, 4, 5].foldl (fun t c => eccCand p st c t) (eccStep p st y.ringLo.toNat (y.ringHi - y.ringLo).toNat s)

/-- Whether the boundary ahead is held (R124). -/
def atHeld (s : State) (p : Nat) : Bool :=
  match (plyOf s p).dec with | some d => decHeld s p d | none => false

/-- The boundary up to which the lead counts frames, and the code of the successor whose slot follows: what a decision chose, or before it the
default successor, the next iteration or NEXT (R124). -/
def leadTo (s : State) (p : Nat) : Nat × Option Nat :=
  let n := curLen s p
  let rep := curRepeat s p
  let dflt : Option Nat :=
    if plyStream s p && rep == 0 then (if !curLast s p && isReady s p 1 then some 1 else some 0)
    else if rep == 0 || curIter s p < rep then some 0
    else if plyStream s p then (if curLast s p then none else some 1)
    else if stNext s p (curStep s p) == 0xFFFF then none else some 1
  match (plyOf s p).dec with
  | some d => (match d.succ with
    | .stay => (n, dflt)
    | .cont _ => (d.b, some 7)
    | _ => (d.b, some d.code))
  | none => (n, dflt)

/-- The lead (R124). -/
def plyLead (s : State) (p : Nat) : Nat :=
  let y := plyOf s p
  let f := frameOf (plyS s p)
  if atHeld s p then s.rd F.PLY_PF_LVL_REFILL p
  else if plyBack s p then
    let l := f - 2 - y.ringLo
    (l + if y.ringLo = 0 ∧ ((curIter s p ≠ 1 ∧ y.stale = false) ∨ isReady s p 8 = true) then 64 else 0).toNat
  else
    let e := leadTo s p
    let slot := match e.2 with | some c => isReady s p c | none => false
    (min y.ringHi e.1 - (f + 4) + if (e.1 : Int) ≤ y.ringHi ∧ slot = true then 64 else 0).toNat

/-- The ring slides with the position and asks for refill units; the lead, PANIC and its count follow (R124, R125). -/
def prefetchTick (p : Nat) (s : State) : State :=
  let y := plyOf s p
  let f := frameOf (plyS s p)
  let direct := plyStream s p && !qDeep s (plyQueue s p)
  let n : Int := (curLen s p : Int)
  let y1 :=
    if direct then { y with ringLo := 0, ringHi := n }
    else if plyBack s p then { y with ringHi := min y.ringHi (f + 68) }
    else { y with ringLo := max y.ringLo (f - 66) }
  let s1 := setPly p { y1 with badBuf := y1.badBuf.filter (fun e => e.1 || (decide (y1.ringLo ≤ e.2.2) && decide ((e.2.2 : Int) < y1.ringHi))) } s
  let lead := plyLead s1 p
  let unit : Nat := 64 / plyW s p
  let want : Nat := s.rd F.PLY_PF_LVL_REFILL p - lead
  let room : Nat := if plyBack s p then y1.ringLo.toNat else (n - y1.ringHi).toNat
  let reqs := (min want room + unit - 1) / unit
  let panic := decide (lead < s.rd F.PLY_PF_LVL_PANIC p) && !direct
  let s2 := setPly p { plyOf s1 p with reqs := if direct then 0 else reqs } s1
  let s3 := if panic && !s.on F.PLY_PF_STAT_PANIC p then s2.bump F.PLY_ERR_PANICS p else s2
  (s3.wr F.PLY_PF_STAT_LEAD p (min lead 65535)).wrB F.PLY_PF_STAT_PANIC p panic

/-- Refill units reach a player's ring (R125, R205). -/
def refill (p k : Nat) (s : State) : State :=
  let y := plyOf s p
  let m := min k y.reqs * (64 / plyW s p)
  let n : Int := (curLen s p : Int)
  if m == 0 then s
  else if plyBack s p then
    let lo := max 0 (y.ringLo - (m : Int))
    eccCur p lo.toNat y.ringLo.toNat (setPly p { y with ringLo := lo, reqs := y.reqs - min k y.reqs } s)
  else
    let hi := min n (y.ringHi + (m : Int))
    eccCur p y.ringHi.toNat hi.toNat (setPly p { y with ringHi := hi, reqs := y.reqs - min k y.reqs } s)

/-- A missing frame `f` is found (R127): counted and recorded; SLIP holds the position until the window of frame `need` is complete, SAFE takes
cause 5. -/
def underrun (p : Nat) (f need : Int) (s : State) : State :=
  let s1 := logEvent (srcPlayer p) 0x33 (uns 32 f) 0 0 ((s.bump F.PLY_ERR_UNDERRUNS p).bump F.PLY_UNDER_TICKS_TICKS p)
  if s.on F.PLY_CTL_UNDER_POL p then plySafe p 5 0 s1
  else (setPly p { plyOf s1 p with needF := some need } s1).wr F.PLY_STATE_UNDERRUN p 1

/-! ### Streams: the next packet (R128, R129, R131, R135) -/

/-- The eight header words of the packet under an index pointer. -/
def pktHeader (s : State) (q i : Nat) : List Nat := (List.range 8).map (fun w => qWord s q (qStart s q i + w))

/-- The header's fields. -/
def pktOf (s : State) (q i : Nat) : SPkt :=
  let h := pktHeader s q i
  let w (k : Nat) : Nat := h.getD k 0
  ⟨i, qStart s q i, w 0, w 1, w 2, w 3, bitsOf (w 4) 31 16, bitOf (w 4) 0, w 6⟩

/-- R129: whether a packet is malformed for a player. -/
def pktBad (s : State) (p q i : Nat) : Bool :=
  let k := pktOf s q i
  let h := pktHeader s q i
  k.frames % 64 != 0 || k.frames == 0 || qLen s q i != 8 + k.frames * plyW s p
    || (pktPhaseEn k && decide (256 * k.frames ≤ bitsOf k.w3 31 8))
    || (k.rate != noRate && railSrc s p != 0)
    || (pktWaitEn k && evEdge s p (pktWaitEvt k) == 3)
    || k.w3 % 4 != 0 || bitsOf (h.getD 4 0) 15 1 != 0 || h.getD 5 0 != 0 || h.getD 7 0 != 0
    || (List.range 8).any (fun w => qBad s q (qWordAddr s q (qStart s q i + w)))

/-- The read of a packet's header: of a deep queue through the player's port (R201, R214). -/
def pktRead (p q i : Nat) (s : State) : State := if qDeep s q then carScan p (qWordAddr s q (qStart s q i)) 32 s else s

/-- A malformed packet is dropped, counted and recorded (R129). -/
def dropBad (p i : Nat) (s : State) : State :=
  let q := plyQueue s p
  logEvent (srcPlayer p) 0x32 (pktOf s q i).seq 0 0 (qSkip q (s.bump F.PLY_STREAM_STAT_BADPKT p))

/-- While DROP_LEFT is not 0 each well-formed visible packet that is neither held nor decided is dropped without play (R135). -/
def dropLoose (fuel p : Nat) (s : State) : State :=
  match fuel with
  | 0 => s
  | n + 1 =>
    let q := plyQueue s p
    match qLoose s q, s.rd F.PLY_STREAM_STAT_DROP_LEFT p with
    | i :: _, k + 1 =>
      let s0 := pktRead p q i s
      dropLoose n p (if pktBad s0 p q i then dropBad p i s0
        else (qSkip q (s0.bump F.PLY_FAULT_SKIPPED p)).wr F.PLY_STREAM_STAT_DROP_LEFT p k)
    | _, _ => s

/-- The next packet that the player knew is visible no more: it is forgotten, a decision for it finds its successor not ready, and after a
release its wait starves (R132, R133, R137). -/
def packetGone (p : Nat) (s : State) : State :=
  let y := plyOf s p
  match y.nxt with
  | none => s
  | some k =>
    if memN (qVisible s (plyQueue s p)) k.idx then s
    else
      let dec := y.dec.map (fun (d : Dec) => if d.succ == .packet then { d with late := true, carry := false } else d)
      let s1 := setPly p { y with nxt := none, dec := dec, ready := tabDel y.ready 1 } s
      match pst s p == psWaiting, y.wait with
      | true, some ⟨_, _, _, tb, _, some (r, _, _, .packet)⟩ => enterStarve p tb (some r) s1
      | _, _ => s1

/-- The player looks for its next packet: malformed ones are dropped (R129). SEQ is compared when a packet becomes the next one to play, so a
packet that DROP discards before that takes no part, and one that it discards after that does (assumption 71). -/
def streamScan (fuel p : Nat) (s : State) : State :=
  match fuel with
  | 0 => s
  | n + 1 =>
    let q := plyQueue s p
    let y := plyOf s p
    if y.nxt.isSome || curLast s p then s
    else match qLoose s q with
      | [] => s
      | i :: _ =>
        let s0 := pktRead p q i s
        if pktBad s0 p q i then streamScan n p (dropBad p i s0)
        else
          let k := pktOf s q i
          let gap := match y.lastSeq with | some g => k.seq != (g + 1) % 2 ^ 32 | none => false
          let s1 := setPly p { y with nxt := some k, lastSeq := some k.seq } s0
          if gap then s1.bump F.PLY_STREAM_STAT_SEQGAP p else s1

/-- The stream work of a tick for a player that holds its queue's read side, and the drops of one in DONE whose queue no other reads. -/
def streamTick (p : Nat) (s : State) : State :=
  let q := plyQueue s p
  if !plyStream s p then s
  else if engaged s p then
    streamScan (qEnts s q + 1) p (packetGone p (dropLoose (qEnts s q + 1) p (packetGone p s)))
  else if pst s p == psDone && (quOf s q).reader.isNone && s.on F.BRN_CTL_EN q then dropLoose (qEnts s q + 1) p s
  else s

/-! ### A player's tick -/

/-- A decision reads the step cache: asleep, its pan wakes, and what the decision needs is ready again only after that (R227). -/
def stepRead (p : Nat) (s : State) : State :=
  match cachePan s with
  | some k => if s.on F.PAN_STAT_ASLEEP k && !plyStream s p then panTouch k (setPly p { plyOf s p with ready := [] } s) else s
  | none => s

/-- The decision due at the present position, if one is (R87). -/
def decideDue (p : Nat) (v : Int) (s : State) : State :=
  let y := plyOf s p
  let b := nextB y
  if pst s p == psRunning && atFront s p && y.dec.isNone && decide (((b : Int) - 3) * 2 ^ 24 ≤ v) then
    plyDecide s.now b p (stepRead p s)
  else s

/-- The furthest forward position and the redo bit follow the position (R104). -/
def farTick (p : Nat) (s : State) : State :=
  let y := plyOf s p
  let v := plyS s p
  let front := atFront s p
  let far := if front && decide (y.far < v) then v else y.far
  (setPly p { y with far := far } s).wrB F.PLY_SEQ_STAT_REDO p (!front || decide (v < far))

/-- The position moves to `v` inside the iteration. -/
def moveTo (p : Nat) (v : Int) (s : State) : State :=
  let s0 := s.wrs [(F.PLY_SEQ_STAT_CLAMPED, p, 0)]
  let s1 := if (plyOf s p).lateRev then (setPly p { plyOf s0 p with lateRev := false } s0).wr F.PLY_SEQ_STAT_LATE p 0 else s0
  farTick p (setPos p v s1)

/-- The window of the new position: an underrun where a frame is missing (R127). After a decided entry the position stays at the entry; else at
the last complete tick's, with which a crossing that was no decided entry is undone. -/
def windowTick (p : Nat) (prev : State) (entered crossed : Bool) (s : State) : State :=
  if pst s p != psRunning then s
  else
    let f := frameOf (plyS s p)
    if winComplete s p f then s
    else if entered then underrun p f f s
    else underrun p f (if crossed then frameOf (plyS prev p) else f) (setPos p (plyS prev p) prev)

/-- Whether a decision enters a step, a packet or a further iteration (R92). -/
def decEntry (d : Dec) : Bool := match d.succ with | .iter => true | .step _ => true | .packet => true | _ => false

/-- A RUNNING player in a tick, its rail evaluated (R86 to R104). -/
def runTick (p : Nat) (s : State) : State :=
  let v := railS s p
  let y := plyOf s p
  match y.dec.bind (·.te) with
  | some _ =>
    let due := match y.dec with | some d => lateOk s p d | none => true
    if due then s else s.bump F.PLY_LATE_TICKS_TICKS p
  | none =>
    if v < 0 then
      windowTick p s false true (farTick p (reverseCross p v (undecide p s)))
    else if !atFront s p && decide ((curLen s p : Int) * 2 ^ 24 ≤ v) then
      windowTick p s false true (farTick p (redoCross p v s))
    else
      let s0 := match y.dec with
        | some d => if decide (v < ((d.b : Int) - 3) * 2 ^ 24) then (undecide p s).wr F.PLY_SEQ_STAT_LATE p 0 else s
        | none => s
      let s1 := decideDue p v s0
      match (plyOf s1 p).dec with
      | some d =>
        if decide ((d.b : Int) * 2 ^ 24 ≤ v) then
          let s2 := crossB p d v s1
          windowTick p s1 (decEntry d) (d.succ != .stay) (decideDue p (plyS s2 p) s2)
        else
          let hv := if decHeld s1 p d then min v (heldPos d.b) else v
          windowTick p s1 false false (moveTo p hv s1)
      | none => windowTick p s1 false false (moveTo p v s1)

/-- A player's tick: stream headers, the anchor of a RESUME, the end of an underrun, position, direction, buffer. -/
def plyTick (old : State) (p : Nat) (s0 : State) : State :=
  let s := streamTick p s0
  let st := pst s p
  if st == psRunning then
    let y := plyOf s p
    let dr := serial 64 (railVal s p) (railVal old p)
    let s1 := if y.anchor then setS p (plyS s p) (setPly p { y with anchor := false } s) else s
    let y1 := plyOf s1 p
    let missing := match y1.needF with | some f => !winComplete s1 p f | none => false
    let s2 :=
      if missing then s1.bump F.PLY_UNDER_TICKS_TICKS p
      else
        let s3 := if y1.needF.isSome then
            (setS p (plyS s1 p) (setPly p { y1 with needF := none } s1)).wr F.PLY_STATE_UNDERRUN p 0 else s1
        runTick p s3
    let moved := plyS s2 p != plyS old p || curIter s2 p != curIter old p || curStep s2 p != curStep old p
    let s4 := if moved && dr != 0 then s2.wrB F.PLY_PF_STAT_DIR p (decide (dr < 0)) else s2
    prefetchTick p (s4.wrB F.PLY_SEQ_STAT_REVERSE p (decide (dr < 0)))
  else if st == psStarved then
    let y := plyOf s p
    let r := max (((readyAt s p 1).getD s.now)) (max y.starveMin (y.starveRel.getD 0))
    let due := isReady s p 1 && (y.starveRel.isSome || !s.on F.PLY_CTL_STARVE_POL p) && decide (r + 20 ≤ s.now)
    plyRampSync p (if due then s else s.bump F.PLY_STARVE_TICKS_TICKS p)
  else if st == psHeld then prefetchTick p s
  else if s.on F.PLY_STATE_RAMPING p then plyRampSync p s
  else s

/-! ### Events reach a player (R89, R90, R96, R98, R113, R115) -/

/-- Whether a source is a single-tick pulse (R90). -/
def pulseSrc (src : Nat) : Bool :=
  (decide (0x18 ≤ src) && decide (src ≤ 0x9F)) || (decide (0xC0 ≤ src) && decide (src ≤ 0xF0))

/-- Whether an edge matches an EDGE selection. -/
def edgeMatch (src : Nat) (rising : Bool) (sel : Nat) : Bool :=
  if sel == 3 then false else if pulseSrc src then true else sel == 2 || (sel == 0) == rising

/-- A pending bit is set. -/
def setPend (p e t : Nat) (s : State) : State :=
  let y := plyOf s p
  if (tabGet y.evReg e).isSome then s
  else (setPly p { y with evReg := tabPut y.evReg e t } s).wr F.PLY_EVPEND_PEND p (s.rd F.PLY_EVPEND_PEND p ||| 2 ^ e)

/-- An edge registers on line `e` of a player. -/
def lineEdge (p e : Nat) (g : Trig) (s : State) : State :=
  let st := pst s p
  let y := plyOf s p
  let r := g.rq / 4
  if st == psRunning then setPend p e g.reg s
  else if st == psWaiting then
    match y.wait with
    | none => s
    | some w =>
      let on := waitOn s p w.target e
      let own := e == succWaitEvt s p w.target
      let free := match w.rel with
        | none => true
        | some (_, g0, byOwn, _) => byOwn && g0 == g.reg
      match on, free with
      | some tgt, true => waitRelease p (max r w.te) (if r < w.te then 4 * w.te else g.rq) g.reg false (.step tgt) s
      | some _, false => setPend p e g.reg s
      | none, _ =>
        if own then
          if w.te ≤ r && w.rel.isNone then
            if w.target == .packet && !isReady s p 1 then
              enterStarve p w.tb (some r) (waitRelease p r g.rq g.reg true w.target s)
            else waitRelease p r g.rq g.reg true w.target s
          else if w.te ≤ r then setPend p e g.reg s
          else s
        else setPend p e g.reg s
  else if st == psArmed then
    match y.start with
    | some a => if a.src == 2 && a.evt == e && a.ts.isNone && decide (a.eff ≤ r) then
        setPly p { y with start := some { a with ts := some (r + 20) } } s else s
    | none => s
  else s

/-- A trigger-source edge reaches every line of a player that selects it, and a RAKE start (R89, R115). -/
def trigPlayer (g : Trig) (s : State) (p : Nat) : State :=
  let s1 := (List.range 16).foldl (fun t e =>
    if evSrc t p e == g.src && edgeMatch g.src g.rising (evEdge t p e) then lineEdge p e g t else t) s
  if g.src == 0xF0 then
    match (plyOf s1 p).start with
    | some a => if pst s1 p == psArmed && a.src == 3 && a.ts.isNone && decide (a.eff ≤ g.rq / 4) then
        setPly p { plyOf s1 p with start := some { a with ts := some (g.rq / 4 + 20) } } s1 else s1
    | none => s1
  else s1

/-! ### The start and the delayed entries -/

/-- After a delayed entry the player plays on: RUNNING, or HELD by the device's HOLD (R344). -/
def playOn (p : Nat) (s : State) : State :=
  let s1 := enterPlay p psRunning s
  markOutTick p (markTick p (decideDue p (plyS s1 p) s1))

/-- t_s (R115, R116): the origin is taken and the player runs, waits or starves. -/
def startTick (p : Nat) (s : State) : State :=
  match (plyOf s p).start with
  | none => s
  | some a =>
    if !(startDue s a && pst s p == psArmed) then s
    else
      let y := plyOf s p
      let s1 := ((setPly p { y with start := none, ramp := false } s).wr F.PLY_STATE_START_PEND p 0).wr F.PLY_STARTED_CT_CT p s.ct
      let s2 := completeOpt a.job stOk (b2n a.late) [] s1
      let u : Succ := if plyStream s p then .packet else .step (s.rd F.PLY_START_STEP_START p)
      let s3 := setPly p { plyOf s2 p with hold := none } (setIter p 1 s2)
      if succWaits s3 p u then
        let s4 := match u with | .step n => s3.wr F.PLY_SEQ_STAT_STEP p n | _ => s3
        enterWait p s4.now u none none [] s4
      else if plyStream s p && !isReady s p 1 then enterStarve p none none s3
      else
        let s4 := enterSucc p u (some (succEntry s3 p u)) 0 none none [] false false false s3
        let s5 := if plyStream s p then s4 else
          setPly p { plyOf s4 p with ringHi := y.ringHi, ready := y.ready } s4
        playOn p s5

/-- A late successor is entered (R95). -/
def lateEntry (p : Nat) (s : State) : State :=
  match (plyOf s p).dec with
  | some d =>
    if pst s p == psRunning && d.te.isSome && lateOk s p d then playOn p (decEnter p d 0 s) else s
  | none => s

/-- The entry 20 ticks after a release (R97, R98, R133). -/
def waitEntry (p : Nat) (s : State) : State :=
  match (plyOf s p).wait with
  | none => s
  | some w =>
    match w.rel with
    | none => s
    | some (r, _, own, u) =>
      let ready := u != .packet || isReady s p 1
      if !(pst s p == psWaiting && decide (r + 20 ≤ s.now) && ready) then s
      else if !own && succWaits s p u then enterWait p s.now u none w.tb w.deferred s
      else
        let e := if own then w.pos.getD (succEntry s p u) else succEntry s p u
        playOn p (enterSucc p u (some e) 0 w.tb none w.deferred false false w.tb.isSome s)

/-- A starved player enters the next packet (R133, R134). -/
def starveEntry (p : Nat) (s : State) : State :=
  let y := plyOf s p
  match readyAt s p 1 with
  | none => s
  | some tr =>
    let r := max tr (max y.starveMin (y.starveRel.getD 0))
    let go := pst s p == psStarved && y.nxt.isSome && (y.starveRel.isSome || !s.on F.PLY_CTL_STARVE_POL p) && decide (r + 20 ≤ s.now)
    if go then
      playOn p (enterSucc p .packet (some (succEntry s p .packet)) 0 y.starveTb none [] false false false
        ((setPly p { y with ramp := false } s).wr F.PLY_STATE_RAMPING p 0))
    else s

/-- The step that a candidate is, where one is to be read into the step cache: NEXT, an ON target or the JUMP target. -/
def candStep (s : State) (p code : Nat) : Option Nat :=
  if code == 0 || 6 < code then none else (candKey s p (curStep s p) code).map (·.1)

/-- A candidate's step and first frames have been fetched (R94, R105, R131): 0 the next iteration, 1 NEXT or the next packet,
2 to 5 the ON targets, 6 the JUMP target, 7 the PHASE position, 8 the predecessor. With NEXT the chain behind it is read. A step whose
unit is uncorrectable does not become ready (R136). -/
def markReady (p code : Nat) (s : State) : State :=
  let y := plyOf s p
  let able := engaged s p && decide (code ≤ 8) && !isReady s p code && (plyStream s p || !cacheAsleep s)
    && (code == 0 || 6 < code || plyStream s p || (candKey s p (curStep s p) code).isSome)
    && (code != 1 || !plyStream s p || y.nxt.isSome) && (code != 7 || y.phase.isSome)
    && (code != 8 || !y.hist.isEmpty || y.stale)
  if !able then s
  else
    let s1 := match candStep s p code with | some n => cacheFill p n s | none => s
    let held := match candStep s p code with | some n => inCache s1 p n | none => true
    if !held then s1
    else
      let s2 := if code == 1 && !plyStream s p then cacheChain p 64 (curStep s p) s1 else s1
      let y2 := plyOf s2 p
      eccCand p (curStep s p) code (setPly p { y2 with
        stale := y2.stale && code != 8, ready := if code == 8 && y.hist.isEmpty then y2.ready else tabPut y2.ready code s.now } s2)

/-! ### The fetch window (R86) -/

/-- The frame of the window that lies at index `k` of the current iteration. -/
def winRef (s : State) (p : Nat) (k : Int) : Ref :=
  let y := plyOf s p
  let n : Int := (curLen s p : Int)
  let b : Int := match y.dec with | some d => (match d.succ with | .stay => n | _ => (d.b : Int)) | none => n
  if k < 0 then
    if curIter s p != 1 then refCur s p (n + k)
    else match y.hist, !plyStream s p && stReversible s p (curStep s p) with
      | (st, _, _) :: _, true => refStep s p st ((segLen (segOf s (stSeg s p st)) : Int) + k)
      | _, _ => refCur s p 0
  else if k < b then refCur s p k
  else
    match y.dec with
    | some d =>
      (match d.succ with
       | .stay => refCur s p k
       | .done => lastRef s p d.b
       | u => if decHeld s p d then lastRef s p d.b
                else
                  let st := match u with | .step n => n | _ => curStep s p
                  { refSucc s p u (frameOf (d.pos : Int) + (k - b)) with flip := !plyStream s p && swapAt s p st d.tb })
    | none =>
      if atFront s p then refCur s p (n - 1)
      else if curIter s p < y.front then refCur s p (k - n)
      else match y.redo with
        | (st, _) :: _ => refStep s p st (k - n)
        | [] => refCur s p (n - 1)

end Sys2Proof.Machine
end

