-- ==== Sys2Proof/Machine/OutChain.lean ====
section
/-! DEFINITION. The output chain of a channel: sample instants, interpolation, gain, correction, source selection,
biquads, limiter, requantiser, destinations, enable (R139 to R159, R160, R161). -/

namespace Sys2Proof.Machine

/-! ### Arithmetic of the stages -/

/-- `sat` to s40. -/
def sat40 (i : Int) : Int := satS 40 i

/-- The integer square root rounded down, bit by bit from `2^k`. -/
def isqrtFrom (n : Nat) : Nat → Nat → Nat
  | 0, r => r
  | k + 1, r => let c := r + 2 ^ k; if c * c ≤ n then isqrtFrom n k c else isqrtFrom n k r

def isqrt (n : Nat) : Nat := isqrtFrom n 40 0

/-- The interpolator of R142 over the six words of a window, first f − 2; not yet saturated. -/
def interp (mode : Nat) (ws : List Nat) (u : Nat) : Int :=
  let y (i : Nat) : Int := sgn 32 (ws.getD i 0)
  let ym2 := y 0
  let ym1 := y 1
  let y0 := y 2
  let y1 := y 3
  let y2 := y 4
  let y3 := y 5
  let uu : Int := (u : Int)
  if mode == 0 then y0
  else if mode == 1 then y0 + asr ((y1 - y0) * uu) 24
  else if mode == 2 then
    let c1 := y1 - ym1
    let c2 := 2 * ym1 - 5 * y0 + 4 * y1 - y2
    let c3 := 3 * (y0 - y1) + y2 - ym1
    let h := asr (c3 * uu) 24 + c2
    let h1 := asr (h * uu) 24 + c1
    y0 + asr (h1 * uu) 25
  else
    let d0 := ym2 - 8 * ym1 + 8 * y1 - y2
    let d1 := ym1 - 8 * y0 + 8 * y2 - y3
    let a0 := y1 - 2 * y0 + ym1
    let a1 := y2 - 2 * y1 + y0
    let dy := y1 - y0
    let e5 := 144 * dy - 6 * d0 - 6 * d1 - 12 * a0 + 12 * a1
    let e4 := -360 * dy + 16 * d0 + 14 * d1 + 36 * a0 - 24 * a1
    let e3 := 240 * dy - 12 * d0 - 8 * d1 - 36 * a0 + 12 * a1
    let e2 := 12 * a0
    let e1 := 2 * d0
    let h1 := asr (e5 * uu) 24 + e4
    let h2 := asr (h1 * uu) 24 + e3
    let h3 := asr (h2 * uu) 24 + e2
    let h4 := asr (h3 * uu) 24 + e1
    y0 + asr (h4 * uu) 24 / 24

/-- One step of the Galois generator (R152). -/
def lfsrStep (s : Nat) : Nat := if s % 2 == 1 then (s / 2) ^^^ 0x80200003 else s / 2

/-- 32 steps: the word read, least significant bit first, and the new state. -/
def lfsr32 (s : Nat) : Nat × Nat :=
  (List.range 32).foldl (fun (a : Nat × Nat) i => (a.1 + a.2 % 2 * 2 ^ i, lfsrStep a.2)) (0, s)

/-- The limiter of R149: its input, bounds and state; y and the flags POS 1, VEL 2, ACC 4. Where LIVE writes have put POS_MIN above POS_MAX,
for which R149 gives no order, the clamp's result is the lower of POS_MAX and the value held to POS_MIN (assumption 74). -/
def limiter (z p1 v1 posMin posMax : Int) (velMax accMax : Nat) : Int × Nat :=
  let a : Int := (accMax : Int)
  let w : Int := (velMax : Int)
  let va := sat40 (z - p1)
  let vb := if 0 < accMax then clampI (v1 - a) (v1 + a) va else va
  let vc := if 0 < velMax then clampI (-w) w vb else vb
  let up : Int := (isqrt (2 * accMax * (posMax - p1).toNat) : Int)
  let dn : Int := (isqrt (2 * accMax * (p1 - posMin).toNat) : Int)
  let vd := if 0 < accMax then (if 0 < vc then min vc up else if vc < 0 then max vc (-dn) else vc) else vc
  let ya := sat40 (p1 + vd)
  let y := clampI posMin posMax ya
  (y, b2n (decide (y ≠ ya)) + 2 * b2n (decide (vd ≠ vb)) + 4 * b2n (decide (vb ≠ va)))

/-! ### Fields of a channel's latched configuration -/

def hInterp (ctl : Nat) : Nat := bitsOf ctl 3 1
def hP16 (ctl : Nat) : Bool := bitOf ctl 4
def hFault (ctl : Nat) : Bool := bitOf ctl 5
def dKind (dest : Nat) : Nat := bitsOf dest 2 0
def dUnit (dest : Nat) : Nat := bitsOf dest 7 4
def dSlot (dest : Nat) : Nat := bitsOf dest 11 8
def dDouble (dest : Nat) : Bool := bitOf dest 12
def dMask (dest : Nat) : Nat := bitsOf dest 31 16
def qWidth (rq : Nat) : Nat := bitsOf rq 4 0
def qDither (rq : Nat) : Bool := bitOf rq 5
def qOrder (rq : Nat) : Nat := bitsOf rq 7 6
def qCoef (rq : Nat) : Nat := bitsOf rq 31 16

/-- The words of the registers that an enable latches. -/
def chnCtlWord (s : State) (c : Nat) : Nat :=
  s.rd F.CHN_CTL_LIM_POL c * 32 + s.rd F.CHN_CTL_TYPE c * 16 + s.rd F.CHN_CTL_INTERP c * 2
def chnDestWord (s : State) (c : Nat) : Nat :=
  s.rd F.CHN_DEST_GP_MASK c * 65536 + s.rd F.CHN_DEST_DOUBLE c * 4096 + s.rd F.CHN_DEST_SLOT c * 256
    + s.rd F.CHN_DEST_UNIT c * 16 + s.rd F.CHN_DEST_KIND c
def chnRqWord (s : State) (c : Nat) : Nat :=
  s.rd F.CHN_RQ_NS_COEF c * 65536 + s.rd F.CHN_RQ_ORDER c * 64 + s.rd F.CHN_RQ_DITHER c * 32 + s.rd F.CHN_RQ_WIDTH c
def chnShadow (s : State) (c i : Nat) : List Nat :=
  [s.rd (F.CHN_BQ_B0 i) c, s.rd (F.CHN_BQ_B1 i) c, s.rd (F.CHN_BQ_B2 i) c, s.rd (F.CHN_BQ_A1 i) c, s.rd (F.CHN_BQ_A2 i) c]

/-! ### Taking a sample (R139, R145) -/

/-- The word of a bound player's frame that drives a channel. -/
def chnWordIx (s : State) (p c : Nat) : Nat := ((plyBinds s p).find? (fun w => plyChan s p w == c)).getD 0

/-- The state whose output a player shows: HELD shows the state it left. -/
def shownState (s : State) (p : Nat) : Nat := if pst s p == psHeld then s.rd F.PLY_STATE_HELD_FROM p else pst s p

/-- The source of a channel's sample (R145): 0 PLAY, 1 ramp, 2 REST. A player that waits or starves with no previous frame gives REST samples,
not PLAY samples of REST: R145's row and the REST of R112 and R116 leave that open (assumption 75). -/
def chnKind (s : State) (c : Nat) : Nat :=
  if s.rd F.CHN_STAT_STATE c != 1 then 1
  else match driver s c with
    | none => 2
    | some p =>
      let st := shownState s p
      let y := plyOf s p
      if st == psRunning then 0
      else if st == psWaiting then (if y.hold.isSome then 0 else 2)
      else if st == psStarved then (if s.on F.PLY_CTL_STARVE_POL p then 1 else if y.hold.isSome then 0 else 2)
      else if st == psDone then (if y.ended then 0 else 1)
      else if st == psSafe then 1
      else 2

/-- The window of a PLAY sample: six words, six correction words, the fraction (R86, R107, R112). -/
def chnWindow (s : State) (c : Nat) : List Nat × List Nat × Nat :=
  match driver s c with
  | none => ([], [], 0)
  | some p =>
    let w := chnWordIx s p c
    if shownState s p == psRunning then
      let v := plyS s p
      let f := frameOf v
      let refs := [-2, -1, 0, 1, 2, 3].map (fun (k : Int) => winRef s p (f + k))
      (refs.map (fun r => frameWord s (plyW s p) r.src (bufBad s p r.src) (plyBack s p) r.f w (s.rd F.CHN_REST_REST c)),
       refs.map (fun r => refCorrW s p r w),
       uns 24 v)
    else
      match (plyOf s p).hold with
      | none => ([], [], 0)
      | some (ws, cs) => (List.replicate 6 (ws.getD w 0), List.replicate 6 (cs.getD w 0), 0)

/-- Whether a channel samples in the present tick: T ≡ OFFSET modulo D, once a tick (R139). -/
def chnDue (s : State) (c : Nat) : Bool :=
  let h := chnOf s c
  h.everOn && s.rd F.GLB_CT_TICKS 0 % (h.dm1 + 1) == h.offset && h.lastT != some s.now

/-- A channel takes a sample: it enters the pipeline with the configuration latched (R139, R156). -/
def chnSample (c : Nat) (s : State) : State :=
  if !chnDue s c then s
  else
    let h := chnOf s c
    let k := chnKind s c
    let w := if k == 0 then chnWindow s c else ([], [], 0)
    let x : Samp := { t0 := s.now, ctl := h.ctl, dest := h.dest, rest := h.rest, rq := h.rq, ws := w.1, cs := w.2.1, u := w.2.2,
                      kind := k, first := h.first, gen := h.gen, coef := h.newCoef, seed := h.seed, lat := s.rd F.CHN_LAT_TICKS c,
                      drv := true, v := 0 }
    setChn c { h with pipe := h.pipe ++ [x], first := false, lastT := some s.now } (s.tally F.CHN_SAMPLES_COUNT c)

/-! ### The stages -/

/-- A value saturated to s40, with the count of `CHN_ERR.SAT` (R140). -/
def sat40c (c : Nat) (i : Int) (s : State) : Int × State :=
  (sat40 i, if sat40 i = i then s else s.bump F.CHN_ERR_SAT c)

/-- A sample's value changed. -/
def Samp.put (x : Samp) (v : Int) : Samp := { x with v := v }

/-- Gain and offset in force next tick with a calibration (R143). -/
def chnGain (s : State) (c : Nat) (cal : Int × Int) : Int × Int :=
  (satS 32 (asr (s.rdI F.CHN_GAIN_GAIN c * cal.1 + 2 ^ 29) 30), satS 32 (s.rdI F.CHN_OFFSET_OFFSET c + cal.2))

/-- The calibration that a channel uses (R143). -/
def chnCalNow (s : State) (c : Nat) : Int × Int := (s.rdI F.CHN_CAL_GAIN_CAL_GAIN c, s.rdI F.CHN_CAL_OFFSET_CAL_OFFSET c)

/-- Whether a channel holds its destination: ON, or still ramping. -/
def chnHolds (s : State) (c : Nat) : Bool := s.rd F.CHN_STAT_STATE c == 1 || chnRampLeft s c

/-- Whether a channel that is ON or ramping has DAC `i` as its destination. -/
def dacUsed (s : State) (i : Nat) : Bool :=
  (List.range 256).any (fun c => chnHolds s c && dKind (chnOf s c).dest == 2 && dUnit (chnOf s c).dest == i)

/-- `CNV_DAC_STAT.DRIVEN` of the DAC that is a channel's destination follows its channels. -/
def dacSync (dest : Nat) (s : State) : State :=
  if dKind dest == 2 then s.wrB F.CNV_DAC_STAT_DRIVEN (dUnit dest) (dacUsed s (dUnit dest)) else s

/-- Correction add and source selection (R144 to R146). A channel that is not ON drives its DAC until the ramp, as the limiter passes it, has
reached REST (R160; assumption 73). -/
def stageSource (c : Nat) (x : Samp) (s : State) : Samp × State :=
  let h := chnOf s c
  let rest := sgn 32 x.rest
  if hP16 x.ctl then
    let z : Int := if x.kind == 0 then (x.ws.getD 2 0 % 65536 : Nat) else (x.rest % 65536 : Nat)
    (x.put z, (setChn c { h with z1 := z, ramping := false } s).wrs [(F.CHN_STAT_RAMPING, c, 0), (F.CHN_STAT_AT_REST, c, b2n (z == x.rest % 65536))])
  else
    let r : (Int × Bool) × State :=
      if x.kind == 0 then
        let ci := sat40c c (interp (hInterp x.ctl) x.cs x.u) s
        let w := sat40c c (x.v + ci.1) ci.2
        ((w.1, false), w.2)
      else if x.kind == 1 || h.ramping then
        let k : Int := (s.rd F.CHN_RAMP_RAMP c : Int)
        let z := if k = 0 then rest else if h.z1 < rest then min rest (h.z1 + k) else max rest (h.z1 - k)
        ((z, decide (z ≠ rest)), s)
      else ((rest, false), s)
    let z := r.1.1
    let drv := s.rd F.CHN_STAT_STATE c == 1 || h.z1 != rest || z != rest || h.p1 != rest
    ({ x.put z with drv := drv }, dacSync x.dest ((setChn c { chnOf r.2 c with z1 := z, ramping := r.1.2 } r.2).wrs
      [(F.CHN_STAT_RAMPING, c, b2n r.1.2), (F.CHN_STAT_AT_REST, c, b2n (decide (z = rest)))]))

/-- Biquad `i` (R147, R148): a sample that entered before the last enable takes the coefficients that waited for it (R156). -/
def stageBiquad (c i : Nat) (x : Samp) (s : State) : Samp × State :=
  if hP16 x.ctl then (x, s)
  else
    let h0 := chnOf s c
    let h1 := if x.first then { h0 with coef := h0.coef.set i (x.coef.getD i []), hist := h0.hist.set i (List.replicate 4 (sgn 32 x.rest)) } else h0
    let mine := x.gen == h1.gen
    let pend := tabGet (if mine then h1.coefPend else h1.oldPend) i
    let h := match pend with
      | some k => if mine then { h1 with coef := h1.coef.set i k, coefPend := tabDel h1.coefPend i }
          else { h1 with coef := h1.coef.set i k, oldPend := tabDel h1.oldPend i }
      | none => h1
    let k := h.coef.getD i []
    let co (j : Nat) : Int := sgn 32 (k.getD j 0)
    let t := h.hist.getD i []
    let hi (j : Nat) : Int := t.getD j 0
    let z := x.v
    let acc := co 0 * z + co 1 * hi 0 + co 2 * hi 1 - co 3 * hi 2 - co 4 * hi 3
    let on := bitOf (s.rd F.CHN_CTL_BQ_EN c) i
    let o := if on then sat40c c (asr (acc + 2 ^ 29) 30) s else (z, s)
    let s1 := setChn c { h with hist := h.hist.set i [z, hi 0, o.1, hi 2] } o.2
    let p := s1.rd F.CHN_STAT_BQ_PEND c
    (x.put o.1, if mine && pend.isSome && bitOf p i then s1.wr F.CHN_STAT_BQ_PEND c (p - 2 ^ i) else s1)

/-- A channel enters SAFE (R150, R156). -/
def chnSafe (c cause : Nat) (s : State) : State :=
  if s.rd F.CHN_STAT_STATE c == 1 then
    s.wrs [(F.CHN_STAT_STATE, c, 2), (F.CHN_STAT_SAFE_CAUSE, c, cause), (F.CHN_CTL_EN, c, 0)]
  else s

/-- The limiter stage, its counts and its FAULT response (R149, R150); a P16 sample passes without a limit. A PLAY sample that is limited once
its channel is OFF causes no SAFE, a choice that R150 leaves open (assumption 76). -/
def stageLimit (c : Nat) (x : Samp) (s : State) : Samp × State :=
  if hP16 x.ctl then (x, s.wr F.CHN_STAT_LIMITING c 0)
  else
    let h0 := chnOf s c
    let h := if x.first then { h0 with p1 := sgn 32 x.rest, v1 := 0 } else h0
    let r := limiter x.v h.p1 h.v1 (s.rdI F.CHN_POS_MIN_POS_MIN c) (s.rdI F.CHN_POS_MAX_POS_MAX c)
      (s.rd F.CHN_VEL_MAX_VEL_MAX c) (s.rd F.CHN_ACC_MAX_ACC_MAX c)
    let y := r.1
    let k := r.2
    let s0 := if x.kind == 0 && !(lanesOn s).isEmpty then { s with limOut := s.limOut ++ [(c, x.t0, decide (k ≠ 0))] } else s
    let s1 := setChn c { h with v1 := y - h.p1, p1 := y, limFlags := k } s0
    let s2 := if bitOf k 0 then s1.bump F.CHN_LIM_POS_COUNT c else s1
    let s3 := if bitOf k 1 then s2.bump F.CHN_LIM_VA_VEL c else s2
    let s4 := if bitOf k 2 then s3.bump F.CHN_LIM_VA_ACC c else s3
    let s5 := (s4.wrI F.CHN_LAST_Y c y).wrB F.CHN_STAT_LIMITING c (decide (k ≠ 0))
    let fault := hFault x.ctl && x.kind == 0 && decide (k ≠ 0) && s5.rd F.CHN_STAT_STATE c == 1
    let s6 := if fault then
        (match driver s5 c with | some p => plySafe p 4 c (chnSafe c 1 s5) | none => chnSafe c 1 s5)
      else s5
    (x.put y, s6)

/-- The requantiser (R152, R153): word32 as the sample's value. -/
def stageRequant (c : Nat) (x : Samp) (s : State) : Samp × State :=
  if hP16 x.ctl then (x, s)
  else
    let h0 := chnOf s c
    let h := if x.first then { h0 with lfsr := x.seed, e1 := 0, e2 := 0 } else h0
    let n := qWidth x.rq
    let m := 32 - n
    let w1 := lfsr32 h.lfsr
    let w2 := lfsr32 w1.2
    let dth : Int := if qDither x.rq then ((w1.1 / 2 ^ n : Nat) : Int) - ((w2.1 / 2 ^ n : Nat) : Int) else 0
    let fb := if qOrder x.rq == 0 then 0 else if qOrder x.rq == 1 then h.e1
      else sat40 (asr ((qCoef x.rq : Int) * h.e1) 14 - h.e2)
    let uu := sat40 (x.v - fb)
    let q := sat40 (asr (uu + dth + ((2 ^ (m - 1) : Nat) : Int)) m)
    let hiQ : Int := ((2 ^ (n - 1) : Nat) : Int) - 1
    let clip := decide (hiQ < q) || decide (q < -hiQ - 1)
    let q1 := clampI (-hiQ - 1) hiQ q
    let e : Int := q * ((2 ^ m : Nat) : Int) - uu
    let h1 := { h with lfsr := w2.2, e2 := if clip then 0 else h.e1, e1 := if clip then 0 else e }
    let s1 := setChn c h1 s
    (x.put (uns 32 (q1 * ((2 ^ m : Nat) : Int))), if clip then s1.bump F.CHN_ERR_RQ_SAT c else s1)

/-- The pins of a mask take levels at the quarter tick `rq` at the ball (R155): from then on a pin is driven. -/
def gpDriveTo (mask value rq : Nat) (s : State) : State :=
  let s1 := { s with gpValue := (List.range 16).foldl (fun a i => if bitOf (if bitOf mask i then value else s.gpValue) i then a + 2 ^ i else a) 0 }
  if s.rd F.PWR_STAT_VIO 0 != 0 then
    (List.range 16).foldl (fun t i => if bitOf mask i then { t with gpQueue := t.gpQueue ++ [(rq, i, bitOf value i)] } else t) s1
  else { s1 with gpDrive := s.gpDrive ||| mask }

/-- P_slot of an out-lane: 8, 16 or 32 ticks (R27, R154). -/
def pSlot (s : State) (n : Nat) : Nat := 8 * 2 ^ s.rd F.FLM_OL_CTL_RATE n

def olOf (s : State) (n : Nat) : OLane := (tabGet s.ols n).getD OLane.fresh

def setOl (n : Nat) (v : OLane) (s : State) : State := { s with ols := tabSet OLane.fresh s.ols n v }

/-- A slot or the pattern field of an out-lane takes a word of the channel it was assigned to since the lane's enable (R154, R251): of a
DOUBLE pair, the word that arrives in the first half of the frame period goes to the lower slot. -/
def laneTake (dest w : Nat) (s : State) : State :=
  let n := dUnit dest
  let o := olOf s n
  let p := pSlot s n
  if dKind dest == 4 then (if o.patOn then setOl n { o with pat := w % 65536 } s else s)
  else
    let late := dDouble dest && decide (p / 2 ≤ (s.rd F.GLB_CT_TICKS 0 + p - 1) % p)
    let m := dSlot dest + b2n late
    if bitOf o.valid m then setOl n { o with slots := tabPut o.slots m w } s else s

/-- A destination word assigns a lane's slots or pattern field to a channel (R251, R253): bits of VALID, and the DOUBLE pair. -/
def laneAssign (dest : Nat) (s : State) : State :=
  let o := olOf s (dUnit dest)
  if dKind dest == 1 then
    let m := dSlot dest
    setOl (dUnit dest) { o with
      valid := o.valid ||| 2 ^ m ||| (if dDouble dest then 2 ^ (m + 1) else 0)
      dbl := if dDouble dest then o.dbl ||| 2 ^ (m / 2) else if bitOf o.dbl (m / 2) then o.dbl - 2 ^ (m / 2) else o.dbl } s
  else if dKind dest == 4 then setOl (dUnit dest) { o with patOn := true } s
  else s

/-- The calibration a channel loads at its enable: gain, offset and latency (R372). -/
def chnCal (s : State) (dest offset : Nat) : Nat × Nat × Nat :=
  let k := dKind dest
  let i := dUnit dest
  if k == 2 then
    ((tabGet s.cal.dacGain i).getD 0x40000000, (tabGet s.cal.dacOff i).getD 0, 44 + (tabGet s.cal.dacLat i).getD 0)
  else if k == 3 then (0x40000000, 0, 44 + s.cal.gpLat)
  else if k == 1 || k == 4 then
    let w := uns 16 (-((offset : Int) + 11)) % pSlot s i
    (0x40000000, 0, 4 * (11 + w) + s.rd F.FLM_OL_LAT_LAT i)
  else (0x40000000, 0, 44)

/-- A partial cupping withholds new words from its channel's destination (R371). -/
def cupDest (s : State) (dest : Nat) : Bool :=
  match s.cup with
  | some c =>
    let d := chnDestWord s c.index
    c.scope == 1 && dKind d != 0 && dKind d == dKind dest && (if dKind d == 2 then dUnit d == dUnit dest else d == dest)
  | none => false

/-- The destination register takes word32 (R154, R155, R160): a DAC does so while a channel drives it and its current limit does not act. -/
def stageDest (c : Nat) (x : Samp) (s : State) : State :=
  let w := uns 32 x.v
  let h := chnOf s c
  let s1 := { setChn c { h with word := w } s with chnOut := s.chnOut ++ [(c, x.t0)] }
  let k := dKind x.dest
  if cupDest s1 x.dest then s1
  else if k == 2 then
    if x.drv && s1.on F.CNV_DAC_CTL_EN (dUnit x.dest) && !s1.on F.CNV_DAC_STAT_OVLD (dUnit x.dest) then s1.wr F.CNV_DAC_STAT_CODE (dUnit x.dest) (w / 4096) else s1
  else if k == 1 || k == 4 then laneTake x.dest w s1
  else if k == 3 then gpDriveTo (dMask x.dest) w (4 * x.t0 + x.lat) s1
  else s1

/-- A sample of age `now − t0` passes the stage of its tick (R140); none once it has reached its destination. -/
def chnStage (c : Nat) (x : Samp) (s : State) : Option Samp × State :=
  let k := s.now - x.t0
  let p16 := hP16 x.ctl
  if k == 2 then
    if p16 || x.kind != 0 then (some x, s)
    else let r := sat40c c (interp (hInterp x.ctl) x.ws x.u) s; (some (x.put r.1), r.2)
  else if k == 3 then
    if p16 || x.kind != 0 then (some x, s)
    else
      let h := chnOf s c
      let mine := x.gen == h.gen
      let r := sat40c c (asr (x.v * (if mine then h.g else h.g2) + 2 ^ 29) 30 + (if mine then h.o else h.o2)) s
      (some (x.put r.1), r.2)
  else if k == 4 then let r := stageSource c x s; (some r.1, r.2)
  else if decide (5 ≤ k) && decide (k ≤ 8) then let r := stageBiquad c (k - 5) x s; (some r.1, r.2)
  else if k == 9 then let r := stageLimit c x s; (some r.1, r.2)
  else if k == 10 then let r := stageRequant c x s; (some r.1, r.2)
  else if decide (11 ≤ k) then (none, stageDest c x s)
  else (some x, s)

/-- The samples of a pipeline, oldest first, each through the stage of this tick. -/
def chnPipe (c : Nat) : List Samp → State → List Samp × State
  | [], s => ([], s)
  | x :: r, s =>
    let a := chnStage c x s
    let b := chnPipe c r a.2
    (match a.1 with | some y => (y :: b.1, b.2) | none => b)

/-- A channel's pipeline in a tick (R140): the samples of earlier ticks pass their stages before the players act (R113). -/
def chnTick (c : Nat) (s : State) : State :=
  if !(chnOf s c).everOn then s
  else let r := chnPipe c (chnOf s c).pipe s; setChn c { chnOf r.2 c with pipe := r.1 } r.2

/-- The gains and offsets that a channel uses from the next tick on (R143). -/
def chnNext (c : Nat) (s : State) : State :=
  let h := chnOf s c
  if !h.everOn then s
  else
    let k := chnGain s c (chnCalNow s c)
    let k2 := chnGain s c h.oldCal
    setChn c { h with g := k.1, o := k.2, g2 := k2.1, o2 := k2.2 } s

/-- Levels that driven edges give the pins by the present tick: the level at the ball and the trigger edge (R155). -/
def gpTick (s : State) : State :=
  let due := s.gpQueue.filter (fun e => decide (e.1 / 4 ≤ s.now))
  due.foldl (fun t0 e =>
    let t := { t0 with gpDrive := t0.gpDrive ||| 2 ^ e.2.1 }
    let l := t.rd F.TRG_GP_STAT_LEVEL 0
    if bitOf l e.2.1 == e.2.2 then t
    else pushTrig e.2.1 e.2.2 e.1 (e.1 / 4 + 4) (t.wr F.TRG_GP_STAT_LEVEL 0 (if e.2.2 then l + 2 ^ e.2.1 else l - 2 ^ e.2.1)))
    { s with gpQueue := s.gpQueue.filter (fun e => !decide (e.1 / 4 ≤ s.now)) }

/-! ### Enable (R156, R157) -/

/-- Whether two destination words claim one destination. -/
def destClash (a b : Nat) : Bool :=
  dKind a == dKind b && dKind a != 0 &&
    (if dKind a == 3 then dMask a &&& dMask b != 0
     else if dKind a == 1 then
       dUnit a == dUnit b && decide (dSlot a ≤ dSlot b + b2n (dDouble b)) && decide (dSlot b ≤ dSlot a + b2n (dDouble a))
     else dUnit a == dUnit b)

/-- The lowest cause of R157 that holds, 0 for none; `par` says that a register of the channel holds a mismatch. -/
def chnEnableCause (par : Bool) (c : Nat) (s : State) : Nat :=
  let dst := chnDestWord s c
  let k := dKind dst
  let d := s.rd F.CHN_RATE_DM1 c + 1
  let p16 := s.on F.CHN_CTL_TYPE c
  let ps := pSlot s (dUnit dst)
  let badRate :=
    if k == 1 then (if dDouble dst then 2 * d != ps || dSlot dst % 2 == 1 else d % ps != 0)
    else if k == 2 then d % 64 != 0
    else if k == 3 then decide (d < 8)
    else if k == 4 then d % ps != 0
    else false
  let n := s.rd F.CHN_RQ_WIDTH c
  let rest := s.rdI F.CHN_REST_REST c
  let lo := s.rdI F.CHN_POS_MIN_POS_MIN c
  let hi := s.rdI F.CHN_POS_MAX_POS_MAX c
  if decide (d < 4) || decide (d ≤ s.rd F.CHN_RATE_OFFSET c) then 1
  else if badRate then 2
  else if (List.range 256).any (fun o => o != c && chnHolds s o && destClash dst (chnOf s o).dest) then 3
  else if (k == 2 && p16) || ((k == 3 || k == 4) && !p16) || (dDouble dst && p16) then 4
  else if decide (n < 12) || decide (24 < n) || (k == 2 && decide (20 < n)) then 5
  else if decide (hi < lo) || decide (rest < lo) || decide (hi < rest) then 6
  else if s.on F.CHN_RQ_DITHER c && s.rd F.CHN_DSEED_DSEED c == 0 then 7
  else if par || (s.rd F.CHN_STAT_STATE c == 2 && chnRampLeft s c) then 8
  else if (k == 2 && (decide (7 < dUnit dst) || !s.on F.CNV_DAC_CTL_EN (dUnit dst)))
      || ((k == 1 || k == 4) && !s.on F.FLM_OL_CTL_EN (dUnit dst)) then 9
  else 0

/-- A destination word without what another takes: its GP pins, or the whole. -/
def destWithout (a b : Nat) : Nat :=
  if !destClash a b then a
  else if dKind a == 3 && dMask a &&& dMask b != dMask a then a - (dMask a &&& dMask b) * 65536
  else 0

/-- A destination goes to the channel that is enabled on it: channels at REST that had it, in state OFF or SAFE, no longer write it (R156, R157). -/
def destYield (c dest : Nat) (s : State) : State :=
  (List.range 256).foldl (fun t o =>
    let h := chnOf t o
    if o != c && h.everOn && destClash h.dest dest then
      setChn o { h with dest := destWithout h.dest dest, pipe := h.pipe.map (fun (x : Samp) => { x with dest := destWithout x.dest dest }) } t
    else t) s

/-- A write of a channel's enable (R156, R157). -/
def chnEnable (par : Bool) (c : Nat) (en : Bool) (s : State) : State :=
  if !en then
    if s.rd F.CHN_STAT_STATE c == 1 then dacSync (chnOf s c).dest (s.wrs [(F.CHN_CTL_EN, c, 0), (F.CHN_STAT_STATE, c, 0)]) else s.wr F.CHN_CTL_EN c 0
  else if s.on F.CHN_CTL_EN c then s
  else
    let k := chnEnableCause par c s
    if k != 0 then s.wrs [(F.CHN_CTL_EN, c, 0), (F.CHN_STAT_CFG_BAD, c, 1), (F.CHN_STAT_ENCAUSE, c, k)]
    else
      let h := chnOf s c
      let h1 := { h with
        everOn := true, ctl := chnCtlWord s c, dm1 := s.rd F.CHN_RATE_DM1 c, offset := s.rd F.CHN_RATE_OFFSET c,
        dest := chnDestWord s c, rest := s.rd F.CHN_REST_REST c, rq := chnRqWord s c, seed := s.rd F.CHN_DSEED_DSEED c,
        newCoef := (List.range 4).map (chnShadow s c), first := true, coefPend := [], oldPend := h.coefPend, gen := h.gen + 1,
        oldCal := chnCalNow s c }
      let cal := chnCal s h1.dest h1.offset
      dacSync h.dest <| dacSync h1.dest <| laneAssign h1.dest <| setChn c h1 (destYield c h1.dest s |>.wrs [
        (F.CHN_CAL_GAIN_CAL_GAIN, c, cal.1), (F.CHN_CAL_OFFSET_CAL_OFFSET, c, cal.2.1), (F.CHN_LAT_TICKS, c, cal.2.2),
        (F.CHN_CTL_EN, c, 1), (F.CHN_STAT_STATE, c, 1), (F.CHN_STAT_CFG_BAD, c, 0), (F.CHN_STAT_ENCAUSE, c, 0),
        (F.CHN_STAT_SAFE_CAUSE, c, 0), (F.CHN_STAT_BQ_PEND, c, 0), (F.CHN_SAMPLES_COUNT, c, 0)])

/-- RESEED, and the seed at a start tick of the bound player (R153). -/
def chnSeed (c : Nat) (s : State) : State :=
  let h := chnOf s c
  setChn c { h with lfsr := h.seed, e1 := 0, e2 := 0 } s

/-- The channels of a player at its start tick (R153). -/
def startSeeds (p : Nat) (s : State) : State := (plyChans s p).foldl (fun t c => chnSeed c t) s

/-- BQ_APPLY: the selected shadows are copied and wait for their first sample (R148). -/
def chnApply (c mask : Nat) (s : State) : State :=
  (List.range 4).foldl (fun t i =>
    if bitOf mask i then
      let h := chnOf t c
      (setChn c { h with coefPend := tabPut h.coefPend i (chnShadow t c i) } t).wr F.CHN_STAT_BQ_PEND c (t.rd F.CHN_STAT_BQ_PEND c ||| 2 ^ i)
    else t) s

/-! ### The integrated DACs (R160, R161) -/

/-- A write of a DAC's enable: refused while used; otherwise the output is driven or at 0 V with code 0. -/
def dacEnable (i : Nat) (en : Bool) (s : State) : Bool × State :=
  if !en && dacUsed s i then (false, s)
  else if s.on F.CNV_DAC_CTL_EN i == en then (true, s)
  else (true, s.wrs [(F.CNV_DAC_CTL_EN, i, b2n en), (F.CNV_DAC_STAT_CODE, i, 0)])

/-- The output current limit of a DAC starts or stops acting (R160). -/
def dacLimit (i : Nat) (acts : Bool) (s : State) : State :=
  let s1 := if acts && !s.on F.CNV_DAC_STAT_OVLD i then s.bump F.CNV_DAC_ERR_OVLD i else s
  s1.wrB F.CNV_DAC_STAT_OVLD i acts

end Sys2Proof.Machine
end

