-- ==== Sys2Proof/Machine/Carafe.lean ====
section
/-! DEFINITION. Carafe's controller: address maps, ports, scheduling, open pages, refresh, row-hammer defence,
self-refresh, ECC and patrol scrub (R198 to R218). Command timing in memory cycles is not modelled: a channel issues one
request a tick (assumption 13). -/

namespace Sys2Proof.Machine

/-! ### Address maps (R199) -/

/-- Channel, bank, row and block of a byte address under a map. -/
def carMap (map a : Nat) : Nat × Nat × Nat × Nat :=
  if map == 0 then
    let g := a / 256
    let h := g / 4
    (g % 4, h / 7 % 16, h / 7 / 16, 4 * (h % 7) + a / 64 % 4)
  else if map == 1 then
    let b := a / 64
    (b % 4, b / 4 % 16, b / 64 / 28, b / 64 % 28)
  else
    let b := a % 3758096384 / 64
    (a / 3758096384, b / 28 % 16, b / 28 / 16, b % 28)

/-- The map in force. -/
def carAt (s : State) (a : Nat) : Nat × Nat × Nat × Nat := carMap (s.rd F.CAR_STAT_MAP_ACT 0) a

def carChan (s : State) (a : Nat) : Nat := (carAt s a).1

/-- Key of a bank: 16·channel + bank. -/
def carKey (s : State) (a : Nat) : Nat := 16 * (carAt s a).1 + (carAt s a).2.1
def carRow (s : State) (a : Nat) : Nat := (carAt s a).2.2.1

def bankOf (s : State) (k : Nat) : CarBank := (tabGet s.car.banks k).getD CarBank.fresh

def setBank (k : Nat) (b : CarBank) (s : State) : State :=
  { s with car := { s.car with banks := tabSet CarBank.fresh s.car.banks k b } }

/-! ### Ports (R201, R202) -/

/-- Real-time: the player ports and the step-cache fill. -/
def portRt (i : Nat) : Bool := decide (i ≤ 63) || i == 69
/-- Deadline: capture and Refine. -/
def portDl (i : Nat) : Bool := i == 64 || i == 65
def portBulk (i : Nat) : Bool := !portRt i && !portDl i
def bulkPorts : List Nat := [66, 67, 68, 70, 71]

/-- The rank at which a port serves. -/
def portRank (s : State) (i : Nat) : Nat :=
  if i ≤ 63 then (if s.on F.PLY_PF_STAT_PANIC i then 1 else 3) else if portDl i then 2 else if i == 69 then 3 else 4

/-- Urgency of a request: the slack against U1 to U3, in units of 100 ns (16 ticks). -/
def carUrg (s : State) (r : CarReq) : Nat :=
  match r.deadline with
  | none => 0
  | some d =>
    let k := d - s.now
    if k ≤ 16 * s.rd F.CAR_QOS_U3 0 then 3 else if k ≤ 16 * s.rd F.CAR_QOS_U2 0 then 2
    else if k ≤ 16 * s.rd F.CAR_QOS_U1 0 then 1 else 0

/-! ### Scheduling (R203, R206, R209) -/

/-- The units of 64 bytes that a range of bytes touches. -/
def unitsOf (a n : Nat) : List Nat := if n == 0 then [] else (List.range ((a + n - 1) / 64 + 1 - a / 64)).map (· + a / 64)

/-- The units of a request that lie in a channel. -/
def carPart (s : State) (m : Nat) (r : CarReq) : List Nat := (unitsOf r.addr r.len).filter (fun u => carChan s (64 * u) == m)

/-- Whether a channel has yet to issue its part of a request. -/
def carOpen (s : State) (m : Nat) (r : CarReq) : Bool := !memN r.done m && !(carPart s m r).isEmpty

/-- The address at which a channel's part of a request begins. -/
def carFirst (s : State) (m : Nat) (r : CarReq) : Nat := 64 * (carPart s m r).headD 0

/-- Whether the first row that a channel needs for a request is open in its bank. -/
def carHit (s : State) (m : Nat) (r : CarReq) : Bool :=
  (bankOf s (carKey s (carFirst s m r))).row == some (carRow s (carFirst s m r))

/-- A bulk request whose row in a channel may not be activated yet (R209). -/
def carThrottled (s : State) (m : Nat) (r : CarReq) : Bool :=
  let a := carFirst s m r
  let k := carKey s a
  let w := carRow s a
  portBulk r.port && !carHit s m r && s.car.thr.any (fun e => e.1 == k && e.2 == w) &&
    s.car.thrUse.any (fun e => e.1 == r.port && e.2.1 == k && e.2.2.1 == w &&
      decide (s.now < e.2.2.2 + usTicks (s.rd F.CAR_RH_THROTTLE 0)))

/-- Whether a channel serves request `a` before request `b`: rank, urgency, hit and age as R203 orders them. -/
def carBefore (s : State) (m : Nat) (a b : CarReq) : Bool :=
  let ra := portRank s a.port
  let rb := portRank s b.port
  if ra != rb then decide (ra < rb)
  else if ra == 2 then
    let ua := carUrg s a
    let ub := carUrg s b
    if ua != ub then decide (ub < ua)
    else if ua != 3 && carHit s m a != carHit s m b then carHit s m a
    else decide (a.deadline.getD 0 < b.deadline.getD 0)
  else if carHit s m a != carHit s m b then carHit s m a
  else decide (a.born < b.born)

/-- The oldest request of each port only: one port's requests complete in the order in which it issued them (R204). -/
def carHeads (l : List CarReq) (seen : List Nat) : List CarReq :=
  match l with
  | [] => []
  | r :: t => if memN seen r.port then carHeads t seen else r :: carHeads t (r.port :: seen)

/-- The request that a channel issues next, of those whose part in it is not issued. -/
def carPick (s : State) (m : Nat) : Option CarReq :=
  ((carHeads (s.car.reqs.filter (carOpen s m)) []).filter (fun r => !carThrottled s m r)).foldl
    (fun (b : Option CarReq) r => match b with | none => some r | some x => if carBefore s m r x then some r else some x) none

/-- The list without the first entry equal to a request. -/
def delReq (r : CarReq) : List CarReq → List CarReq
  | [] => []
  | x :: t => if x = r then t else x :: delReq r t

/-! ### Row hammer (R209, R210) -/

/-- The tracker after an activate of a row: whether the row newly reached the threshold, and the rows' counts. -/
def trkHit (th row : Nat) (t : List (Nat × Nat)) : Bool × List (Nat × Nat) :=
  match t.find? (fun e => e.1 == row) with
  | some e => (decide (e.2 < th) && decide (th ≤ e.2 + 1), t.map (fun x => if x.1 == row then (row, e.2 + 1) else x))
  | none =>
    if t.length < 64 then (decide (th ≤ 1), t ++ [(row, 1)])
    else
      let low := t.foldl (fun (a : Nat × Nat) x => if x.2 < a.2 then x else a) (t.headD (0, 0))
      (decide (th ≤ low.2 + 1), t.map (fun x => if x.1 == low.1 then (row, low.2 + 1) else x))

/-- A row reached the threshold: its neighbours are to be refreshed, and where a bulk port activated it in the window, every bulk port is
throttled for it (R209). -/
def rowThreshold (k row : Nat) (s : State) : State :=
  let s1 := { s with car := { s.car with nbr := s.car.nbr ++ [(k, row, 0, true)] } }.bump F.CAR_RH_STAT_FORCED 0
  if s.car.thrUse.any (fun e => e.2.1 == k && e.2.2.1 == row) && !s.car.thr.any (fun e => e.1 == k && e.2 == row) then
    let s2 := { s1 with car := { s1.car with thr := s1.car.thr ++ [(k, row)] } }
    bulkPorts.foldl (fun t i => (t.bump F.CAR_PORT_EVT_THROTTLED i).bump F.CAR_RH_STAT_THROTTLES 0) s2
  else s1

/-- R210: an activate of rank 1 to 3 draws a word; low bits all 0 schedule a neighbour refresh. -/
def rowDraw (k row : Nat) (s : State) : State :=
  let w := lfsr32 s.car.lfsr
  let s1 := { s with car := { s.car with lfsr := w.2 } }
  if w.1 % 2 ^ s.rd F.CAR_RH_PSHIFT 0 == 0 then
    { s1 with car := { s1.car with nbr := s1.car.nbr ++ [(k, row, 0, false)] } }.tally F.CAR_RH_PROB_COUNT 0
  else s1

/-- A bank's row is closed, its check cache with it. -/
def bankClose (k : Nat) (s : State) : State := setBank k { bankOf s k with row := none, chk := [] } s

/-- A bank activates a row for a port: neighbour refreshes waiting for the bank age and are forced before its 64th following activate, those
of a threshold before the next of a bulk port (R209, R210); the tracker counts, the generator draws. -/
def carActivate (port k row : Nat) (s : State) : State :=
  let bulk := portBulk port
  let aged := s.car.nbr.map (fun e => if e.1 == k then (e.1, e.2.1, e.2.2.1 + 1, e.2.2.2) else e)
  let s1 := { s with car := { s.car with
    nbr := aged.filter (fun e => e.1 != k || (decide (e.2.2.1 < 64) && !(bulk && e.2.2.2)))
    thrUse := if bulk then (s.car.thrUse.filter (fun e => !(e.1 == port && e.2.1 == k && e.2.2.1 == row))) ++ [(port, k, row, s.now)]
              else s.car.thrUse } }
  let b := bankOf s1 k
  let h := trkHit (s.rd F.CAR_RH_TH 0) row b.trk
  let s2 := setBank k { b with row := some row, chk := [], trk := h.2 } s1
  let s3 := if h.1 then rowThreshold k row s2 else s2
  if bulk then s3 else rowDraw k row s3

/-- Whether a rank-1 request waits for a bank. -/
def bankWanted (s : State) (k : Nat) : Bool :=
  s.car.reqs.any (fun r => portRank s r.port == 1 && (unitsOf r.addr r.len).any (fun u => carKey s (64 * u) == k))

/-- Neighbour refreshes are issued when no rank-1 request waits for their bank, whose row they close (R206, R209, R210). -/
def nbrTick (s : State) : State :=
  let go := s.car.nbr.filter (fun e => !bankWanted s e.1)
  if go.isEmpty then s
  else go.foldl (fun t e => bankClose e.1 t) { s with car := { s.car with nbr := s.car.nbr.filter (fun e => bankWanted s e.1) } }

/-! ### Issue and traffic -/

/-- The data bytes of a number of blocks moved in a channel (`CAR_BYTES`), check bytes excluded. -/
def carTraffic (wr : Bool) (m n : Nat) (s : State) : State :=
  s.tallyBy (if wr then F.CAR_BYTES_WR_V else F.CAR_BYTES_RD_V) m (64 * n)

/-- An access to a unit: a miss activates its row, its check bytes join the check cache, and the page stays open (R198, R206). -/
def carAccess (port u : Nat) (s : State) : State :=
  let a := 64 * u
  let k := carKey s a
  let s1 := if (bankOf s k).row == some (carRow s a) then s else carActivate port k (carRow s a) s
  let b := bankOf s1 k
  setBank k { b with used := s.now, idle := s.rd F.CAR_CTL_PAGE_IDLE 0, chk := addN b.chk (carAt s a).2.2.2 } s1

/-- A channel issues its part of a request; with `PAGE_IDLE` = 0 its rows close behind it (R206). The last part of a read of a client that
waits for data puts it in flight; a unit that the patrol scrub reads and that is uncorrectable is found (R216). -/
def carIssue (m : Nat) (r : CarReq) (s : State) : State :=
  let us := carPart s m r
  let r1 := { r with done := r.done ++ [m] }
  let last := !(List.range 4).any (fun k => carOpen s k r1)
  let rest := if last then delReq r s.car.reqs else s.car.reqs.map (fun x => if x = r then r1 else x)
  let s1 := us.foldl (fun t u => carAccess r.port u t) { s with car := { s.car with reqs := rest } }
  let s2 := if s.rd F.CAR_CTL_PAGE_IDLE 0 == 0 then us.foldl (fun t u => bankClose (carKey t (64 * u)) t) s1 else s1
  let s3 := carTraffic r.wr m us.length s2
  if r.wr || r.client != 0 || !last then s3 else { s3 with car := { s3.car with flight := s3.car.flight ++ [r] } }

/-- Rows that no access has hit for PAGE_IDLE core cycles, four a tick, as the last access found it, are precharged (R206). -/
def pageIdle (s : State) : State :=
  s.car.banks.foldl (fun t e => if e.2.row.isSome && decide (e.2.idle ≤ 4 * (s.now - e.2.used)) then bankClose e.1 t else t) s

/-! ### Refresh (R207) -/

/-- Refreshes owed by a channel. -/
def owed (s : State) (m : Nat) : Nat := s.rd F.CAR_REF_STAT_OWED 0 / 16 ^ m % 16

def setOwed (m n : Nat) (s : State) : State :=
  let v := s.rd F.CAR_REF_STAT_OWED 0
  s.wr F.CAR_REF_STAT_OWED 0 (v - v / 16 ^ m % 16 * 16 ^ m + n * 16 ^ m)

/-- A refresh is issued: in per-bank mode it takes the next bank of the channel, in all-bank mode every bank. -/
def refIssue (m : Nat) (s : State) : State :=
  if s.on F.CAR_REF_MODE 0 then (List.range 16).foldl (fun t b => bankClose (16 * m + b) t) s
  else
    let b := (tabGet s.car.nextBank m).getD 0
    let s1 := bankClose (16 * m + b) s
    { s1 with car := { s1.car with nextBank := tabPut s1.car.nextBank m ((b + 1) % 16) } }

/-- Time between a channel's refreshes in hundredths of a tick: every bank once in 3.904 µs, 1.952 µs at the doubled rate; one refresh covers
one bank in per-bank mode and all 16 in all-bank mode (R207). -/
def refGap (s : State) (m : Nat) : Nat :=
  (if s.on F.CAR_REF_MODE 0 then 62464 else 3904) / (if bitOf (s.rd F.CAR_REF_STAT_RATE2X 0) m then 2 else 1)

/-- Whether a request of rank 1, or of rank 2 with urgency 1 or more, waits in a channel. -/
def refWaits (s : State) (m : Nat) : Bool :=
  s.car.reqs.any (fun r => carOpen s m r &&
    (portRank s r.port == 1 || (portRank s r.port == 2 && decide (1 ≤ carUrg s r))))

/-- A refresh of a channel falls due: one pulled in ahead pays it, else it is postponed, forced or issued. -/
def refDue (m : Nat) (s : State) : State :=
  let a := (tabGet s.car.ahead m).getD 0
  if a != 0 then { s with car := { s.car with ahead := tabPut s.car.ahead m (a - 1) } }
  else if refWaits s m && decide (owed s m < 8) then setOwed m (owed s m + 1) s
  else refIssue m s

/-- A channel without a request pays an owed refresh, then pulls in up to 8. -/
def refIdle (m : Nat) (s : State) : State :=
  if s.car.reqs.any (carOpen s m) then s
  else if owed s m != 0 then refIssue m (setOwed m (owed s m - 1) s)
  else
    let a := (tabGet s.car.ahead m).getD 0
    if a < 8 then refIssue m { s with car := { s.car with ahead := tabPut s.car.ahead m (a + 1) } } else s

/-! ### Power states (R211, R212) -/

def pwRun : Nat := 0
def pwDrain : Nat := 1
def pwSr : Nat := 2
def pwExit : Nat := 3
def carPwr (s : State) : Nat := s.rd F.CAR_STAT_PWR 0
def setPwr (v : Nat) (s : State) : State := s.wr F.CAR_STAT_PWR 0 v

/-- Carafe serves requests: trained, and in RUN. -/
def carServes (s : State) : Bool := s.on F.CAR_STAT_TRAINED 0 && carPwr s == pwRun

/-- Units of the Carafe: 14 GiB in blocks of 64 bytes. -/
def carUnits : Nat := 234881024

/-- Requests held at their ports enter their queues in RUN. -/
def carRelease (s : State) : State :=
  { s with car := { s.car with reqs := s.car.reqs ++ s.car.held, held := [] } }

/-- A request arrives: the power state decides whether it is served, held or starts an exit (R212). -/
def carEnter (r : CarReq) (s : State) : State :=
  let s0 := { s with car := { s.car with lastReq := s.now } }
  let hold := { s0 with car := { s0.car with held := s0.car.held ++ [r] } }
  if carPwr s == pwRun then { s0 with car := { s0.car with reqs := s0.car.reqs ++ [r] } }
  else if carPwr s == pwDrain then
    if portBulk r.port then hold
    else (setPwr pwRun (carRelease { hold with car := { hold.car with held := r :: s0.car.held } })).bump F.CAR_PWR_ABORTS 0
  else if carPwr s == pwSr then (if s.boot.stage == 12 then hold else setPwr pwExit hold)
  else hold

/-- Accesses of commands, transfers and logs since the last tick reach their ports (R201, R211, R212). Their data moved with the command;
what the controller sees is the request (DESIGN CHOICE: assumption 83). -/
def carAsked (s : State) : State :=
  s.carAsks.foldl (fun t e => carEnter ⟨e.1, e.2.1, e.2.2.1, e.2.2.2, t.now, none, false, 200, []⟩ t) { s with carAsks := [] }

/-- The patrol scrub reads its next unit once its time in the pass has come: the units are spread evenly over PERIOD minutes, one read in
progress at a time (R216). -/
def scrubTick (s : State) : State :=
  match s.car.scrub with
  | none => s
  | some u =>
    let due := (s.now - s.car.scrubAt) * carUnits / secTicks (60 * max 1 (s.rd F.CAR_SCRUB_PERIOD 0))
    if due < u || (s.car.reqs ++ s.car.held).any (fun r => r.port == 71 && !r.wr) then s
    else
      carScan 71 (64 * u) 64 { s with car := { s.car with scrub := if u + 1 < carUnits then some (u + 1) else none } }

/-- One tick of the controller: each channel issues its next request or uses the time for refresh. -/
def carTick (s0 : State) : State :=
  let s := carAsked s0
  if carServes s then
    let s1 := (List.range 4).foldl (fun t m => match carPick t m with | some r => carIssue m r t | none => refIdle m t) (scrubTick s)
    nbrTick (pageIdle s1)
  else s

/-- The conditions of automatic self-refresh entry (R211). -/
def srAuto (s : State) : Bool :=
  s.on F.CAR_CTL_AUTO_SR 0 && carServes s &&
    (List.range 64).all (fun p => !engaged s p) && (List.range 32).all (fun u => !s.on F.CAP_CTL_EN u) &&
    (List.range 8).all (fun l => s.rd F.REF_STAT_STATE l == lsOff) && s.car.reqs.isEmpty && s.car.flight.isEmpty && s.carAsks.isEmpty &&
    decide (s.car.lastReq + usTicks (s.rd F.CAR_PWR_IDLE_SR 0) ≤ s.now)

/-! ### ECC (R213 to R215) -/

/-- A corrected unit: counted, recorded, and written back (R213). -/
def carCe (port u : Nat) (s : State) : State :=
  let a := 64 * u
  let s1 := (s.bump F.CAR_ECC_CE 0).wrs [(F.CAR_ECC_LAST_UE, 0, 0), (F.CAR_ECC_LAST_PORT, 0, port), (F.CAR_ECC_LAST_ADDR, 0, a)]
  let s2 := { s1 with car := { s1.car with wbs := addN s1.car.wbs u } }
  let r := rateOkN 100 213 s2
  if r.1 then logEvent srcCarafe 0x20 (a % 2 ^ 32) (a / 2 ^ 32) port r.2 else r.2

/-- A byte as Carafe keeps it: the reserved bits of a step entry, bits 1:0 of its words 0 and 5, read as zero (R5, R83). -/
def keptByte (a : Nat) (b : Byte) : Byte :=
  if decide (stepTableBase ≤ a) && decide (a < descBase) && (a % 32 == 0 || a % 32 == 20) then b &&& 0xFC else b

/-- Bytes written by a port (R215): units covered whole are healed; a partial write of a unit that reads uncorrectable
is discarded and counted. -/
def carWrite (port a : Nat) (bs : List Byte) (s : State) : State :=
  let s1 := carHealRange a bs.length (s.ask port true a bs.length)
  let bad := s1.badUnits.filter (fun u => decide (a / 64 ≤ u) && decide (64 * u < a + bs.length))
  let s2 := bad.foldl (fun t u => (carUe port u t).bump F.CAR_ECC_UE 0) s1
  let cells := ((List.range bs.length).zip bs).filter (fun e => !memN bad ((a + e.1) / 64))
  { s2 with carafe := cells.foldl (fun m e => memWr m (a + e.1) (keptByte (a + e.1) e.2)) s2.carafe }

/-! ### Commands (R216) -/

/-- A patrol pass starts from address 0. -/
def scrubStart (s : State) : State := { s with car := { s.car with scrub := some 0, scrubAt := s.now } }

/-- `CAR_CMD.CLR`. -/
def carClear (s : State) : State :=
  (List.range 72).foldl (fun t i => t.wrs [(F.CAR_PORT_LAT_LAT_MAX, i, 0), (F.CAR_PORT_LAT_OVER400, i, 0),
      (F.CAR_PORT_EVT_DL_MISS, i, 0), (F.CAR_PORT_EVT_THROTTLED, i, 0)])
    (s.wrs [(F.CAR_ECC_CE, 0, 0), (F.CAR_ECC_UE, 0, 0), (F.CAR_RH_STAT_THROTTLES, 0, 0), (F.CAR_RH_STAT_FORCED, 0, 0),
      (F.CAR_PWR_ABORTS, 0, 0), (F.CAR_PWR_BOUNCES, 0, 0)])

/-- Carafe without data: contents, segments other than what a restore brings back, and queue contents are gone; the
controller starts afresh (R200, R217). -/
def carEmpty (s : State) : State :=
  { s with
    carafe := [], evRing := [], fwImg := none, segs := [], badUnits := [],
    car := { Car.fresh with
      lfsr := s.car.lfsr, temps := s.car.temps, delays := s.car.delays, lastReq := s.now, scrubAt := s.now } }

/-- R202: requests unserved at their deadline count once. -/
def dlMiss (i : Nat) (s : State) : State :=
  let late := fun (r : CarReq) => r.port == i && !r.missed && (match r.deadline with | some d => decide (d ≤ s.now) | none => false)
  let mark := fun (r : CarReq) => if late r then { r with missed := true } else r
  let n := (s.car.reqs.filter late).length + (s.car.held.filter late).length
  { s with car := { s.car with reqs := s.car.reqs.map mark, held := s.car.held.map mark } }.bumpBy F.CAR_PORT_EVT_DL_MISS i n

end Sys2Proof.Machine
end

