-- ==== Sys2Proof/Machine/Capture.lean ====
section
/-! DEFINITION. Converters, the history of rails and markers, capture units and demodulators (R17, R162 to R178). -/

namespace Sys2Proof.Machine

def capOf (s : State) (u : Nat) : Cap := (tabGet s.caps u).getD Cap.fresh

def setCap (u : Nat) (v : Cap) (s : State) : State := { s with caps := tabSet Cap.fresh s.caps u v }

def dmdOf (s : State) (d : Nat) : Dmd := (tabGet s.dmds d).getD Dmd.fresh

def setDmd (d : Nat) (v : Dmd) (s : State) : State := { s with dmds := tabSet Dmd.fresh s.dmds d v }

/-! ### The history of R164 -/

/-- What a player shows in the present tick. -/
def hentNow (s : State) (p : Nat) : HEnt :=
  ⟨railVal s p, plyS s p, curStep s p, curIter s p, s.rd F.PLY_MARK_RAW p, s.rd F.PLY_MARK_OUT p⟩

/-- What a player shows joins its history from the present tick on; the history goes back at least 1,024 ticks. -/
def histPush (p : Nat) (s : State) : State :=
  let l := (tabGet s.hist p).getD []
  let h := hentNow s p
  match l with
  | [] => if h = HEnt.zero then s else { s with hist := tabPut s.hist p [(s.now, h)] }
  | e :: r =>
    if e.2 = h then s
    else if e.1 == s.now then { s with hist := tabPut s.hist p ((s.now, h) :: r) }
    else { s with hist := tabPut s.hist p ((s.now, h) :: l.take 1024) }

/-- The tick's entries join the history of every player (R17, R164). -/
def histTick (s : State) : State := (List.range 64).foldl (fun t p => histPush p t) s

/-- A player in tick `b`. -/
def histAt (s : State) (p b : Nat) : HEnt :=
  match ((tabGet s.hist p).getD []).find? (fun e => decide (e.1 ≤ b)) with
  | some e => e.2
  | none => HEnt.zero

/-- The CT of the start of a tick moved back by quarter ticks, and the tick that contains it (R163). -/
def ballCt (s : State) (t lamq : Nat) : Nat := uns 64 ((s.ctOf t : Int) - 64 * (lamq : Int))
def ballTick (t lamq : Nat) : Nat := t - (lamq + 3) / 4

/-- A measured word is kept for the learning lanes while any lane is not OFF (R183). -/
def pushMeas (kind unit mem b : Nat) (x : Int) (s : State) : State :=
  if (lanesOn s).isEmpty then s else { s with meas := s.meas ++ [⟨kind, unit, mem, b, x⟩] }

/-! ### Capture: configuration (R165, R166) -/

def capKind (s : State) (u : Nat) : Nat := s.rd F.CAP_CTL_KIND u
def capUnit (s : State) (u : Nat) : Nat := s.rd F.CAP_CTL_UNIT u
def capMembers (s : State) (u : Nat) : List Nat := (List.range 16).filter (fun m => bitOf (s.rd F.CAP_MASK_MASK u) m)
def capQueue (s : State) (u : Nat) : Nat := s.rd F.CAP_Q_QUEUE u
def capTag (s : State) (u : Nat) : Nat := s.rd F.CAP_CTL_TAG u

/-- Words of a member in a record. -/
def capWPM (s : State) (u : Nat) : Nat := if capKind s u == 2 || capKind s u == 3 then 2 else 1

/-- Words of an input record (R166). -/
def capWPI (s : State) (u : Nat) : Nat := capWPM s u * (capMembers s u).length

/-- WPR: words of a stored record, its tag included (R169). -/
def capWPR (s : State) (u : Nat) : Nat := capWPI s u + (if capTag s u == 2 then 2 else 0)

/-- P_in of a demodulator in ticks (R174, R176). -/
def dmdPin (s : State) (d : Nat) : Nat :=
  let k := s.rd F.DMD_CTL_IN_KIND d
  let i := s.rd F.DMD_CTL_IN_UNIT d
  if k == 0 then 32 else if k == 1 then 8 * 2 ^ s.rd F.FLM_IL_CTL_RATE (i / 16) else (chnOf s i).dm1 + 1

/-- Output period of a demodulator. -/
def dmdPout (s : State) (d : Nat) : Nat := dmdPin s d * 2 ^ (s.rd F.DMD_CTL_K d + 1)

/-- P_b (R165). -/
def capPb (s : State) (u : Nat) : Nat :=
  let m := (capMembers s u).headD 0
  let k := capKind s u
  if k == 0 then 8 * 2 ^ s.rd F.FLM_IL_CTL_RATE (capUnit s u)
  else if k == 1 || k == 2 then 32
  else if k == 3 then dmdPout s m
  else (chnOf s (16 * capUnit s u + m)).dm1 + 1

def capDec (s : State) (u : Nat) : Nat := s.rd F.CAP_DEC_DM1 u + 1

/-- Words of the largest packet (R170). -/
def capMax (s : State) (u : Nat) : Nat := 8 + s.rd F.CAP_DEC_PKT_REC u * capWPR s u

/-- λ of a member in quarter ticks (R163). -/
def capLam (s : State) (u m : Nat) : Nat :=
  let k := capKind s u
  if k == 0 then s.rd F.FLM_IL_LAT_LAMBDA (capUnit s u)
  else if k == 1 then s.rd F.CNV_ADC_LAT_LAT m
  else if k == 2 then
    let md := s.rd F.ENC_CTL_MODE m
    if md == 1 then 16
    else if md == 2 then 4 * (s.now - (((encOf s m).ssiVal).getD s.now))
    else 4 * (3 + (s.rd F.ENC_CTL_FILT m + 3) / 4)
  else if k == 3 then 0
  else 44

/-- The largest λ that a member can have, in quarter ticks (R166, cause 9). -/
def capLamMax (s : State) (u m : Nat) : Nat :=
  if capKind s u == 2 && s.rd F.ENC_CTL_MODE m == 2 then
    4 * (2 * (s.rd F.ENC_SSI_CLKDIV m + 1) * (s.rd F.ENC_SSI_LEN m + 1) + 2)
  else capLam s u m

/-- Whether all elements of a list are equal. -/
def allEq : List Nat → Bool
  | [] => true
  | a :: r => r.all (· == a)

/-- The lowest cause of R166, 0 for none. -/
def capCause (par : Bool) (u : Nat) (s : State) : Nat :=
  let k := capKind s u
  let ms := capMembers s u
  let n := capUnit s u
  let q := capQueue s u
  let chans := ms.map (fun m => chnOf s (16 * n + m))
  let noMember := ms.isEmpty || ((k == 1 || k == 2) && ms.any (fun m => decide (7 < m))) || (k == 0 && decide (7 < n))
  let mixed :=
    if k == 1 then !allEq (ms.map (fun m => s.rd F.CNV_ADC_CTL_PHASE m))
    else if k == 4 then !allEq (chans.map (·.dm1)) || !allEq (chans.map (·.offset))
    else if k == 3 then !allEq (ms.map (dmdPout s))
    else false
  let gated := capTag s u != 0 || s.rd F.CAP_CTL_GATE u == 1
  let dref := s.rd F.DMD_CTL_REF_PLAYER (ms.headD 0)
  if noMember then 1
  else if mixed then 2
  else if decide (2 * capPb s u < capWPI s u) then 3
  else if s.rd F.CAP_DEC_PKT_REC u == 0 || decide (qWords s q < capMax s u) then 4
  else if !s.on F.BRN_CTL_EN q || !s.on F.BRN_CTL_WR_SIDE q || (match (quOf s q).writer with | some w => w != u | none => false) then 5
  else if k == 3 && ((capTag s u != 0 && s.rd F.CAP_CTL_TAG_PLAYER u != dref)
      || (s.rd F.CAP_CTL_GATE u == 1 && s.rd F.CAP_GATE_GATE_PLAYER u != dref)) then 6
  else if s.on F.CAP_CTL_DEC_MODE u && k == 4 && chans.any (fun h => hP16 h.ctl) then 7
  else if s.rd F.PAN_OWN_OWNER 13 != 5 || par then 8
  else if k != 3 && gated && ms.any (fun m => decide (4092 < capLamMax s u m)) then 9
  else 0

/-! ### Packets (R169 to R171) -/

/-- Whether a pan that the moves of a unit's staging need is asleep: PAN13, the storage or the index of a shallow queue (R171, R227). -/
def capAsleep (s : State) (u : Nat) : Bool :=
  let q := (capOf s u).q
  s.on F.PAN_STAT_ASLEEP 13 || (!qDeep s q && (s.on F.PAN_STAT_ASLEEP (s.rd F.BRN_STORE_PAN q) || s.on F.PAN_STAT_ASLEEP (s.rd F.BRN_IDX_PAN q)))

/-- Words of records that wait in a unit's staging (R171). -/
def capStaged (c : Cap) : Nat := c.stage.foldl (fun n e => match e with | .data ws => n + ws.length | _ => n) 0

/-- Words of the queue's storage that staged items will take. -/
def capOwing (c : Cap) : Nat := c.stage.foldl (fun n e => match e with | .data ws => n + ws.length | .mark => n + 8 | _ => n) 0

/-- Packets in staging that are complete. -/
def capWhole (c : Cap) : Nat := (c.stage.filter (fun e => match e with | .done _ _ _ => true | _ => false)).length

/-- `PKT_OPEN`: a packet is open until it is committed. -/
def capShow (u : Nat) (s : State) : State :=
  let c := capOf s u
  s.wr F.CAP_STAT_PKT_OPEN u (b2n (c.isOpen || !c.stage.isEmpty))

/-- The header goes to the first words of the queue's open packet, with the unit's SEQ, and the packet is committed (R169, R170). -/
def capCommit (u : Nat) (hdr : List Nat) (recs : Nat) (s : State) : State :=
  let c := capOf s u
  let h := hdr.set 1 c.seq
  let s1 := ((List.range 8).zip h).foldl (fun t e => qMemWr c.q (qWordAddr t c.q ((quOf t c.q).m + e.1)) e.2 t) s
  setCap u { c with seq := (c.seq + 1) % 2 ^ 32 } ((qCommit c.q s1).tallyBy F.CAP_RECS_COUNT u recs)

/-- A staged item moves to the queue (R171). -/
def capItem (u : Nat) (e : CapItem) (s : State) : State :=
  let q := (capOf s u).q
  match e with
  | .mark => qSync true q (qPut q [0, 0, 0, 0, 0, 0, 0, 0] (qOpen q none s).2).2
  | .data ws => qSync true q (qPut q ws s).2
  | .done hdr recs _ => capCommit u hdr recs s

/-- The oldest `n` staged items move to the queue. -/
def capMove (n u : Nat) (s : State) : State :=
  let c := capOf s u
  capShow u ((c.stage.take n).foldl (fun t e => capItem u e t) (setCap u { c with stage := c.stage.drop n } s))

/-- Staged items move at once where nothing stands in their way: into the pan of a shallow queue unless a pan sleeps, and into a deep
queue where no words wait for the capture port. The last packet after a disable waits for its commit (R171). -/
def capFlow (u : Nat) (s : State) : State :=
  let c := capOf s u
  if c.stage.isEmpty || c.closing then s
  else if (if qDeep s c.q then capOwing c != 0 else capAsleep s u) then s
  else capMove c.stage.length u s

/-- A unit's staged words for a deep queue are asked for at the capture port; the deadline is the time until staging would overflow at
the unit's rate (R171, R201, R202). -/
def capAsk (u : Nat) (s : State) : State :=
  let c := capOf s u
  if !qDeep s c.q || c.asked.isSome || c.closing || capOwing c == 0 || s.on F.PAN_STAT_ASLEEP 13 then s
  else
    let a := qWordAddr s c.q (s.rd F.BRN_WP_PTR c.q)
    let left := (2048 - capStaged c) * (capPb s u * capDec s u) / capWPR s u
    setCap u { c with asked := some c.stage.length }
      (carEnter ⟨64, true, a, 4 * capOwing c, s.now, some (s.now + left), false, u + 1, []⟩ s)

/-- Whether a unit's request at the capture port has been served. -/
def capServed (s : State) (u : Nat) : Bool :=
  !(s.car.reqs ++ s.car.held).any (fun r => r.port == 64 && r.client == u + 1)

/-- Staging moves on after the Carafe's tick (R171). -/
def capDrain (u : Nat) (s : State) : State :=
  let c := capOf s u
  match c.asked with
  | some n => if capServed s u then capMove n u (setCap u { c with asked := none } s) else s
  | none => capFlow u s

/-- Closes the open packet with the flags END and SHORT: it is committed behind its staged words (R169, R170). -/
def capClose (u : Nat) (fin short : Bool) (s : State) : State :=
  let c := capOf s u
  if !c.isOpen then s
  else
    let flags := b2n (capTag s u == 2) + 2 * b2n fin + 4 * b2n (decide (0 < c.lost)) + 8 * b2n (s.on F.CAP_CTL_DEC_MODE u) + 16 * b2n short
    let hdr := [(0x200 + u) * 65536 + capWPR s u * 256 + flags, 0, c.pct0 % 2 ^ 32, c.pct0 / 2 ^ 32,
      c.ptag0 % 2 ^ 32, c.ptag0 / 2 ^ 32, c.recs * 65536 + min c.lost 65535, capPb s u * capDec s u % 2 ^ 32]
    capFlow u (setCap u { c with isOpen := false, recs := 0, lost := 0, stage := c.stage ++ [.done hdr c.recs c.lost] } s)

/-- The records of packets that are not committed are lost with the queue's open packet (R241). -/
def capDrop (u : Nat) (s : State) : State :=
  let c := capOf s u
  if c.isOpen || !c.stage.isEmpty then
    let gone := c.stage.foldl (fun (n : Nat × Nat) e => match e with | .done _ r l => (n.1 + r, n.2 + l) | _ => n) (c.recs, 0)
    capShow u ((setCap u { c with isOpen := false, recs := 0, lost := c.lost + gone.1 + gone.2, stage := [], asked := none } s).bumpBy
      F.CAP_LOST_LOST u gone.1)
  else s

/-- A stored record is lost (R170). -/
def capLose (u : Nat) (s : State) : State :=
  let c := capOf s u
  setCap u { c with lost := c.lost + 1 } (s.bump F.CAP_LOST_LOST u)

/-- Words enter a unit's staging, the 8 KiB at byte 8,192·u of PAN13 (R171). -/
def capStage (u : Nat) (ws : List Nat) (s : State) : State :=
  let c := capOf s u
  let pans := ((List.range ws.length).zip ws).foldl
    (fun m e => memWrW m (262144 * 13 + 8192 * u + 4 * ((c.sp + e.1) % 2048)) e.2) s.pans
  setCap u { c with stage := c.stage ++ [.data ws], sp := (c.sp + ws.length) % 2048 } { s with pans := pans }

/-- Free space for a packet in the queue, less what staging owes it (R170). -/
def capRoom (s : State) (u : Nat) : Nat :=
  let c := capOf s u
  if qEnts s c.q ≤ qAvail s c.q + capWhole c then 0 else qFree s c.q - capOwing c

/-- A stored record enters the open packet, which it opens if none is (R169 to R171). A record that staging cannot take is lost, and
ends the open packet: the records of a packet are consecutive (DESIGN CHOICE: assumption 77). -/
def capStore (u : Nat) (ws : List Nat) (ct : Nat) (tag : Nat) (s0 : State) : State :=
  let c0 := capOf s0 u
  if 2048 < capStaged c0 + capWPR s0 u then capLose u (capClose u false false (s0.bump F.CAP_ERR_OVF u))
  else if !c0.isOpen && decide (capRoom s0 u < capMax s0 u) then
    let s1 := if c0.episode then s0 else s0.bump F.CAP_ERR_NOROOM u
    capLose u (setCap u { c0 with episode := true } s1)
  else
    let s1 := if c0.isOpen then s0 else
      (setCap u { c0 with isOpen := true, recs := 0, pct0 := ct, ptag0 := if capTag s0 u == 0 then 0 else tag,
                          born := s0.now, episode := false, stage := c0.stage ++ [.mark] } s0).wr F.CAP_STAT_PKT_OPEN u 1
    let w := if capTag s1 u == 2 then ws ++ [tag % 2 ^ 32, tag / 2 ^ 32] else ws
    let s2 := capStage u w s1
    let c := capOf s2 u
    let s3 := capFlow u (setCap u { c with recs := c.recs + 1 } s2)
    if s3.rd F.CAP_DEC_PKT_REC u ≤ c.recs + 1 then
      if s3.rd F.CAP_CTL_GATE u == 3 then
        let s4 := capClose u true false s3
        (setCap u { capOf s4 u with shot := false, gate := false } s4).wr F.CAP_STAT_DONE u 1
      else capClose u false false s3
    else s3

/-! ### Gating and decimation (R167, R168) -/

/-- The gate that the kept edges give at ball tick `b` (R167): newest first. -/
def capEdgeOpen (l : List (Bool × Nat)) (ovf : Bool) (b : Nat) : Bool :=
  match l.filter (fun e => decide (e.2 ≤ b)) with
  | [] => ovf && (match l.getLast? with | some e => e.1 | none => false)
  | e :: r => if e.1 then !(r.any (fun k => !k.1 && k.2 == e.2)) else false

/-- Whether the gate takes a record. -/
def capTakes (s : State) (u : Nat) (r : Rec) : Bool :=
  let c := capOf s u
  let g := s.rd F.CAP_CTL_GATE u
  let whole := (capMembers s u).all (fun m => r.parts.any (fun p => p.1 == m && !p.2.isEmpty))
  let h := (r.tag).getD (histAt s (s.rd F.CAP_GATE_GATE_PLAYER u) r.b)
  let bit := bitOf (if s.on F.CAP_GATE_MSEL u then h.out else h.raw) (s.rd F.CAP_GATE_MBIT u)
  (whole || r.bad) &&
    (if g == 0 then true
     else if g == 1 then bit == s.on F.CAP_GATE_MPOL u
     else if g == 2 then capEdgeOpen c.edges c.edgeOvf r.b
     else !s.on F.CAP_STAT_DONE u && (c.shot || c.edges.any (fun e => e.1 && decide (e.2 ≤ r.b))))

/-- Words of a record as signed values: an encoder pair is one value. -/
def capVals (s : State) (u : Nat) (r : Rec) : List Int :=
  (capMembers s u).flatMap (fun m =>
    let w := ((r.parts.find? (fun p => p.1 == m)).map (·.2)).getD []
    if capKind s u == 2 then [sgn 64 (w.getD 0 0 + 2 ^ 32 * w.getD 1 0)] else w.map (sgn 32))

/-- Values back to words. -/
def capWords (s : State) (u : Nat) (l : List Int) : List Nat :=
  l.flatMap (fun v => if capKind s u == 2 then [uns 64 v % 2 ^ 32, uns 64 v / 2 ^ 32] else [uns 32 v])

/-- The reference that the lowest selected demodulator latched at a ball CT (R168, R177). -/
def capLatched (s : State) (u ct : Nat) : Option Nat :=
  ((dmdOf s ((capMembers s u).headD 0)).latch.find? (fun e => e.2.1 == ct)).map (fun e => e.2.2.rail)

/-- The tag of a MEAN record, as soon as its tick has come: the tagging player's rail in that tick, which for KIND DEMOD the
demodulator latched (R163, R168, R177). -/
def capMeanTag (s : State) (u : Nat) : Option Nat :=
  let c := capOf s u
  if capKind s u == 3 then capLatched s u c.ct0
  else if c.tagTick ≤ s.now then some (histAt s (s.rd F.CAP_CTL_TAG_PLAYER u) c.tagTick).rail
  else none

/-- The tag of a group in progress is latched in the tick that it names (R168). -/
def capLatch (u : Nat) (s : State) : State :=
  let c := capOf s u
  if c.n == 0 || c.tag.isSome || !s.on F.CAP_CTL_DEC_MODE u then s
  else match capMeanTag s u with | some t => setCap u { c with tag := some t } s | none => s

/-- The tag of an input record: latched by its demodulator, or the tagging player's rail in its ball tick (R163, R177). -/
def capTagAt (s : State) (u : Nat) (r : Rec) : Nat :=
  match r.tag with | some h => h.rail | none => (histAt s (s.rd F.CAP_CTL_TAG_PLAYER u) r.b).rail

/-- A record that the gate took goes through the decimation (R168). -/
def capTake (u : Nat) (r : Rec) (s : State) : State :=
  let c := capOf s u
  let dec := capDec s u
  let vals := capVals s u r
  if !s.on F.CAP_CTL_DEC_MODE u then
    let s1 := setCap u { c with n := if dec ≤ c.n + 1 then 0 else c.n + 1 } s
    if c.n == 0 then capStore u (capWords s u vals) r.ct (capTagAt s u r) s1 else s1
  else
    let shift := 128 * ((dec - 1) * capPb s u)
    let within := (r.ct + 2 ^ 64 - s.ctOf r.b) % 2 ^ 64
    let c1 := if c.n == 0 then
        { c with n := 1, ct0 := (r.ct + shift) % 2 ^ 64, tagTick := r.b + (within + shift) / 256, tag := none, sums := vals }
      else { c with n := c.n + 1, sums := List.zipWith (· + ·) c.sums vals }
    let s1 := capLatch u (setCap u c1 s)
    if dec ≤ c1.n then
      let c2 := capOf s1 u
      let d : Int := (dec : Int)
      capStore u (capWords s u (c2.sums.map (fun v => (2 * v + d) / (2 * d)))) c2.ct0 (c2.tag.getD (capTagAt s u r))
        (setCap u { c2 with n := 0, sums := [], tag := none } s1)
    else s1

/-- The gate closes, or no record forms: an open packet closes with END, a group in progress is discarded. -/
def capShut (u : Nat) (s : State) : State :=
  let s1 := capClose u true false s
  (setCap u { capOf s1 u with gate := false, n := 0, sums := [], tag := none } s1).wr F.CAP_STAT_OPEN u 0

/-- A record's gate is decided (R167, R168, R263). -/
def capDecide (u : Nat) (r : Rec) (s : State) : State :=
  if capTakes s u r then
    let c := capOf s u
    let shot := s.rd F.CAP_CTL_GATE u == 3
    let s1 := (setCap u { c with gate := true, shot := c.shot || shot, n := if c.gate then c.n else 0 } s).wr F.CAP_STAT_OPEN u 1
    if r.bad then
      let s2 := capLose u (capClose u false false s1)
      setCap u { capOf s2 u with n := 0, sums := [], tag := none } s2
    else capTake u r s1
  else if r.miss then capLose u (capShut u s)
  else capShut u s

/-- Every record of a unit whose decision is due, in order of ball tick. -/
def capDue (u : Nat) (l : List Rec) (s : State) : State :=
  match l with
  | [] => s
  | r :: rest =>
    if r.due ≤ s.now then
      capDue u rest (capDecide u r (setCap u { capOf s u with pend := rest } s))
    else s

def capRun (u : Nat) (s : State) : State := capDue u (capOf s u).pend s

/-! ### Records arrive -/

/-- A record is expected; its gate is decided in tick `due` at the earliest. -/
def capExpect (u key b due : Nat) (s : State) : State :=
  let c := capOf s u
  if c.pend.any (fun r => r.key == key) then s
  else setCap u { c with pend := c.pend ++ [⟨key, b, s.ctOf b, max due (b + 4), [], false, false, none⟩] } s

/-- The tick by which every member of a demodulator record has answered. -/
def capLate (s : State) (u : Nat) : Nat := s.now + 1030 + ((capMembers s u).map (dmdPin s)).foldl max 0

/-- A member's words for a record, none where it supplies none. A record of demodulators is formed once the slowest has answered
(R169); the others are due when they are expected. -/
def capPart (u key m b ct : Nat) (ws : List Nat) (bad : Bool) (tag : Option HEnt) (s : State) : State :=
  let ms := capMembers s u
  let dem := capKind s u == 3
  let s1 := capExpect u key b (if dem then capLate s u else s.now) s
  let c := capOf s1 u
  let low := m == ms.headD 0
  setCap u { c with pend := c.pend.map (fun r =>
    if r.key == key then
      let parts := r.parts ++ [(m, ws)]
      { r with parts := parts, b := if low then b else r.b, ct := if low then ct else r.ct, bad := r.bad || bad,
               tag := if low then tag else r.tag,
               due := if dem && ms.all (fun k => parts.any (fun p => p.1 == k)) then s.now else r.due }
    else r) } s1

/-- An in-lane that is up or on its way back from a loss (R178): the state codes of R261. -/
def ilRelocks (s : State) (n : Nat) : Bool := ((tabGet s.ils n).getD ILane.fresh).relock

/-- Records that the grids of the sources call for in the present tick (R165): of an in-lane that is not in RUN and of demodulators the
records that no word may reach (R167, R169). While an in-lane relocks after a loss its records are lost and counted (R178; DEDUCED:
assumption 78). -/
def capGrid (u : Nat) (s : State) : State :=
  let k := capKind s u
  let t := s.rd F.GLB_CT_TICKS 0
  let ms := capMembers s u
  let m0 := ms.headD 0
  if k == 0 then
    if t % capPb s u == 0 && s.rd F.FLM_IL_STAT_STATE (capUnit s u) != 3 then
      let s1 := capExpect u s.now s.now s.now s
      let c := capOf s1 u
      if ilRelocks s (capUnit s u) then
        setCap u { c with pend := c.pend.map (fun r => if r.key == s.now then { r with miss := true } else r) } s1
      else s1
    else s
  else if k == 1 then
    if t % 32 == s.rd F.CNV_ADC_CTL_PHASE m0 then
      capExpect u s.now s.now (s.now + ((ms.map (capLam s u)).foldl max 0 + 3) / 4) s else s
  else if k == 2 then
    if t % 32 == 0 then
      ms.foldl (fun z m =>
        let b := ballTick z.now (capLam z u m0)
        if z.on F.ENC_CTL_EN m then
          let l := capLam z u m
          let w := encPosWord z m
          capPart u b m b (ballCt z z.now l) [w % 2 ^ 32, w / 2 ^ 32] false none z
        else capExpect u b b z.now z) s
    else s
  else if k == 3 then
    if t % capPb s u == 0 then capExpect u (t / capPb s u) s.now (capLate s u) s else s
  else
    let h := chnOf s (16 * capUnit s u + m0)
    if t % (h.dm1 + 1) == h.offset then capExpect u s.now s.now (s.now + 11) s else s

/-- A channel's word32 reaches the capture units that take it (R165, R167). -/
def capChannel (c t0 : Nat) (s : State) : State :=
  (List.range 32).foldl (fun z u =>
    if z.on F.CAP_CTL_EN u && capKind z u == 4 && capUnit z u == c / 16 && memN (capMembers z u) (c % 16)
        && z.rd F.CHN_STAT_STATE c == 1 then
      let h := chnOf z c
      capPart u t0 (c % 16) t0 (z.ctOf t0) [h.word] false none z
    else z) s

/-- A start or stop edge of a source joins the unit's edges in the order of the reference ticks (R167): levels act on their rising
edge. -/
def capEdge (g : Trig) (u : Nat) (s : State) : State :=
  let gate := s.rd F.CAP_CTL_GATE u
  if !(s.on F.CAP_CTL_EN u && decide (2 ≤ gate) && (pulseSrc g.src || g.rising)) then s
  else
    let r := g.rq / 4
    let put (st : Bool) (z : State) : State :=
      let c := capOf z u
      let l := c.edges.filter (fun e => decide (r < e.2)) ++ (st, r) :: c.edges.filter (fun e => decide (e.2 ≤ r))
      setCap u { c with edges := l.take 16, edgeOvf := c.edgeOvf || decide (16 < l.length) } z
    let s1 := if s.rd F.CAP_GATE_START_SRC u == g.src then put true s else s
    if gate == 2 && s.rd F.CAP_GATE_STOP_SRC u == g.src then put false s1 else s1

/-! ### Enable and commands of a capture unit (R166, R170, R171) -/

/-- The last packet after a disable is committed and the queue's write side released (R171). -/
def capFinal (u : Nat) (s : State) : State :=
  let c := capOf s u
  if c.closing then
    let s1 := capMove c.stage.length u s
    let s2 := setCap u { capOf s1 u with closing := false, asked := none } s1
    if (quOf s2 c.q).writer == some u then qClaimWriter c.q none s2 else s2
  else s

def capEnable (par : Bool) (u : Nat) (en : Bool) (s : State) : State :=
  if !en then
    if s.on F.CAP_CTL_EN u then
      let c := capOf s u
      capClose u true false (setCap u { c with pend := [], n := 0, sums := [], tag := none, gate := false, closing := true }
        (s.wrs [(F.CAP_CTL_EN, u, 0), (F.CAP_STAT_OPEN, u, 0)]))
    else s
  else if s.on F.CAP_CTL_EN u then s
  else
    let k := capCause par u s
    if k != 0 then s.wrs [(F.CAP_CTL_EN, u, 0), (F.CAP_STAT_CFG_BAD, u, 1), (F.CAP_STAT_ENCAUSE, u, k)]
    else
      let s1 := capFinal u s
      let c := capOf s1 u
      qClaimWriter (capQueue s u) (some u)
        (setCap u { Cap.fresh with seq := c.seq, lost := c.lost, q := capQueue s u, sp := c.sp }
          (s1.wrs [(F.CAP_CTL_EN, u, 1), (F.CAP_STAT_CFG_BAD, u, 0), (F.CAP_STAT_ENCAUSE, u, 0), (F.CAP_STAT_DONE, u, 0),
            (F.CAP_STAT_OPEN, u, 0)]))

/-- AGE has passed since the open packet's first record arrived (R170). -/
def capAged (s : State) (u : Nat) : Bool :=
  let c := capOf s u
  c.isOpen && s.rd F.CAP_Q_AGE u != 0 && decide (c.born + usTicks (s.rd F.CAP_Q_AGE u) ≤ s.now)

/-- REARM: DONE falls and ONE_SHOT waits for the next start edge (R167). -/
def capRearm (u : Nat) (s : State) : State :=
  (setCap u { capOf s u with edges := [], edgeOvf := false, shot := false } s).wr F.CAP_STAT_DONE u 0

/-- CLR of a capture unit. -/
def capClear (u : Nat) (s : State) : State :=
  s.wrs [(F.CAP_LOST_LOST, u, 0), (F.CAP_ERR_OVF, u, 0), (F.CAP_ERR_NOROOM, u, 0)]

/-! ### Demodulators (R172 to R177) -/

/-- 2π in units of 2^−100. -/
def twoPi100 : Nat := 7964883625991394727376702227904

/-- The cosine series in units of 2^−100, term by term. -/
def cosSum (x : Int) : Nat → Nat → Int → Int → Int
  | 0, _, _, s => s
  | k + 1, n, t, s =>
    cosSum x k (n + 1) (-((t * x / 2 ^ 100 * x / 2 ^ 100)) / (((2 * n + 1) * (2 * n + 2) : Nat) : Int)) (s + t)

/-- round((2^17 − 1) · cos(2π k / 4,096)) for k up to 1,024. -/
def cosQuarter (k : Nat) : Int :=
  (cosSum ((twoPi100 * k / 4096 : Nat) : Int) 24 0 (2 ^ 100) 0 * (2 ^ 17 - 1) * 2 + 2 ^ 100) / 2 ^ 101

/-- The table of R173. -/
def cosTab (k : Nat) : Int :=
  let a := k % 4096
  let b := if 2048 < a then 4096 - a else a
  if 1024 < b then -cosQuarter (2048 - b) else cosQuarter b

def sinTab (k : Nat) : Int := cosTab (k + 3072)

/-- `PHASE` as it acts on a word of ball tick `b`: a write acts on words whose ball tick is at or after its tick (R172). -/
def dmdPhase (s : State) (d b : Nat) : Nat :=
  (((dmdOf s d).phases.find? (fun e => decide (e.1 ≤ b))).map (·.2)).getD (s.rd F.DMD_PHASE_PHASE d)

/-- A new value of `PHASE` is noted with its tick; as many are kept as words can be on their way (R172, R175). -/
def dmdNote (d : Nat) (s : State) : State :=
  let v := dmdOf s d
  let x := s.rd F.DMD_PHASE_PHASE d
  if !s.on F.DMD_CTL_EN d || v.phases.head?.map (·.2) == some x then s
  else setDmd d { v with phases := (s.now, x) :: v.phases.take 1024 } s

/-- The reference phase of R172. -/
def dmdPhi (s : State) (d b : Nat) (h : HEnt) : Nat :=
  let r : Int := if s.on F.DMD_CTL_REF_MODE d then h.pos else serial 64 h.rail (dmdOf s d).ra
  uns 32 (asr (r * (s.rd F.DMD_CYC_CYC d : Int)) 16 + (dmdPhase s d b : Int))

/-- One input through four integrators, modulo 2^82. -/
def cicInt (x : Int) : List Int → List Int
  | [] => []
  | a :: r => let v := sgn 82 (uns 82 (a + x)); v :: cicInt v r

/-- One decimated value through four combs: the output and the new delays. -/
def cicComb (x : Int) : List Int → Int × List Int
  | [] => (x, [])
  | a :: r => let o := cicComb (sgn 82 (uns 82 (x - a))) r; (o.1, x :: o.2)

/-- The weight of the FIR's tap `k` in units of 2^−firBits: 63 taps, symmetric, and the middle one makes the DC gain 1 (R173). -/
def firWeight (k : Nat) : Int :=
  if k == 31 then 2 ^ Config.firBits - 2 * ((List.range 31).map Config.firTap).foldl (· + ·) 0 else Config.firTap (min k (62 - k))

/-- The FIR over the last 63 outputs of the CIC, newest first (R173). -/
def fir (l : List Int) : Int :=
  asr (((List.range 63).zip l).foldl (fun a e => a + firWeight e.1 * e.2) 0) Config.firBits

/-- Whether the input of a demodulator is available (R177). -/
def dmdInput (s : State) (d : Nat) : Bool :=
  let k := s.rd F.DMD_CTL_IN_KIND d
  let i := s.rd F.DMD_CTL_IN_UNIT d
  if k == 0 then s.on F.CNV_ADC_STAT_VALID i
  else if k == 1 then s.rd F.FLM_IL_STAT_STATE (i / 16) == 3
  else s.rd F.CHN_STAT_STATE i != 0

/-- Whether its reference is lost. -/
def dmdRefLost (s : State) (d : Nat) : Bool :=
  let p := s.rd F.DMD_CTL_REF_PLAYER d
  if s.on F.DMD_CTL_REF_MODE d then
    let st := pst s p
    st == psIdle || st == psLoaded || st == psArmed || st == psSafe
  else !s.on F.RSRC_CTL_EN p || s.on F.RSRC_STAT_LOST p

/-- VALID, SETTLING and REF_LOST follow the conditions of R177; a DEMOD rail's loss follows VALID. -/
def dmdSync (d : Nat) (s : State) : State :=
  let en := s.on F.DMD_CTL_EN d
  let ref := en && dmdRefLost s d
  let ok := en && dmdInput s d && !ref
  let s0 := if ok then s else setDmd d { dmdOf s d with outs := 0 } s
  let n := (dmdOf s0 d).outs
  let s1 := s0.wrs [(F.DMD_STAT_VALID, d, b2n (ok && decide (34 ≤ n))), (F.DMD_STAT_SETTLING, d, b2n (ok && decide (n < 34))),
    (F.DMD_STAT_REF_LOST, d, b2n ref)]
  if s1.rd F.DMD_STAT_VALID d == s.rd F.DMD_STAT_VALID d then s1 else railLossAll 5 d s1

/-- The lowest cause of R175, 0 for none. -/
def dmdCause (par : Bool) (d : Nat) (s : State) : Nat :=
  let k := s.rd F.DMD_CTL_K d
  let kind := s.rd F.DMD_CTL_IN_KIND d
  let i := s.rd F.DMD_CTL_IN_UNIT d
  let p := s.rd F.DMD_CTL_REF_PLAYER d
  let lam := if kind == 0 then s.rd F.CNV_ADC_LAT_LAT i else if kind == 1 then s.rd F.FLM_IL_LAT_LAMBDA (i / 16) else 44
  if decide (k < 2) || decide (12 < k) || decide (dmdPout s d < 160) then 1
  else if (kind == 0 && decide (7 < i)) || (kind == 1 && decide (127 < i)) then 2
  else if railSrc s p == 5 && railSel s p == d then 3
  else if decide (4092 < lam) || par then 4
  else 0

/-- A write of a demodulator's enable (R175): R_A is the rail of the tick before the one in which the enable takes effect, the rail that
stands when the write is taken (DESIGN CHOICE: assumption 79). -/
def dmdEnable (par : Bool) (d : Nat) (en : Bool) (s : State) : State :=
  if !en then dmdSync d (s.wr F.DMD_CTL_EN d 0)
  else if s.on F.DMD_CTL_EN d then s
  else
    let k := dmdCause par d s
    if k != 0 then s.wrs [(F.DMD_CTL_EN, d, 0), (F.DMD_STAT_CFG_BAD, d, 1), (F.DMD_STAT_ENCAUSE, d, k)]
    else
      dmdSync d (setDmd d { Dmd.fresh with ra := railVal s (s.rd F.DMD_CTL_REF_PLAYER d), phases := [(0, s.rd F.DMD_PHASE_PHASE d)] }
        (s.wrs [(F.DMD_CTL_EN, d, 1), (F.DMD_STAT_CFG_BAD, d, 0), (F.DMD_STAT_ENCAUSE, d, 0)]))

/-- An input word of ball tick `b` and ball CT `ct` (R172, R173, R176). -/
def dmdFeed (d b ct : Nat) (x : Int) (ovr : Bool) (s : State) : State :=
  let v := dmdOf s d
  let kk := s.rd F.DMD_CTL_K d
  let h := histAt s (s.rd F.DMD_CTL_REF_PLAYER d) b
  let k := dmdPhi s d b h / 2 ^ 20
  let mi := asr (x * cosTab k) 16
  let mq := -(asr (x * sinTab k) 16)
  let n := s.ctOf b / 256 / dmdPin s d
  let per := 2 ^ (kk + 1)
  let age := if ovr then some 0 else (v.ovr.map (· + 1))
  let lt := if n % 2 ^ kk == 2 then ((n, ct, h) :: v.latch).take 48 else v.latch
  let v1 := { v with intI := cicInt mi v.intI, intQ := cicInt mq v.intQ, latch := lt, ovr := age }
  if n % 2 ^ kk != 0 then setDmd d v1 s
  else
    let ci := cicComb (v1.intI.getD 3 0) v1.combI
    let cq := cicComb (v1.intQ.getD 3 0) v1.combQ
    let v2 := { v1 with combI := ci.2, combQ := cq.2, firI := (asr ci.1 (4 * kk) :: v1.firI).take 63,
                        firQ := (asr cq.1 (4 * kk) :: v1.firQ).take 63 }
    if n % per != 0 then setDmd d v2 s
    else
      let at0 := n - (33 * 2 ^ kk - 2)
      let ref := (v2.latch.find? (fun e => e.1 == at0)).map (·.2)
      let bad := match age with | some g => decide (g < 66 * 2 ^ kk - 3) | none => false
      setDmd d { v2 with next := some (n / per, satS 32 (fir v2.firI), satS 32 (fir v2.firQ),
        (ref.map (·.1)).getD ct, bad, (ref.map (·.2)).getD h) } s

/-- The output of the tick after: registers, the settling count, and capture (R176, R177). Where validity ends with it, the loss comes
before the registers move: a DEMOD rail holds the last valid output (R72). The 34th output since a restart is itself valid (DEDUCED:
assumption 80). -/
def dmdOut (d : Nat) (s : State) : State :=
  let v := dmdOf s d
  match v.next with
  | none => if s.on F.DMD_CTL_EN d then dmdSync d s else s
  | some (key, i, q, ct, bad, h) =>
    let s1 := setDmd d { v with next := none, outs := min 34 (v.outs + 1) } s
    let ok := dmdInput s d && !dmdRefLost s d
    let s2 := (((if ok then s1 else dmdSync d s1).wrI F.DMD_I_V d i).wrI F.DMD_Q_V d q).wr F.DMD_CT_CT d ct |>.wrB F.DMD_STAT_OVR d bad
    let s3 := if bad then s2.bump F.DMD_STAT_OVR_CNT d else s2
    let s4 := if ok then dmdSync d s3 else s3
    let b := uns 64 ((s4.now : Int) - ((sgn 64 (s4.ct + 2 ^ 64 - ct) + 255) / 256))
    (List.range 32).foldl (fun z u =>
      if z.on F.CAP_CTL_EN u && capKind z u == 3 && memN (capMembers z u) d then
        capPart u key d b ct (if z.on F.DMD_STAT_VALID d then [uns 32 i, uns 32 q] else []) false (some h) z
      else z) (pushMeas 3 0 d b i (pushMeas 3 1 d b q s4))

/-! ### ADCs (R162) -/

/-- A write of an ADC's enable. -/
def adcEnable (i : Nat) (en : Bool) (s : State) : State :=
  if s.on F.CNV_ADC_CTL_EN i == en then s
  else
    let s1 := { s.wrB F.CNV_ADC_CTL_EN i en with adcOn := if en then tabPut s.adcOn i (s.now + 1) else tabDel s.adcOn i,
                                                 adcQ := s.adcQ.filter (fun w => w.i != i) }
    s1.wr F.CNV_ADC_STAT_VALID i 0

/-- A conversion's word becomes available: OVR and the overrange count; a delivered one reaches the comparators of line trackers, the
data register, capture and demodulators (R64, R162, R163). -/
def adcDeliver (w : AdcW) (s : State) : State :=
  let lam := s.rd F.CNV_ADC_LAT_LAT w.i
  let b := ballTick w.avail lam
  let ct := ballCt s w.avail lam
  let x : Int := w.code * 2 ^ 14
  let s0 := s.wrB F.CNV_ADC_STAT_OVR w.i w.ovr
  let s1 := if w.ovr then s0.bump F.CNV_ADC_STAT_OVR_CNT w.i else s0
  if !w.dlv then s1
  else
    let s2 := adcCross w.i w.code (4 * w.avail - lam) (s1.wrI F.CNV_ADC_DATA_CODE w.i w.code)
    let s3 := (List.range 16).foldl (fun z d =>
      if z.on F.DMD_CTL_EN d && z.rd F.DMD_CTL_IN_KIND d == 0 && z.rd F.DMD_CTL_IN_UNIT d == w.i then dmdFeed d b ct x w.ovr z else z) s2
    (List.range 32).foldl (fun z u =>
      if z.on F.CAP_CTL_EN u && capKind z u == 1 && memN (capMembers z u) w.i then capPart u b w.i b ct [uns 32 x] false none z else z)
      (pushMeas 1 0 w.i b x s3)

/-- Conversions whose words are available by the present tick reach their consumers. -/
def adcTick (s : State) : State :=
  (s.adcQ.filter (fun w => decide (w.avail ≤ s.now))).foldl (fun z w => adcDeliver w z)
    { s with adcQ := s.adcQ.filter (fun w => !decide (w.avail ≤ s.now)) }

/-- A conversion in its tick: the calibrated result saturates to 18 bits; from 1 µs after the enable it is delivered (R162). -/
def adcConvert (i : Nat) (result : Int) (s : State) : State :=
  match tabGet s.adcOn i with
  | none => s
  | some t0 =>
    if s.rd F.GLB_CT_TICKS 0 % 32 != s.rd F.CNV_ADC_CTL_PHASE i then s
    else
      let code := clampI (-(2 ^ 17)) (2 ^ 17 - 1) result
      let dlv := decide (t0 + 160 ≤ s.now)
      let w : AdcW := ⟨i, s.now + (s.rd F.CNV_ADC_LAT_LAT i + 3) / 4, code, decide (code ≠ result), dlv⟩
      adcTick { (if dlv then s.wr F.CNV_ADC_STAT_VALID i 1 else s) with adcQ := s.adcQ ++ [w] }

/-! ### The tick -/

/-- Capture and demodulation in a tick, after rails, players and channels: the outputs that the last tick completed come first (R176),
then the words of this tick, then the gates. -/
def captureTick (s : State) : State :=
  let s1 := (List.range 16).foldl (fun z d => dmdNote d z) (histTick s)
  let s2 := (List.range 16).foldl (fun z d => dmdOut d z) s1
  let s3 := (List.range 32).foldl (fun z u => if z.on F.CAP_CTL_EN u then capGrid u z else z) s2
  let s4 := s3.chnOut.foldl (fun z e => (List.range 16).foldl (fun y d =>
    if y.on F.DMD_CTL_EN d && y.rd F.DMD_CTL_IN_KIND d == 2 && y.rd F.DMD_CTL_IN_UNIT d == e.1 then
      dmdFeed d e.2 (y.ctOf e.2) (sgn 32 (chnOf y e.1).word) false y else y) (pushMeas 4 (e.1 / 16) (e.1 % 16) e.2 (sgn 32 (chnOf z e.1).word) (capChannel e.1 e.2 z))) s3
  let s5 := adcTick { s4 with chnOut := [] }
  (List.range 32).foldl (fun z u => if z.on F.CAP_CTL_EN u then capAsk u (capRun u (capLatch u z)) else z) s5

/-- What was staged moves on after the Carafe's tick. -/
def captureMoves (s : State) : State :=
  (List.range 32).foldl (fun z u => if (capOf z u).stage.isEmpty then z else capDrain u z) s

end Sys2Proof.Machine
end

