-- ==== Sys2Proof/Machine/Refine.lean ====
section
/-! DEFINITION. The Refine engine: recording, passes, swaps, watchdog and freezes (R179 to R197). -/

namespace Sys2Proof.Machine

/-! ### Configuration -/

def laneW (s : State) (l : Nat) : Nat := s.rd F.REF_CTL_WORD l

/-- The channel whose correction a lane learns (R179). -/
def laneChan (s : State) (l : Nat) : Nat := plyChan s (lanePly s l) (laneW s l)

/-- The inactive half of a lane's pair. -/
def laneIdle (s : State) (l : Nat) : Nat := 2 * lanePair s l + 1 - pairHalf s (lanePair s l)

/-- L of a lane's pass: the length of its pair, which equals the step's SEG (R84, R186). -/
def laneLen (s : State) (l : Nat) : Nat := segLen (segOf s (lanePair s l))

/-- `REF_STAT.ACTIVE` follows the table, `PASS` the passes (R180). -/
def laneSync (l : Nat) (s : State) : State :=
  (s.wrB F.REF_STAT_ACTIVE l (pairHalf s (lanePair s l) != lanePair s l)).wrB F.REF_STAT_PASS l (!(laneOf s l).passes.isEmpty)

def lanesSync (s : State) : State := (List.range 8).foldl (fun t l => laneSync l t) s

def laneTo (l st : Nat) (s : State) : State := laneSync l (s.wr F.REF_STAT_STATE l st)

/-- λ of a lane's source in quarter ticks, of a demodulator's output back to the centre of its support (R163, R176, R181). -/
def laneLam (s : State) (l : Nat) : Nat :=
  let k := s.rd F.REF_SRC_KIND l
  let m := s.rd F.REF_SRC_MEMBER l
  if k == 0 then s.rd F.FLM_IL_LAT_LAMBDA (s.rd F.REF_SRC_UNIT l)
  else if k == 1 then s.rd F.CNV_ADC_LAT_LAT m
  else if k == 2 then
    if s.rd F.ENC_CTL_MODE m == 2 then 4 * (2 * (s.rd F.ENC_SSI_CLKDIV m + 1) * (s.rd F.ENC_SSI_LEN m + 1) + 2)
    else if s.rd F.ENC_CTL_MODE m == 1 then 16 else 4 * (3 + (s.rd F.ENC_CTL_FILT m + 3) / 4)
  else if k == 3 then
    let kind := s.rd F.DMD_CTL_IN_KIND m
    let i := s.rd F.DMD_CTL_IN_UNIT m
    let lam := if kind == 0 then s.rd F.CNV_ADC_LAT_LAT i else if kind == 1 then s.rd F.FLM_IL_LAT_LAMBDA (i / 16) else 44
    lam + 4 * ((33 * 2 ^ s.rd F.DMD_CTL_K m - 2) * dmdPin s m + 1)
  else 44

/-- The lowest cause of R181, 0 for none. -/
def laneCause (par : Bool) (l : Nat) (s : State) : Nat :=
  let a := lanePair s l
  let p := lanePly s l
  let da := segOf s a
  let db := segOf s (a + 1)
  let usable (d : Seg) : Bool := d.state == 2 || d.state == 3
  let others := (lanesOn s).filter (fun o => o != l)
  let every := (List.range 8).filter (fun o => o != l)
  let ms := s.rd F.REF_MSEG_MSEG l
  let d := segOf s ms
  let k := s.rd F.REF_SRC_KIND l
  let m := s.rd F.REF_SRC_MEMBER l
  let names (o : Nat) : Bool := lanePair s o == ms || lanePair s o + 1 == ms
  if !da.cpair || !usable da || !usable db || da.width != s.rd F.PLY_CTL_WIDTH p || db.width != s.rd F.PLY_CTL_WIDTH p then 1
  else if decide (plyW s p ≤ laneW s l) then 2
  else if others.any (fun o => lanePair s o == a && (lanePly s o != p || laneW s o == laneW s l)) then 3
  else if d.state != 2 || d.width != 0 || decide (d.lenG < da.lenG) || d.cpair || names l || every.any names
      || every.any (fun o => s.rd F.REF_MSEG_MSEG o == ms) then 4
  else if (k == 0 && decide (7 < s.rd F.REF_SRC_UNIT l)) || ((k == 1 || k == 2) && decide (7 < m))
      || decide (28 < s.rd F.REF_SRC_SHIFT l) || decide (4092 < laneLam s l) then 5
  else if s.rd F.PAN_OWN_OWNER (s.rd F.REF_GCTL_PAN 0) != 6 || par
      || ((laneSt s l == lsClosing || laneSt s l == lsSafe) && !(laneOf s l).passes.isEmpty) then 6
  else 0

/-! ### Passes (R186 to R188, R193) -/

/-- The law in force at the start of a pass: LGAIN, LEAD, NH, H0 to H31 (R187). -/
def laneLaw (s : State) (l : Nat) : List Int :=
  [s.rdI F.REF_LAW_LGAIN l, (s.rd F.REF_LAW_LEAD l : Int), (s.rd F.REF_LAW_NH l : Int)]
    ++ (List.range 16).flatMap (fun i => [s.rdI (F.REF_QCOEF_LO i) l, s.rdI (F.REF_QCOEF_HI i) l])

def lawAt (law : List Int) (i : Nat) : Int := law.getD i 0

/-- A pass of a kind starts. -/
def passStart (l : Nat) (s : State) : State :=
  laneSync l (setLane l { laneOf s l with pstart := s.now, law := laneLaw s l } s)

/-- Passes of a lane that was idle until now. -/
def passBegin (l : Nat) (ks : List Nat) (s : State) : State :=
  passStart l (setLane l { laneOf s l with passes := ks, busyAt := s.now } s)

/-- Ticks of the pass that runs (R187). -/
def passTicks (s : State) (l : Nat) : Nat :=
  let v := laneOf s l
  let n := laneLen s l
  if v.passes.head? == some 0 then 8 * (n + (lawAt v.law 1).toNat + (lawAt v.law 2).toNat) else 8 * n

/-- Word `WORD` of frame `f` of a segment of the player's width, substituted where it cannot be read (R187). -/
def laneWord (s : State) (l seg f : Nat) : Int :=
  sgn 32 (frameWord s (plyW s (lanePly s l)) (.seg seg) [] false f (laneW s l) 0)

/-- The store's word of frame `f`. -/
def laneStore (s : State) (l f : Nat) : Nat := frameWord s 1 (.seg (s.rd F.REF_MSEG_MSEG l)) [] false f 0 0

/-- e of R186. -/
def laneE (s : State) (l f : Nat) : Int :=
  let v := laneOf s l
  match v.rng with
  | none => 0
  | some (f0, f1) =>
    if decide (f0 ≤ f) && decide (f ≤ f1) then
      let st := laneStore s l f
      satS 32 (laneWord s l (stSeg s (lanePly s l) v.step) f - sgn 32 (st - st % 2))
    else 0

/-- ep of R186. -/
def laneEp (s : State) (l f : Nat) : Int :=
  let inR := match (laneOf s l).rng with | none => false | some (f0, f1) => decide (f0 ≤ f) && decide (f ≤ f1)
  if !s.on F.REF_CTL_LIM_POL l && inR && laneStore s l f % 2 == 1 then 0 else laneE s l f

/-- ep outside the segment. -/
def laneEpAt (s : State) (l : Nat) (i : Int) : Int :=
  let n := laneLen s l
  if decide (0 ≤ i) && decide (i < (n : Int)) then laneEp s l i.toNat
  else if s.on F.REF_CTL_CYCLIC l then laneEp s l (i % (n : Int)).toNat else 0

/-- a of R186. -/
def laneA (s : State) (l f : Nat) : Int :=
  let law := (laneOf s l).law
  laneWord s l (pairHalf s (lanePair s l)) f + asr (lawAt law 0 * laneEpAt s l ((f : Int) + lawAt law 1) + 2 ^ 13) 14

/-- a outside the segment. -/
def laneAAt (s : State) (l : Nat) (i : Int) : Int :=
  let n : Int := (laneLen s l : Int)
  laneA s l (if s.on F.REF_CTL_CYCLIC l then i % n else clampI 0 (n - 1) i).toNat

/-- cn of R186 by the kind of pass. -/
def laneCn (s : State) (l kind f : Nat) : Int :=
  let law := (laneOf s l).law
  let h (j : Nat) : Int := lawAt law (3 + j)
  if kind == 2 then 0
  else if kind == 1 then laneWord s l (pairHalf s (lanePair s l)) f
  else
    let acc := (List.range (lawAt law 2).toNat).foldl (fun a j =>
      a + h (j + 1) * (laneAAt s l ((f : Int) - (j + 1 : Nat)) + laneAAt s l ((f : Int) + (j + 1 : Nat)))) (h 0 * laneA s l f)
    satS 32 (asr (acc + 2 ^ 13) 14)

/-- A pass writes the lane's word of every frame of the inactive half, in whole units (R186, R215). -/
def passWrite (l kind : Nat) (s : State) : State :=
  let w := plyW s (lanePly s l)
  let base := (segOf s (laneIdle s l)).base
  let t := (List.range (laneLen s l)).foldl (fun t f =>
    { t with carafe := memWrW t.carafe (base + 4 * (w * f + laneW s l)) (uns 32 (laneCn s l kind f)) }) s
  carHealRange base (4 * w * laneLen s l) t

/-- What a pass moves for frames 16j to 16j + 15: the store, SEG and the active half read, the inactive half written (R195): whether a
write, address, bytes. -/
def passMoves (s : State) (l kind j : Nat) : List (Bool × Nat × Nat) :=
  let w := 64 * plyW s (lanePly s l)
  let at_ (seg n : Nat) : Nat := (segOf s seg).base + n * j
  let upd := if kind == 0 then [(false, at_ (s.rd F.REF_MSEG_MSEG l) 64, 64), (false, at_ (stSeg s (lanePly s l) (laneOf s l).step) w, w)] else []
  upd ++ (if kind == 2 then [] else [(false, at_ (pairHalf s (lanePair s l)) w, w)]) ++ [(true, at_ (laneIdle s l) w, w)]

/-- Each 128 ticks a pass asks at the Refine port for its next 16 frames. Its staging holds 16 frames, so the deadline is the end of the
128 ticks (R187, R202; DESIGN CHOICE: assumption 81). -/
def passAsk (l : Nat) (s : State) : State :=
  let v := laneOf s l
  match v.passes with
  | [] => s
  | k :: _ =>
    let n := s.now - v.pstart
    if n % 128 != 0 || laneLen s l ≤ n / 8 then s
    else (passMoves s l k (n / 128)).foldl (fun t e =>
      carEnter ⟨65, e.1, e.2.1, e.2.2, s.now, some (s.now + 128), false, 100 + l, []⟩ t) s

/-- Whether a request of Refine has gone unserved past its deadline: the passes wait with it (R187). -/
def passLate (s : State) : Bool :=
  (s.car.reqs ++ s.car.held).any (fun r => r.port == 65 && (match r.deadline with | some d => decide (d < s.now) | none => false))

/-- A tick of the passes: each asks for its frames, and each lasts a tick longer while a deadline is missed or the Refine pan sleeps
(R187, R227). -/
def passTick (s : State) : State :=
  let late := passLate s || s.on F.PAN_STAT_ASLEEP (s.rd F.REF_GCTL_PAN 0)
  (List.range 8).foldl (fun t l =>
    if (laneOf t l).passes.isEmpty then t
    else if late then setLane l { laneOf t l with pstart := (laneOf t l).pstart + 1 } t
    else passAsk l t) s

/-- The units that a pass reads and that are uncorrectable are found at port 65; each word that could not be read counts and is recorded
(R187, R214). -/
def passEcc (l kind : Nat) (s : State) : State :=
  if s.badUnits.isEmpty || kind == 2 then s
  else
    let w := plyW s (lanePly s l)
    let half := pairHalf s (lanePair s l)
    let reads : List (Nat × Nat) :=
      (w, half) :: (if kind == 0 then [(w, stSeg s (lanePly s l) (laneOf s l).step), (1, s.rd F.REF_MSEG_MSEG l)] else [])
    let s1 := reads.foldl (fun t e => carScan 65 (segOf t e.2).base (4 * e.1 * laneLen s l) t) s
    (List.range (laneLen s l)).foldl (fun t f => reads.foldl (fun z e =>
      if frameBad s e.1 (.seg e.2) f then logEvent (srcLearn l) 0x39 f 0 0 (z.bump F.REF_ERR_ECC l) else z) t) s1

/-- `REF_RMS`, `REF_F0` and `REF_F1` of an update pass (R188). -/
def passRms (l : Nat) (s : State) : State :=
  match (laneOf s l).rng with
  | none => s
  | some (f0, f1) =>
    let n := f1 + 1 - f0
    let sum := (List.range n).foldl (fun a i => let e := laneE s l (f0 + i); a + (e * e).toNat) 0
    s.wrs [(F.REF_RMS_RMS, l, isqrt (sum / n)), (F.REF_F0_F, l, f0), (F.REF_F1_F, l, f1)]

/-- The divergence watchdog after an update pass (R193). -/
def passWatch (l : Nat) (s : State) : State :=
  let v := laneOf s l
  let rms := s.rd F.REF_RMS_RMS l
  let n := s.rd F.REF_WD_WD_N l
  let rise := match v.rmsPrev with
    | none => false
    | some r => decide (r + r * s.rd F.REF_WD_WD_MARGIN l / 256 < rms)
  let s1 := setLane l { v with rmsPrev := some rms } s
  if n == 0 then s1
  else
    let k := if rise then min 15 (s.rd F.REF_STAT_RISE l + 1) else if v.rmsPrev.isNone then s.rd F.REF_STAT_RISE l else 0
    let s2 := s1.wr F.REF_STAT_RISE l k
    if rise && decide (n ≤ k) && v.freeze == 0 then
      let z := s2.on F.REF_CTL_WD_POL l
      let s3 := setLane l { laneOf s2 l with freeze := if z then 2 else 1, passes := (laneOf s2 l).passes ++ [if z then 2 else 1] } s2
      logEvent (srcLearn l) 0x38 (v.rmsPrev.getD 0) rms 0 ((s3.bump F.REF_CNT_FREEZES l).wr F.REF_STAT_FRZ_PEND l 1)
    else s2

/-- The pass that runs ends; the next one starts, or the lane goes on (R187, R189). -/
def passEnd (l : Nat) (s : State) : State :=
  match (laneOf s l).passes with
  | [] => s
  | k :: rest =>
    if decide (s.now < (laneOf s l).pstart + passTicks s l) then s
    else
      let s1 := passWrite l k (passEcc l k s)
      let s2 := if k == 0 then passRms l s1 else s1
      let s3 := setLane l { laneOf s2 l with passes := rest } s2
      let s4 := if k == 0 then passWatch l s3 else s3
      let v := laneOf s4 l
      if !v.passes.isEmpty then passStart l s4
      else
        let s5 := setLane l { v with donePass := some (lanePair s4 l), lastDone := s4.now } s4
        let st := laneSt s5 l
        if st == lsUpdate then laneTo l lsSwapWait s5
        else if st == lsClosing then
          laneTo l lsOff (setLane l { Lane.fresh with donePass := some (lanePair s4 l), lastDone := s4.now } s5)
        else laneSync l s5

/-! ### Collection (R184, R185) -/

/-- A lane enters COLLECT for an iteration (R184, R191). -/
def laneCollect (l step iter te : Nat) (s : State) : State :=
  let v := laneOf s l
  laneTo l lsCollect (setLane l
    { v with step := step, iter := iter, t0 := te, tx := none, left := none, words := [],
             prev := none, rng := none, lostSrc := false, passes := [], discard := false, busyAt := s.now } s)

/-- Whether a lane's source supplies words (R185). -/
def laneSrcOk (s : State) (l : Nat) : Bool :=
  let k := s.rd F.REF_SRC_KIND l
  let m := s.rd F.REF_SRC_MEMBER l
  if k == 0 then s.rd F.FLM_IL_STAT_STATE (s.rd F.REF_SRC_UNIT l) == 3
  else if k == 1 then s.on F.CNV_ADC_STAT_VALID m
  else if k == 2 then !s.on F.ENC_STAT_LOST m
  else if k == 3 then s.on F.DMD_STAT_VALID m
  else s.rd F.CHN_STAT_STATE (16 * s.rd F.REF_SRC_UNIT l + m) != 0

/-- m of R183. -/
def laneMap (s : State) (l : Nat) (x : Int) : Int :=
  satS 32 (asr ((x - s.rdI F.REF_MOFF_MOFF l) * s.rdI F.REF_MGAIN_MGAIN l + 2 ^ 29) 30)

/-- A measured word for a lane that collects: placed at s(b) of the player's history (R183, R184). -/
def laneFeed (l : Nat) (w : Meas) (s : State) : State :=
  let v := laneOf s l
  let k := s.rd F.REF_SRC_KIND l
  let mine := w.kind == k && w.mem == s.rd F.REF_SRC_MEMBER l
    && (if k == 3 then w.unit == s.rd F.REF_SRC_COMP l else k == 1 || k == 2 || w.unit == s.rd F.REF_SRC_UNIT l)
  let inTime := decide (v.t0 ≤ w.b) && (match v.tx with | some t => decide (w.b < t) | none => true)
  if laneSt s l != lsCollect || !mine || !inTime then s
  else
    let h := histAt s (lanePly s l) w.b
    if h.step == v.step && h.iter == v.iter then
      let x := if k == 2 then satS 32 (asr w.x (s.rd F.REF_SRC_SHIFT l)) else w.x
      setLane l { v with words := v.words ++ [(w.b, h.pos, laneMap s l x)] } s
    else s

/-- The limit flag of the PLAY samples in (b0, b1], or the latest before (R184). -/
def laneLim (lims : List (Nat × Bool)) (b0 b1 : Nat) : Bool :=
  let inside := lims.filter (fun e => decide (b0 < e.1) && decide (e.1 ≤ b1))
  if inside.isEmpty then
    (match (lims.filter (fun e => decide (e.1 ≤ b1))).getLast? with | some e => e.2 | none => false)
  else inside.any (·.2)

/-- The frames with sp < f·2^24 ≤ s and 0 ≤ f < L. -/
def crossed (sp s : Int) (n : Nat) : List Nat :=
  let lo : Nat := (max 0 (frameOf sp + 1)).toNat
  let hi : Nat := (min ((n : Int) - 1) (frameOf s) + 1).toNat
  (List.range (hi - lo)).map (fun i => i + lo)

/-- The limit flags that a later word can still need: those after tick `b` and the latest before. -/
def limsKeep (b : Nat) (l : List (Nat × Bool)) : List (Nat × Bool) :=
  let old := l.filter (fun e => decide (e.1 ≤ b))
  old.drop (old.length - 1) ++ l.filter (fun e => decide (b < e.1))

/-- One word recorded (R184). -/
def laneRecord (l b : Nat) (pos m : Int) (s : State) : State :=
  let v := laneOf s l
  match v.prev with
  | none => setLane l { v with prev := some (pos, m, b) } s
  | some (sp, mp, b0) =>
    let lim := b2n (laneLim v.lims b0 b)
    let base := (segOf s (s.rd F.REF_MSEG_MSEG l)).base
    let fs : List Nat := if sp < pos then crossed sp pos (laneLen s l) else []
    let s1 := fs.foldl (fun (t : State) (f : Nat) =>
      let mf := mp + divZ ((m - mp) * ((f : Int) * 2 ^ 24 - sp)) (pos - sp)
      carHeal ((base + 4 * f) / 64) { t with carafe := memWrW t.carafe (base + 4 * f) (uns 32 mf / 2 * 2 + lim) }) s
    let rng := fs.foldl (fun (r : Option (Nat × Nat)) f => match r with | none => some (f, f) | some (a, z) => some (min a f, max z f)) v.rng
    setLane l { v with prev := some (pos, m, b), rng := rng, lims := limsKeep b0 v.lims } s1

/-- Words old enough that the limiter has passed on the flags of their samples. -/
def laneWords (fuel l : Nat) (all : Bool) (s : State) : State :=
  match fuel with
  | 0 => s
  | n + 1 =>
    match (laneOf s l).words with
    | [] => s
    | (b, pos, m) :: r =>
      if all || decide (b + 16 ≤ s.now) then
        laneWords n l all (laneRecord l b pos m (setLane l { laneOf s l with words := r } s))
      else s

/-- The tick in which a lane's collection closes (R185). -/
def laneCloseAt (s : State) (l : Nat) : Option Nat :=
  let v := laneOf s l
  match v.tx with
  | some t => some (t + 1024)
  | none => v.left.map (· + 1024)

/-- Whether a recorded frame has its limit flag (R185). -/
def laneLimited (s : State) (l : Nat) : Bool :=
  match (laneOf s l).rng with
  | some (a, b) => (List.range (b + 1 - a)).any (fun i => laneStore s l (a + i) % 2 == 1)
  | none => false

/-- The record of a collection lost to its source: R196 asks for one and R381 gives it no kind, so its kind is a free value
(DESIGN CHOICE: assumption 82). -/
def laneLost (l : Nat) (s : State) : State :=
  let k := s.free 8
  logEvent (srcLearn l) k.1 0 0 0 (k.2.bump F.REF_ERR_LOST l)

/-- Collection closes: the lane enters UPDATE with its pass (R185, R187, R194). -/
def laneClose (l : Nat) (s0 : State) : State :=
  if laneSt s0 l != lsCollect then s0
  else match laneCloseAt s0 l with
    | none => s0
    | some t =>
      if decide (s0.now < t) then s0
      else
        let s := laneWords ((laneOf s0 l).words.length + 1) l true s0
        let v := laneOf s l
        let lost := v.lostSrc && v.tx.isSome
        let disc := v.rng.isNone || (s.on F.REF_CTL_LIM_POL l && laneLimited s l) || v.lostSrc || v.tx.isNone
        let s1 := if disc then s.bump F.REF_CNT_DISCARDS l else s
        let s2 := if lost then laneLost l s1 else s1
        let k := if v.freeze != 0 then v.freeze else if disc then 1 else 0
        laneTo l lsUpdate (passStart l (setLane l { laneOf s2 l with passes := [k], discard := disc } s2))

/-! ### Swaps and entries (R190, R191) -/

/-- The table bit of a pair flips (R180, R191). -/
def refFlip (pair : Nat) (s : State) : State :=
  { s with pans := memWr s.pans (refTable s + pair / 8) (BitVec.ofNat 8 (refByte s pair ^^^ 2 ^ (pair % 8))) }

/-- Correction words of the old half behind T_E are fetched again: until they return, a reverse crossing of the group's player that needs
them is late (R102, R191). -/
def refStale (pair : Nat) (s : State) : State :=
  match laneGroup s pair with
  | [] => s
  | l :: _ =>
    let y := plyOf s (lanePly s l)
    setPly (lanePly s l) { y with stale := true, ready := tabDel y.ready 8 } s

/-- The table bit of a pair flips, and the lanes of its group follow; `enter` names the iteration entered, none at an
ARM (R190, R191). -/
def refSwap (pair : Nat) (enter : Option (Nat × Nat × Nat)) (s : State) : State :=
  let s0 := refStale pair (refFlip pair ((List.range 8).foldl (fun t l =>
    if (laneOf t l).donePass == some pair then setLane l { laneOf t l with donePass := none } t else t) s))
  (laneGroup s pair).foldl (fun t l =>
    let st := laneSt t l
    let v := laneOf t l
    let t1 := (t.wr F.REF_SWAP_CT_CT l t.ct).tally F.REF_CNT_CYCLES l
    let t2 := if st == lsSwapWait then pushTrig (0xC0 + l) true (4 * t1.now) (t1.now + 1) t1 else t1
    if st == lsSwapWait && v.freeze != 0 then
      let t3 := laneTo l lsFrozen ((setLane l { laneOf t2 l with freeze := 0 } t2).wr F.REF_STAT_FRZ_PEND l 0)
      if v.freeze == 2 then passBegin l [1] t3 else t3
    else if st == lsSwapWait || (st == lsReady && v.freeze == 0) then
      match enter with
      | some (step, iter, te) => laneCollect l step iter te t2
      | none => if st == lsSwapWait then laneTo l lsReady t2 else laneSync l t2
    else laneSync l t2) s0

/-- One report of the sequencer (R184, R190). -/
def refEvent (e : SeqEv) (s : State) : State :=
  let s1 := match e.rep with
    | none => s
    | some (st, it) => (lanesOn s).foldl (fun t l =>
        let v := laneOf t l
        if laneSt t l == lsCollect && lanePly t l == e.p && v.step == st && v.iter == it && v.tx.isNone then
          setLane l { v with tx := some e.te } t else t) s
  if e.step == 0xFFFF || !e.forward || plyStream s1 e.p || (e.tb.isNone && !e.start) || !stLearn s1 e.p e.step then s1
  else
    let pair := stCorr s1 e.p e.step
    let swaps := match e.tb with | some tb => swapAt s1 e.p e.step tb | none => false
    if swaps then refSwap pair (some (e.step, e.iter, e.te)) s1
    else if (laneGroup s1 pair).any (fun l => laneSt s1 l == lsUpdate || laneSt s1 l == lsSwapWait) then s1
    else (laneGroup s1 pair).foldl (fun t l =>
      if laneSt t l == lsReady && lanePly t l == e.p then laneCollect l e.step e.iter e.te t else t) s1

/-- The reports of a tick, in order. -/
def refEvents (s : State) : State :=
  s.seqEvs.foldl (fun t e => refEvent e t) { s with seqEvs := [] }

/-- A swap that an ARM applies (R190). -/
def refArm (p : Nat) (s : State) : State :=
  if plyStream s p then s
  else
    let pairs := (List.range (s.rd F.PLY_STEP_COUNT_COUNT p)).foldl (fun l r =>
      let c := stCorr s p r
      if c != noSeg && (segOf s c).cpair then addN l c else l) []
    pairs.foldl (fun t c => if swapIdle t c s.now then refSwap c none t else t) s

/-! ### Enable and commands (R181, R189, R194) -/

/-- A lane leaves for CLOSING or SAFE: its pass is abandoned and a copy pass runs. -/
def laneLeave (l st : Nat) (s : State) : State :=
  let v := laneOf s l
  laneTo l st (passBegin l [1] (setLane l { v with words := [], tx := none, left := none, freeze := 0 }
    (s.wrs [(F.REF_CTL_EN, l, 0), (F.REF_STAT_FRZ_PEND, l, 0)])))

def laneEnable (par : Bool) (l : Nat) (en : Bool) (s : State) : State :=
  if !en then
    let st := laneSt s l
    if st == lsOff || st == lsSafe || st == lsClosing then s.wr F.REF_CTL_EN l 0 else laneLeave l lsClosing s
  else if s.on F.REF_CTL_EN l then s
  else
    let k := laneCause par l s
    if k != 0 then s.wrs [(F.REF_CTL_EN, l, 0), (F.REF_STAT_CFG_BAD, l, 1), (F.REF_STAT_ENCAUSE, l, k)]
    else
      laneTo l lsReady (setLane l Lane.fresh (s.wrs [(F.REF_CTL_EN, l, 1), (F.REF_STAT_CFG_BAD, l, 0), (F.REF_STAT_ENCAUSE, l, 0),
        (F.REF_STAT_RISE, l, 0), (F.REF_STAT_FRZ_PEND, l, 0)]))

/-- FREEZE (1) and ZERO (2): whether the lane's state admits it, and the state (R194). -/
def laneFreeze (l k : Nat) (s : State) : Bool × State :=
  let v := laneOf s l
  let st := laneSt s l
  if st == lsCollect then (true, (setLane l { v with freeze := k } s).wr F.REF_STAT_FRZ_PEND l 1)
  else if st == lsUpdate then
    let ps := match v.passes with | 0 :: _ => [0, k] | _ => [k]
    let s1 := (setLane l { v with freeze := k, passes := ps } s).wr F.REF_STAT_FRZ_PEND l 1
    (true, if v.passes.head? == some 0 then s1 else passStart l s1)
  else if st == lsSwapWait then
    (true, laneTo l lsUpdate (passBegin l [k] (setLane l { v with freeze := k } (s.wr F.REF_STAT_FRZ_PEND l 1))))
  else if st == lsReady && k == 1 then (true, laneTo l lsFrozen s)
  else if st == lsReady || (st == lsFrozen && k == 2) then
    (true, laneTo l lsUpdate (passBegin l [2] (setLane l { v with freeze := 2 } (s.wr F.REF_STAT_FRZ_PEND l 1))))
  else (false, s)

/-- UNFREEZE (R194). -/
def laneUnfreeze (l : Nat) (s : State) : Bool × State :=
  if laneSt s l == lsFrozen then (true, laneTo l lsReady s) else (false, s)

/-- CLR of a lane (R194). -/
def laneClear (l : Nat) (s : State) : State :=
  s.wrs [(F.REF_STAT_RISE, l, 0), (F.REF_CNT_FREEZES, l, 0), (F.REF_CNT_DISCARDS, l, 0), (F.REF_CNT_CYCLES, l, 0),
    (F.REF_ERR_LOST, l, 0), (F.REF_ERR_ECC, l, 0)]

/-- The table of active halves is cleared (R180). -/
def refTableClear (s : State) : State := { s with pans := memZero s.pans (refTable s) 32768 }

/-! ### The tick -/

/-- The learning lanes in a tick: reports, encoder words, measured words, limit flags, source and player watched. -/
def refineTick (s0 : State) : State :=
  let s := refEvents s0
  if (lanesOn s).isEmpty then { s with meas := [], limOut := [] }
  else
    let s1 := if s.rd F.GLB_CT_TICKS 0 % 32 == 0 then
        (List.range 8).foldl (fun t e => if t.on F.ENC_CTL_EN e then
          pushMeas 2 0 e (ballTick t.now (if t.rd F.ENC_CTL_MODE e == 1 then 16 else if t.rd F.ENC_CTL_MODE e == 2 then
            4 * (t.now - ((encOf t e).ssiVal).getD t.now) else 4 * (3 + (t.rd F.ENC_CTL_FILT e + 3) / 4))) (sgn 60 (encPos t e)) t else t) s
      else s
    let s2 := (List.range 8).foldl (fun t l =>
      let v0 := laneOf t l
      let lims := v0.lims ++ ((t.limOut.filter (fun e => e.1 == laneChan t l)).map (·.2))
      if laneSt t l == lsOff then t
      else if laneSt t l != lsCollect then setLane l { v0 with lims := limsKeep (t.now - 1100) lims } t
      else
        let a := t.meas.foldl (fun z w => laneFeed l w z) t
        let v := laneOf a l
        let inIt := v.tx.isNone
        let gone := inIt && v.left.isNone && !(active a (lanePly a l))
        let v1 := { v with lims := lims, lostSrc := v.lostSrc || (inIt && !laneSrcOk a l), left := if gone then some a.now else v.left }
        laneWords (v1.words.length + 1) l false (setLane l v1 a)) s1
    passTick { s2 with meas := [], limOut := [] }

end Sys2Proof.Machine
end

