-- ==== Sys2Proof/Machine/Pans.lean ====
section
/-! DEFINITION. Pans: ownership and handover, non-owner accesses, collisions, retention, the background and the full memory
test (R219 to R230). -/

namespace Sys2Proof.Machine

/-! ### Owner codes (R220) and accesses -/

def owNone : Nat := 0
def owFw : Nat := 1
def owPlayer : Nat := 2
def owStep : Nat := 3
def owBrine : Nat := 4
def owCapture : Nat := 5
def owRefine : Nat := 6
def owHost : Nat := 7
def owMbist : Nat := 8

def panOwner (s : State) (k : Nat) : Nat := s.rd F.PAN_OWN_OWNER k

/-- A non-owner access by master `o` (R221). -/
def panConf (o k : Nat) (s : State) : State :=
  logLimited 221 srcPans 0x22 o k 0 ((s.bump F.PAN_CONF_COUNT o).wr F.PAN_CONF_PAN o k)

/-- A write collision of the two ports in a pan word (R225). -/
def panColl (k w : Nat) (s : State) : State := logLimited 225 srcPans 0x23 k w 0 (s.bump F.PAN_COLL_COUNT k)

/-! ### Handover (R224) -/

/-- Whether a queue keeps storage or index in a pan. -/
def queueInPan (s : State) (q k : Nat) : Bool :=
  s.on F.BRN_CTL_EN q && !qDeep s q && (s.rd F.BRN_STORE_PAN q == k || s.rd F.BRN_IDX_PAN q == k)

/-- The cause for which an old owner refuses a change, 0 where it accepts. -/
def handRefuse (s : State) (o k old : Nat) : Nat :=
  if old == owStep then (if (List.range 64).any (engaged s) then cCfgEnabled else 0)
  else if old == owBrine then (if (List.range 128).any (fun q => queueInPan s q k) then cCfgEnabled else 0)
  else if old == owCapture then (if (List.range 32).any (fun u => s.on F.CAP_CTL_EN u) then cCfgEnabled else 0)
  else if old == owRefine then (if !(lanesOn s).isEmpty then cCfgEnabled else 0)
  else if old == owFw then (if o != 6 then cDenied else 0)
  else 0

/-- The background test yields the slice it holds in a pan (R229). -/
def mbistYield (k : Nat) (s : State) : State :=
  match s.panX.slice with
  | some (j, _) =>
    if j == k then
      ({ s with panX := { s.panX with slice := none, found := [], broken := false } }.bump F.PAN_MBIST_STAT_YIELDS 0).wr F.PAN_STAT_SLICE k 0
    else s
  | none => s

/-- A request to change an owner: the cause of a refusal (0: accepted or no change) and the state, the handover waiting. A write of MBIST runs a
test whoever owned the pan (R230). -/
def panRequest (o k : Nat) (portB : Bool) (new : Nat) (s : State) : Nat × State :=
  let old := if portB then s.rd F.PAN_OWN_B_OWNER k else panOwner s k
  if new == old && (portB || new != owMbist) then (0, s)
  else
    let c := handRefuse s o k old
    if c != 0 then (c, s)
    else
      let s1 := mbistYield k s
      let rest := s1.panX.hand.filter (fun e => !(e.1 == k && e.2.1 == portB))
      (0, { s1 with panX := { s1.panX with hand := rest ++ [(k, portB, new)] } }.wr F.PAN_STAT_HANDOVER k 1)

/-- The cause for which a write of `PAN_OWN` is refused, 0 for none: of a refused write neither owner changes (R224). -/
def panOwnWhy (s : State) (o k new newB : Nat) : Nat :=
  let a := if new == panOwner s k then 0 else handRefuse s o k (panOwner s k)
  let old := s.rd F.PAN_OWN_B_OWNER k
  if a != 0 then a else if (k != 14 && k != 15) || newB == old then 0 else handRefuse s o k old

/-- The contents that a stopped full test leaves: undefined, so cells that nothing fixes (R224). -/
def panScramble (k : Nat) (s : State) : State :=
  let base := 262144 * k
  { s with
    freeN := s.freeN + 1
    pans := (Config.freeCells s.freeN).foldl (fun m c => memWr m (base + c.1 % 262144) c.2) (memZero s.pans base 262144)
    badPans := s.badPans.filter (fun w => w / 32768 != k) }

/-- A handover takes effect: the effects of the old owner's leaving, and of the new one's coming. -/
def panHand (k : Nat) (portB : Bool) (new : Nat) (s : State) : State :=
  let old := if portB then s.rd F.PAN_OWN_B_OWNER k else panOwner s k
  let s1 := if portB then s.wr F.PAN_OWN_B_OWNER k new else s.wr F.PAN_OWN_OWNER k new
  let s2 :=
    if old == owPlayer then
      (List.range 64).foldl (fun t p => if t.on F.PLY_CTL_EN p && t.rd F.PLY_PF_PAN p == k then plySafe p 8 0 t else t) s1
    else if old == owMbist && !portB && s.on F.PAN_STAT_TEST_BUSY k then (panScramble k s1).wr F.PAN_STAT_TEST_BUSY k 0
    else if (old == owRefine || new == owRefine) && !portB && k == s.rd F.REF_GCTL_PAN 0 then
      lanesSync (if new == owRefine then refTableClear s1 else s1)
    else s1
  if new == owMbist && !portB then s2.wr F.PAN_STAT_TEST_BUSY k 1 else s2

/-- The handovers waiting for a pan take effect (R224). -/
def panHandDone (k : Nat) (s : State) : State :=
  let l := s.panX.hand.filter (fun e => e.1 == k)
  let s1 := { s with panX := { s.panX with hand := s.panX.hand.filter (fun e => e.1 != k) } }
  l.foldl (fun t e => panHand k e.2.1 e.2.2 t) (s1.wr F.PAN_STAT_HANDOVER k 0)

/-! ### Retention (R226, R227) -/

/-- A write of SLEEP: selected pans sleep; a pan taken out of the selection wakes. -/
def panSleep (mask : Nat) (s : State) : State :=
  (List.range 16).foldl (fun t k =>
    if bitOf mask k then (if t.on F.PAN_STAT_WAKING k then t else t.wr F.PAN_STAT_ASLEEP k 1)
    else if t.on F.PAN_STAT_ASLEEP k then t.wr F.PAN_STAT_WAKING k 1 else t) (s.wr F.PAN_RET_SLEEP 0 mask)

/-- A pan is awake. -/
def panAwoke (k : Nat) (s : State) : State :=
  if s.on F.PAN_STAT_WAKING k then
    let v := s.rd F.PAN_RET_SLEEP 0
    s.wrs [(F.PAN_STAT_WAKING, k, 0), (F.PAN_STAT_ASLEEP, k, 0), (F.PAN_RET_SLEEP, 0, v - v / 2 ^ k % 2 * 2 ^ k)]
  else s

/-! ### Background and full tests (R228, R230) -/

/-- Whether the background test visits a pan. -/
def mbistPan (s : State) (k : Nat) : Bool :=
  bitOf (s.rd F.PAN_MBIST_MASK 0) k && (panOwner s k == owFw || panOwner s k == owHost || panOwner s k == owNone)

/-- A march found a mismatch (R230). -/
def mbistFail (k w : Nat) (s : State) : State :=
  logEvent srcPans 0x24 k w 0 (s.wrs [(F.PAN_MBIST_STAT_FAIL, 0, 1), (F.PAN_MBIST_FAIL_PAN, 0, k), (F.PAN_MBIST_FAIL_WORD, 0, w)])

/-- The next slice (128·pan + slice) that the test visits from a cursor on. -/
def mbistNext (s : State) (c : Nat) : Nat → Option Nat
  | 0 => none
  | n + 1 => if mbistPan s (c / 128 % 16) then some (c % 2048) else mbistNext s ((c / 128 + 1) * 128 % 2048) n

/-- The slice is restored: the pan words whose march failed are reported; one that an access made it abandon is visited again (R229, R230). -/
def mbistEnd (s : State) : State :=
  match s.panX.slice with
  | some (k, i) =>
    if s.panX.broken then mbistYield k s
    else
      let t := s.panX.found.foldl (fun u w => mbistFail k (64 * i + w % 64) u) s
      { t.wr F.PAN_STAT_SLICE k 0 with
        panX := { t.panX with slice := none, found := [], broken := false, cursor := (128 * k + i + 1) % 2048 } }
  | none => s

/-- A visit lasts 64 + 640 + 64 core cycles, 192 ticks (R228). -/
def mbistTick (s : State) : State :=
  if s.panX.slice.isSome && decide (s.panX.visited + 192 ≤ s.now) then mbistEnd s else s

/-- One interval of the background test: it borrows the next slice. `fails` are the pan words of the slice whose march will fail; `yielded`
says that an owner's access will make it abandon the slice (R228 to R230). -/
def mbistSlice (fails : List Nat) (yielded : Bool) (s : State) : State :=
  if s.panX.slice.isNone && s.on F.PAN_MBIST_EN 0 && decide (s.panX.visited + usTicks (s.rd F.PAN_MBIST_INTERVAL 0) ≤ s.now) then
    match mbistNext s s.panX.cursor 17 with
    | some c => { s.wr F.PAN_STAT_SLICE (c / 128) 1 with
        panX := { s.panX with slice := some (c / 128, c % 128), cursor := c, visited := s.now, found := fails, broken := yielded } }
    | none => s
  else s

/-- A full destructive test of a pan ends: failures are reported and the pan is zero-filled (R230). -/
def fullMarch (k : Nat) (fails : List Nat) (s : State) : State :=
  if s.on F.PAN_STAT_TEST_BUSY k then
    let t := fails.foldl (fun u w => mbistFail k (w % 8192) u) s
    { t with pans := memZero t.pans (262144 * k) 262144, badPans := t.badPans.filter (fun w => w / 32768 != k) }.wr F.PAN_STAT_TEST_BUSY k 0
  else s

/-- `PAN_CMD.CLR` (R230). -/
def panClear (s : State) : State :=
  let s1 := (List.range 16).foldl (fun t k => t.wrs [(F.PAN_ERR_CE, k, 0), (F.PAN_ERR_UE, k, 0), (F.PAN_COLL_COUNT, k, 0)]) s
  let s2 := (List.range 9).foldl (fun t o => t.wr F.PAN_CONF_COUNT o 0) s1
  s2.wrs [(F.PAN_MBIST_STAT_YIELDS, 0, 0), (F.PAN_MBIST_STAT_FAIL, 0, 0)]

/-! ### Pans at WAKE and SHELF (R226) -/

/-- Every pan wakes; those that were not retained are zero-filled. -/
def pansWake (retained : Nat → Bool) (s : State) : State :=
  (List.range 16).foldl (fun t k =>
    let t1 := t.wrs [(F.PAN_STAT_WAKING, k, 0), (F.PAN_STAT_ASLEEP, k, 0)]
    if retained k then t1 else { t1 with pans := memZero t1.pans (262144 * k) 262144, badPans := t1.badPans.filter (fun w => w / 32768 != k) }) s

end Sys2Proof.Machine
end

