-- ==== Sys2Proof/Machine/Brine.lean ====
section
/-! DEFINITION. The commands of the brine queues: enable, flush, drop, level and notice, SAFE, pointer faults, a host's
half-written packet (R232, R233, R237, R240 to R243, R426). -/

namespace Sys2Proof.Machine

/-! ### Enabling (R232) -/

/-- Storage and index of a shallow queue as ranges of pan bytes. -/
def qRanges (s : State) (q : Nat) : List (Nat × Nat) :=
  [(262144 * s.rd F.BRN_STORE_PAN q + 4096 * s.rd F.BRN_STORE_OFFSET q, 4 * qWords s q),
   (262144 * s.rd F.BRN_IDX_PAN q + 256 * s.rd F.BRN_IDX_OFFSET q, 4 * qEnts s q)]

/-- Enabled queues other than `q` of a kind. -/
def qOthers (s : State) (q : Nat) (deep : Bool) : List Nat :=
  (List.range 128).filter (fun o => o != q && s.on F.BRN_CTL_EN o && qDeep s o == deep)

/-- Whether a segment is a half of a correction pair. -/
def segHalf (s : State) (i : Nat) : Bool := (segOf s i).cpair || (decide (0 < i) && (segOf s (i - 1)).cpair)

/-- The lowest cause of R232, 0 for none; `par` says that a register of the queue holds a mismatch. -/
def qCause (par : Bool) (q : Nat) (s : State) : Nat :=
  let a := s.rd F.BRN_CTL_A q
  let b := s.rd F.BRN_CTL_B q
  let deep := qDeep s q
  let inPan := fun (off size : Nat) => decide (off + size ≤ 262144)
  let rs := qRanges s q
  let sg := s.rd F.BRN_STORE_SEG q
  let d := segOf s sg
  if !(if deep then decide (18 ≤ a) && decide (a ≤ 28) else decide (10 ≤ a) && decide (a ≤ 16))
      || !(decide (4 ≤ b) && decide (b ≤ 15)) then 1
  else if !deep && (!inPan (4096 * s.rd F.BRN_STORE_OFFSET q) (4 * qWords s q) || !inPan (256 * s.rd F.BRN_IDX_OFFSET q) (4 * qEnts s q)
      || panOwner s (s.rd F.BRN_STORE_PAN q) != owBrine || panOwner s (s.rd F.BRN_IDX_PAN q) != owBrine
      || overlap (rs.getD 0 (0, 0)) (rs.getD 1 (0, 0))
      || (qOthers s q false).any (fun o => (qRanges s o).any (fun x => rs.any (overlap x)))) then 2
  else if deep && (d.state != 2 || d.width != 0 || decide (segLen d < qWords s q + qEnts s q)
      || (qOthers s q true).any (fun o => s.rd F.BRN_STORE_SEG o == sg) || segHalf s sg
      || (lanesOn s).any (fun l => s.rd F.REF_MSEG_MSEG l == sg)) then 3
  else if par || ((quOf s q).safe && (quOf s q).held) then 4
  else 0

/-- Whether an enabled deep queue names a segment: SEG_LOAD, MARK_LOAD, SEG_FREE and SEG_PIN on it are LOCKED. -/
def qNames (s : State) (i : Nat) : Bool :=
  (List.range 128).any (fun q => s.on F.BRN_CTL_EN q && qDeep s q && s.rd F.BRN_STORE_SEG q == i)

/-- Every packet is discarded and the pointers are 0. -/
def qDiscard (q : Nat) (s : State) : State :=
  qSync false q (setQu q Queue.fresh (s.wrs [(F.BRN_WP_PTR, q, 0), (F.BRN_CP_PTR, q, 0), (F.BRN_RP_PTR, q, 0),
    (F.BRN_IPTR_ICP, q, 0), (F.BRN_IPTR_IRP, q, 0)]))

/-- A write of a queue's enable (R232): whether it was ignored and is to be flagged CFG_ENABLED, and the state. A write of
0 that ends SAFE needs `par` to be false (R426). -/
def qEnable (par : Bool) (q : Nat) (en : Bool) (s : State) : Bool × State :=
  if en then
    if s.on F.BRN_CTL_EN q then (false, s)
    else
      let c := qCause par q s
      if c != 0 then (false, s.wrs [(F.BRN_STAT_CFG_BAD, q, 1), (F.BRN_STAT_ENCAUSE, q, c)])
      else (false, qSync false q (qEmpty q (s.wrs [(F.BRN_CTL_EN, q, 1), (F.BRN_STAT_CFG_BAD, q, 0), (F.BRN_STAT_ENCAUSE, q, 0)])))
  else if s.on F.BRN_CTL_EN q then
    if (quOf s q).writer.isSome || (quOf s q).reader.isSome then (true, s)
    else (false, qDiscard q (s.wr F.BRN_CTL_EN q 0))
  else if (quOf s q).safe && !par then (false, setQu q { quOf s q with safe := false } s)
  else (false, s)

/-! ### FLUSH and SAFE (R241, R426) -/

/-- A flush with its effect on a capture unit whose packet is open. -/
def queueFlush (q : Nat) (s : State) : State :=
  let s1 := match (quOf s q).writer with | some u => capDrop u s | none => s
  qFlush q s1

/-- A queue enters SAFE on a parity mismatch: FLUSH, and disabled whatever claims it (R426). -/
def qSafe (q : Nat) (s : State) : State :=
  let s1 := queueFlush q s
  qSync false q (setQu q { quOf s1 q with safe := true } (s1.wr F.BRN_CTL_EN q 0))

/-! ### Pointer copies (R242) -/

/-- A copy mismatch or a failed sanity condition: FLUSH at detection, counted and recorded. -/
def qPtrFault (q ptr copy comp : Nat) (s : State) : State :=
  logEvent (srcQueue q) 0x41 ptr copy comp ((queueFlush q s).bump F.BRN_ERR_PTR q)

/-! ### A writer that stops in the middle (R237) -/

/-- The open packet that a transfer ring began is abandoned. -/
def qAbandonRing (ring : Nat) (s : State) : State :=
  (List.range 128).foldl (fun t q => if (quOf t q).opened && (quOf t q).ring == some ring then qRewind true q t else t) s

/-! ### Commands (R240, R242, R243) -/

/-- CLR of a queue. -/
def qClear (q : Nat) (s : State) : State :=
  s.wrs [(F.BRN_ERR_OVERSIZE, q, 0), (F.BRN_ERR_PTR, q, 0), (F.BRN_ERR_ABANDON, q, 0), (F.BRN_ERR_TRUNC, q, 0),
    (F.BRN_EVT_EMPTY_RD, q, 0), (F.BRN_EVT_ECC, q, 0)]

/-- A write of `BRN_LVL`: ABOVE is re-evaluated without counting. -/
def qLevel (q sense level : Nat) (s : State) : State :=
  qSync false q (s.wrs [(F.BRN_LVL_SENSE, q, sense), (F.BRN_LVL_LEVEL, q, level)])

/-- A write of ACK: the notice follows. -/
def qAck (q ack : Nat) (s : State) : State := qNotice q false (s.wr F.BRN_NOTE_ACK q ack)

/-- Q_STAT's words: status, free, fill and notice registers (R332). -/
def qStatWords (s : State) (q : Nat) : List Nat :=
  [s.rd F.BRN_STAT_ENCAUSE q * 2 ^ 16 + s.rd F.BRN_STAT_CFG_BAD q * 128 + s.rd F.BRN_STAT_RD_CLAIM q * 64
      + s.rd F.BRN_STAT_WR_CLAIM q * 32 + s.rd F.BRN_STAT_HELD q * 16 + s.rd F.BRN_STAT_OPEN q * 8
      + s.rd F.BRN_STAT_PENDING q * 4 + s.rd F.BRN_STAT_ABOVE q * 2 + s.rd F.BRN_STAT_EMPTY q,
    s.rd F.BRN_FREE_WORDS q, s.rd F.BRN_FILL_WORDS q, s.rd F.BRN_NOTE_ACK q * 256 + s.rd F.BRN_NOTE_XCNT q]

end Sys2Proof.Machine
end

