-- ==== Sys2Proof/Machine/Flume.lean ====
section
/-! DEFINITION. Flume lanes: frames and messages, out-lane and in-lane states, latency measurement (R245 to R266). -/

namespace Sys2Proof.Machine

def ilOf (s : State) (n : Nat) : ILane := (tabGet s.ils n).getD ILane.fresh

def setIl (n : Nat) (v : ILane) (s : State) : State := { s with ils := tabSet ILane.fresh s.ils n v }

/-! ### State codes (R257, R261) -/

def olOff : Nat := 0
def olTrain : Nat := 1
def olRun : Nat := 2
def olHold : Nat := 3
def olClosing : Nat := 4
def olSt (s : State) (n : Nat) : Nat := s.rd F.FLM_OL_STAT_STATE n

def ilOff : Nat := 0
def ilAcquire : Nat := 1
def ilMeasure : Nat := 2
def ilRun : Nat := 3
def ilLost : Nat := 4
def ilIsolated : Nat := 5
def ilSt (s : State) (n : Nat) : Nat := s.rd F.FLM_IL_STAT_STATE n

/-! ### Frames (R246, R250 to R253) -/

/-- Chain time of the present tick in whole ticks. -/
def ctTicks (s : State) : Nat := s.rd F.GLB_CT_TICKS 0

/-- Index of the frame assembled in this tick in its superframe (R246). -/
def olFrame (s : State) (n : Nat) : Nat := ctTicks s / pSlot s n % 66

/-- A frame is assembled in this tick. -/
def olDue (s : State) (n : Nat) : Bool := ctTicks s % pSlot s n == 0

/-- The message of the superframe whose frame 0 has chain time `ct` (R253). -/
def olMsg (s : State) (n ct : Nat) : Nat :=
  let st := olSt s n
  let order := if st == olTrain then 1 else if st == olClosing then 2 else s.rd F.FLM_OL_CTL_ORDER n
  let o := olOf s n
  order + ct * 2 ^ 8 + o.valid * 2 ^ 72 + o.dbl * 2 ^ 88 + n * 2 ^ 96 + s.rd F.GLB_ADDR_ADDR 0 * 2 ^ 100
    + s.rd F.FLM_OL_HCFG_HCFG n * 2 ^ 128

/-- One step of the CRC of R252 over a content bit. -/
def crc32Bit (c : Nat) (b : Nat) : Nat := if (c ^^^ b) % 2 == 1 then (c / 2) ^^^ 0xEDB88320 else c / 2

/-- The CRC over the low `n` bits of a number, lowest first. -/
def crc32Bits (v : Nat) : Nat → Nat → Nat
  | 0, c => c
  | n + 1, c => crc32Bits (v / 2) n (crc32Bit c (v % 2))

/-- CRC-32 of IEEE 802.3 over `n` bits (R252). -/
def crc32 (v n : Nat) : Nat := crc32Bits v n 0xFFFFFFFF ^^^ 0xFFFFFFFF

/-- Content bits 0 to 571 of a frame (R250). -/
def frameBits (seq ctLo cmd a b : Nat) (slots : List Nat) : Nat :=
  seq + ctLo * 2 ^ 16 + cmd * 2 ^ 24 + a * 2 ^ 28 + b * 2 ^ 44 +
    ((List.range 16).zip slots).foldl (fun v e => v + e.2 * 2 ^ (60 + 32 * e.1)) 0

/-- An out-lane assembles and sends its frame of this tick (R251). -/
def olSend (n : Nat) (s : State) : State :=
  let st := olSt s n
  if st == olOff || !olDue s n || (olOf s n).lastT == some s.now then s
  else
    let j := olFrame s n
    let p := pSlot s n
    let ct0 := uns 64 ((s.ct : Int) - 256 * ((j * p : Nat) : Int))
    let o := olOf s n
    let fresh := j == 0 || o.lastT.isNone
    let msg := if fresh then olMsg s n ct0 else o.msg
    let hold := st == olHold
    let cmd := msg / 2 ^ (3 * j) % 8 + 8 * b2n hold
    let mark := if s.on F.FLM_OL_CTL_MARK_EN n then s.rd F.PLY_MARK_OUT (s.rd F.FLM_OL_CTL_MPLAYER n) else 0
    let slots := (List.range 16).map (fun m => (tabGet o.slots m).getD 0)
    let ctLo := ctTicks s / p % 256
    let crc := crc32 (frameBits o.seq ctLo cmd o.pat mark slots) 572
    let whole := if j == 0 then !hold || s.on F.CLK_STAT_FLUME_LOCK 0 else o.whole
    let o1 := { o with
      seq := (o.seq + 1) % 65536, msg := msg, lastT := some s.now, holds := if hold then o.holds + 1 else o.holds
      whole := if j == 65 then false else whole
      sf := if j == 65 && whole then o.sf + 1 else o.sf
      sent := if j == 0 then ((s.ct, 4 * s.now + s.rd F.FLM_OL_LAT_LAT n) :: o.sent).take 4 else o.sent }
    let s1 := setOl n o1 ((s.wr F.FLM_OL_EVT_SEQ n o.seq).tally F.FLM_OL_FRAMES_COUNT n)
    { s1 with out := s1.out ++ [Out.frame n o.seq ctLo cmd o.pat mark slots crc] }

/-! ### Out-lane states (R257, R258) -/

/-- An out-lane enters a state: its superframes there are counted anew. -/
def olTo (n st : Nat) (s : State) : State :=
  setOl n { olOf s n with sf := 0, whole := false, holds := 0 } (s.wr F.FLM_OL_STAT_STATE n st)

/-- Channels that hold an out-lane as destination. -/
def olUsed (s : State) (n : Nat) : Bool :=
  (List.range 256).any (fun c => chnHolds s c && (dKind (chnOf s c).dest == 1 || dKind (chnOf s c).dest == 4) && dUnit (chnOf s c).dest == n)

/-- At a lane's enable the slots of channels that are ON or ramping on it, which a closing on a parity mismatch leaves so, are assigned and
carry their latest words; those of other channels carry 0 until one is assigned (R251, R253; assumption 86: DEDUCED). -/
def olAssigned (n : Nat) (s : State) : State :=
  (List.range 256).foldl (fun t c =>
    let h := chnOf t c
    if chnHolds t c && dUnit h.dest == n && (dKind h.dest == 1 || dKind h.dest == 4) then
      let t1 := laneAssign h.dest t
      let o := olOf t1 n
      if dKind h.dest == 4 then setOl n { o with pat := h.word % 65536 } t1
      else setOl n { o with slots := tabPut o.slots (dSlot h.dest) h.word } t1
    else t) (setOl n OLane.fresh s)

/-- A write of an out-lane's enable: whether it is ignored and flagged CFG_ENABLED, and the state (R257, R258). -/
def olEnable (par : Bool) (n : Nat) (en : Bool) (s : State) : Bool × State :=
  if en then
    if s.on F.FLM_OL_CTL_EN n then (false, s)
    else
      let c := if s.rd F.FLM_OL_CTL_RATE n == 3 then 1 else if par || olSt s n == olClosing then 2 else 0
      if c != 0 then (false, s.wrs [(F.FLM_OL_STAT_CFG_BAD, n, 1), (F.FLM_OL_STAT_ENCAUSE, n, c)])
      else (false, olTo n olTrain (olAssigned n (s.wrs [(F.FLM_OL_CTL_EN, n, 1), (F.FLM_OL_STAT_CFG_BAD, n, 0),
        (F.FLM_OL_STAT_ENCAUSE, n, 0), (F.FLM_OL_STAT_HCAUSE, n, 0)])))
  else if s.on F.FLM_OL_CTL_EN n then
    if olUsed s n || (List.range 8).any (fun i => s.on F.FLM_IL_CTL_EN i && s.rd F.FLM_IL_CTL_COMP i == n) then (true, s)
    else (false, olTo n olClosing (s.wr F.FLM_OL_CTL_EN n 0))
  else (false, s)

/-- An out-lane enters SAFE by closing (R426). -/
def olSafe (n : Nat) (s : State) : State :=
  let t := olSt s n
  let s1 := s.wr F.FLM_OL_CTL_EN n 0
  if t == olOff || t == olClosing then s1 else olTo n olClosing s1

/-- A reference switch (1) or a CT step (2) takes an out-lane into HOLD (R257, R264). -/
def olHoldEnter (cause n : Nat) (s : State) : State :=
  let t := olSt s n
  if t == olTrain || t == olRun then
    (olTo n olHold (s.bump F.FLM_OL_EVT_HOLDS n)).wr F.FLM_OL_STAT_HCAUSE n cause
  else if t == olHold then (setOl n { olOf s n with sf := 0, whole := false, holds := 0 } s).wr F.FLM_OL_STAT_HCAUSE n cause
  else s

def olHoldAll (cause : Nat) (s : State) : State := (List.range 16).foldl (fun t n => olHoldEnter cause n t) s

/-- A CT step holds the lanes whose superframe it does not divide (R257). -/
def olCtStep (step : Int) (s : State) : State :=
  (List.range 16).foldl (fun t n =>
    if step % ((256 * 66 * pSlot t n : Nat) : Int) = 0 then t else olHoldEnter 2 n t) s

/-- TRAIN ends after TRAIN_SF superframes. -/
def olTrainDone (n : Nat) (s : State) : State :=
  if olSt s n == olTrain && decide (s.rd F.FLM_OL_CTL_TRAIN_SF n ≤ (olOf s n).sf) then olTo n olRun s else s

/-- HOLD ends once the section is locked and a whole superframe has been sent with HOLD = 1. -/
def olHoldExit (n : Nat) (s : State) : State :=
  if olSt s n == olHold && s.on F.CLK_STAT_FLUME_LOCK 0 && decide (1 ≤ (olOf s n).sf) then olTo n olRun s else s

/-- CLOSING ends after two superframes. -/
def olClosed (n : Nat) (s : State) : State :=
  if olSt s n == olClosing && decide (2 ≤ (olOf s n).sf) then olTo n olOff s else s

/-- The fourth HOLD frame of every out-lane in HOLD has been sent (R366). -/
def olFourHeld (s : State) : Bool := (List.range 16).all (fun n => olSt s n != olHold || decide (4 ≤ (olOf s n).holds))

/-! ### In-lane states and frames (R254 to R256, R261 to R263, R266) -/

/-- The companion of an in-lane. -/
def ilComp (s : State) (n : Nat) : Nat := s.rd F.FLM_IL_CTL_COMP n

/-- Whether an enabled capture unit, demodulator or learning lane takes its source from an in-lane. -/
def ilUsed (s : State) (n : Nat) : Bool :=
  (List.range 32).any (fun u => s.on F.CAP_CTL_EN u && capKind s u == 0 && capUnit s u == n)
    || (List.range 16).any (fun d => s.on F.DMD_CTL_EN d && s.rd F.DMD_CTL_IN_KIND d == 1 && s.rd F.DMD_CTL_IN_UNIT d / 16 == n)
    || (lanesOn s).any (fun l => s.rd F.REF_SRC_KIND l == 0 && s.rd F.REF_SRC_UNIT l == n)

/-- The lowest cause of R266, 0 for none. -/
def ilCause (par : Bool) (n : Nat) (s : State) : Nat :=
  let c := ilComp s n
  if s.rd F.FLM_IL_CTL_RATE n == 3 then 1
  else if !s.on F.FLM_OL_CTL_EN c || s.rd F.FLM_OL_CTL_RATE c != s.rd F.FLM_IL_CTL_RATE n then 2
  else if (List.range 8).any (fun i => i != n && s.on F.FLM_IL_CTL_EN i && ilComp s i == c) then 3
  else if par then 4 else 0

/-- An in-lane enters a state in which it delivers no words; demodulators follow its availability. -/
def ilTo (n st : Nat) (s : State) : State :=
  (List.range 16).foldl (fun t d =>
    if t.on F.DMD_CTL_EN d && t.rd F.DMD_CTL_IN_KIND d == 1 && t.rd F.DMD_CTL_IN_UNIT d / 16 == n then dmdSync d t else t)
    (s.wr F.FLM_IL_STAT_STATE n st)

/-- A write of an in-lane's enable: whether it is ignored and flagged CFG_ENABLED, and the state (R261, R266). -/
def ilEnable (par : Bool) (n : Nat) (en : Bool) (s : State) : Bool × State :=
  if en then
    if s.on F.FLM_IL_CTL_EN n then (false, s)
    else
      let c := ilCause par n s
      if c != 0 then (false, s.wrs [(F.FLM_IL_STAT_CFG_BAD, n, 1), (F.FLM_IL_STAT_ENCAUSE, n, c)])
      else (false, ilTo n ilAcquire (setIl n ILane.fresh (s.wrs [(F.FLM_IL_CTL_EN, n, 1), (F.FLM_IL_STAT_CFG_BAD, n, 0),
        (F.FLM_IL_STAT_ENCAUSE, n, 0), (F.FLM_IL_STAT_DRIFT, n, 0), (F.FLM_IL_STAT_LOOPING, n, 0)])))
  else if s.on F.FLM_IL_CTL_EN n then
    if ilUsed s n then (true, s) else (false, ilTo n ilOff (setIl n ILane.fresh (s.wr F.FLM_IL_CTL_EN n 0)))
  else (false, s)

/-- An in-lane enters SAFE: OFF (R426). -/
def ilSafe (n : Nat) (s : State) : State := ilTo n ilOff (setIl n ILane.fresh (s.wr F.FLM_IL_CTL_EN n 0))

/-- The words of a frame reach their users in RUN: ball time by λ (R163, R261, R263). -/
def ilDeliver (n : Nat) (bad : Bool) (words : List Nat) (s : State) : State :=
  let lam := s.rd F.FLM_IL_LAT_LAMBDA n
  let b := ballTick s.now lam
  let ct := ballCt s s.now lam
  ((List.range 16).zip words).foldl (fun t e =>
    let m := e.1
    let x := sgn 32 e.2
    let t1 := (List.range 16).foldl (fun z d =>
      if z.on F.DMD_CTL_EN d && z.rd F.DMD_CTL_IN_KIND d == 1 && z.rd F.DMD_CTL_IN_UNIT d == 16 * n + m then dmdFeed d b ct x false z else z) t
    (List.range 32).foldl (fun z u =>
      if z.on F.CAP_CTL_EN u && capKind z u == 0 && capUnit z u == n && memN (capMembers z u) m then capPart u b m b ct [e.2] bad none z
      else z) (pushMeas 0 n m b x t1)) s

/-- One sync header in the count of block lock: 64 consecutive valid headers to lock, 16 invalid within 64 to lose it (R248). -/
def ilBlock (h : Nat) (k : ILock) : ILock :=
  let bad := h == 0 || h == 3
  if k.blk then
    if 16 ≤ k.bad + b2n bad then { ILock.fresh with hbad := bad, had := k.had }
    else if k.n + 1 == 64 then { k with n := 0, bad := 0, hbad := bad }
    else { k with n := k.n + 1, bad := k.bad + b2n bad, hbad := bad }
  else if bad then { k with n := 0, hbad := bad }
  else if k.n + 1 == 64 then { k with blk := true, n := 0, bad := 0, hbad := bad }
  else { k with n := k.n + 1, hbad := bad }

/-- One sync header in block lock: superframe lock by three reference headers 625 blocks apart, lost by two missing from their place in a
row (R248). -/
def ilSuper (h : Nat) (k : ILock) : ILock :=
  let d := k.pos + 1
  if !k.blk then k
  else if k.sf then
    if d == 625 then
      if h == 2 then { k with pos := 0, miss := 0 }
      else if k.miss == 1 then { k with sf := false, seen := 0, miss := 0, pos := 0 }
      else { k with pos := 0, miss := 1 }
    else { k with pos := d }
  else if h == 2 then
    if k.seen != 0 && d == 625 then
      (if k.seen + 1 == 3 then { k with pos := 0, seen := 0, sf := true, miss := 0, had := true } else { k with pos := 0, seen := k.seen + 1 })
    else { k with pos := 0, seen := 1 }
  else { k with pos := d }

/-- The sync headers of a window in the order of their blocks (R247, R248). -/
def ilHeaders (hs : List Nat) (k : ILock) : ILock := hs.foldl (fun z h => ilSuper h (ilBlock h z)) k

/-- A block that overlaps a window's content has an invalid header: one that begins in the window, or the one before it, which reaches in
unless the window begins with a superframe's first block (R263). -/
def ilInvalid (hs : List Nat) (k : ILock) : Bool :=
  hs.any (fun h => h == 0 || h == 3) || (k.hbad && hs.headD 0 != 2)

/-- A received frame (R250): the sync headers of its window, its fields. -/
structure IFrame where
  hdrs : List Nat
  seq : Nat
  ctLo : Nat
  stat : Nat
  hsa : Nat
  hsb : Nat
  slots : List Nat
  crc : Nat

/-- The sixteen words of a frame. -/
def IFrame.words (f : IFrame) : List Nat := ((f.slots ++ List.replicate 16 0).take 16).map (· % 2 ^ 32)

/-- Whether a frame's window was received in superframe lock with valid headers, and its CRC matches (R252, R263). -/
def ilSound (f : IFrame) (k : ILock) : Bool :=
  (ilHeaders f.hdrs k).sf && !ilInvalid f.hdrs k
    && crc32 (frameBits (f.seq % 65536) (f.ctLo % 256) (f.stat % 16) (f.hsa % 65536) (f.hsb % 65536) f.words) 572 == f.crc

/-- A frame's place in its superframe, and the message as far as it has come: bits of STAT of 66 frames that were all good (R255). -/
def ilAssemble (stat : Nat) (hs : Nat) (good : Bool) (v : ILane) : ILane :=
  let j := if v.lock.pos < hs then 0 else v.j + 1
  let bits := (if j == 0 then 0 else v.bits) + stat % 8 * 2 ^ (3 * j)
  let ok := good && (j == 0 || v.sfOk)
  { v with j := j, bits := bits, sfOk := ok, msg := if j == 65 then (if ok then some bits else none) else v.msg }

/-- A window arrives (R248, R250, R263). Before the receiver has held superframe lock it knows no frames. -/
def ilFrame (n : Nat) (f : IFrame) (s : State) : State :=
  let st := ilSt s n
  if st == ilOff || st == ilIsolated || st == ilLost then s
  else
    let v0 := ilOf s n
    let ok := ilSound f v0.lock
    let v := { v0 with lock := ilHeaders f.hdrs v0.lock }
    let mis := ok && (match v.ctLo with | some c => f.ctLo % 256 != (c + v.since + 1) % 256 | none => false)
    if !v.lock.had then setIl n v s
    else if ok && !mis then
      let gap := v.ctLo.isSome && f.seq % 65536 != (v.seq + 1) % 65536
      let s1 := setIl n (ilAssemble f.stat f.hdrs.length true
        { v with bad := 0, since := 0, ctLo := some (f.ctLo % 256), seq := f.seq % 65536, words := f.words }) s
      let s2 := (s1.wrs [(F.FLM_IL_HS_HSA, n, f.hsa), (F.FLM_IL_HS_HSB, n, f.hsb)]).tally F.FLM_IL_FRAMES_COUNT n
      let s3 := if gap then s2.bump F.FLM_IL_ERR_SEQGAP n else s2
      if st == ilRun then ilDeliver n false f.words s3 else s3
    else
      let s1 := setIl n (ilAssemble f.stat f.hdrs.length false { v with bad := v.bad + 1, since := v.since + 1 }) s
      let s2 := if mis then s1.bump F.FLM_IL_ERR_CTMIS n else s1.bump F.FLM_IL_ERR_CRC n
      if st == ilRun then ilDeliver n true v.words s2 else s2

/-- Half the mean path of sixteen round trips, in quarter ticks (R262). -/
def ilProp (s : State) (n sum16 : Nat) : Int :=
  let tq := s.rd F.FLM_IL_HEAD_TURN n * 4 * pSlot s (ilComp s n)
  ((625 * (sum16 : Int) - 16 * (tq : Int)) + 10000) / 20000

/-- The message that a whole superframe of good frames carried, which the row names, is taken; `arrival` is the quarter tick in which window 0 of its superframe
reached the ball (R255, R261 to R263). -/
def ilMessage (n msg arrival : Nat) (s : State) : State :=
  let st := ilSt s n
  let v := ilOf s n
  let s0 := setIl n { v with msg := none } s
  if st == ilOff || st == ilIsolated || st == ilLost || !v.lock.sf || v.msg != some msg then s
  else
    let echo := bitsOf msg 71 8
    match (olOf s (ilComp s n)).sent.find? (fun e => e.1 == echo) with
    | none => s0.bump F.FLM_IL_ERR2_ECHO n
    | some e =>
      let turn := bitsOf msg 87 72
      let samp := bitsOf msg 103 88
      let moved := v.seen && (turn != s.rd F.FLM_IL_HEAD_TURN n || samp != s.rd F.FLM_IL_HEAD_SAMP n)
      let rt := arrival - e.2
      let s1 := s0.wrs [(F.FLM_IL_HEAD_TURN, n, turn), (F.FLM_IL_HEAD_SAMP, n, samp), (F.FLM_IL_HEADID_OUTLAT, n, bitsOf msg 119 104),
        (F.FLM_IL_HEADID_HEAD_ID, n, bitsOf msg 135 120), (F.FLM_IL_HDEF_HDEF, n, bitsOf msg 191 136),
        (F.FLM_IL_STAT_LOOPING, n, msg % 2), (F.FLM_IL_RT_RT, n, rt)]
      let s2 := if moved then (s1.wr F.FLM_IL_STAT_DRIFT n 1).bump F.FLM_IL_ERR2_DRIFTS n else s1
      let v2 := { ilOf s2 n with seen := true }
      if st == ilAcquire then ilTo n ilMeasure (setIl n { v2 with rts := [], drift := 0 } s2)
      else if st == ilMeasure then setIl n { v2 with rts := (rt :: v2.rts).take 16 } s2
      else
        let d := ilProp s2 n (16 * rt) - (s2.rd F.FLM_IL_RT_PROP n : Int)
        let k : Nat := if decide (4 < d) || decide (d < -4) then v2.drift + 1 else 0
        let s3 := setIl n { v2 with drift := k } s2
        if 16 ≤ k then s3.wr F.FLM_IL_STAT_DRIFT n 1 else s3

/-- Sixteen round trips fix λ (R262). -/
def ilMeasured (n : Nat) (s : State) : State :=
  let v := ilOf s n
  if ilSt s n == ilMeasure && v.rts.length == 16 then
    let prop := ilProp s n (v.rts.foldl (· + ·) 0)
    let sq := s.rd F.FLM_IL_HEAD_SAMP n * 4 * pSlot s (ilComp s n)
    let lam := (s.rd F.FLM_IL_LAT_RXPIPE n : Int) + prop + ((sq + 312) / 625 : Nat)
    ilTo n ilRun (setIl n { v with drift := 0, bad := 0, relock := false } ((s.wrI F.FLM_IL_LAT_LAMBDA n lam).wrI F.FLM_IL_RT_PROP n prop |>.wr F.FLM_IL_STAT_DRIFT n 0))
  else s

/-- Sixty-four consecutive bad frames: LOST and at once ACQUIRE, or ISOLATED on the eighth loss within a second (R261). -/
def ilLoss (n : Nat) (s : State) : State :=
  let v := ilOf s n
  if ilSt s n == ilRun && decide (64 ≤ v.bad) then
    let recent := (s.now :: v.losses).filter (fun t => decide (s.now < t + secTicks 1))
    let s1 := logEvent (srcInLane n) 0x48 0 0 0 (s.bump F.FLM_IL_ERR2_LOSSES n)
    if 8 ≤ recent.length then
      ilTo n ilIsolated (setIl n { ILane.fresh with losses := recent }
        (logEvent (srcInLane n) 0x49 0 0 0 (s1.bump F.FLM_IL_ERR2_ISOLATIONS n)))
    else ilTo n ilAcquire (setIl n { ILane.fresh with lock := v.lock, losses := recent, seen := v.seen, relock := true } s1)
  else s

/-- REMEASURE, and the return to MEASURE after a cupping step (R262, R370). -/
def ilRemeasure (n : Nat) (s : State) : State :=
  if ilSt s n == ilRun then ilTo n ilMeasure (setIl n { ilOf s n with rts := [] } s) else s

/-- CLR of an in-lane. -/
def ilClear (n : Nat) (s : State) : State :=
  s.wrs [(F.FLM_IL_ERR_CRC, n, 0), (F.FLM_IL_ERR_SEQGAP, n, 0), (F.FLM_IL_ERR_CTMIS, n, 0), (F.FLM_IL_ERR2_LOSSES, n, 0),
    (F.FLM_IL_ERR2_ECHO, n, 0), (F.FLM_IL_ERR2_DRIFTS, n, 0), (F.FLM_IL_ERR2_ISOLATIONS, n, 0)]

end Sys2Proof.Machine
end

