-- ==== Sys2Proof/Machine/Nvm.lean ====
section
/-! DEFINITION. NVM: slots and their generations, operations in order, the audit ring (R373 to R377, R387 to R390, R424). -/

namespace Sys2Proof.Machine

/-! ### Slots (R374): pairs are numbered 0 calibration, 2 shelf, 4 boot records, as `NVM_GEN` counts them -/

def genOf (s : State) (i : Nat) : Nat := s.nvm.gens.getD i 0

def setNvm (f : Nvm → Nvm) (s : State) : State := { s with nvm := f s.nvm }

/-- The registers that show NVM: generations and validity. -/
def nvmShow (s : State) : State :=
  (List.range 6).foldl (fun t i => t.wr F.NVM_GEN_GEN i (genOf t i)) (s.wr F.NVM_STAT_VALID 0 s.nvm.valid)

/-- Bit of `NVM_STAT.VALID` of slot `i` of `NVM_GEN`'s numbering (boot records have none). -/
def validBit (i : Nat) : Nat := if i < 4 then 2 ^ (i + 2) else 0

/-- A slot becomes valid with a generation, or invalid (generation 0). -/
def setGen (i g : Nat) (s : State) : State :=
  let b := validBit i
  let v := s.nvm.valid - (if b != 0 && bitOf s.nvm.valid (i + 2) then b else 0)
  nvmShow (setNvm (fun n => { n with
    gens := n.gens.set i g
    valid := if g == 0 then v else v + b
    broken := if g == 0 then n.broken else n.broken - (n.broken &&& b) }) s)

/-- The newer valid slot of a pair: 0 or 1. -/
def nvNewer (s : State) (g : Nat) : Option Nat :=
  let a := genOf s g
  let b := genOf s (g + 1)
  if a == 0 && b == 0 then none
  else if a == 0 then some 1
  else if b == 0 then some 0
  else if decide (0 < serial 32 a b) then some 0 else some 1

/-- The slot that a store targets, and the generation it takes. -/
def nvTarget (s : State) (g : Nat) : Nat × Nat :=
  match nvNewer s g with
  | none => (0, 1)
  | some i => (1 - i, (genOf s (g + i) + 1) % 2 ^ 32)

/-- The slot named by the newer valid boot record, and its locks (R376). -/
def bootRec (s : State) : Nat × Bool × Bool :=
  match nvNewer s 4 with
  | none => (0, false, false)
  | some i => (tabGet s.nvm.boots i).getD (0, false, false)

/-! ### Operations (R375) -/

def opCode : NvmOp → Nat
  | .cal _ _ => 1
  | .shelf _ => 2
  | .pin _ _ => 3
  | .unpin _ _ => 3
  | .fwWrite _ _ _ => 4
  | .boot _ _ _ _ => 5
  | .erase _ => 6

/-- The pair that a store writes. -/
def opPair : NvmOp → Option Nat
  | .cal _ _ => some 0
  | .shelf _ => some 2
  | .boot _ _ _ _ => some 4
  | _ => none

/-- The first operation begins; a store first erases its target. -/
def nvmBegin (s : State) : State :=
  match s.nvm.ops with
  | [] => s.wrs [(F.NVM_STAT_OP, 0, 0), (F.NVM_STAT_BUSY, 0, 0)]
  | op :: _ =>
    if s.on F.PWR_STAT_PF 0 then s
    else
      let s1 := s.wrs [(F.NVM_STAT_OP, 0, opCode op), (F.NVM_STAT_BUSY, 0, 1)]
      match opPair op with
      | none => s1
      | some g => setGen (g + (nvTarget s1 g).1) 0 s1

/-- An operation is requested: operations run one at a time, in order. -/
def nvmPush (op : NvmOp) (s : State) : State :=
  let s1 := setNvm (fun n => { n with ops := n.ops ++ [op] }) s
  if s.nvm.ops.isEmpty then nvmBegin s1 else s1

/-- The first operation ends and the next begins. -/
def nvmDrop (s : State) : State :=
  nvmBegin ((setNvm (fun n => { n with ops := n.ops.drop 1 }) s).wrs [(F.NVM_STAT_OP, 0, 0), (F.NVM_STAT_BUSY, 0, 0)])

/-- Operations of a kind are taken out; one in progress is cut short, its target invalid (R374, R375). -/
def nvmCut (p : NvmOp → Bool) (s : State) : State :=
  match s.nvm.ops with
  | [] => s
  | op :: _ =>
    let s1 := setNvm (fun n => { n with ops := n.ops.filter (fun o => !p o) }) s
    if p op && s.on F.NVM_STAT_BUSY 0 then
      let s2 := match opPair op with
        | some g => if g == 4 then s1 else setNvm (fun n => { n with broken := n.broken ||| validBit (g + (nvTarget s1 g).1) }) s1
        | none => s1
      nvmBegin ((s2.bump F.NVM_ERR_ABANDONED 0).wrs [(F.NVM_STAT_OP, 0, 0), (F.NVM_STAT_BUSY, 0, 0)])
    else s1

def isShelfOp : NvmOp → Bool
  | .shelf _ => true
  | _ => false

def isCupStore : NvmOp → Bool
  | .cal none _ => true
  | _ => false

/-! ### Images -/

/-- Whether a field is part of the shelf image (R47): CFG and LIVE. -/
def shelfCls (f : Fld) : Bool := f.cls == .cfg || f.cls == .live

/-- Whether a run of units holds an address. -/
def Blk.holds (b : Blk) (a : Nat) : Bool :=
  decide (b.base ≤ a) && decide ((a - b.base) / b.stride < b.count)

/-- The row of an address (the low word of a pair): run, unit, row. -/
def regAt (a : Nat) : Option (Blk × Nat × Row) :=
  blks.findSome? (fun b =>
    if b.holds a then
      let u := (a - b.base) / b.stride
      let off := (a - b.base) % b.stride
      (b.rows.find? (fun r => r.off == off)).map (fun r => (b, u, r))
    else none)

/-- The field that a key of the store names, and its unit. -/
def fldAt (key : Nat) : Option (Fld × Nat) :=
  match regAt (key / 64) with
  | none => none
  | some (_, u, r) => (r.flds.find? (fun f => f.lo == key % 64)).map (fun f => (f, u))

/-- Every CFG and LIVE field that differs from its reset value. -/
def shelfImage (s : State) (id : Nat) : ShelfImg :=
  ⟨s.flds.filter (fun e => match fldAt e.1 with | some (f, _) => shelfCls f | none => false), id⟩

/-- Fields of the calibration slot: `CUP_BYP`, `CUP_TEMP`, `CNV_ADC_LAT`, `FLM_OL_LAT`, `RXPIPE`, `RAKE_P_SKEW` (R370). -/
def calFlds : List (Fld × Nat) :=
  [(F.CUP_BYP_B, 0), (F.CUP_TEMP_TEMP, 0)] ++ (List.range 8).map (fun i => (F.CNV_ADC_LAT_LAT, i))
    ++ (List.range 16).map (fun n => (F.FLM_OL_LAT_LAT, n)) ++ (List.range 8).map (fun n => (F.FLM_IL_LAT_RXPIPE, n))
    ++ (List.range 4).map (fun n => (F.RAKE_P_SKEW_RX, n)) ++ (List.range 4).map (fun n => (F.RAKE_P_SKEW_TX, n))

def calImage (s : State) : CalImg :=
  ⟨calFlds.foldl (fun t e => tabPut t (e.1.key e.2) (s.rd e.1 e.2)) [], s.cal, s.car.delays⟩

/-- Calibration read at boot from a slot's body. -/
def calApply (c : CalImg) (s : State) : State :=
  calFlds.foldl (fun t e => match tabGet c.flds (e.1.key e.2) with | some v => t.wr e.1 e.2 v | none => t)
    { s with cal := c.cal, car := { s.car with delays := c.delays } }

/-! ### The shelf store (R47) -/

/-- A successful commit stages its image and starts a shelf store, or leaves it to the end of the present one. -/
def shelfStore (id : Nat) (s : State) : State :=
  let img := shelfImage s id
  let s1 := setNvm (fun n => { n with staged := some img, since := n.since ++ [id] }) s
  if s1.on F.GLB_BATCH_STORING 0 then setNvm (fun n => { n with again := true }) s1
  else nvmPush (.shelf img) (s1.wr F.GLB_BATCH_STORING 0 1)

/-- A shelf store in progress is abandoned (R352, R354). -/
def shelfAbandon (s : State) : State :=
  if s.on F.GLB_BATCH_STORING 0 then
    (setNvm (fun n => { n with again := false }) (nvmCut isShelfOp s)).wr F.GLB_BATCH_STORING 0 0
  else s

/-- A job's origin, source and tag for an audit entry. -/
def jobWho (s : State) (j : Option Nat) : Nat × Nat × Nat :=
  match j.bind (jobOf s) with
  | some b => (b.org, b.src, b.tag)
  | none => (6, 0, 0)

/-- An audit entry for a job (R386). -/
def auditJob (kind : Nat) (j : Option Nat) (per : List Nat) (s : State) : State :=
  let w := jobWho s j
  audit kind (w.1 == 5) false (if w.1 == 5 then w.2.1 else 0) w.1 w.2.2 0 0 per s

/-- A store has been programmed and read back (R374, R377, R47). -/
def storeDone (s : State) : State :=
  match s.nvm.ops with
  | .cal j img :: _ =>
    let t := nvTarget s 0
    let s1 := setGen t.1 t.2 (setNvm (fun n => { n with cals := tabPut n.cals t.1 img }) s)
    let s2 := if j.isSome then auditJob 4 j [1, t.2] s1 else s1
    nvmDrop (completeOpt j stOk 0 [t.2] s2)
  | .shelf img :: _ =>
    let t := nvTarget s 2
    let s1 := setGen (2 + t.1) t.2 (setNvm (fun n => { n with
      shelves := tabPut n.shelves t.1 img, since := (n.since.dropWhile (· != img.id)).drop 1 }) s)
    let s2 := nvmDrop s1
    if s2.nvm.again then
      match s2.nvm.staged with
      | some i => nvmPush (.shelf i) (setNvm (fun n => { n with again := false }) s2)
      | none => s2.wr F.GLB_BATCH_STORING 0 0
    else s2.wr F.GLB_BATCH_STORING 0 0
  | .boot j slot bl cl :: _ =>
    let t := nvTarget s 4
    let s1 := setGen (4 + t.1) t.2 (setNvm (fun n => { n with boots := tabPut n.boots t.1 (slot, bl, cl) }) s)
    let s2 := if j.isSome then auditJob 4 j [2, slot] s1 else s1
    nvmDrop (completeOpt j stOk 0 [] (s2.wr F.NVM_BOOT_NEXT 0 slot))
  | _ => s

/-- A boot record that keeps the present locks. -/
def bootOp (s : State) (j : Option Nat) (slot : Nat) : NvmOp :=
  let b := bootRec s
  .boot j slot b.2.1 b.2.2

/-- The first write of 1 to a lock register (R377). -/
def lockStore (cal : Bool) (s : State) : State :=
  let b := bootRec s
  nvmPush (.boot none b.1 (b.2.1 || !cal) (b.2.2 || cal)) s

/-- A calibration store; refused under the lock (R335, R377). -/
def calStore (j : Nat) (s : State) : Nat × State :=
  if s.on F.NVM_CAL_LOCK_LOCK 0 then (stLocked, s) else (stOk, nvmPush (.cal (some j) (calImage s)) s)

/-! ### Firmware slots (R376) -/

/-- The slot that did not boot. -/
def fwOther (s : State) : Nat := 1 - s.rd F.NVM_BOOT_ACTIVE 0

/-- `FW_WRITE`: the boot record is first moved off the slot; then the words are programmed. -/
def fwWrite (j off : Nat) (ws : List Nat) (s : State) : State :=
  let s1 := if (bootRec s).1 == fwOther s then nvmPush (bootOp s none (s.rd F.NVM_BOOT_ACTIVE 0)) s else s
  nvmPush (.fwWrite j off ws) s1

/-- The active slot is copied into Carafe (R11, R346, R354). -/
def fwLoad (s : State) : State :=
  let slot := s.rd F.NVM_BOOT_ACTIVE 0
  { s with fwImg := some ⟨bitOf s.nvm.fwBlank slot,
      (s.nvm.fw.filter (fun e => e.1 / 2 ^ 21 == slot)).map (fun e => (e.1 % 2 ^ 21, e.2))⟩ }

/-- The words of an `FW_WRITE` are programmed; a NOR program only clears bits, after an erase of the sector at a 64 KiB
boundary. The slot's image no longer passes its check unless a check says so. -/
def fwProgrammed (s : State) : State :=
  match s.nvm.ops with
  | .fwWrite j off ws :: _ =>
    let slot := fwOther s
    let base := slot * 2 ^ 21 + off / 4
    let fw0 := if off % 65536 == 0 then
        (List.range 16384).foldl (fun m i => tabPut m (base + i) 0xFFFFFFFF) s.nvm.fw else s.nvm.fw
    let fw1 := ((List.range ws.length).zip ws).foldl (fun m e =>
      let old := (tabGet m (base + e.1)).getD (fwWordOf (bitOf s.nvm.fwBlank slot) [] (off / 4 + e.1))
      tabPut m (base + e.1) (old &&& e.2)) fw0
    let v := s.nvm.valid
    let s1 := setNvm (fun n => { n with fw := fw1, valid := v - (if bitOf v slot then 2 ^ slot else 0) }) s
    nvmDrop (complete j stOk 0 [] (nvmShow s1))
  | _ => s

/-- `FW_ACTIVATE` begins its image check. -/
def fwActivate (j slot : Nat) (s : State) : Nat × State :=
  if s.on F.NVM_BOOT_LOCK_LOCK 0 then (stLocked, s)
  else (stOk, setNvm (fun n => { n with checks := n.checks ++ [(j, slot)] }) s)

/-- The image check of an `FW_ACTIVATE` ends: a boot record names the slot, or `BAD_PARAM` answers. -/
def fwChecked (ok : Bool) (s : State) : State :=
  match s.nvm.checks with
  | [] => s
  | (j, slot) :: rest =>
    let v := s.nvm.valid
    let had := bitOf v slot
    let v1 := if ok then (if had then v else v + 2 ^ slot) else if had then v - 2 ^ slot else v
    let s1 := nvmShow (setNvm (fun n => { n with checks := rest, valid := v1 }) s)
    if ok then nvmPush (bootOp s1 (some j) slot) s1
    else complete j stBadParam 0 [] (s1.bump F.NVM_ERR_CHECKFAIL 0)

/-! ### Erase (R373) -/

/-- An erase of the selected region ends. -/
def nvmErased (s : State) : State :=
  match s.nvm.ops with
  | .erase r :: _ =>
    let slot := fwOther s
    let s1 := setNvm (fun n =>
      if r == 1 then { n with audit := [] }
      else if r == 2 then { n with pins := [] }
      else if r == 3 then { n with
        fw := n.fw.filter (fun e => e.1 / 2 ^ 21 != slot)
        fwBlank := n.fwBlank ||| 2 ^ slot
        valid := n.valid - (if bitOf n.valid slot then 2 ^ slot else 0) }
      else n) s
    nvmDrop (nvmShow s1)
  | _ => s

/-! ### Pinned segments (R79, R424) -/

/-- Bytes that a segment takes in the pinned region. -/
def pinBytes (d : Seg) : Nat := segBytes d + 16 * d.markCount

/-- Bytes taken: by pinned segments and by copies in progress. -/
def pinUsed (s : State) : Nat :=
  s.nvm.pins.foldl (fun n p => n + pinBytes p.desc) 0 +
    s.segs.foldl (fun n e => match e.2.pin with | some (_, false) => n + pinBytes e.2 | _ => n) 0

/-- `SEG_PIN` without UNPIN: a status, and the copy begun. While a cancelled copy stops it is still in progress, and the answer is `BUSY`. On a
PINNED segment, of which R424 says nothing, the answer is `OK` and no copy starts (assumption 72). -/
def pinStart (i j : Nat) (s : State) : Nat × State :=
  let d := segOf s i
  if d.state == 0 then (stAbsent, s)
  else if d.state == 1 then (stBadParam, s)
  else match d.pin with
    | some _ => (stBusy, s)
    | none =>
      if d.state == 4 then (stOk, complete j stOk 0 (segWords d) s)
      else if 33554432 < pinUsed s + pinBytes d then (stNoMemory, s)
      else (stOk, nvmPush (.pin i j) (setSeg i { d with pin := some (j, false) } s))

/-- Whether an operation is the pin copy of a segment. -/
def isPinOf (i : Nat) : NvmOp → Bool
  | .pin k _ => k == i
  | _ => false

/-- `SEG_PIN` with UNPIN. -/
def unpinStart (i j : Nat) (s : State) : Nat × State :=
  let d := segOf s i
  if d.state == 0 then (stAbsent, s)
  else match d.pin with
    | some (k, false) =>
      let s1 := setSeg i { d with pin := none } s
      let s2 := setNvm (fun n => { n with ops := n.ops.filter (fun o => !isPinOf i o) }) s1
      let s3 := if (s.nvm.ops.head?.map (isPinOf i)).getD false then nvmBegin s2 else s2
      (stOk, setSeg i { d with pin := some (j, true) } (complete k stWrongMode 0x8002 (segWords d) s3))
    | some (_, true) => (stOk, complete j stOk 0 (segWords d) s)
    | none =>
      if d.state == 4 then (stOk, nvmPush (.unpin i j) s) else (stOk, complete j stOk 0 (segWords d) s)

/-- A pin copy completes: the segment is PINNED. -/
def pinDone (s : State) : State :=
  match s.nvm.ops with
  | .pin i j :: _ =>
    let d := segOf s i
    let d1 := { d with state := 4, pin := none }
    let p : Pinned := ⟨i, d1, s.carafe.filterMap (fun c =>
        if decide (d.base ≤ c.1) && decide (c.1 < d.base + segBytes d) then some (c.1 - d.base, c.2) else none),
      memRdWs s.carafe d.markBase (4 * d.markCount)⟩
    let s1 := setSeg i d1 (setNvm (fun n => { n with pins := n.pins.filter (fun q => q.seg != i) ++ [p] }) s)
    nvmDrop (complete j stOk 0 (segWords d1) s1)
  | _ => s

/-- An unpin completes: the directory is stored, or the cancelled copy has stopped; a repeated unpin finds nothing to do (R424). -/
def unpinDone (i : Nat) (s : State) : State :=
  let d := segOf s i
  match d.pin with
  | some (j, true) =>
    let d1 := { d with pin := none }
    complete j stOk 0 (segWords d1) (setSeg i d1 s)
  | _ =>
    match s.nvm.ops with
    | .unpin k j :: _ =>
      if k != i then s
      else if d.state != 4 then nvmDrop (complete j stOk 0 (segWords d) s)
      else
        let d1 := { d with state := if 0 < d.locks then 3 else 2 }
        nvmDrop (complete j stOk 0 (segWords d1)
          (setSeg i d1 (setNvm (fun n => { n with pins := n.pins.filter (fun q => q.seg != i) }) s)))
    | _ => s

/-- Pinned segments are restored to Carafe at their indices and former storage (R79). -/
def pinRestore (s : State) : State :=
  s.nvm.pins.foldl (fun t p =>
    let d := p.desc
    let mem := p.bytes.foldl (fun m c => memWr m (d.base + c.1) c.2) t.carafe
    let t1 := { t with carafe := memWrWs mem d.markBase p.marks }
    setSeg p.seg { d with state := 4, locks := 0, pin := none } t1) s

/-! ### The audit ring (R388 to R390) -/

/-- Entries that the budget admits, in units of one 160,000,000th of an entry. -/
def audBucket (s : State) : Nat := min (1024 * 160000000) (s.nvm.audLevel + 64 * (s.now - s.nvm.audTick))

/-- The backlog's status bits. -/
def audSync (s : State) : State :=
  let b := s.rd F.LOG_AUD_SEQ_AUDSEQ 0 != s.rd F.LOG_AUD_NVM_AUDSEQ 0
  let s1 := s.wrB F.LOG_AUD_STAT_BACKLOG 0 b
  if b then s1 else s1.wr F.LOG_AUD_STAT_FLUSHING 0 0

/-- The next backlogged entry is programmed, its sector erased before the first entry of the sector. -/
def audProgram (s : State) : State :=
  let n := s.rd F.LOG_AUD_NVM_AUDSEQ 0
  let lvl := audBucket s
  let free := s.on F.LOG_AUD_STAT_FLUSHING 0 || s.boot.shut.isSome
  if s.rd F.LOG_AUD_SEQ_AUDSEQ 0 == n || s.on F.PWR_STAT_PF 0 || !(free || decide (160000000 ≤ lvl)) then s
  else
    let k := n % 131072
    let old := if n % 1024 == 0 then s.nvm.audit.filter (fun e => decide (e.1 < k) || decide (k + 1024 ≤ e.1)) else s.nvm.audit
    let w := (tabGet s.audMirror k).getD []
    audSync ((setNvm (fun v => { v with
      audit := tabPut old k w, audLevel := lvl - (if free then 0 else 160000000), audTick := s.now }) s).wr F.LOG_AUD_NVM_AUDSEQ 0 (n + 1))

/-- `AUD_FLUSH`. -/
def audFlush (s : State) : State := audSync (s.wr F.LOG_AUD_STAT_FLUSHING 0 1)

/-- The mirror's rebuild from NVM ends. -/
def mirrorRebuilt (s : State) : State :=
  if s.on F.LOG_AUD_STAT_REBUILD 0 then
    let m := s.nvm.audit.foldl (fun t e => if (tabGet t e.1).isSome then t else tabPut t e.1 e.2) s.audMirror
    { s with audMirror := m }.wr F.LOG_AUD_STAT_REBUILD 0 0
  else s

/-- An audit entry that can be read: from the mirror, or from NVM while the rebuild has not reached it or where the mirror's unit reads
uncorrectable (R214, R390). -/
def audEntry (s : State) (q : Nat) : Option (List Nat) :=
  let k := q % 131072
  let ok (w : List Nat) : Bool := w.getD 1 0 == q && w.getD 15 0 == crc32c (w.take 15)
  let nvm := match tabGet s.nvm.audit k with | some w => if ok w then some w else none | none => none
  if carBad s (audMirrorBase + 64 * k) 64 then nvm
  else match tabGet s.audMirror k with
  | some w => if ok w then some w else none
  | none => if s.on F.LOG_AUD_STAT_REBUILD 0 then nvm else none

/-- The read of an audit entry's unit in the mirror (R214). -/
def audScanned (q : Nat) (s : State) : State := carScan 70 (audMirrorBase + 64 * (q % 131072)) 64 s

end Sys2Proof.Machine
end

