-- ==== Sys2Proof/Machine/Modes.lean ====
section
/-! DEFINITION. Device modes: the activity rule, entry into SAFE, HOLD, COAST and RECOVER, batches aborted, the fault
summary (R120, R339 to R345, R352 to R359). -/

namespace Sys2Proof.Machine

/-- The logic die runs: not without power, in reset or in SHELF. -/
def powered (s : State) : Bool := s.boot.stage != 1 && s.boot.stage != 2 && s.boot.stage != 12

/-- A mode is entered: counted, recorded, vector 49 (R300, R340, R381). -/
def modeTo (m : Nat) (s : State) : State :=
  let p := mode s
  if p == m then s
  else
    let s1 := (s.wrs [(F.GLB_MODE_PREV, 0, p), (F.GLB_MODE_MODE, 0, m)]).tally F.GLB_MODE_CHANGES 0
    msixRaise 49 (logEvent srcDevice 0x01 (p * 16 + m) (s1.rd F.GLB_MODE_CHANGES 0) 0 s1)

/-- The mode that R340's rule gives. -/
def activityOf (s : State) : Nat :=
  if (List.range 64).any (active s) then mdRun
  else if (List.range 64).any (fun p => pst s p == psArmed) then mdArmed else mdSetup

/-- What a transition to the activity mode enters (R345). -/
def activityTarget (s : State) : Nat := if s.on F.CLK_STAT_ON_STANDBY 0 then mdCoast else activityOf s

/-- The activity rule at the end of a tick. -/
def activityTick (s : State) : State :=
  let m := mode s
  if m == mdSetup || m == mdArmed || m == mdRun then modeTo (activityOf s) s else s

/-! ### Cupping abandoned (R343) -/

/-- Cupping ends without storing; its reply is WRONG_MODE (assumption 20). -/
def cupAbandon (s : State) : State :=
  match s.cup with
  | none => s
  | some c =>
    let s1 := nvmCut isCupStore { s with cup := none }
    let s2 := s1.wrs [(F.CUP_STAT_ABANDONED, 0, 1), (F.CUP_STAT_BUSY, 0, 0), (F.CUP_STAT_STEP, 0, 0), (F.CUP_CT_CT, 0, s1.ctEv),
      (F.GLB_MODE_TRANSIT, 0, if c.scope == 0 then 0 else s1.rd F.GLB_MODE_TRANSIT 0)]
    complete c.job stWrongMode 0 [] s2

/-! ### Batches aborted (R44, R45) -/

/-- The event record of an aborted batch. -/
def batchGone (why : Nat) (b : Batch) (s : State) : State := logEvent (srcOrigin b.org) 0x13 b.id why 0 s

/-- GLB_BATCH's counts of open and staged batches. -/
def batchSync (s : State) : State :=
  s.wrs [(F.GLB_BATCH_OPEN, 0, s.opens.length), (F.GLB_BATCH_STAGED, 0, s.staged.length)]

/-- Every open and staged batch is aborted; `answer` is the status of the staged ones' commits, none while RECOVER answers
them later. -/
def batchesAbort (answer : Option (Nat × Nat)) (s : State) : State :=
  let s1 := s.opens.foldl (fun t b => batchGone 3 b t) s
  let s2 := s.staged.foldl (fun t g =>
    let t1 := batchGone 3 g.batch t
    match answer with
    | some (st, d) => complete g.job st d [] t1
    | none => t1) s1
  batchSync { s2 with opens := [], staged := [] }

/-! ### SAFE (R119, R120, R343, R352) -/

/-- Whether a SAFE cause of R352 persists. -/
def safePersists (s : State) : Bool :=
  s.on F.PWR_STAT_PF 0 || s.on F.PWR_STAT_THERM 0 || s.on F.CAR_STAT_OVERTEMP 0
    || s.parBad.any (fun a => match regAt a with
        | some (b, _, _) => memN [0, 1, 2, 3, 8, 12, 13, 15, 16, 17, 18] b.grp
        | none => false)

/-- Every enabled player enters SAFE with cause 7. -/
def playersSafe (s : State) : State := (List.range 64).foldl (fun t p => plySafe p 7 0 t) s

/-- The tick in which what acts now takes effect. -/
def actTick (s : State) : Nat := if s.cmd then s.eff else s.now

/-- The device enters SAFE, from every mode that R342 lets it; RECOVER keeps the cause and ends in SAFE. -/
def safeEnter (s0 : State) : State :=
  let s := { s0 with safeAt := some (actTick s0) }
  let m := mode s
  if m == mdShelf || m == mdWake || m == mdTrain || m == mdRecover || m == mdSafe then s
  else
    let s1 := if m == mdCupping || s.cup.isSome then cupAbandon s else s
    let s2 := batchesAbort (some (stWrongMode, 0x8003)) (playersSafe s1)
    modeTo mdSafe s2

/-! ### HOLD (R120, R344) -/

/-- The players of R120 are held. -/
def playersHold (s : State) : State := (List.range 64).foldl (fun t p => if holdable t p then plyHold true p t else t) s

/-- HOLD is left: players that the mode held resume in tick `t`. -/
def playersResume (tick : Nat) (s : State) : State :=
  (List.range 64).foldl (fun t p => if pst t p == psHeld && t.on F.PLY_STATE_HELD_MODE p then plyResume tick p t else t) s

/-- A mode is entered from the present one; leaving HOLD resumes the players. -/
def modeGo (m : Nat) (s : State) : State :=
  let held := mode s == mdHold && m != mdHold
  let s1 := modeTo m s
  if held && m != mdSafe && m != mdRecover then playersResume (actTick s) s1 else s1

/-! ### RECOVER (R354 to R357) -/

/-- Requests that wait for their tick are void (R343): `WRONG_MODE`, result 1. -/
def asksVoid (s : State) : State :=
  s.asks.foldl (fun t a => completeOpt a.job stWrongMode 0 [] (t.wr F.GLB_MODE_REQ_RESULT 0 1)) { s with asks := [] }

/-- A RECOVER cause: 1 INTERNAL, 2 working store, 3 firmware pan, 4 watchdog. During RECOVER, or on the third entry in 600 s,
RECOVER will end in SERVICE. -/
def recoverEnter (cause : Nat) (s0 : State) : State :=
  if mode s0 == mdRecover then
    if s0.recov.service then s0
    else logEvent srcCp 0x0B 5 0 0 { s0 with recov := { s0.recov with service := true, cause := cause } }
  else if mode s0 == mdShelf || !powered s0 then s0
  else
    let s := asksVoid s0
    let es := (s.now :: s.recov.entries).filter (fun t => decide (s.now < t + secTicks 600))
    let s1 := cupAbandon { s with recov := { s.recov with
      stage := 1, cause := cause, jobs := s.jobs.map (·.id), service := decide (3 ≤ es.length), entries := es } }
    let s2 := batchesAbort none (playersSafe s1)
    let s3 := shelfAbandon s2
    let s4 := (modeTo mdRecover { s3 with wins := [], pool := [] }).wr F.GLB_MODE_TRANSIT 0 1
    if 3 ≤ es.length then logEvent srcCp 0x0B 5 0 0 s4 else s4

/-! ### The fault summary (R353, R359, R420, R426) -/

/-- A unit of group `g` stands in R426's SAFE. -/
def unitSafeIn (s : State) (g : Nat) : Bool :=
  s.unitSafe.any (fun a => match regAt a with | some (b, _, _) => b.grp == g | none => false)

/-- Bit `i` of BLOCK: a unit of the group is in SAFE or holds an active fault. A register with a detected mismatch is an
active fault of its group (DEDUCED). -/
def blockFault (s : State) (i : Nat) : Bool :=
  unitSafeIn s i || s.parBad.any (fun a => match regAt a with | some (b, _, _) => b.grp == i | none => false) ||
  (match i with
  | 2 => s.on F.CAR_STAT_OVERTEMP 0
  | 3 => s.on F.PAN_MBIST_STAT_FAIL 0
  | 5 => (List.range 64).any (fun p => pst s p == psSafe)
  | 6 => (List.range 256).any (fun c => s.rd F.CHN_STAT_STATE c == 2)
  | 14 => (List.range 8).any (fun l => laneSt s l == lsSafe)
  | 11 => (List.range 8).any (fun n => ilSt s n == ilIsolated)
  | 12 => (List.range 4).any (fun n => s.rd F.RAKE_P_STAT_STATE n == 5)
  | 18 => s.on F.PWR_STAT_PF 0 || s.on F.PWR_STAT_THERM 0
  | _ => false)

/-- `FAULT_N` is driven low (R359). -/
def faultLow (s : State) (block : Nat) : Bool :=
  let m := mode s
  powered s && (memN [mdWake, mdTrain, mdSafe, mdRecover] m || s.boot.stage != 0 || !s.parBad.isEmpty || block != 0)
    || (s.boot.stage == 12 && !s.on F.GLB_MODE_DEPTH 0) || s.boot.stage == 2

/-- The word that `GLB_FAULT_SUM` reads as. -/
def faultSumOf (s : State) : Nat :=
  let b := (List.range 19).foldl (fun n i => n + b2n (blockFault s i) * 2 ^ i) 0
  b2n (faultLow s b) * 2 ^ 31 + b2n (!s.parBad.isEmpty) * 2 ^ 30 + b

/-- The end of every command: the fault summary follows its causes, and a change raises vector 48 (R300). -/
def settle (s : State) : State :=
  let v := faultSumOf s
  if v == s.faultSum then s else { msixRaise 48 s with faultSum := v }

end Sys2Proof.Machine
end

