-- ==== Sys2Proof/Machine/Clocks.lean ====
section
/-! DEFINITION. The reference, its loss and its return, the standby switch and the walk (R345, R360 to R369). -/

namespace Sys2Proof.Machine

/-- The reference that SEL selects (R360): 0 REFIN, 1 RK_UP, 2 none that can be present. -/
def refSel (s : State) : Nat :=
  let follower := s.rd F.RAKE_STAT_ROLE_ACT 0 == 2 || s.rd F.RAKE_STAT_ROLE_ACT 0 == 3
  match s.rd F.CLK_REF_SEL 0 with
  | 0 => if follower then 1 else 0
  | 1 => 0
  | 2 => if follower then 1 else 2
  | _ => 2

/-- Whether the selected reference is present (R361). -/
def refPresent (s : State) : Bool :=
  match refSel s with
  | 0 => s.on F.CLK_STAT_REFIN_OK 0
  | 1 => s.on F.CLK_STAT_RKUP_OK 0
  | _ => false

/-- `CLK_PLL` of the sample PLL and of the Flume section follows the selection (R362). -/
def pllShow (s : State) : State :=
  let sel := refSel s
  let big := s.on F.CLK_REF_FREQ 0
  let p0 : Nat × Nat × Nat := if sel == 1 then (10, 6, 25) else if big then (25, 3, 5) else (256, 0, 1)
  let p3 : Nat × Nat × Nat :=
    if s.on F.CLK_STAT_ON_STANDBY 0 then (78, 1, 8) else if sel == 1 then (50, 0, 1) else if big then (125, 0, 1) else (1250, 0, 1)
  let b := sgn 32 (s.rd F.CUP_BYP_B 0)
  s.wrs [(F.CLK_PLL_N, 0, p0.1), (F.CLK_PLL_NUM, 0, p0.2.1), (F.CLK_PLL_DEN, 0, p0.2.2),
    (F.CLK_PLL_N, 3, p3.1), (F.CLK_PLL_NUM, 3, p3.2.1), (F.CLK_PLL_DEN, 3, p3.2.2),
    (F.CLK_PLL_N, 1, standbyRatio b / 2 ^ 24), (F.CLK_PLL_NUM, 1, standbyRatio b % 2 ^ 24)]

/-- A PLL has locked: where its ratio has a numerator, its dither generator loads the seed (R363). -/
def ditherLoad (x : Nat) (s : State) : State :=
  if s.rd F.CLK_PLL_NUM x == 0 then s
  else { s with clk := { s.clk with dither := tabPut s.clk.dither x (s.rd F.CLK_PLL_PLL_DSEED x) } }

/-- A move of the tick between its sources: every out-lane enters HOLD, the Flume section is to follow, a root sets
HOLD_STEER in this superframe and the next (R257, R366). -/
def tickMove (s : State) : State :=
  let sf := s.rd F.GLB_CT_TICKS 0 / 160
  let s1 := olHoldAll 1 { s with clk := { s.clk with flumeMove := true } }
  pllShow (if s1.rd F.RAKE_STAT_ROLE_ACT 0 == 1 then { s1 with rake := { s1.rake with steerSf := [sf, sf + 1] } } else s1)

/-- The Flume section's input moves once the fourth HOLD frame of every out-lane in HOLD has left (R366). -/
def flumeMoves (s : State) : State :=
  if s.clk.flumeMove && olFourHeld s then
    { s with clk := { s.clk with flumeMove := false } }.wr F.CLK_STAT_FLUME_LOCK 0 0
  else s

/-- The walk and the wait of an offset end without its removal (R369). -/
def offsetDrop (s : State) : State :=
  { s with clk := { s.clk with wait := none, walk := none }, rake := { s.rake with islandO := none } }.wrs
    [(F.CLK_STAT_SLEWING, 0, 0), (F.CLK_STAT_STEP_PEND, 0, 0), (F.CLK_REMAIN_REMAIN, 0, 0),
     (F.GLB_MODE_TRANSIT, 0, if mode s == mdCoast then 0 else s.rd F.GLB_MODE_TRANSIT 0)]

/-- The tick moves to the standby PLL, and the mode to COAST from the modes of R345. -/
def toStandby (s : State) : State :=
  let s1 := offsetDrop s
  let s2 := if s1.on F.CLK_STAT_ON_STANDBY 0 then s1
    else tickMove (s1.wrs [(F.CLK_STAT_ON_STANDBY, 0, 1), (F.CLK_STAT_ACT, 0, 2)])
  let m := mode s2
  if m == mdCupping || m == mdSetup || m == mdArmed || m == mdRun then
    modeTo mdCoast { (if m == mdCupping then cupAbandon s2 else s2) with safeAt := some (actTick s2) }
  else s2

/-- A loss of the selected reference (R352, R361). -/
def refLost (s : State) : State :=
  let s1 := logEvent srcClocks 0x02 (s.rd F.CLK_REF_SEL 0) 0 0 (s.bump F.CLK_EVT_LOSSES 0)
  toStandby (s1.wr F.CLK_STAT_SPLL_LOCK 0 0)

/-- REFIN is lost: an event only while REFIN is the selected reference (R361). -/
def refinLoss (s : State) : State :=
  if s.on F.CLK_STAT_REFIN_OK 0 then
    let s1 := s.wr F.CLK_STAT_REFIN_OK 0 0
    if refSel s == 0 then refLost s1 else s1
  else s

/-- The selection has changed: a loss of the old reference; the new one is returning (R360). -/
def refChanged (s : State) : State :=
  pllShow (refLost { s with clk := { s.clk with relation := false } })

/-- The tick returns to the sample PLL; COAST ends (R345, R365). -/
def toSample (s : State) : State :=
  if s.on F.CLK_STAT_ON_STANDBY 0 then
    let s1 := tickMove (s.wrs [(F.CLK_STAT_ON_STANDBY, 0, 0), (F.CLK_STAT_ACT, 0, refSel s)])
    if mode s1 == mdCoast then (modeTo (activityOf s1) s1).wr F.GLB_MODE_TRANSIT 0 0 else s1
  else s

/-- An offset has been removed: REF_RETURN, RETURNS (R352, R367). -/
def offsetGone (o : Int) (s : State) : State :=
  let s1 := offsetDrop (s.bump F.CLK_EVT_RETURNS 0)
  let w := uns 64 o
  toSample (logEvent srcClocks 0x04 (w % 2 ^ 32) (w / 2 ^ 32) (s.rd F.CLK_REF_POLICY 0) s1)

/-- Ticks that the walk of an offset takes (R368). -/
def walkTicks (o : Int) (ppm : Nat) : Nat := (o.natAbs * 1000000 + 256 * ppm - 1) / (256 * ppm)

/-- The walk begins when the policy is SLEW and the offset is not beyond the limit; else the offset waits (R368). -/
def offsetAct (o : Int) (s : State) : State :=
  let s1 := s.wrI F.CLK_REMAIN_REMAIN 0 o
  if s.rd F.CLK_REF_POLICY 0 == 0 && decide (o.natAbs ≤ s.rd F.CLK_SLEW_MAX_MAX 0 * 160 * 256) then
    let s2 := { s1 with clk := { s1.clk with wait := none, walk := some (o, s1.now, s1.rd F.CLK_REF_SLEW_PPM 0) } }
    s2.wrs [(F.CLK_STAT_SLEWING, 0, 1), (F.CLK_STAT_STEP_PEND, 0, 0),
      (F.GLB_MODE_TRANSIT, 0, if mode s2 == mdCoast then 1 else s2.rd F.GLB_MODE_TRANSIT 0)]
  else { s1 with clk := { s1.clk with wait := some o, walk := none } }.wr F.CLK_STAT_STEP_PEND 0 1

/-- The offset of REFIN's grid reduced into the range that R367 gives its frequency. -/
def reduceO (s : State) (o : Int) : Int :=
  let h : Int := if s.on F.CLK_REF_FREQ 0 then 1024 else 2048
  (o + h) % (2 * h) - h

/-- The sample PLL has locked to the selected reference, and the offset `o` of the running grid has been measured (R364,
R367): none of a first lock, θ for an island head. -/
def splLock (o : Int) (s : State) : State :=
  if !refPresent s then s
  else
    let s1 := ditherLoad 0 (s.wr F.CLK_STAT_SPLL_LOCK 0 1)
    if !s.on F.CLK_STAT_ON_STANDBY 0 then s1.wr F.CLK_STAT_ACT 0 (refSel s)
    else if s.clk.walk.isSome || s.clk.wait.isSome then s1
    else
      let isl := s.rake.islandO
      let oo := if !s.clk.relation then 0 else match isl with | some t => t | none => if refSel s == 0 then reduceO s o else o
      let s2 := { s1 with clk := { s1.clk with relation := true } }.wrI F.CLK_OFFSET_O 0 oo
      if !s.clk.relation then toSample s2 else offsetAct oo s2

/-- A PLL declares unlock (R364): the sample PLL's is answered as a loss. -/
def pllUnlock (x : Nat) (s : State) : State :=
  let s1 := logEvent srcClocks 0x03 x 0 0 s
  if x == 0 then
    if s.on F.CLK_STAT_SPLL_LOCK 0 then
      let s2 := s1.wr F.CLK_STAT_SPLL_LOCK 0 0
      toStandby (if refPresent s then s2.bump F.CLK_EVT_UNLOCKS 0 else s2)
    else s
  else if x == 1 then s1.wr F.CLK_STAT_STBY_LOCK 0 0
  else if x == 3 then s1.wr F.CLK_STAT_FLUME_LOCK 0 0
  else if x == 4 then s1.wr F.CLK_STAT_RAKE_LOCK 0 0
  else s1

/-- The Flume section has locked (R366). -/
def laneLock (s : State) : State := ditherLoad 3 (s.wr F.CLK_STAT_FLUME_LOCK 0 1)

/-- The walk ends in its last tick (R368). -/
def walkDone (s : State) : State :=
  match s.clk.walk with
  | some (o, t, ppm) => if t + walkTicks o ppm ≤ s.now then offsetGone o s else s
  | none => s

/-- What remains of the offset in this tick. -/
def walkTick (s : State) : State :=
  match s.clk.walk with
  | some (o, t, ppm) =>
    let done : Nat := min o.natAbs ((s.now - t) * 256 * ppm / 1000000)
    s.wrI F.CLK_REMAIN_REMAIN 0 (o - signI o * done)
  | none => s

/-- A write of POLICY: SLEW starts the walk of an offset that waits (R368). -/
def policyWrite (v : Nat) (s : State) : State :=
  let s1 := s.wr F.CLK_REF_POLICY 0 v
  match s.clk.wait with
  | some o => if v == 0 then offsetAct o s1 else s1
  | none => s1

/-- A write of SEL (R360): a new value acts as a loss of the old reference (assumption 21). -/
def selWrite (v : Nat) (s : State) : State :=
  if v == s.rd F.CLK_REF_SEL 0 then s else refChanged (s.wr F.CLK_REF_SEL 0 v)

/-- A change of the role changes what AUTO and RK_UP select (R360); a root has depth 0 (R267). -/
def roleTo (r : Nat) (s : State) : State :=
  let s0 := s.wr F.RAKE_STAT_ROLE_ACT 0 r
  let s1 := if r == 1 then s0.wr F.GLB_ADDR_DEPTH 0 0 else s0
  if refSel s1 != refSel s then refChanged s1 else s1

/-- CT steps by a number of 1/256 tick: recorded, the out-lanes held (R257, R275). -/
def ctStep (case : Nat) (d : Int) (s : State) : State :=
  if d = 0 then s
  else
    let w := uns 64 d
    let s1 := s.setCt (uns 64 ((s.ct : Int) + d))
    olCtStep d (logEvent srcTree 0x05 (w % 2 ^ 32) (w / 2 ^ 32) case s1)

/-- A request for HOLD removes an offset that waits, in HOLD's entry tick (R368): an island's by stepping CT. -/
def holdStep (s : State) : State :=
  match s.clk.wait with
  | none => s
  | some o =>
    let s1 := match s.rake.islandO with
      | some t => ctStep 4 (-t) { s with rake := { s.rake with stepSf := some (s.rd F.GLB_CT_TICKS 0 / 160) } }
      | none => s
    offsetGone o s1

end Sys2Proof.Machine
end

