-- ==== Sys2Proof/Machine/Wire.lean ====
section
/-! DEFINITION. Packets and replies as words (R306 to R309), and words as bytes (R4). -/

namespace Sys2Proof.Machine

/-- The words of a packet with a tag of its own and a trailer recomputed (R306, R309, R323). -/
def pktWords (p : Pkt) (tag : Nat) (crc : Bool) : List Nat :=
  let n := 4 + p.params.length + b2n crc
  let ws := [p.opcode * 2 ^ 24 + b2n p.fence * 2 ^ 19 + b2n p.batch * 2 ^ 18 + b2n p.reply * 2 ^ 17 + b2n crc * 2 ^ 16 + n % 65536,
    tag, p.target * 2 ^ 20 + p.unit, p.batchId * 2 ^ 16] ++ p.params
  if crc then ws ++ [crc32c ws] else ws

/-- The packet that words spell, from an origin over a transport. The words are as many as LENGTH says. -/
def pktOfWords (org src : Nat) (path : Path) (ws : List Nat) : Pkt :=
  let w0 := ws.getD 0 0
  let w2 := ws.getD 2 0
  let w3 := ws.getD 3 0
  let crc := bitOf w0 16
  let body := ws.drop 4
  { org := org, src := src, path := path, opcode := bitsOf w0 31 24,
    hdrOk := bitsOf w0 23 20 == 0 && bitsOf w2 19 16 == 0 && bitsOf w3 15 0 == 0,
    fence := bitOf w0 19, batch := bitOf w0 18, reply := bitOf w0 17, crc := crc,
    crcOk := !crc || (decide (5 ≤ ws.length) && crc32c ws.dropLast == ws.getLastD 0),
    length := bitsOf w0 15 0, tag := ws.getD 1 0 % 2 ^ 32, target := bitsOf w2 31 20, unit := bitsOf w2 15 0,
    batchId := bitsOf w3 31 16, params := (if crc then body.dropLast else body).map (· % 2 ^ 32) }

/-- The words of a reply (R307). -/
def replyList (r : Reply) : List Nat :=
  let n := replyWords r
  let ws := [r.opcode * 2 ^ 24 + b2n r.crc * 2 ^ 19 + b2n r.final * 2 ^ 18 + b2n r.pend * 2 ^ 17 + b2n r.dup * 2 ^ 16 + n % 65536,
    r.tag, r.status * 2 ^ 16 + r.detail, r.responder * 2 ^ 20, r.ct % 2 ^ 32, r.ct / 2 ^ 32] ++ r.data
  if r.crc then ws ++ [crc32c ws] else ws

/-- The reply that words spell. -/
def replyOfWords (ws : List Nat) : Reply :=
  let w0 := ws.getD 0 0
  let w2 := ws.getD 2 0
  let crc := bitOf w0 19
  { opcode := bitsOf w0 31 24, tag := ws.getD 1 0, status := bitsOf w2 31 16, detail := bitsOf w2 15 0,
    responder := bitsOf (ws.getD 3 0) 31 20, ct := ws.getD 4 0 + ws.getD 5 0 * 2 ^ 32, crc := crc, final := bitOf w0 18,
    pend := bitOf w0 17, dup := bitOf w0 16, data := if crc then (ws.drop 6).dropLast else ws.drop 6 }

/-- The bytes of words, least significant byte first (R4). -/
def wordsBytes : List Nat → List Nat
  | [] => []
  | w :: r => w % 256 :: w / 256 % 256 :: w / 65536 % 256 :: w / 16777216 % 256 :: wordsBytes r

/-- `n` bytes of a number, least significant first. -/
def numBytes (v : Nat) : Nat → List Nat
  | 0 => []
  | n + 1 => v % 256 :: numBytes (v / 256) n

/-- The number that bytes spell, least significant first. -/
def bytesNum : List Nat → Nat
  | [] => 0
  | b :: r => b % 256 + 256 * bytesNum r

/-- The words that bytes spell, least significant byte first; up to three bytes at the end that fill no word are left out. -/
def bytesWords : List Nat → List Nat
  | a :: b :: c :: d :: r => bytesNum [a, b, c, d] :: bytesWords r
  | _ => []

/-- One bit of the CRC-16 of R269, most significant bit first. -/
def crc16Bit (c b : Nat) : Nat :=
  let x := c * 2 % 65536
  if (c / 32768 + b) % 2 == 1 then x ^^^ 0x1021 else x

/-- CRC-16 over bytes (R269). -/
def crc16 (bs : List Nat) : Nat :=
  bs.foldl (fun c b => (List.range 8).foldl (fun d i => crc16Bit d (b / 2 ^ (7 - i) % 2)) c) 0xFFFF

end Sys2Proof.Machine
end

