-- ==== Sys2Proof/Machine/Rake.lean ====
section
/-! DEFINITION. The Rake tree: ports, cells, chain time, addresses, chain events, chain rails, the side channel (R267 to
R289). -/

namespace Sys2Proof.Machine

def portOf (s : State) (n : Nat) : RkPort := (tabGet s.rkPorts n).getD RkPort.fresh

def setPort (n : Nat) (v : RkPort) (s : State) : State := { s with rkPorts := tabSet RkPort.fresh s.rkPorts n v }

def setRake (f : Rake → Rake) (s : State) : State := { s with rake := f s.rake }

/-! ### States of a port, roles (R268, R272) -/

def rkDown : Nat := 0
def rkAlign : Nat := 1
def rkMeasure : Nat := 2
def rkJoined : Nat := 3
def rkIsolated : Nat := 5
def rkSt (s : State) (n : Nat) : Nat := s.rd F.RAKE_P_STAT_STATE n
def role (s : State) : Nat := s.rd F.RAKE_STAT_ROLE_ACT 0

/-- A root, an island head, or a joined head whose offset still bars the exchange reflects what it receives (R278, R287,
R288). -/
def rkHead (s : State) : Bool := role s == 1 || role s == 3 || (role s == 2 && !s.on F.RAKE_STAT_TIMED 0)

/-- Whether a port may leave DOWN: the block and the port are enabled, and a root holds RK_UP in DOWN. -/
def rkMay (s : State) (n : Nat) : Bool :=
  s.on F.RAKE_CTL_EN 0 && s.on F.RAKE_P_CTL_EN n && !(n == 0 && (s.rd F.RAKE_CTL_ROLE 0 == 1 || role s == 1))

/-- Ticks of chain time. -/
def ctNow (s : State) : Nat := s.rd F.GLB_CT_TICKS 0

/-- Superframe of the present tick. -/
def sfNow (s : State) : Nat := ctNow s / 160

/-! ### The fence (R279) -/

/-- The fence in force at a tick of chain time, in ticks. -/
def fenceAt (s : State) (t : Nat) : Nat :=
  160 * (match s.rake.fences.find? (fun e => decide (160 * e.1 ≤ t)) with
    | some e => e.2
    | none => match s.rake.fences.getLast? with | some e => e.2 | none => s.rd F.RAKE_STAT_FENCE_ACT 0)

/-- FENCE_SHORT follows the fence and F_min. -/
def fenceShow (s : State) : State :=
  let fm := s.rd F.RAKE_FMIN_FMIN 0
  s.wrB F.RAKE_STAT_FENCE_SHORT 0 (decide (10 * s.rd F.RAKE_STAT_FENCE_ACT 0 < fm) || decide (511 < fm))

/-- A fence of `f` µs is in force from a superframe on. -/
def fenceSet (sf f : Nat) (s : State) : State :=
  let old := s.rd F.RAKE_STAT_FENCE_ACT 0
  if old == f then s
  else
    let l := if s.rake.fences.isEmpty then [(0, old)] else s.rake.fences.take 3
    fenceShow ((setRake (fun k => { k with fences := (sf, f) :: l }) s).wr F.RAKE_STAT_FENCE_ACT 0 f)

/-- A write of FENCE (R279): on a root or an island head a change 128 superframes later; whether the write is accepted. -/
def fenceWrite (f : Nat) (s : State) : Bool × State :=
  if s.rake.fencePend.isSome then (false, s)
  else
    let s1 := s.wr F.RAKE_CTL_FENCE 0 f
    if role s == 1 || role s == 3 then
      (true, (setRake (fun k => { k with fencePend := some ((ctNow s + 1) / 160 + 128, f) }) s1).wr F.RAKE_STAT_FENCE_PEND 0 1)
    else (true, s1)

/-- The pending fence takes effect at its superframe. -/
def fenceApply (s : State) : State :=
  match s.rake.fencePend with
  | some (sf, f) =>
    if sf ≤ sfNow s then
      (fenceSet sf f (setRake (fun k => { k with fencePend := none }) s)).wr F.RAKE_STAT_FENCE_PEND 0 0
    else s
  | none => s

/-! ### Queues of records (R278) -/

/-- Records waiting at a port. -/
def rkCount (p : RkPort) : Nat := p.evQ.length + p.railQ.length + p.highQ.length

/-- A record enters a joined port's queue of 64; an event that does not fit is dropped and counted (R278, R280). -/
def rkQueue (n : Nat) (r : RkRec) (s : State) : State :=
  if rkSt s n != rkJoined then s
  else
    let p := portOf s n
    if rkCount p < 64 then
      setPort n (if r.kind == 0 then { p with evQ := p.evQ ++ [r] }
        else if r.kind == 1 then { p with railQ := p.railQ ++ [r] } else { p with highQ := p.highQ ++ [r] }) s
    else if r.kind == 0 then s.bump F.RAKE_ERR_EV_DROP 0 else s

/-- Down every joined RK_DN port. -/
def rkDownAll (r : RkRec) (s : State) : State := [1, 2, 3].foldl (fun t n => rkQueue n r t) s

/-- Age of a record in a cell that starts at tick `t`, in cells. -/
def rkAge (r : RkRec) (t : Nat) : Nat := (t - r.t) / 16

/-- The oldest record that may leave in a cell starting at `t`; records over AGE 511 are dropped: the record, the rest, the
number dropped. -/
def rkPop (t : Nat) : List RkRec → Option RkRec × List RkRec × Nat
  | [] => (none, [], 0)
  | r :: rest =>
    if r.ready ≤ t then
      if 511 < rkAge r t then
        let x := rkPop t rest
        (x.1, x.2.1, x.2.2 + 1)
      else (some r, rest, 0)
    else
      let x := rkPop t rest
      (x.1, r :: x.2.1, x.2.2)

/-! ### Chain events and pulses (R279 to R281) -/

/-- A pair (ID, T_R) is known from now on and will act at T_R plus the fence; where that tick has passed it is late, and acts in the tick after
its arrival (R279, R280). -/
def rkAct (pulse : Bool) (id tr : Nat) (s : State) : State :=
  if s.rake.known.any (fun e => e == (pulse, id, tr)) then s
  else
    let s1 := setRake (fun k => { k with
      known := (pulse, id, tr) :: k.known.filter (fun e => decide (ctNow s < e.2.2 + 20000))
      acts := k.acts ++ [(pulse, id, max (tr + fenceAt s tr) (ctNow s + 1))] }) s
    if tr + fenceAt s tr < ctNow s then
      logEvent srcTree 0x4C (if pulse then 0x40 else id) tr 0 (s1.bump F.RAKE_ERR_EV_LATE 0)
    else s1

/-- A raise in a tick of chain time: T_R is that tick rounded down to a multiple of 16 (R280). -/
def rkRaise (pulse : Bool) (id t : Nat) (s : State) : State :=
  if !s.on F.RAKE_CTL_EN 0 then s
  else
    let tr := t - t % 16
    if s.rake.known.any (fun e => e == (pulse, id, tr)) then s
    else
      let r : RkRec := ⟨0, id, pulse, tr, 0, 0, tr + 16⟩
      let s1 := rkAct pulse id tr s
      if rkHead s then rkDownAll r s1 else rkQueue 0 r s1

/-- The bits of a mask written to `RAKE_EV_RAISE`. -/
def rkRaiseMask (m : Nat) (s : State) : State :=
  (List.range 64).foldl (fun t i => if bitOf m i then rkRaise false i (ctNow t + 1) t else t) s

/-- A synchronising pulse: on a root or an island head; elsewhere ignored and flagged (R281). -/
def rkPulse (s : State) : Bool × State :=
  if role s == 1 || role s == 3 then (true, rkRaise true 0 (ctNow s + 1) s) else (false, s)

/-- The periodic pulse of this tick (R281). -/
def rkPeriodic (s : State) : State :=
  if (role s == 1 || role s == 3) && s.rd F.RAKE_PULSE_MODE 0 == 1 && ctNow s % (160 * 2 ^ s.rd F.RAKE_PULSE_PER 0) == 0 then
    rkRaise true 0 (ctNow s) s
  else s

/-- Events and pulses that are due act: the trigger matrix sees each with r equal to its act tick (R89, R279). -/
def rkActs (s : State) : State :=
  let due := s.rake.acts.filter (fun e => decide (e.2.2 ≤ ctNow s))
  let s1 := setRake (fun k => { k with acts := k.acts.filter (fun e => !decide (e.2.2 ≤ ctNow s)) }) s
  due.foldl (fun t e =>
    let r := s.now - (ctNow s - e.2.2)
    pushTrig (if e.1 then 0xF0 else 0x20 + e.2.1) true (4 * r) (s.now + 1) t) s1

/-- A received event record: known and forwarded (R278). -/
def rkEvent (n : Nat) (r : RkRec) (s : State) : State :=
  let isNew := !s.rake.known.any (fun e => e == (r.pulse, r.id, r.t))
  if n == 0 then
    if s.on F.RAKE_STAT_TIMED 0 then (if isNew then rkDownAll r (rkAct r.pulse r.id r.t s) else s) else s
  else
    let s1 := rkAct r.pulse r.id r.t s
    if rkHead s then (if isNew then rkDownAll r s1 else s1) else rkQueue 0 r s1

/-! ### Chain rails (R68, R279, R282, R283) -/

/-- An update or HIGH record waits for its apply tick; an update that comes too late is discarded (R279). -/
def rkTake (r : RkRec) (s : State) : State :=
  if r.kind == 2 then setRake (fun k => { k with highs := (k.highs ++ [r]).drop (k.highs.length - 63) }) s
  else if r.t + fenceAt s r.t < ctNow s then s.bump F.RAKE_RSTAT_LATE r.id
  else setRake (fun k => { k with updates := k.updates ++ [r] }) s

/-- A rail that this module publishes comes back from RK_UP: whether its own publication is the one in use (R282). -/
def rkInUse (r : RkRec) (s : State) : State :=
  if s.on F.RAKE_RPUB_EN r.id && r.kind == 1 then
    s.wrB F.RAKE_RSTAT_PUBLISHING r.id (((tabGet s.rake.lastPub r.id).getD []).any (fun e => e == (r.t, r.v)))
  else s

/-- A rail or HIGH record received on a port: one source per rail (R278, R282). -/
def rkRail (n : Nat) (r : RkRec) (s : State) : State :=
  if n == 0 then (if s.on F.RAKE_STAT_TIMED 0 then rkDownAll r (rkTake r (rkInUse r s)) else s)
  else
    let own := s.on F.RAKE_RPUB_EN r.id
    let cur := tabGet s.rake.srcPort r.id
    let take := !own && (match cur with
      | none => true
      | some m => decide (n ≤ m) || rkSt s m != rkJoined)
    if !take then s.bump F.RAKE_P_ERR2_RAIL_CONFLICT n
    else
      let s1 := setRake (fun k => { k with srcPort := tabPut k.srcPort r.id n }) s
      if rkHead s then rkDownAll r (rkTake r s1) else rkQueue 0 r s1

/-- Rail `i`'s publication at a superframe start (R282). -/
def rkPublishOne (i : Nat) (s : State) : State :=
  if !s.on F.RAKE_RPUB_EN i then (setRake (fun k => { k with lastPub := tabDel k.lastPub i }) s).wr F.RAKE_RSTAT_PUBLISHING i 0
  else
    let p := s.rd F.RAKE_RPUB_PLAYER i
    let t := ctNow s
    let v := s.rd F.RSRC_RAIL_RAIL p
    let prev := (histAt s p (s.now - 160)).rail
    let rate := if s.rd F.RSRC_CTL_SRC p == 0 then s.rdI F.RSRC_RATE_RATE p else (serial 64 v prev + 80) / 160
    let lowR : RkRec := ⟨1, i, false, t, v % 2 ^ 32, uns 32 (satS 32 rate), t + 16⟩
    let mine := ((t, v % 2 ^ 32) :: (tabGet s.rake.lastPub i).getD []).take 128
    let s1 := (setRake (fun k => { k with lastPub := tabPut k.lastPub i mine }) s).wrB F.RAKE_RSTAT_PUBLISHING i
      (rkHead s || (tabGet s.rake.lastPub i).isNone || s.on F.RAKE_RSTAT_PUBLISHING i)
    let put (r : RkRec) (z : State) : State := if rkHead z then rkDownAll r (rkTake r z) else rkQueue 0 r z
    let s2 := put lowR s1
    if sfNow s % 16 == i then put ⟨2, i, false, t, v / 2 ^ 32, 0, t⟩ s2 else s2

/-- Every rail of a superframe start. -/
def rkPublish (s : State) : State :=
  if s.on F.RAKE_CTL_EN 0 && ctNow s % 160 == 0 then (List.range 16).foldl (fun t i => rkPublishOne i t) s else s

/-- V congruent to V_LO nearest to an extrapolation (R283). -/
def rkNearest (lo : Nat) (x : Int) : Int := x + serial 32 lo (uns 32 x)

/-- A rail's due update is applied (R68, R283). -/
def rkApplyOne (u : RkRec) (s : State) : State :=
  let i := u.id
  let c := chRailOf s i
  let r := sgn 32 u.r
  let high := s.rake.highs.find? (fun h => h.id == i && h.t == u.t)
  let fresh := !c.seen || s.on F.RAKE_RSTAT_LOST i
  let ext := rkNearest u.v (c.v + c.r * sgn 56 (u.t + 2 ^ 56 - c.ts))
  if fresh && high.isNone then s
  else
    let v : Int := match high with | some h => sgn 64 (u.v + h.v * 2 ^ 32) | none => sgn 64 (uns 64 ext)
    let fix := high.isSome && !fresh && uns 64 ext != uns 64 v
    let s0 := if fix then s.bump F.RAKE_RSTAT_HIGHFIX i else s
    let t0 := s.eff
    let old := chRailX s i t0
    let xn := v + r * sgn 56 (s.ctOf t0 / 256 + 2 ^ 56 - u.t)
    let e : Int := if fresh then 0 else serial 64 old (uns 64 xn)
    railLossAll 3 i (setChRail i { c with seen := true, v := v, r := r, ts := u.t, t0 := t0, e := e }
      (s0.wr F.RAKE_RSTAT_LOST i 0))

/-- The updates of a rail that are due in the coming tick, oldest first: the rail of that tick takes them (R68, R71). -/
def rkApply (i : Nat) (s : State) : State :=
  let ct := s.ctOf s.eff / 256
  let due (u : RkRec) : Bool := u.id == i && decide (u.t + fenceAt s u.t ≤ ct)
  let l := s.rake.updates.filter due
  let s1 := setRake (fun k => { k with updates := k.updates.filter (fun u => !due u) }) s
  let s2 := l.foldl (fun t u => rkApplyOne u t) s1
  setRake (fun k => { k with highs := k.highs.filter (fun h => !(h.id == i && decide (h.t + fenceAt s h.t ≤ ct))) }) s2

/-- No newer update 4 µs after the expected apply tick: the rail holds and is LOST (R68). -/
def rkRailLost (i : Nat) (s : State) : State :=
  let c := chRailOf s i
  if !s.on F.RAKE_RSTAT_LOST i && c.seen && decide (c.ts + 160 + fenceAt s c.ts + 640 ≤ ctNow s) then
    railLossAll 3 i (setChRail i { c with held := chRailX s i s.now } s |>.wr F.RAKE_RSTAT_LOST i 1)
  else s

/-- `RAKE_RAIL` shows x of every chain rail in this tick. -/
def rkShow (s : State) : State := (List.range 16).foldl (fun t i => t.wr F.RAKE_RAIL_X i (chRailX t i t.now)) s

/-! ### The side channel (R284, R285) -/

def kdCommand : Nat := 1
def kdReply : Nat := 2
def kdReport : Nat := 3
def kdAssign : Nat := 4
def kdLink : Nat := 5

/-- Address of this module as a sender. -/
def myAddr (s : State) : Nat := if s.on F.GLB_ADDR_VALID 0 then s.rd F.GLB_ADDR_ADDR 0 else 0xFFF

/-- The words of a side-channel packet. -/
def sideWords (kind hops dst src : Nat) (body : List Nat) : List Nat :=
  let ws := [kind * 2 ^ 24 + hops * 2 ^ 18 + (body.length + 3), dst * 2 ^ 20 + src * 2 ^ 8] ++ body
  ws ++ [crc32c ws]

/-- A packet enters a port's buffer of 64 KiB under its source: 0 this module, 1 to 3 the RK_DN ports, 4 RK_UP. -/
def sideTo (n src : Nat) (ws : List Nat) (s : State) : State :=
  if rkSt s n != rkJoined then s
  else
    let p := portOf s n
    if p.sideOut.foldl (fun k e => k + 4 * e.2.length) 0 + p.tx.length + 4 * ws.length ≤ 65536 then
      setPort n { p with sideOut := p.sideOut ++ [(src, ws)] } s
    else s.bump F.RAKE_P_ERR2_SIDE_DROP n

/-- The next packet by round-robin over the sources. -/
def sideNext (p : RkPort) : Option (Nat × List Nat) :=
  (List.range 5).findSome? (fun i => p.sideOut.find? (fun e => e.1 == (p.lastSrc + 1 + i) % 5))

/-- One packet taken out of a list. -/
def sideDel (x : Nat × List Nat) : List (Nat × List Nat) → List (Nat × List Nat)
  | [] => []
  | e :: r => if e == x then r else e :: sideDel x r

/-- The payload of a superframe that begins: up to 24 bytes of one packet, and the control byte. -/
def sidePay (p : RkPort) : RkPort :=
  let p1 := if p.tx.isEmpty then
      match sideNext p with
      | some e => { p with tx := wordsBytes e.2, txOn := false, lastSrc := e.1, sideOut := sideDel e p.sideOut }
      | none => p
    else p
  if p1.tx.isEmpty then { p1 with pay := [], payCtl := 0 }
  else
    let k := min 24 p1.tx.length
    { p1 with pay := p1.tx.take 24, tx := p1.tx.drop 24, txOn := true,
              payCtl := b2n (!p1.txOn) * 128 + b2n (decide (p1.tx.length ≤ 24)) * 64 + k }

/-- A packet received on `from_` (0 to 3; 4: this module) goes on toward an address: down by the route table, else up; a root
or island head counts what it cannot route. -/
def sideRoute (src dst : Nat) (ws : List Nat) (s : State) : State :=
  match tabGet s.rake.routes dst with
  | some n => if n < 4 then sideTo n src ws s else s.bump F.RAKE_ERR_NOROUTE 0
  | none => if role s == 2 then sideTo 0 src ws s else s.bump F.RAKE_ERR_NOROUTE 0

/-- The packet with HOPS one higher; none beyond 32. -/
def sideHop (ws : List Nat) : Option (List Nat) :=
  let w0 := ws.getD 0 0
  if 32 < bitsOf w0 23 18 + 1 then none
  else
    let b := (w0 + 2 ^ 18) :: (ws.drop 1).dropLast
    some (b ++ [crc32c b])

/-- A packet of this module's own. -/
def sideSend (kind dst : Nat) (body : List Nat) (s : State) : State :=
  let ws := sideWords kind 0 dst (myAddr s) body
  if dst == 0xFFF then
    if role s == 2 then sideTo 0 0 ws s else [1, 2, 3].foldl (fun t n => sideTo n 0 ws t) s
  else sideRoute 0 dst ws s

/-! ### Addresses (R276, R277) -/

/-- The pin of this module. -/
def myPin (s : State) : Nat := s.rd F.GLB_ADDR_PIN_ADDR 0

/-- Hop delay to the child on a port plus 600 ns, in 1/256 tick. -/
def hopSum (s : State) (n : Nat) : Nat := s.rd F.RAKE_P_DELAY_DELAY n + 24576

/-- The subtree of this module in depth-first order. -/
def ownReport (s : State) : List RkEntry :=
  ⟨0, 0, myPin s, 0⟩ :: ([1, 2, 3].map (fun n =>
    if rkSt s n == rkJoined then
      (portOf s n).report.map (fun e => ⟨(n - 1) + 4 * e.path, e.depth + 1, e.pin, e.dsum + hopSum s n⟩)
    else [])).flatten

/-- Size, depth and F_min of the tree that a root or island head holds (R279). -/
def treeShow (s : State) : State :=
  if role s == 2 then s
  else
    let l := ownReport s
    let m := l.foldl (fun k e => max k e.dsum) 0
    fenceShow (s.wrs [(F.RAKE_TREE_DEVICES, 0, min 4096 l.length), (F.RAKE_TREE_MAXDEPTH, 0, l.foldl (fun k e => max k e.depth) 0),
      (F.RAKE_FMIN_FMIN, 0, min 65535 ((40960 + 2 * m + 4095) / 4096))])

/-- The words of a report (assumption 22): three an entry. -/
def reportBody (l : List RkEntry) : List Nat := (l.map (fun e => [e.path, e.depth * 2 ^ 16 + e.pin, e.dsum])).flatten

def reportOf : List Nat → List RkEntry
  | a :: b :: c :: r => ⟨a, b / 2 ^ 16, b % 4096, c⟩ :: reportOf r
  | _ => []

/-- The module's subtree has changed: a follower reports it, a root notes the change (R276). -/
def treeChanged (s : State) : State :=
  let s1 := treeShow (setRake (fun k => { k with change := some s.now }) s)
  if role s == 2 && rkSt s 0 == rkJoined then
    sideTo 0 0 (sideWords kdReport 0 0xFFF (myAddr s) (reportBody (ownReport s))) s1
  else s1

/-- LINK_INFO to a child (R277). -/
def linkInfo (n : Nat) (s : State) : State :=
  sideTo n 0 (sideWords kdLink 0 0xFFF (myAddr s)
    [s.rd F.GLB_ADDR_DEPTH 0 * 2 ^ 16 + s.rd F.GLB_ADDR_VALID 0 * 2 ^ 15 + s.rd F.GLB_ADDR_ADDR 0]) s

/-- The lowest address that is free. -/
def lowFree (used : List Nat) : Nat → Nat → Option Nat
  | _, 0 => none
  | a, n + 1 => if memN used a then lowFree used (a + 1) n else some a

/-- Pins taken in depth-first order: entry, address; and the number of conflicts. -/
def pinPass : List RkEntry → List Nat → List (RkEntry × Option Nat) × Nat
  | [], _ => ([], 0)
  | e :: r, used =>
    if e.pin == 0xFFF || e.depth == 0 then
      let x := pinPass r used
      ((e, none) :: x.1, x.2)
    else if e.pin == 0 || memN used e.pin then
      let x := pinPass r used
      ((e, none) :: x.1, x.2 + 1)
    else
      let x := pinPass r (e.pin :: used)
      ((e, some e.pin) :: x.1, x.2)

/-- The addresses of the others, lowest first, in order. -/
def fillPass : List (RkEntry × Option Nat) → List Nat → List (Nat × Nat × Nat × Bool)
  | [], _ => []
  | (e, some a) :: r, used => (e.path, e.depth, a, true) :: fillPass r used
  | (e, none) :: r, used =>
    match (if e.depth == 0 then some 0 else lowFree used 1 4096) with
    | some a => if a < 4096 then (e.path, e.depth, a, false) :: fillPass r (a :: used) else fillPass r used
    | none => fillPass r used

/-- The assignment of the tree (R276): afresh, or keeping every address whose module is at the same path. -/
def assignTree (full : Bool) (s : State) : List (Nat × Nat × Nat × Bool) × Nat :=
  let l := ownReport s
  let kept := if full then [] else s.rake.assigned.filter (fun a => l.any (fun e => e.path == a.1 && e.depth == a.2.1))
  let isKept (e : RkEntry) : Bool := kept.any (fun a => e.path == a.1 && e.depth == a.2.1)
  let rest := l.filter (fun e => !isKept e)
  let x := pinPass rest (kept.map (·.2.2.1))
  let used := 0 :: kept.map (·.2.2.1) ++ (l.map (·.pin)).filter (· != 0xFFF) ++ (x.1.filterMap (·.2))
  let fresh := fillPass x.1 used
  (l.filterMap (fun e => (kept ++ fresh).find? (fun a => e.path == a.1 && e.depth == a.2.1)), x.2)

/-- The words of an assignment (assumption 22): size and depth of the tree, then two words an entry. -/
def assignBody (s : State) (l : List (Nat × Nat × Nat × Bool)) : List Nat :=
  (s.rd F.RAKE_TREE_DEVICES 0 * 2 ^ 16 + s.rd F.RAKE_TREE_MAXDEPTH 0) ::
    (l.map (fun a => [a.1, a.2.1 * 2 ^ 16 + b2n a.2.2.2 * 2 ^ 13 + a.2.2.1])).flatten

def assignOf : List Nat → List (Nat × Nat × Nat × Bool)
  | a :: b :: r => (a, b / 2 ^ 16, b % 4096, bitOf b 13) :: assignOf r
  | _ => []

/-- Entries below a child, named from it. -/
def subTree (n : Nat) (l : List (Nat × Nat × Nat × Bool)) : List (Nat × Nat × Nat × Bool) :=
  l.filterMap (fun a => if decide (0 < a.2.1) && a.1 % 4 == n - 1 then some (a.1 / 4, a.2.1 - 1, a.2.2) else none)

/-- An assignment reaches a module: its own address, its routes, the packets for its children, LINK_INFO. -/
def assignTake (l : List (Nat × Nat × Nat × Bool)) (s : State) : State :=
  let s1 := match l.find? (fun a => a.2.1 == 0) with
    | some a => s.wrs [(F.GLB_ADDR_ADDR, 0, a.2.2.1), (F.GLB_ADDR_VALID, 0, 1), (F.GLB_ADDR_PINNED, 0, b2n a.2.2.2)]
    | none => s
  let routes := l.foldl (fun t a => if 0 < a.2.1 then tabPut t a.2.2.1 (a.1 % 4 + 1) else t) []
  let s2 := setRake (fun k => { k with routes := routes, assigned := l }) s1
  [1, 2, 3].foldl (fun t n =>
    if rkSt t n == rkJoined then
      linkInfo n (sideTo n 0 (sideWords kdAssign 0 0xFFF (myAddr t) (assignBody t (subTree n l))) t)
    else t) s2

/-- `ENUM` or `ENUM_FULL` begins on the root (R276): whether it is accepted. -/
def enumStart (full : Bool) (j : Option Nat) (s : State) : Bool × State :=
  if role s != 1 then (false, s)
  else (true, (setRake (fun k => { k with
    enumFull := k.enumFull || full, enumJobs := k.enumJobs ++ j.toList, change := none }) s).wr F.RAKE_STAT_ENUM_BUSY 0 1)

/-- The assignment completes. -/
def enumDone (s : State) : State :=
  if s.on F.RAKE_STAT_ENUM_BUSY 0 then
    let x := assignTree s.rake.enumFull s
    let s1 := (assignTake x.1 (s.bumpBy F.RAKE_ERR_PIN_CONFLICT 0 x.2)).wr F.RAKE_STAT_ENUM_BUSY 0 0
    let js := s1.rake.enumJobs
    js.foldl (fun t j => complete j stOk 0 [] t) (setRake (fun k => { k with enumJobs := [], enumFull := false }) s1)
  else s

/-- AUTO_ENUM: 100 ms after the last change the root runs ENUM. -/
def autoEnum (s : State) : State :=
  match s.rake.change with
  | some t =>
    if role s == 1 && s.on F.RAKE_CTL_AUTO_ENUM 0 && decide (t + msTicks 100 ≤ s.now) then (enumStart false none s).2 else s
  | none => s

/-! ### A port's states (R272, R286, R287) -/

/-- A follower whose RK_UP leaves JOINED is an island: its own fence, the standby PLL (R287). -/
def islandEnter (s : State) : State :=
  let s1 := s.wrs [(F.RAKE_STAT_TIMED, 0, 0), (F.CLK_STAT_RKUP_OK, 0, 0)]
  let s2 := if refSel s1 == 1 then refLost s1 else s1
  treeShow (fenceSet (sfNow s + 1) (s.rd F.RAKE_CTL_FENCE 0) (roleTo 3 s2))

/-- A port enters a state; leaving JOINED ends its traffic. -/
def rkTo (n st : Nat) (s : State) : State :=
  let was := rkSt s n == rkJoined
  let p := portOf s n
  let keep := { RkPort.fresh with losses := p.losses, lastTx := p.lastTx }
  let s1 := (if st == rkJoined then s else setPort n keep s).wr F.RAKE_P_STAT_STATE n st
  if was && st != rkJoined then
    if n == 0 then (if role s == 2 then islandEnter s1 else s1.wr F.CLK_STAT_RKUP_OK 0 0) else treeChanged s1
  else s1

/-- A port is isolated with a cause (R286). -/
def rkIsolate (n cause : Nat) (s : State) : State :=
  let s1 := (s.bump F.RAKE_P_ERR_ISOLATIONS n).wr F.RAKE_P_STAT_ICAUSE n cause
  rkTo n rkIsolated (logEvent (srcRake n) 0x4B cause 0 0 s1)

/-- Sixty-four consecutive bad cells: LOST and at once ALIGN, or ISOLATED on the eighth loss within a second. -/
def rkLoss (n : Nat) (s : State) : State :=
  let p := portOf s n
  if rkSt s n == rkJoined && decide (64 ≤ p.badRun) then
    let recent := (s.now :: p.losses).filter (fun t => decide (s.now < t + secTicks 1))
    let s1 := logEvent (srcRake n) 0x4A 0 0 0 ((setPort n { p with losses := recent } s).bump F.RAKE_P_ERR_LOSSES n)
    if 8 ≤ recent.length then rkIsolate n 1 s1 else rkTo n rkAlign s1
  else s

/-- A write of a port's enable. -/
def rkPortEnable (n : Nat) (en : Bool) (s : State) : State :=
  let s1 := s.wrB F.RAKE_P_CTL_EN n en
  if en then s1 else (rkTo n rkDown s1).wr F.RAKE_P_STAT_ICAUSE n 0

/-- The role that the block's enable gives (R268). -/
def rkEnable (en : Bool) (s : State) : State :=
  let s1 := s.wrB F.RAKE_CTL_EN 0 en
  if !en then
    let s2 := (List.range 4).foldl (fun t n => (rkTo n rkDown t)) ((s1.wr F.RAKE_STAT_ROLE_ACT 0 0).wr F.RAKE_STAT_TIMED 0 0)
    if refSel s2 != refSel s then refChanged s2 else s2
  else if s.on F.RAKE_CTL_EN 0 then s1
  else
    let s2 := (List.range 16).foldl (fun t i => railLossAll 3 i (setChRail i { chRailOf t i with seen := false } (t.wr F.RAKE_RSTAT_LOST i 1))) s1
    let s3 := setRake (fun k => { k with enabledAt := s.now + 1, acts := [], updates := [], highs := [], srcPort := [], lastPub := [], fenceSf := none }) s2
    let own (r : Nat) : State := fenceSet (sfNow s3 + 1) (s3.rd F.RAKE_CTL_FENCE 0) (roleTo r s3)
    if s3.rd F.RAKE_CTL_ROLE 0 == 1 then treeChanged (own 1)
    else if s3.rd F.RAKE_CTL_ROLE 0 == 2 then own 3 else s3

/-- 100 ms after the enable without RK_UP joined, AUTO makes the module root. -/
def roleAuto (s : State) : State :=
  if s.on F.RAKE_CTL_EN 0 && s.rd F.RAKE_CTL_ROLE 0 == 0 && role s == 0 && decide (s.rake.enabledAt + msTicks 100 ≤ s.now)
      && rkSt s 0 != rkJoined then
    let s1 := fenceSet (sfNow s + 1) (s.rd F.RAKE_CTL_FENCE 0) (roleTo 1 s)
    treeChanged (rkTo 0 rkDown s1)
  else s

/-! ### Measurement and joining (R273 to R275, R288) -/

/-- Mean of a list, rounded toward zero. -/
def meanI (l : List Int) : Int := if l.isEmpty then 0 else divZ (l.foldl (· + ·) 0) l.length

/-- The exchange of LINK fields: one measurement when the peer answers a CT field that this port has sent. -/
def rkExchange (n ct txRef rxStamp arr : Nat) (s : State) : State :=
  let p := portOf s n
  let p1 := { p with rxCt := ct % 2 ^ 32, rxStamp := arr % 2 ^ 32 }
  if !memN p.sent txRef then setPort n p1 s
  else
    let here := serial 32 arr ct
    let there := serial 32 rxStamp txRef
    let dfw := if n == 0 then here else there
    let drv := if n == 0 then there else here
    let p2 := { p1 with meas := p.meas + 1, delays := (divZ (dfw + drv) 2 :: p.delays).take 64,
                        thetas := (divZ (dfw - drv) 2 :: p.thetas).take 256 }
    let s1 := (setPort n p2 s).wrI F.RAKE_P_DELAY_DELAY n (meanI p2.delays)
    let th := meanI p2.thetas
    if n == 0 then
      let s2 := s1.wrI F.RAKE_THETA_THETA 0 th
      if rkSt s 0 == rkJoined && role s2 == 2 && decide (th.natAbs ≤ 16) then s2.wr F.RAKE_STAT_TIMED 0 1 else s2
    else if rkSt s n == rkJoined && decide (p.joinAt + msTicks 100 ≤ s.now) && decide (1024 < th.natAbs) then rkIsolate n 4 s1
    else s1

/-- Sixty-four measurements end MEASURE (R272, R273, R286, R288). -/
def rkJoin (n : Nat) (s : State) : State :=
  let p := portOf s n
  if rkSt s n == rkMeasure && decide (64 ≤ p.meas) then
    if decide (81920 < meanI p.delays) then rkIsolate n 3 s
    else
      let th := meanI p.thetas
      let s1 := setPort n { p with joinAt := s.now, badRun := 0 } (s.wr F.RAKE_P_STAT_STATE n rkJoined)
      if n == 0 then
        let first := !s.rake.everJoined
        let s2 := (setRake (fun k => { k with everJoined := true }) s1).wrI F.RAKE_JOIN_THETA 0 th
        let s3 := roleTo 2 ((s2.wr F.CLK_STAT_RKUP_OK 0 1).wr F.RAKE_STAT_TIMED 0 (b2n (first || decide (th.natAbs ≤ 16))))
        let s4 := if first then ctStep 1 (-th) (setPort 0 { portOf s3 0 with thetas := [] } s3)
          else setRake (fun k => { k with islandO := some th }) s3
        treeChanged s4
      else treeChanged (linkInfo n s1)
  else s

/-- One millisecond after HOLD_STEER clears, steering resumes (R274). -/
def steerEnd (s : State) : State :=
  match s.rake.steerUntil with
  | some t => if t ≤ s.now then (setRake (fun k => { k with steerUntil := none }) s).wr F.RAKE_STAT_STEER_HOLD 0 0 else s
  | none => s

/-- `CT_LOAD` is requested of the root (R275): whether it is accepted. -/
def ctLoad (s : State) : Bool × State :=
  if role s == 1 then (true, setRake (fun k => { k with ctLoad := true }) s) else (false, s)

/-- The root takes the loaded CT at a superframe start, and sets CT_STEP in that superframe. -/
def ctLoadApply (s : State) : State :=
  if s.rake.ctLoad && ctNow s % 160 == 0 then
    let s1 := ctStep 2 (serial 64 (s.rd F.RAKE_CT_LOAD_CT 0) s.ct) (setRake (fun k => { k with ctLoad := false }) s)
    setRake (fun k => { k with stepSf := some (sfNow s1) }) s1
  else s

/-- The flags and fence of a cell 9 from RK_UP (R270, R274, R275, R279): a changed fence is in force from the superframe that was announced. -/
def rkFlags (flags fence act : Nat) (s : State) : State :=
  let s1 := if bitOf flags 0 then (setRake (fun k => { k with steerUntil := none }) s).wr F.RAKE_STAT_STEER_HOLD 0 1
    else if s.on F.RAKE_STAT_STEER_HOLD 0 && s.rake.steerUntil.isNone then
      setRake (fun k => { k with steerUntil := some (s.now + msTicks 1) }) s
    else s
  let p := portOf s1 0
  let s2 := if bitOf flags 2 then
      let d := serial 32 (p.rxCt + (s1.rd F.RAKE_P_DELAY_DELAY 0)) p.rxStamp
      setRake (fun k => { k with stepSf := some (sfNow s1 + 1) }) (ctStep 3 d s1)
    else s1
  if s2.on F.RAKE_STAT_TIMED 0 && decide (1 ≤ fence) && decide (fence ≤ 64) then
    let sf := if act == 0xFFFF then s2.rake.fenceSf else some (sfNow s2 + (act + 65536 - sfNow s2 % 65536) % 65536)
    let from_ := min (sfNow s2) (s2.rake.fenceSf.getD (sfNow s2))
    (fenceSet from_ fence (setRake (fun k => { k with fenceSf := sf }) s2)).wrB F.RAKE_STAT_FENCE_PEND 0 (act != 0xFFFF)
  else s2

/-! ### Cells (R269 to R272) -/

/-- A rail or HIGH record of a cell that starts at tick `t` of the sender's grid. -/
def recOf (kind t now : Nat) (bs : List Nat) : Option RkRec :=
  let w := bytesNum bs
  if bitOf w 11 then some ⟨kind, bitsOf w 15 12, false, t - 16 * bitsOf w 10 2, bitsOf w 47 16, w / 2 ^ 48 % 2 ^ 32, now + 17⟩ else none

/-- The bytes of a rail slot or a HIGH record. -/
def recBytes (t : Nat) : Option RkRec → Nat → List Nat
  | none, n => List.replicate n 0
  | some r, n => numBytes (r.id * 2 ^ 12 + 2 ^ 11 + rkAge r t * 4 + r.v * 2 ^ 16 + r.r * 2 ^ 48) n

/-- The tick at which the cell that is now complete started at its sender. -/
def cellStart (s : State) (n c : Nat) : Nat :=
  let t := ctNow s - (s.rd F.RAKE_P_DELAY_DELAY n + 128) / 256 - 16
  let d := (t + 8 + 160 - 16 * c) % 160
  t + 8 - (if d < 80 then d else 0) + (if d < 80 then 0 else 160 - d)

/-- The records of a good cell of a joined port. -/
def rkRecords (n c : Nat) (data : List Nat) (s : State) : State :=
  let t := cellStart s n c
  let now := ctNow s
  let rail (o : Nat) (z : State) : State :=
    match recOf 1 t now ((data.drop o).take 10) with | some r => rkRail n r z | none => z
  if c == 0 then
    match recOf 2 t now ((data.drop 16).take 6) with | some r => rkRail n r s | none => s
  else if c == 9 then
    if n == 0 then rkFlags (data.getD 17 0) (data.getD 18 0) (data.getD 19 0 + 256 * data.getD 20 0) s else s
  else
    let s1 := rail 10 (rail 0 s)
    if c % 2 == 0 then s1
    else
      let w := bytesNum ((data.drop 20).take 2)
      let id := bitsOf w 14 9
      if w == 0xFFFF then s1
      else if bitOf w 15 && id != 0 then s1.bump F.RAKE_P_ERR_BAD n
      else rkEvent n ⟨0, id, bitOf w 15, t - 16 * (w % 512), 0, 0, now + 17⟩ s1

/-- The side channel's share of cell `c` (R270, R284): two bytes of the even cells, the control byte and sixteen bytes of cell 9; a bad cell marks
the packet. A superframe with END completes it; what began without END is dropped. -/
def rkSideIn (n c : Nat) (data : List Nat) (bad : Bool) (s : State) : State :=
  let p := portOf s n
  let x := p.rx
  if c == 0 then setPort n { p with rx := { x with pay := [], cellBad := false } } s
  else if c == 9 then
    if bad then setPort n { p with rx := { x with bad := true } } s
    else
      let ctl := data.headD 0
      let bs := (x.pay ++ (data.drop 1).take 16).take (ctl % 32)
      let begins := bitOf ctl 7
      let y := { x with begun := begins || x.begun, bad := x.cellBad || (!begins && x.bad), buf := if begins then bs else x.buf ++ bs }
      let s1 := if (begins && x.begun) || (!begins && !x.begun && bitOf ctl 6 && !bs.isEmpty) then s.bump F.RAKE_P_ERR2_SIDE_DROP n else s
      setPort n { portOf s1 n with rx := if y.begun && bitOf ctl 6 then { y with begun := false, buf := [], bad := false, whole := y.whole ++ [(y.bad, y.buf)] }
        else if y.begun then y else { y with buf := [] } } s1
  else if c % 2 == 0 then
    setPort n { p with rx := { x with pay := x.pay ++ (if bad then [0, 0] else (data.drop 20).take 2), cellBad := x.cellBad || bad } } s
  else s

/-- K28.5 and K28.1 (R269). -/
def k285 : Nat := 0xBC
def k281 : Nat := 0x3C

/-- A cell in ALIGN (R272): three K28.5 characters ten cells apart end it. -/
def rkAligns (n k : Nat) (bad : Bool) (s : State) : State :=
  let p := portOf s n
  if bad || !(k == k285 || k == k281) then setPort n { p with badRun := p.badRun + 1, goods := 0 } (s.bump F.RAKE_P_ERR_BAD n)
  else
    let s1 := s.tally F.RAKE_P_CELLS_COUNT n
    if k == k281 then setPort n { p with badRun := 0, cell := p.cell + 1 } s1
    else
      let g := if p.goods != 0 && p.cell == 9 then p.goods + 1 else 1
      if g == 3 then let s2 := rkTo n rkMeasure s1; setPort n { portOf s2 n with cell := 1 } s2
      else setPort n { p with badRun := 0, cell := 0, goods := g } s1

/-- A cell of a port in MEASURE or JOINED (R272): its place follows from the cells before it. -/
def rkCell (n k : Nat) (data : List Nat) (bad0 : Bool) (stamp : Nat) (s : State) : State :=
  let p := portOf s n
  let c := p.cell
  let joined := rkSt s n == rkJoined
  let bad := bad0 || k != (if c == 0 then k285 else k281)
  if bad then
    let s1 := setPort n { p with badRun := p.badRun + 1, cell := (c + 1) % 10 } (s.bump F.RAKE_P_ERR_BAD n)
    if joined then rkSideIn n c data true s1 else s1
  else
    let s1 := (setPort n { p with badRun := 0, cell := (c + 1) % 10 } s).tally F.RAKE_P_CELLS_COUNT n
    let s2 := if c == 0 then
        rkExchange n (bytesNum (data.take 8)) (bytesNum ((data.drop 8).take 4)) (bytesNum ((data.drop 12).take 4))
          (uns 64 ((stamp : Int) - s1.rd F.RAKE_P_SKEW_RX n)) s1
      else s1
    if joined && rkSt s2 n == rkJoined then rkSideIn n c data false (rkRecords n c data s2) else s2

/-- A cell arrives (R269, R272): its K character, data bytes and CRC, whether a character or the disparity violates the code, its arrival at the
ball. A port in DOWN that may leave it takes the signal and aligns. -/
def rkReceive (n k : Nat) (data : List Nat) (crc : Nat) (viol : Bool) (stamp : Nat) (s0 : State) : State :=
  let s := if rkSt s0 n == rkDown && rkMay s0 n then rkTo n rkAlign s0 else s0
  let st := rkSt s n
  let bad := viol || crc16 (data.take 22) != crc
  if st == rkDown || st == rkIsolated then s
  else if st == rkAlign then rkAligns n k bad s
  else rkCell n k data bad stamp s

/-- The records that a port sends in cell `c` at tick `t`: the next one of a kind, and the drops counted. -/
def rkSendRec (n kind t : Nat) (s : State) : Option RkRec × State :=
  let p := portOf s n
  let x := rkPop t (if kind == 0 then p.evQ else if kind == 1 then p.railQ else p.highQ)
  let p1 := if kind == 0 then { p with evQ := x.2.1 } else if kind == 1 then { p with railQ := x.2.1 } else { p with highQ := x.2.1 }
  (x.1, setPort n p1 (s.bumpBy F.RAKE_P_ERR2_AGE_OVF n x.2.2))

/-- A port sends the cell of this tick (R269, R270, R272). -/
def rkTransmit (n : Nat) (s : State) : State :=
  let st := rkSt s n
  let t := ctNow s
  if !(st == rkAlign || st == rkMeasure || st == rkJoined) || t % 16 != 0 || (portOf s n).lastTx == some s.now then s
  else
    let c := t % 160 / 16
    let full := st == rkJoined
    let s0 := setPort n { (if c == 0 && full then sidePay (portOf s n) else portOf s n) with lastTx := some s.now } s
    let p := portOf s0 n
    let sideB (o k : Nat) : List Nat := ((p.pay.drop o).take k ++ List.replicate k 0).take k
    let emit (bs : List Nat) (z : State) : State := { z with out := z.out ++ [Out.cell n c bs (crc16 bs)] }
    if c == 0 then
      let ct := uns 64 ((s0.ct : Int) + s0.rd F.RAKE_P_SKEW_TX n)
      let x := if full then rkSendRec n 2 t s0 else (none, s0)
      let s1 := setPort n { portOf x.2 n with sent := (ct % 2 ^ 32 :: p.sent).take 4 } x.2
      emit (numBytes ct 8 ++ numBytes p.rxCt 4 ++ numBytes p.rxStamp 4 ++ recBytes t x.1 6) s1
    else if c == 9 then
      let head := rkHead s0 && role s0 != 1
      let flags := b2n (memN s0.rake.steerSf (sfNow s0)) + 2 * b2n head + 4 * b2n (s0.rake.stepSf == some (sfNow s0))
      let act := match s0.rake.fencePend with | some e => e.1 % 65536 | none => 0xFFFF
      emit ((if full then p.payCtl else 0) :: sideB 8 16 ++ [flags, s0.rd F.RAKE_STAT_FENCE_ACT 0] ++ numBytes act 2 ++ [0]) s0
    else
      let a := if full then rkSendRec n 1 t s0 else (none, s0)
      let b := if full then rkSendRec n 1 t a.2 else (none, a.2)
      let rails := recBytes t a.1 10 ++ recBytes t b.1 10
      if c % 2 == 0 then emit (rails ++ sideB (c - 2) 2) b.2
      else
        let e := if full then rkSendRec n 0 t b.2 else (none, b.2)
        let w := match e.1 with
          | some r => b2n r.pulse * 2 ^ 15 + r.id * 2 ^ 9 + rkAge r t
          | none => 0xFFFF
        emit (rails ++ numBytes w 2) e.2

/-- CLR of the tree and of a port (R286). -/
def rkClear (s : State) : State :=
  s.wrs [(F.RAKE_ERR_PIN_CONFLICT, 0, 0), (F.RAKE_ERR_NOROUTE, 0, 0), (F.RAKE_ERR_EV_LATE, 0, 0), (F.RAKE_ERR_EV_DROP, 0, 0)]

def rkPortClear (n : Nat) (s : State) : State :=
  s.wrs [(F.RAKE_P_ERR_BAD, n, 0), (F.RAKE_P_ERR_LOSSES, n, 0), (F.RAKE_P_ERR_ISOLATIONS, n, 0), (F.RAKE_P_ERR2_SIDE_DROP, n, 0),
    (F.RAKE_P_ERR2_RAIL_CONFLICT, n, 0), (F.RAKE_P_ERR2_AGE_OVF, n, 0), (F.RAKE_P_ERR2_HOPS_DROP, n, 0)]

end Sys2Proof.Machine
end

