-- ==== Sys2Proof/Machine/Cupping.lean ====
section
/-! DEFINITION. Cupping runs and mode requests (R120, R341 to R345, R350, R368, R370 to R372). -/

namespace Sys2Proof.Machine

/-! ### Cupping -/

/-- A full run's in-lanes deliver no words from the start of step 6 (R370). -/
def cupLanes (s : State) : State := (List.range 8).foldl (fun t n => ilRemeasure n t) s

/-- A step begins. -/
def cupStep (k : Nat) (s : State) : State :=
  let s1 := s.wr F.CUP_STAT_STEP 0 k
  if k == 6 then cupLanes s1
  else if k == 9 then
    if s.on F.NVM_CAL_LOCK_LOCK 0 then s1.wr F.CUP_STAT_NOSTORE 0 1 else nvmPush (.cal none (calImage s1)) s1
  else s1

/-- Whether the in-lanes' words are withheld by a cupping (R370, R371). -/
def cupInLane (s : State) (n : Nat) : Bool :=
  match s.cup with
  | some c => (c.scope == 0 && s.rd F.CUP_STAT_STEP 0 == 6) || (c.scope == 2 && ilComp s n == c.index)
  | none => false

/-- Whether ADC conversions are withheld (steps 4 and 5). -/
def cupAdc (s : State) : Bool := s.cup.isSome && (s.rd F.CUP_STAT_STEP 0 == 4 || s.rd F.CUP_STAT_STEP 0 == 5)

/-- The code that a DAC's balls show, in steps of its output (R160, R370, R371): 0 V while it is disabled, in steps 3 to 5 of a full run and
while a partial run measures it. -/
def dacBall (s : State) (i : Nat) : Int :=
  let full := match s.cup with | some c => c.scope == 0 && memN [3, 4, 5] (s.rd F.CUP_STAT_STEP 0) | none => false
  if !powered s || !s.on F.CNV_DAC_CTL_EN i || full || cupDest s (i * 16 + 2) then 0 else sgn 20 (s.rd F.CNV_DAC_STAT_CODE i)

/-- Whether a Rake port idles (step 7). -/
def cupRake (s : State) (n : Nat) : Bool := s.cup.isSome && s.rd F.CUP_STAT_STEP 0 == 7 && rkSt s n != rkJoined

/-- `CUP_RUN` (R335, R370, R371): a status, and the run begun. -/
def cupRun (j scope index : Nat) (s : State) : Nat × State :=
  let m := mode s
  if scope == 3 then (stBadParam, s)
  else if scope == 0 && m != mdSetup && m != mdService then (stWrongMode, s)
  else if scope != 0 && !memN [mdSetup, mdArmed, mdRun, mdHold, mdCoast, mdService] m then (stWrongMode, s)
  else if scope == 2 && (decide (15 < index) || !s.on F.FLM_OL_CTL_EN index) then (stBadParam, s)
  else if scope == 0 && s.on F.CLK_STAT_ON_STANDBY 0 then (stWrongMode, s)
  else if scope == 1 && s.rd F.CHN_STAT_STATE index != 0 && (match driver s index with | some p => engaged s p | none => false) then
    (stWrongMode, s)
  else if s.on F.CUP_STAT_BUSY 0 then (stBusy, s)
  else
    let s1 := { s with cup := some ⟨scope, index, j, m⟩ }.wrs [(F.CUP_STAT_BUSY, 0, 1), (F.CUP_STAT_SCOPE, 0, scope),
      (F.CUP_STAT_INDEX, 0, index), (F.CUP_STAT_ABANDONED, 0, 0)]
    if scope == 0 then
      (stOk, cupStep 1 ((modeTo mdCupping (s1.wrs [(F.CUP_STAT_FAIL_STEP, 0, 0), (F.CUP_STAT_NOSTORE, 0, 0)])).wr F.GLB_MODE_TRANSIT 0 1))
    else (stOk, if scope == 2 then (List.range 8).foldl (fun t n => if ilComp t n == index then ilRemeasure n t else t) s1 else s1)

/-- A measured result (R370): what it is, of which unit, its value. -/
def cupSet (e : Nat × Nat × Int) (s : State) : State :=
  let u := e.2.1
  let v := e.2.2
  match e.1 with
  | 0 => pllShow (s.wrI F.CUP_BYP_B 0 v)
  | 1 => s.wrI F.CUP_TEMP_TEMP 0 v
  | 2 => { s with cal := { s.cal with dacGain := tabPut s.cal.dacGain (u % 8) (uns 32 v) } }
  | 3 => { s with cal := { s.cal with dacOff := tabPut s.cal.dacOff (u % 8) (uns 32 v) } }
  | 4 => { s with cal := { s.cal with dacLat := tabPut s.cal.dacLat (u % 8) v.toNat } }
  | 5 => { s with cal := { s.cal with gpLat := v.toNat } }
  | 6 => s.wrI F.CNV_ADC_LAT_LAT (u % 8) v
  | 7 => s.wrI F.FLM_OL_LAT_LAT (u % 16) v
  | 8 => s.wrI F.FLM_IL_LAT_RXPIPE (u % 8) v
  | 9 => s.wrI F.RAKE_P_SKEW_TX (u % 4) v
  | 10 => s.wrI F.RAKE_P_SKEW_RX (u % 4) v
  | 11 => { s with cal := { s.cal with inOff := tabPut s.cal.inOff u v } }
  | 12 => { s with cal := { s.cal with adc := tabPut s.cal.adc (u % 8) v } }
  | _ => s

/-- Whether a result belongs to a step of a full run (R370). -/
def cupMine (s : State) (step : Nat) (e : Nat × Nat × Int) : Bool :=
  match step with
  | 2 => e.1 == 0 || e.1 == 1
  | 3 => e.1 == 2 || e.1 == 3
  | 4 => e.1 == 12
  | 5 => e.1 == 4 || e.1 == 5 || e.1 == 6
  | 6 => (e.1 == 7 && s.on F.FLM_OL_CTL_EN (e.2.1 % 16)) || (e.1 == 8 && s.on F.FLM_IL_CTL_EN (e.2.1 % 8))
  | 7 => (e.1 == 9 || e.1 == 10) && rkSt s (e.2.1 % 4) != rkJoined
  | 8 => e.1 == 11 && (if e.2.1 < 8 then !s.on F.ENC_CTL_EN e.2.1 else !bitOf s.gpDrive (e.2.1 - 8))
  | _ => false

/-- A step of a full run ends (R370): its results apply, or its failure is recorded; the next step, or the end. -/
def cupStepDone (ok : Bool) (res : List (Nat × Nat × Int)) (s : State) : State :=
  match s.cup with
  | none => s
  | some c =>
    let k := s.rd F.CUP_STAT_STEP 0
    if c.scope != 0 then s
    else if k == 9 && s.nvm.ops.any isCupStore then s
    else
      let s1 := if ok then (res.filter (cupMine s k)).foldl (fun t e => cupSet e t) s
        else
          let f := if s.rd F.CUP_STAT_FAIL_STEP 0 == 0 then s.wr F.CUP_STAT_FAIL_STEP 0 k else s
          logEvent srcNvm 0x50 k 0 0 f
      let s2 := if k == 6 then (List.range 8).foldl (fun t n =>
          if ilSt t n == ilMeasure then setIl n { ilOf t n with rts := [] } t else t) s1 else s1
      if k < 9 then cupStep (k + 1) s2
      else
        let s3 := { s2 with cup := none }.wrs [(F.CUP_STAT_BUSY, 0, 0), (F.CUP_STAT_STEP, 0, 0), (F.CUP_CT_CT, 0, s2.ct), (F.GLB_MODE_TRANSIT, 0, 0)]
        let s4 := if c.back == mdService then modeTo mdService s3 else modeTo (activityTarget s3) s3
        complete c.job stOk (s4.rd F.CUP_STAT_FAIL_STEP 0) [] s4

/-- A partial run ends (R371): results of the channel's destination, or of the lane. -/
def cupPartial (res : List (Nat × Nat × Int)) (s : State) : State :=
  match s.cup with
  | none => s
  | some c =>
    if c.scope == 0 then s
    else
      let dest := chnDestWord s c.index
      let mine (e : Nat × Nat × Int) : Bool :=
        if c.scope == 2 then e.1 == 7 && e.2.1 == c.index
        else if dKind dest == 2 then (e.1 == 2 || e.1 == 3 || e.1 == 4) && e.2.1 == dUnit dest
        else if dKind dest == 3 then e.1 == 5
        else (dKind dest == 1 || dKind dest == 4) && e.1 == 7 && e.2.1 == dUnit dest
      let s1 := (res.filter mine).foldl (fun t e => cupSet e t) s
      let s2 := if c.scope == 2 then (List.range 8).foldl (fun t n =>
          if ilComp t n == c.index && ilSt t n == ilMeasure then setIl n { ilOf t n with rts := [] } t else t) s1 else s1
      complete c.job stOk 0 []
        ({ s2 with cup := none }.wrs [(F.CUP_STAT_BUSY, 0, 0), (F.CUP_STAT_STEP, 0, 0), (F.CUP_CT_CT, 0, s2.ct)])

/-! ### Mode requests (R341, R342) -/

/-- The targets that R341 lists for a mode. -/
def legalTargets : Nat → List Nat
  | 3 => [mdShelf, mdHold, mdSafe, mdService]
  | 4 => [mdHold, mdSafe]
  | 5 => [mdHold, mdSafe]
  | 6 => [mdRun, mdSafe]
  | 7 => [mdHold, mdSafe]
  | 8 => [mdSafe]
  | 9 => [mdSetup, mdService, mdShelf]
  | 10 => [mdSetup, mdTrain, mdShelf, mdSafe]
  | _ => []

/-- Whether no channel ramps. -/
def rampsDone (s : State) : Bool := (List.range 256).all (fun c => !chnRampLeft s c)

/-- Whether a request is legal (R341). -/
def requestLegal (s : State) (target depth : Nat) : Bool :=
  memN (legalTargets (mode s)) target
    && (mode s != mdSafe || (rampsDone s && !safePersists s))
    && !(target == mdShelf && depth == 1 && !s.on F.PWR_STAT_VBAK_OK 0 && s.rd F.PAN_RET_RET 0 != 0)

/-- The result of a request: 0 accepted, 1 not legal, 2 a transition in progress (assumption 23).
A SAFE cause or a loss of the same tick prevails (R343). -/
def requestResult (s : State) (target depth : Nat) : Nat :=
  if s.boot.shelf.isSome then 2
  else if target == mode s then 0
  else if target != mdSafe && s.safeAt == some (actTick s) then 1
  else if requestLegal s target depth then 0
  else if s.on F.GLB_MODE_TRANSIT 0 then 2 else 1

/-- HOLD is entered: an offset that waits is removed, the players are held. -/
def holdEnter (s : State) : State :=
  let s1 := playersHold (modeTo mdHold s)
  holdStep (if s.clk.walk.isSome then s1 else s1.wr F.GLB_MODE_TRANSIT 0 0)

/-- A request acts in its tick: `RESULT`, and the transition (R341, R342, R350). -/
def modeAct (target depth : Nat) (s : State) : Nat × State :=
  let r := requestResult s target depth
  let s1 := s.wr F.GLB_MODE_REQ_RESULT 0 r
  if r != 0 || target == mode s then (r, s1)
  else if target == mdSafe then (0, safeEnter s1)
  else if target == mdHold then (0, holdEnter s1)
  else if target == mdRun then (0, modeGo (activityTarget s1) s1)
  else if target == mdSetup then (0, modeGo (activityTarget s1) s1)
  else if target == mdService then (0, modeGo mdService s1)
  else if target == mdTrain then
    (0, ({ (modeTo mdTrain s1) with boot := { s1.boot with stage := 5, service := true, warm := false, quickBad := false } }).wr F.GLB_MODE_TRANSIT 0 1)
  else (0, { s1 with boot := { s1.boot with shelf := some (depth, 1) } }.wr F.GLB_MODE_TRANSIT 0 1)

/-- A legal request of a command waits for the end of what precedes it in its tick; SAFE, which prevails, and a request without effect act at
once (R343). One behind others that wait is judged after them (assumption 87). -/
def modeRequest (job : Option Nat) (target depth : Nat) (s : State) : Nat × State :=
  let r := requestResult s target depth
  if !s.cmd || target == mdSafe || (s.asks.isEmpty && (r != 0 || target == mode s)) then
    let a := modeAct target depth s
    (a.1, if a.1 == 0 then completeOpt job stOk 0 [] a.2 else a.2)
  else (0, { s.wr F.GLB_MODE_REQ_RESULT 0 0 with asks := s.asks ++ [⟨target, depth, job⟩] })

/-- The requests that wait act, in order, in their tick (R341, R343). -/
def asksRun (s : State) : State :=
  s.asks.foldl (fun t a =>
    let r := modeAct a.target a.depth t
    completeOpt a.job (if r.1 == 0 then stOk else if r.1 == 1 then stWrongMode else stBusy) 0 [] r.2) { s with asks := [] }

/-- Step 3 of a SHELF entry begins once no shelf store runs: out-lanes close, Rake ports go DOWN (R350). -/
def shelfTick (s : State) : State :=
  match s.boot.shelf with
  | some (d, 1) =>
    if s.on F.GLB_BATCH_STORING 0 then s
    else
      let s1 := (List.range 16).foldl (fun t n => olSafe n t) { s with boot := { s.boot with shelf := some (d, 2) } }
      (List.range 4).foldl (fun t n => rkTo n rkDown t) s1
  | _ => s

/-- The SHELF entry ends: every lane is OFF, the DACs at 0 V and GP released (R350). -/
def shelfEntered (s : State) : State :=
  match s.boot.shelf with
  | some (d, 2) =>
    if (List.range 16).all (fun n => olSt s n == olOff) then
      let s1 := { s with
        boot := { s.boot with shelf := none, stage := 12, warm := d == 0, vbakFell := false }
        gpDrive := 0
        chnOut := [] }
      let s2 := (modeTo mdShelf s1).wrs [(F.GLB_MODE_DEPTH, 0, d), (F.GLB_MODE_TRANSIT, 0, 0)]
      if d == 0 then setPwr pwDrain s2 else s2
    else s
  | _ => s

end Sys2Proof.Machine
end

