-- ==== Sys2Proof/Machine/Rings.lean ====
section
/-! DEFINITION. The host's rings as registers: enables, tails and heads, ERROR (R297 to R301). -/

namespace Sys2Proof.Machine

def setHst (f : Hst → Hst) (s : State) : State := { s with hst := f s.hst }

/-- The words of host memory between head and tail of a submission ring that the device has been shown. -/
def sqBuf (s : State) (i : Nat) : List Nat := (tabGet s.hst.sqBuf i).getD []

def setSqBuf (i : Nat) (l : List Nat) (s : State) : State := setHst (fun h => { h with sqBuf := tabSet [] h.sqBuf i l }) s

def xrBuf (s : State) (x : Nat) : List Xfer := (tabGet s.hst.xrBuf x).getD []

def setXrBuf (x : Nat) (l : List Xfer) (s : State) : State := setHst (fun h => { h with xrBuf := tabSet [] h.xrBuf x l }) s

/-- A submission ring stops: 0 OFF by a disable, 3 ERROR with a cause and vector 50 (R298, R300). -/
def sqStop (i st cause : Nat) (s : State) : State :=
  let s1 := setSqBuf i [] (s.wrs [(F.HST_SQ_CTL_EN, i, 0), (F.HST_SQ_STAT_STATE, i, st)])
  if st == 3 then msixRaise 50 (s1.wr F.HST_SQ_STAT_ECAUSE i cause) else s1

/-- A write of a submission ring's enable: an accepted enable sets both pointers to 0; a ring whose reply ring is full or in
ERROR stalls (R297 to R299). -/
def sqEnable (i : Nat) (en : Bool) (s : State) : State :=
  if !en then sqStop i 0 0 s
  else if s.on F.HST_SQ_CTL_EN i then s
  else
    let st := s.rd F.HST_RQ_STAT_STATE (rqOf s i)
    setSqBuf i [] (s.wrs [(F.HST_SQ_CTL_EN, i, 1), (F.HST_SQ_HEAD_V, i, 0), (F.HST_SQ_DB_TAIL, i, 0),
      (F.HST_SQ_STAT_STATE, i, if st == 2 || st == 3 then 2 else 1)])

/-- A submission doorbell: the new tail, or ERROR where it lies too far ahead; ignored while EN = 0 (R298). -/
def sqTail (i tail : Nat) (s : State) : State :=
  if !s.on F.HST_SQ_CTL_EN i then s
  else
    let n := s.rd F.HST_SQ_CTL_SIZE i
    let ahead := (tail % 2 ^ (n + 1) + 2 ^ (n + 1) - s.rd F.HST_SQ_HEAD_V i) % 2 ^ (n + 1)
    if 2 ^ n < ahead then sqStop i 3 3 s else s.wr F.HST_SQ_DB_TAIL i (tail % 2 ^ (n + 1))

/-- A write of a reply ring's enable: whether it is ignored and flagged CFG_ENABLED, and the state (R297, R299). -/
def rqEnable (r : Nat) (en : Bool) (s : State) : Bool × State :=
  if !en then
    if (List.range 32).any (sqBound s r) && s.on F.HST_RQ_CTL_EN r then (true, s)
    else (false, s.wrs [(F.HST_RQ_CTL_EN, r, 0), (F.HST_RQ_STAT_STATE, r, 0)])
  else if s.on F.HST_RQ_CTL_EN r then (false, s)
  else
    let s1 := { s.wrs [(F.HST_RQ_CTL_EN, r, 1), (F.HST_RQ_TAIL_V, r, 0), (F.HST_RQ_STAT_STATE, r, 1)] with rqHead := tabSet 0 s.rqHead r 0 }
    (false, rqDrain r ((tabGet s1.rqWait r).getD []) s1)

/-- A reply doorbell: replies that wait are written as room comes free; a head beyond the tail is an error (R299). -/
def rqHeadWrite (r head : Nat) (s : State) : State :=
  if !s.on F.HST_RQ_CTL_EN r then s
  else
    let n := s.rd F.HST_RQ_CTL_SIZE r
    let h := head % 2 ^ (n + 1)
    let old := (tabGet s.rqHead r).getD 0
    let used := (s.rd F.HST_RQ_TAIL_V r + 2 ^ (n + 1) - old) % 2 ^ (n + 1)
    let step := (h + 2 ^ (n + 1) - old) % 2 ^ (n + 1)
    if used < step then msixRaise 50 (sqStall r true (s.wrs [(F.HST_RQ_STAT_STATE, r, 3), (F.HST_RQ_STAT_ECAUSE, r, 3)]))
    else
      let s1 := { s with rqHead := tabSet 0 s.rqHead r h }
      rqDrain r ((tabGet s1.rqWait r).getD []) s1

/-- A transfer ring stops: 0 by a disable, 3 ERROR; an open packet that it began is abandoned (R237, R301). -/
def xrStop (x st cause : Nat) (s : State) : State :=
  let s1 := qAbandonRing x (setXrBuf x [] (s.wrs [(F.HST_XR_CTL_EN, x, 0), (F.HST_XR_STAT_STATE, x, st)]))
  let s2 := setHst (fun h => { h with rewoundX := h.rewoundX.filter (fun e => e.1 / 128 != x), heldX := h.heldX.filter (fun e => e.ring != x) }) s1
  if st == 3 then msixRaise 50 (s2.wr F.HST_XR_STAT_ECAUSE x cause) else s2

/-- A write of a transfer ring's enable (R297, R301). -/
def xrEnable (x : Nat) (en : Bool) (s : State) : State :=
  if !en then xrStop x 0 0 s
  else if s.on F.HST_XR_CTL_EN x then s
  else setXrBuf x [] (s.wrs [(F.HST_XR_CTL_EN, x, 1), (F.HST_XR_HEAD_V, x, 0), (F.HST_XR_DB_TAIL, x, 0), (F.HST_XR_STAT_STATE, x, 1)])

/-- A transfer doorbell (R301). -/
def xrTail (x tail : Nat) (s : State) : State :=
  if !s.on F.HST_XR_CTL_EN x then s
  else
    let n := s.rd F.HST_XR_CTL_SIZE x
    let ahead := (tail % 2 ^ (n + 1) + 2 ^ (n + 1) - s.rd F.HST_XR_HEAD_V x) % 2 ^ (n + 1)
    if 2 ^ n < ahead then xrStop x 3 3 s else s.wr F.HST_XR_DB_TAIL x (tail % 2 ^ (n + 1))

/-- `HST_CMD.CLR`. -/
def hstClear (s : State) : State :=
  s.wrs [(F.HST_ERR_BAR2_DISC, 0, 0), (F.HST_ERR_FRAME, 0, 0), (F.HST_ERR_LOSSES, 0, 0), (F.HST_ERR2_BAR2_UE, 0, 0), (F.HST_ERR2_DMA, 0, 0)]

end Sys2Proof.Machine
end

