-- ==== Sys2Proof/Machine/Parity.lean ====
section
/-! DEFINITION. Reading registers by address, parity of the configuration registers and the SAFE of units (R30, R31, R38, R426). -/

namespace Sys2Proof.Machine

/-! ### Reading (R30, R31, R33) -/

/-- The row of a register word: run of units, unit, row, whether the word is a pair's high one. -/
def wordAt (a : Nat) : Option (Blk × Nat × Row × Bool) :=
  match regAt a with
  | some (b, u, r) => some (b, u, r, false)
  | none =>
    if a < 4 then none else
      match regAt (a - 4) with
      | some (b, u, r) => if r.pair then some (b, u, r, true) else none
      | none => none

/-- What a register reads as: CMD fields read 0, `GLB_FAULT_SUM` follows its causes, `ENC_POS` extends bit 59. -/
def rowWord (s : State) (b : Blk) (u : Nat) (r : Row) : Nat :=
  if b.base == 0 && r.off == 0x20 then s.faultSum
  else if r.flds.any (fun f => f.key 0 == F.ENC_POS_COUNT.key 0) then encPosWord s u
  else r.flds.foldl (fun n f => n + (if f.cls == .cmd then 0 else s.rd f u) * 2 ^ f.lo) 0

/-- The register word at an address; none where no register description lists it. -/
def readReg (s : State) (a : Nat) : Option Nat :=
  (wordAt (a / 4 * 4)).map (fun e => let w := rowWord s e.1 e.2.1 e.2.2.1; if e.2.2.2 then w / 2 ^ 32 else w % 2 ^ 32)

/-- The same with R30's zero. -/
def readReg0 (s : State) (a : Nat) : Nat := (readReg s a).getD 0

/-! ### Units (R35, R38, R426) -/

/-- The address by which a unit is named: that of its first register. -/
def unitAddr (b : Blk) (u : Nat) : Nat := b.base + b.stride * u

/-- Whether an address lies in a unit's registers. -/
def inUnit (b : Blk) (u a : Nat) : Bool :=
  match wordAt a with
  | some (c, v, _, _) => c.base == b.base && v == u
  | none => false

/-- Whether a register of a unit holds a detected mismatch. -/
def unitPar (s : State) (b : Blk) (u : Nat) : Bool := s.parBad.any (inUnit b u)

/-- Whether a row holds a CFG field: such a register stores a parity bit (R38). -/
def rowCfg (r : Row) : Bool := r.flds.any (fun f => f.cls == .cfg)

/-- Whether CFG fields count as writable only with the unit disabled, and it is enabled (R35, R108, R200, `REF_GCTL`). -/
def unitOn (s : State) (b : Blk) (u : Nat) (r : Row) : Bool :=
  let modes := !(mode s == mdSetup || mode s == mdService)
  match b.base with
  | 0x300000 => s.on F.RSRC_CTL_EN u
  | 0x302000 => s.on F.ENC_CTL_EN u
  | 0x303000 => s.on F.RSRC_LT_CTL_EN u
  | 0x100000 => s.on F.PLY_CTL_EN u
  | 0xA00000 => s.on F.PLY_CTL_EN u
  | 0x200000 => s.on F.CHN_CTL_EN u
  | 0x310000 => s.on F.CNV_DAC_CTL_EN u
  | 0x310100 => s.on F.CNV_ADC_CTL_EN u
  | 0x320000 => s.on F.DMD_CTL_EN u
  | 0x330000 => s.on F.CAP_CTL_EN u
  | 0x40000 => s.on F.BRN_CTL_EN u
  | 0x400000 => s.on F.FLM_OL_CTL_EN u
  | 0x401000 => s.on F.FLM_IL_CTL_EN u
  | 0x500000 => s.on F.RAKE_CTL_EN 0
  | 0x500100 => s.on F.RAKE_P_CTL_EN u
  | 0x600100 => s.on F.HST_SQ_CTL_EN u
  | 0x600500 => s.on F.HST_RQ_CTL_EN u
  | 0x600900 => s.on F.HST_XR_CTL_EN u
  | 0x700000 => s.on F.REF_CTL_EN u
  | 0x700400 => !(lanesOn s).isEmpty
  | 0x20000 => if r.off == 0 then mode s != mdService else modes
  | _ => modes

/-- The units of R426: those whose SAFE is a disable. -/
def unitDisables (base : Nat) : Bool :=
  memN [0x300000, 0x302000, 0x303000, 0x320000, 0x330000, 0x40000, 0x400000, 0x401000] base

/-- A unit of R426 enters SAFE: the effects of its disable (R426). -/
def unitSafeEnter (base u : Nat) (s : State) : State :=
  match base with
  | 0x300000 =>
    let was := s.on F.RSRC_STAT_LOST u
    let s1 := s.wrs [(F.RSRC_CTL_EN, u, 0), (F.RSRC_STAT_RATE_LIMIT, u, 0), (F.RSRC_STAT_LOST, u, 1)]
    let s2 := if was then s1 else s1.bump F.RSRC_EVT_LOSSES u
    if s2.on F.RSRC_CTL_LOSS_POL u then plySafe u 3 0 s2 else s2
  | 0x302000 => railLossAll 1 u (encQuiet u (s.wrs [(F.ENC_CTL_EN, u, 0), (F.ENC_STAT_LOST, u, 1)]))
  | 0x303000 => railLossAll 2 u (s.wrs [(F.RSRC_LT_CTL_EN, u, 0), (F.RSRC_LT_STAT_LOST, u, 1)])
  | 0x320000 => dmdEnable true u false s
  | 0x330000 => capEnable true u false s
  | 0x40000 => qSafe u s
  | 0x400000 => olSafe u s
  | 0x401000 => ilSafe u s
  | _ => s

/-- A unit of R426 leaves SAFE. -/
def unitSafeLeave (base a u : Nat) (s : State) : State :=
  if memN s.unitSafe a then
    let s1 := { s with unitSafe := delN s.unitSafe a }
    match base with
    | 0x300000 => if s1.on F.RSRC_CTL_EN u then s1 else s1.wr F.RSRC_STAT_LOST u 0
    | 0x302000 => railLossAll 1 u (s1.wr F.ENC_STAT_LOST u 0)
    | 0x303000 => railLossAll 2 u (s1.wr F.RSRC_LT_STAT_LOST u 0)
    | 0x40000 => setQu u { quOf s1 u with safe := false } s1
    | _ => s1
  else s

/-- The scope that a mismatch in a register puts into SAFE (R38). -/
def scopeSafe (a : Nat) (s : State) : State :=
  match wordAt a with
  | none => s
  | some (b, u, _, _) =>
    if unitDisables b.base then
      unitSafeEnter b.base u { s with unitSafe := addN s.unitSafe (unitAddr b u) }
    else match b.base with
    | 0x100000 => plySafe u 1 0 s
    | 0x200000 =>
      match driver s u with
      | some p => plySafe p 1 u (chnSafe u 2 s)
      | none => chnSafe u 2 s
    | 0x700000 => if laneSt s u == lsOff || laneSt s u == lsSafe then s else laneLeave u lsSafe s
    | 0x700400 => (lanesOn s).foldl (fun t l => if laneSt t l == lsSafe then t else laneLeave l lsSafe t) s
    | _ => safeEnter s

/-- A mismatch is detected: the PARITY bit, a record with the address and the stored word, SAFE (R38). -/
def parDetect (a : Nat) (s : State) : State :=
  if memN s.parBad a then { s with parOdd := delN s.parOdd a }
  else
    let s1 := { s with parOdd := delN s.parOdd a, parBad := addN s.parBad a }
    scopeSafe a (logEvent srcRegs 0x10 a (readReg0 s a) 0 s1)

/-- A set of mismatches is detected. -/
def parDetectAll (l : List Nat) (s : State) : State := l.foldl (fun t a => parDetect a t) s

/-- A write of 1 to an enable checks every CFG register of the unit (R38). -/
def parCheck (b : Blk) (u : Nat) (s : State) : State := parDetectAll (s.parOdd.filter (inUnit b u)) s

/-- The words of a register that a write touches are rewritten: their parity holds again (R38). The mask counts a pair's bits from 0
to 63. -/
def parCure (a mask : Nat) (s : State) : State :=
  let cured (x : Nat) : Bool := (x == a && mask % 2 ^ 32 != 0) || (x == a + 4 && mask / 2 ^ 32 != 0)
  { s with parOdd := s.parOdd.filter (fun x => !cured x), parBad := s.parBad.filter (fun x => !cured x) }

/-- Whether a unit reads its registers for its operation in every tick: an enabled unit, and the blocks whose scope is the
device. -/
def unitReads (s : State) (a : Nat) : Bool :=
  match wordAt a with
  | none => false
  | some (b, u, r, _) => if memN [4, 5, 6, 7, 9, 10, 11, 14] b.grp then unitOn s b u r else true

/-- Detection by use at the start of a tick. -/
def parTick (s : State) : State := parDetectAll (s.parOdd.filter (unitReads s)) s

/-- A storage upset: bit 0 to 31 of a CFG register, or its parity bit (32); a second one restores the parity (R38). -/
def parUpset (a bit : Nat) (s : State) : State :=
  match wordAt a with
  | none => s
  | some (_, u, r, hi) =>
    if !rowCfg r then s
    else
      let k := bit + (if hi then 32 else 0)
      let s1 := if 32 ≤ bit then s else
        match r.flds.find? (fun f => decide (f.lo ≤ k) && decide (k < f.lo + f.width)) with
        | some f => s.wr f u ((s.rd f u) ^^^ 2 ^ (k - f.lo))
        | none => s
      if memN s1.parBad a then s1
      else if memN s1.parOdd a then { s1 with parOdd := delN s1.parOdd a } else { s1 with parOdd := addN s1.parOdd a }

end Sys2Proof.Machine
end

