-- ==== Sys2Proof/Machine/RegWrite.lean ====
section
/-! DEFINITION. Register writes by access class (R5, R32 to R37, R39 to R42, R48, R121, R377). -/

namespace Sys2Proof.Machine

/-! ### Who writes, and what a write answers -/

/-- The source of an access: origin, sending module (CHAIN), tag of the packet, whether it came through BAR0, whether it is
applied by a batch's commit. -/
structure Who where
  o : Nat
  src : Nat
  tag : Nat
  bar0 : Bool
  batch : Bool
  deriving DecidableEq, Repr

/-- The rank of a writer among the writes of one tick: by its origin code, and BAR0 after the ring packets of its origin (R32, R295). -/
def Who.rank (w : Who) : Nat := 2 * w.o + b2n w.bar0

/-- A host's own access through BAR0. -/
def Who.bar : Who := ⟨0, 0, 0, true, false⟩

/-- What a write answers: the status of R33, the accesses to be flagged (cause, address, word), the state. -/
structure WRes where
  status : Nat
  flags : List (Nat × Nat × Nat)
  st : State

/-- Flagged accesses are recorded (R39). -/
def flagAll (o : Nat) (l : List (Nat × Nat × Nat)) (s : State) : State := l.foldl (fun t e => flag e.1 o e.2.1 e.2.2 t) s

/-- The register mask of R42. -/
def permOk (s : State) (o grp : Nat) : Bool := bitOf (s.rd F.GLB_PERM_REG_GROUPS o) grp

/-- The command mask of R42; classes 0 to 14, and 15 for `RESULT_GET`. -/
def permCmd (s : State) (o cls : Nat) : Bool := bitOf (s.rd F.GLB_PERM_CMD_CLASSES o) cls

/-- Modes of the group PLAY (R326). -/
def playMode (s : State) : Bool := memN [mdSetup, mdArmed, mdRun, mdHold, mdCoast] (mode s)

/-! ### Fields -/

/-- A field's number without its unit. -/
def Fld.id (f : Fld) : Nat := f.base * 64 + f.lo

/-- The class of a field for a unit: the masks of HOST0 and FW, and B_OWNER of a pan without port B, are RO. -/
def clsOf (f : Fld) (u : Nat) : Cls :=
  if (f.id == F.GLB_PERM_CMD_CLASSES.id || f.id == F.GLB_PERM_REG_GROUPS.id) && (u == 0 || u == 6) then .ro
  else if f.id == F.PAN_OWN_B_OWNER.id && !(u == 14 || u == 15) then .ro
  else f.cls

def passive (f : Fld) (u : Nat) : Bool := clsOf f u == .ro || clsOf f u == .st

/-- A WO1 field has been written since power-on, or holds a lock that persists (R36, R377). -/
def wo1Done (s : State) (f : Fld) (u : Nat) : Bool :=
  memN s.wo1 (f.key u) || ((f.id == F.NVM_BOOT_LOCK_LOCK.id || f.id == F.NVM_CAL_LOCK_LOCK.id) && s.on f u)

/-- LIVE and PST fields whose write does more than store. -/
def liveHooks : List Nat :=
  [F.RSRC_CTL_EN.id, F.RSRC_SCALE_SCALE.id, F.ENC_CTL_EN.id, F.RSRC_LT_CTL_EN.id, F.PLY_CTL_EN.id, F.CHN_CTL_EN.id,
    F.CNV_DAC_CTL_EN.id, F.CNV_ADC_CTL_EN.id, F.DMD_CTL_EN.id, F.CAP_CTL_EN.id, F.REF_CTL_EN.id, F.BRN_CTL_EN.id,
    F.BRN_LVL_SENSE.id, F.BRN_LVL_LEVEL.id, F.BRN_NOTE_ACK.id, F.FLM_OL_CTL_EN.id, F.FLM_IL_CTL_EN.id, F.RAKE_CTL_EN.id,
    F.RAKE_CTL_FENCE.id, F.RAKE_P_CTL_EN.id, F.HST_SQ_CTL_EN.id, F.HST_RQ_CTL_EN.id, F.HST_XR_CTL_EN.id,
    F.HST_BAR2_BASE_BASE.id, F.PAN_OWN_OWNER.id, F.PAN_OWN_B_OWNER.id, F.PAN_RET_SLEEP.id, F.CLK_REF_SEL.id,
    F.CLK_REF_POLICY.id, F.LOG_EV_RD_RECNO.id, F.LOG_EV_LVL_LEVEL.id, F.LOG_EV_NOTE_ACK.id]

def hooked (f : Fld) : Bool := f.cls == .cmd || f.cls == .pst || memN liveHooks f.id

/-- The violation of one field, as status and cause; (0, 0) for none (R5, R33, R36). -/
def fieldWhy (s : State) (b : Blk) (u : Nat) (r : Row) (f : Fld) (old new : Nat) : Nat × Nat :=
  if f.cls == .cfg && new != old && unitOn s b u r then (stEnabled, cCfgEnabled)
  else if f.cls == .wo1 && wo1Done s f u then (stLocked, cWo1Rewrite)
  else if !f.ok new then (stBadParam, cBadEncoding)
  else (0, 0)

/-! ### Effects of hooked fields: status, cause to flag, state -/

abbrev Eff := Nat × Nat × State

def done (s : State) : Eff := (0, 0, s)

/-- A write that is ignored and flagged CFG_ENABLED. -/
def ignored (b : Bool) (s : State) : Eff := if b then (stEnabled, cCfgEnabled, s) else done s

/-- An enable of a unit whose chapter gives no cause for a parity mismatch: refused with PARITY (R38; assumption 67). -/
def unlessPar (par : Bool) (act : State → Eff) (s : State) : Eff := if par then (stParity, 0, s) else act s

/-- An enable of a unit: a write of 1 checks the unit's parity; an accepted enable, or a write of 0 after every mismatch
has been rewritten, ends R426's SAFE. -/
def enable (b : Blk) (u : Nat) (f : Fld) (v : Nat) (act : Bool → Bool → State → Eff) (s : State) : Eff :=
  let s1 := if v == 1 then parCheck b u s else s
  let par := unitPar s1 b u
  let e := act par (v == 1) s1
  if (v == 1 && e.2.2.on f u) || (v == 0 && !par && e.1 == 0) then (e.1, e.2.1, unitSafeLeave b.base (unitAddr b u) u e.2.2) else e

/-- A mode request of an origin (R341): denied without class 0 of its command mask. -/
def modeReq (job : Option Nat) (o target depth : Nat) (s : State) : Nat × State :=
  if permCmd s o 0 then modeRequest job target depth s else (3, s.wr F.GLB_MODE_REQ_RESULT 0 3)

/-- The status that a request's result gives (R328). -/
def modeStatus (r : Nat) : Nat := if r == 0 then stOk else if r == 1 then stWrongMode else if r == 2 then stBusy else stDenied

/-- A player command written to a register: refused by device mode or state, it sets CMD_REJ; accepted, it clears it (R121). -/
def plyCmd (p : Nat) (ok : Bool) (act : State → State) (s : State) : Eff :=
  if playMode s && ok then done ((act s).wr F.PLY_STATE_CMD_REJ p 0) else done (s.wr F.PLY_STATE_CMD_REJ p 1)

/-- ARM and START written to `PLY_CMD`: a failed check is no refusal (R114, R115). -/
def plyCmdSt (p : Nat) (act : State → Nat × State) (s : State) : Eff :=
  if !playMode s then done (s.wr F.PLY_STATE_CMD_REJ p 1)
  else
    let r := act s
    if r.1 == stOk || r.1 == stBadParam then done (r.2.wr F.PLY_STATE_CMD_REJ p 0) else done (s.wr F.PLY_STATE_CMD_REJ p 1)

def plyClear (p : Nat) (s : State) : State :=
  s.wrs [(F.PLY_ERR_STARVES, p, 0), (F.PLY_ERR_UNDERRUNS, p, 0), (F.PLY_ERR_ECC, p, 0), (F.PLY_ERR_PANICS, p, 0),
    (F.PLY_STREAM_STAT_BADPKT, p, 0), (F.PLY_STREAM_STAT_SEQGAP, p, 0), (F.PLY_STARVE_TICKS_TICKS, p, 0), (F.PLY_UNDER_TICKS_TICKS, p, 0)]

def seqClear (p : Nat) (s : State) : State :=
  s.wrs [(F.PLY_SEQ_EVT_LATE, p, 0), (F.PLY_SEQ_EVT_DEFERRED, p, 0), (F.PLY_SEQ_EVT_HIST_OVF, p, 0), (F.PLY_SEQ_EVT_DROPPED, p, 0),
    (F.PLY_CLAMP_TICKS_TICKS, p, 0), (F.PLY_LATE_TICKS_TICKS, p, 0)]

/-- EV_CLR: the selected pending bits clear (R90). -/
def evClear (p mask : Nat) (s : State) : State :=
  let e := s.rd F.PLY_EVPEND_PEND p
  setPly p { plyOf s p with evReg := (plyOf s p).evReg.filter (fun x => !bitOf mask x.1) }
    (s.wr F.PLY_EVPEND_PEND p (e - (e &&& mask)))

def chnClear (c : Nat) (s : State) : State :=
  s.wrs [(F.CHN_LIM_POS_COUNT, c, 0), (F.CHN_LIM_VA_VEL, c, 0), (F.CHN_LIM_VA_ACC, c, 0), (F.CHN_ERR_RQ_SAT, c, 0), (F.CHN_ERR_SAT, c, 0)]

/-- RESEED; ignored and flagged while the latched seed is 0 (R153). -/
def chnReseed (c : Nat) (s : State) : Eff :=
  if (chnOf s c).seed == 0 then (stBadParam, cBadEncoding, s) else done (chnSeed c s)

def encClear (e : Nat) (s : State) : State :=
  s.wrs [(F.ENC_ERR_AMP, e, 0), (F.ENC_ERR_ILLEGAL, e, 0), (F.ENC_STAT_IDX_SEEN, e, 0)]

/-- MAINS (R67): the preset, or a rejected CFG write while the tracker is enabled. -/
def trkMains (j : Nat) (s : State) : Eff :=
  if s.on F.RSRC_LT_CTL_EN j then (stEnabled, cCfgEnabled, s)
  else done (s.wrs [(F.RSRC_LT_CTL_EDGE, j, 0), (F.RSRC_LT_NOM_NOM, j, 11636364), (F.RSRC_LT_CTL_AVG, j, 4), (F.RSRC_LT_CTL_WIN, j, 26),
    (F.RSRC_LT_CTL_MISS_MAX, j, 4), (F.RSRC_LT_CTL_SLEW, j, 1)])

def trkClear (j : Nat) (s : State) : State := s.wrs [(F.RSRC_LT_ERR_MISSED, j, 0), (F.RSRC_LT_ERR_REJECTED, j, 0)]

def railClear (p : Nat) (s : State) : State := s.wrs [(F.RSRC_EVT_LOSSES, p, 0), (F.RSRC_EVT_LIMITS, p, 0), (F.RSRC_SLIP_SLIP, p, 0)]

def clkClear (s : State) : State := s.wrs [(F.CLK_EVT_LOSSES, 0, 0), (F.CLK_EVT_UNLOCKS, 0, 0), (F.CLK_EVT_RETURNS, 0, 0)]

/-- Zeroes the drop, overwrite and skip counts (R388). -/
def logClear (s : State) : State := s.wrs [(F.LOG_EV_DROP_DROPPED, 0, 0), (F.LOG_EV_OVW_COUNT, 0, 0), (F.LOG_AUD_STAT_SKIPPED, 0, 0)]

def regErrClear (s : State) : State :=
  s.wrs [(F.GLB_REG_ERR_COUNT, 0, 0), (F.GLB_REG_ERR_CAUSE, 0, 0), (F.GLB_REG_ERR_ORIGIN, 0, 0), (F.GLB_REG_ERR_ADDR_ADDR, 0, 0)]

/-- Software events: each raises its source in the coming tick (R89). -/
def swRaise (mask : Nat) (s : State) : State :=
  (List.range 16).foldl (fun t i => if bitOf mask i then pushTrig (0xE0 + i) true (4 * t.eff) (t.eff + 1) t else t) s

/-- The marker bit that a tap watches. -/
def tapBit (s : State) (i : Nat) : Bool := bitOf (s.rd F.PLY_MARK_RAW (s.rd F.TRG_TAP_PLAYER i)) (s.rd F.TRG_TAP_BIT i)

/-- A tap takes the present bit without an event (R89). -/
def tapTake (i : Nat) (s : State) : State :=
  { s with tapBits := if tapBit s i then addN s.tapBits i else delN s.tapBits i }

/-- A write of the ownership of a pan: cause 0 is accepted (R224). -/
def panWrite (o k : Nat) (portB : Bool) (v : Nat) (s : State) : Eff :=
  let r := panRequest o k portB v s
  if r.1 == 0 then done r.2 else (if r.1 == cDenied then stDenied else stEnabled, r.1, r.2)

/-- JUMP by its register: a target outside the window is flagged (`PLY_JUMP`). -/
def plyJumpGo (p : Nat) (s : State) : Eff :=
  let t := s.rd F.PLY_JUMP_TARGET p
  if s.rd F.PLY_STEP_COUNT_COUNT p ≤ t then (stBadParam, cBadEncoding, s)
  else plyCmd p (jumpOk s p) (fun z => plyJump z.eff p t (z.rd F.PLY_JUMP_TIMING p) z) s

def plyPhaseGo (p : Nat) (s : State) : Eff :=
  plyCmd p (phaseOk s p) (fun z => plyPhase z.eff p (z.rd F.PLY_PHASE_VALUE p) z) s

/-- The PLY_ registers of a player hold a detected mismatch. -/
def plyPar (s : State) (p : Nat) : Bool := s.parBad.any (fun a => decide (0x100000 + 0x1000 * p ≤ a) && decide (a < 0x101000 + 0x1000 * p))

/-- One bit of `PLY_CMD`. -/
def plyCmdBit (p bit : Nat) (s : State) : Eff :=
  match bit with
  | 0 => plyCmdSt p (plyArm (plyPar s p) none p) s
  | 1 => plyCmdSt p (plyStart s.eff none p) s
  | 2 => plyCmd p (holdOk s p) (plyAct 4 none true p (plyHold false p)) s
  | 3 => plyCmd p (resumeOk s p) (plyAct 5 none true p (plyResume s.eff p)) s
  | 4 => plyCmd p (stopOk s p) (plyAct 3 none true p (plyStop p)) s
  | 5 => plyCmd p (skipOk s p) (fun z => plySkip z.eff p (z.rd F.PLY_SKIP_TIMING p) (z.rd F.PLY_SKIP_DROP p) z) s
  | _ => done ((plyClear p s).wr F.PLY_STATE_CMD_REJ p 0)

/-- The enable of a player: accepted, refused with CFG_BAD, or a disable (R111, R112). -/
def plyEn (par : Bool) (p : Nat) (en : Bool) (s : State) : State :=
  if !en then plyDisable p s
  else if s.on F.PLY_CTL_EN p then s
  else if plyEnableBad par p s then s.wrs [(F.PLY_CTL_EN, p, 0), (F.PLY_STATE_CFG_BAD, p, 1)]
  else plyEnable p s

/-- A CMD field written with a value. -/
def cmdHook (w : Who) (b : Blk) (u : Nat) (f : Fld) (v : Nat) (s : State) : Eff :=
  let id := f.id
  let go (z : State → State) : Eff := if v == 0 then done s else done (z s)
  match b.grp with
  | 0 =>
    if id == F.GLB_MODE_REQ_TARGET.id then
      let r := modeReq none w.o v (s.rd F.GLB_MODE_REQ_DEPTH 0) s
      (modeStatus r.1, if r.1 == 3 then cDenied else 0, r.2)
    else if id == F.GLB_REG_ERR_CLR.id then go regErrClear
    else if id == F.GLB_SNAP_GO.id then go (fun t => { t with snapReq := true })
    else done s
  | 1 => go clkClear
  | 2 => if id == F.CAR_CMD_SCRUB_NOW.id then go scrubStart else go carClear
  | 3 => go panClear
  | 4 =>
    if id == F.BRN_CMD_FLUSH.id then go (queueFlush u)
    else if id == F.BRN_CMD_DROP.id then go (qDrop u)
    else go (qClear u)
  | 5 =>
    if id == F.PLY_SEQ_CMD_CLR.id then go (seqClear u)
    else if id == F.PLY_SEQ_CMD_EV_CLR.id then go (evClear u v)
    else if id == F.PLY_JUMP_GO.id then (if v == 0 then done s else plyJumpGo u s)
    else if id == F.PLY_PHASE_GO.id then (if v == 0 then done s else plyPhaseGo u s)
    else if v == 0 then done s
    else plyCmdBit u f.lo s
  | 6 =>
    if id == F.CHN_CMD_RESEED.id then (if v == 0 then done s else chnReseed u s)
    else if id == F.CHN_CMD_CLR.id then go (chnClear u)
    else go (chnApply u v)
  | 7 =>
    if id == F.RSRC_CMD_CLR.id then go (railClear u)
    else if id == F.RSRC_CMD_REANCHOR.id then go (railReanchor u)
    else if id == F.RSRC_CMD_LOAD.id then go (railLoad u)
    else if id == F.ENC_CMD_ZERO.id then go (setEncPos u 0)
    else if id == F.ENC_CMD_CLR.id then go (encClear u)
    else if id == F.RSRC_LT_CTL_MAINS.id then (if v == 0 then done s else trkMains u s)
    else go (trkClear u)
  | 10 =>
    if id == F.CAP_CMD_FLUSH.id then go (capClose u false true)
    else if id == F.CAP_CMD_REARM.id then go (capRearm u)
    else go (capClear u)
  | 11 => if id == F.FLM_IL_CMD_REMEASURE.id then go (fun t => if ilSt t u == ilRun then ilRemeasure u t else t) else go (ilClear u)
  | 12 =>
    if v == 0 then done s
    else if id == F.RAKE_EV_RAISE_RAISE.id then done (rkRaiseMask v s)
    else if id == F.RAKE_CMD_ENUM.id then (let r := enumStart false none s; ignored (!r.1) r.2)
    else if id == F.RAKE_CMD_ENUM_FULL.id then (let r := enumStart true none s; ignored (!r.1) r.2)
    else if id == F.RAKE_CMD_CT_LOAD.id then (let r := ctLoad s; ignored (!r.1) r.2)
    else if id == F.RAKE_CMD_PULSE.id then (let r := rkPulse s; ignored (!r.1) r.2)
    else if id == F.RAKE_CMD_CLR.id then done (rkClear s)
    else done (rkPortClear u s)
  | 13 =>
    if id == F.HST_SQ_DB_TAIL.id then done (sqTail u v s)
    else if id == F.HST_RQ_DB_HEAD.id then done (rqHeadWrite u v s)
    else if id == F.HST_XR_DB_TAIL.id then done (xrTail u v s)
    else go hstClear
  | 14 =>
    if id == F.REF_CMD_FREEZE.id then go (fun t => (laneFreeze u 1 t).2)
    else if id == F.REF_CMD_ZERO.id then go (fun t => (laneFreeze u 2 t).2)
    else if id == F.REF_CMD_UNFREEZE.id then go (fun t => (laneUnfreeze u t).2)
    else go (laneClear u)
  | 16 => if id == F.LOG_CMD_AUD_FLUSH.id then go audFlush else go logClear
  | 17 => go (swRaise v)
  | 18 => go (fun t => t.wrs ([(F.PWR_EVT_PF, 0, 0), (F.PWR_EVT_THERM, 0, 0), (F.PWR_PIN_PEAK, 0, 0)]))
  | _ => done s

/-- A LIVE field of `liveHooks` written. -/
def liveHook (w : Who) (b : Blk) (u : Nat) (f : Fld) (v : Nat) (s : State) : Eff :=
  let id := f.id
  let en (act : Bool → Bool → State → Eff) : Eff := enable b u f v act s
  match b.grp with
  | 1 => if id == F.CLK_REF_SEL.id then done (selWrite v s) else done (policyWrite v s)
  | 3 =>
    if id == F.PAN_RET_SLEEP.id then done (panSleep v s)
    else panWrite w.o u (id == F.PAN_OWN_B_OWNER.id) v s
  | 4 =>
    if id == F.BRN_CTL_EN.id then en (fun par e z => let r := qEnable par u e z; ignored r.1 r.2)
    else if id == F.BRN_LVL_SENSE.id then done (qLevel u v (s.rd F.BRN_LVL_LEVEL u) s)
    else if id == F.BRN_LVL_LEVEL.id then done (qLevel u (s.rd F.BRN_LVL_SENSE u) v s)
    else done (qAck u v s)
  | 5 => en (fun par e z => done (plyEn par u e z))
  | 6 => en (fun par e z => done (chnEnable par u e z))
  | 7 =>
    if id == F.RSRC_SCALE_SCALE.id then done (railScale u v s)
    else if id == F.RSRC_CTL_EN.id then en (fun par e z => done (railEnable par u e z))
    else if id == F.ENC_CTL_EN.id then en (fun par e z => let r := encEnable par u e z; if r.1 then done r.2 else (stBadParam, cBadEncoding, r.2))
    else en (fun par e z => done (trkEnable par u e z))
  | 8 =>
    if id == F.CNV_DAC_CTL_EN.id then en (fun par e z => unlessPar (par && e) (fun y => let r := dacEnable u e y; ignored (!r.1) r.2) z)
    else en (fun par e z => unlessPar (par && e) (fun y => done (adcEnable u e y)) z)
  | 9 => en (fun par e z => done (dmdEnable par u e z))
  | 10 => en (fun par e z => done (capEnable par u e z))
  | 11 =>
    if id == F.FLM_OL_CTL_EN.id then en (fun par e z => let r := olEnable par u e z; ignored r.1 r.2)
    else en (fun par e z => let r := ilEnable par u e z; ignored r.1 r.2)
  | 12 =>
    if id == F.RAKE_CTL_FENCE.id then (let r := fenceWrite v s; ignored (!r.1) r.2)
    else if id == F.RAKE_CTL_EN.id then en (fun par e z => unlessPar (par && e) (fun y => done (rkEnable e y)) z)
    else en (fun par e z => unlessPar (par && e) (fun y => done (rkPortEnable u e y)) z)
  | 13 =>
    if id == F.HST_SQ_CTL_EN.id then en (fun par e z => unlessPar (par && e) (fun y => done (sqEnable u e y)) z)
    else if id == F.HST_RQ_CTL_EN.id then en (fun par e z => unlessPar (par && e) (fun y => let r := rqEnable u e y; ignored r.1 r.2) z)
    else if id == F.HST_XR_CTL_EN.id then en (fun par e z => unlessPar (par && e) (fun y => done (xrEnable u e y)) z)
    else done (s.wr F.HST_BAR2_BASE_BASE 0 v)
  | 14 => en (fun par e z => done (laneEnable par u e z))
  | 16 =>
    if id == F.LOG_EV_NOTE_ACK.id then done (logNotice false (s.wr F.LOG_EV_NOTE_ACK 0 v)) else done (logNotice false (s.wr f 0 v))
  | _ => done (s.wr f u v)

/-! ### Posted writes (R37, R373) -/

/-- The busy bit of a block with PST registers. -/
def pbusy (b : Blk) : Fld := if b.grp == 18 then F.PWR_PBUSY_BUSY else F.NVM_PBUSY_BUSY

/-- The slow domain applies a posted write: the fields take the word, and a GO starts its erase. -/
def pstPut (a word : Nat) (s : State) : State :=
  match wordAt a with
  | none => s
  | some (b, u, r, _) =>
    let s1 := (r.flds.filter (fun f => f.cls == .pst)).foldl (fun t f => t.wr f u (word / 2 ^ f.lo)) s
    let s2 := s1.wr (pbusy b) 0 0
    if a == F.NVM_ERASE_GO.addr 0 && bitOf word 8 then nvmPush (.erase (word % 4)) s2 else s2

/-- Posted writes of one of the two blocks are applied. -/
def pstApply (grp : Nat) (s : State) : State :=
  let mine (e : Nat × Nat) : Bool := match wordAt e.1 with | some (b, _, _, _) => b.grp == grp | none => false
  let l := s.nvm.posted.filter mine
  l.foldl (fun t e => pstPut e.1 e.2 t) (setNvm (fun n => { n with posted := n.posted.filter (fun e => !mine e) }) s)

/-- A write of a PST register: dropped and flagged while the bridge is busy over BAR0; over packets firmware waits for the
bit, which clears within 500 ns. An erase is accepted in SERVICE only, and audited. -/
def pstWrite (w : Who) (b : Blk) (u a word : Nat) (r : Row) (s : State) : Eff :=
  if s.on (pbusy b) 0 && w.bar0 then (stBusy, cPstBusy, s)
  else
    let s0 := if s.on (pbusy b) 0 then pstApply b.grp s else s
    let bad := r.flds.any (fun f => f.cls == .pst && !f.ok (word / 2 ^ f.lo % 2 ^ f.width))
    let go := a == F.NVM_ERASE_GO.addr 0 && bitOf word 8
    let refused := go && mode s != mdService
    let keep (t : Nat) : Nat := if refused && bitOf t 8 then t - 256 else t
    let old := rowWord s0 b u r
    let eff := r.flds.foldl (fun n f =>
      if f.cls == .pst && !f.ok (word / 2 ^ f.lo % 2 ^ f.width) then n + (old / 2 ^ f.lo % 2 ^ f.width) * 2 ^ f.lo
      else if f.cls == .pst then n + (word / 2 ^ f.lo % 2 ^ f.width) * 2 ^ f.lo else n) 0
    let s1 := (setNvm (fun n => { n with posted := n.posted ++ [(a, keep eff)] }) s0).wr (pbusy b) 0 1
    let s2 := if go && !refused then audit 4 (w.o == 5) w.bar0 w.src w.o w.tag 0 0 [4, word % 4] s1 else s1
    if refused then (stEnabled, cCfgEnabled, s2) else if bad then (stBadParam, cBadEncoding, s2) else done s2

/-! ### One register (R33, R34) -/

/-- A word that its register's description ignores as a whole, flagged BAD_ENCODING: more than one bit of `PLY_CMD` or
`REF_CMD`, or `CAR_QOS` without U1 > U2 > U3 > 0. -/
def rowRefused (b : Blk) (r : Row) (new : Nat) : Bool :=
  let many (v : Nat) : Bool := decide (1 < ((List.range 8).filter (fun i => bitOf v i)).length)
  (b.base == 0x100000 && r.off == 0xC && many (new % 128)) || (b.base == 0x700000 && r.off == 0x18 && many (new % 16))
    || (b.base == 0x20000 && r.off == 8 && !(decide (bitsOf new 15 8 < bitsOf new 7 0) && decide (bitsOf new 23 16 < bitsOf new 15 8)
          && decide (0 < bitsOf new 23 16)))

/-- Whether a mask of bits touches a field. -/
def touches (mask : Nat) (f : Fld) : Bool := mask / 2 ^ f.lo % 2 ^ f.width != 0

/-- A field's new value under a mask of bits; a CMD field takes the written bits only. -/
def newVal (s : State) (mask value u : Nat) (f : Fld) : Nat :=
  let m := mask / 2 ^ f.lo % 2 ^ f.width
  let v := value / 2 ^ f.lo % 2 ^ f.width
  let old := if f.cls == .cmd then 0 else s.rd f u
  (old - (old &&& m)) + (v &&& m)

/-- The effects of hooked fields in order; the first status and every cause are kept. -/
def runHooks (act : Fld → Nat → State → Eff) (l : List (Fld × Nat)) (e : Nat × List Nat × State) : Nat × List Nat × State :=
  l.foldl (fun x y =>
    let r := act y.1 y.2 x.2.2
    (if x.1 == 0 then r.1 else x.1, if r.2.1 == 0 then x.2.1 else x.2.1 ++ [r.2.1], r.2.2)) e

/-- The fields that only store, written in order; a WO1 field is written once. -/
def storeAll (u : Nat) (l : List (Fld × Nat)) (s : State) : State :=
  l.foldl (fun t e =>
    let t1 := t.wr e.1 u e.2
    if e.1.cls == .wo1 then { t1 with wo1 := addN t1.wo1 (e.1.key u) } else t1) s

/-- The bits of the fields in a list that keep a value. -/
def keptBits (l : List (Fld × Nat)) : Nat :=
  l.foldl (fun m e => if e.1.cls == .cmd then m else m ||| (2 ^ e.1.width - 1) * 2 ^ e.1.lo) 0

/-- What a write keeps of its accepted fields: those that only store take their values, and the bits of the fields that keep a value are noted
for the tick (R32). -/
def rowStore (w : Who) (b : Blk) (u : Nat) (r : Row) (mask : Nat) (acc : List (Fld × Nat)) (s : State) : State :=
  let s1 := storeAll u (acc.filter (fun e => !hooked e.1)) s
  let m := mask &&& keptBits acc
  if w.batch || m == 0 then s1 else s1.noteWrite w.rank (unitAddr b u + r.off) m

/-- The end of a write's storing: the parity of the words holds again unless a CFG field was rejected (R38), and a configuration is
audited (R387). -/
def rowKeep (w : Who) (b : Blk) (u : Nat) (r : Row) (a mask word : Nat) (cfgRej : Bool) (acc : List (Fld × Nat)) (s : State) : State :=
  let old := rowWord s b u r
  let s1 := rowStore w b u r mask acc s
  let s2 := if rowCfg r && !cfgRej && !acc.isEmpty then parCure (unitAddr b u + r.off) mask s1 else s1
  if acc.any (fun e => e.1.cls == .cfg || e.1.cls == .wo1) && !w.batch then
    audit 2 (w.o == 5) w.bar0 (if w.o == 5 then w.src else 0) w.o (if w.bar0 then 0 else w.tag) 0 0
      [a, word, if a == unitAddr b u + r.off then old % 2 ^ 32 else old / 2 ^ 32] s2
  else s2

/-- Of the accepted fields of a write, what reaches the register in its tick: the bits that no later writer has written (R32, R295), and of a
batch's write those that no other write of the tick has (R46). A command acts whatever the order. -/
def reaching (w : Who) (b : Blk) (u : Nat) (r : Row) (mask value : Nat) (acc : List (Fld × Nat)) (s : State) : List (Fld × Nat) :=
  let m := s.openBits w.batch w.rank (unitAddr b u + r.off) mask
  acc.filterMap (fun e => if e.1.cls == .cmd then some e else if touches m e.1 then some (e.1, newVal s m value u e.1) else none)

/-- The cause for which a register's write is refused whole: a handover that an old owner refuses (R224). -/
def rowCause (w : Who) (b : Blk) (u : Nat) (r : Row) (mask value : Nat) (s : State) : Nat :=
  if b.base == 0x30000 && r.off == 0 then
    panOwnWhy s w.o u (newVal s mask value u F.PAN_OWN_OWNER) (newVal s mask value u F.PAN_OWN_B_OWNER)
  else 0

/-- A write of the bits of `mask` of a register (of a pair: 64 bits) at word address `a` with the word `word` for reports. -/
def rowWrite (w : Who) (b : Blk) (u : Nat) (r : Row) (a mask value word : Nat) (s : State) : WRes :=
  if r.flds.all (fun f => passive f u) then ⟨stOk, [(cRoWrite, a, word)], s⟩
  else if r.flds.any (fun f => f.cls == .pst) then
    let e := pstWrite w b u a value r s
    ⟨e.1, if e.2.1 == 0 then [] else [(e.2.1, a, word)], e.2.2⟩
  else if rowRefused b r value then ⟨stBadParam, [(cBadEncoding, a, word)], s⟩
  else if rowCause w b u r mask value s != 0 then
    let c := rowCause w b u r mask value s
    ⟨if c == cDenied then stDenied else stEnabled, [(c, a, word)], s⟩
  else
    let fs := (r.flds.filter (fun f => !passive f u && touches mask f)).map (fun f => (f, newVal s mask value u f))
    let whys := fs.map (fun e => fieldWhy s b u r e.1 (s.rd e.1 u) e.2)
    let bad := whys.find? (fun y => y.2 != 0)
    let acc := (fs.zip whys).filterMap (fun e => if e.2.2 == 0 then some e.1 else none)
    let cfgRej := (fs.zip whys).any (fun e => e.2.2 != 0 && e.1.1.cls == .cfg)
    let act := reaching w b u r mask value acc s
    let s3 := rowKeep w b u r a mask word cfgRej act s
    let h0 : Nat × List Nat × State := match bad with | some y => (y.1, [y.2], s3) | none => (0, [], s3)
    let h1 := runHooks (fun f v t => cmdHook w b u f v t) (act.filter (fun e => e.1.cls == .cmd)) h0
    let h2 := runHooks (fun f v t => liveHook w b u f v t) (act.filter (fun e => e.1.cls == .live && hooked e.1)) h1
    let s4 := h2.2.2
    let s5 :=
      if b.base == 0xA01000 && (s.rd F.TRG_TAP_PLAYER u != s4.rd F.TRG_TAP_PLAYER u || s.rd F.TRG_TAP_BIT u != s4.rd F.TRG_TAP_BIT u
          || (!s.on F.TRG_TAP_EN u && s4.on F.TRG_TAP_EN u)) then tapTake u s4
      else if b.base == 0x10000 && r.off == 0 then pllShow s4
      else if a == F.NVM_BOOT_LOCK_LOCK.addr 0 && s4.on F.NVM_BOOT_LOCK_LOCK 0 && !s.on F.NVM_BOOT_LOCK_LOCK 0 then lockStore false s4
      else if a == F.NVM_CAL_LOCK_LOCK.addr 0 && s4.on F.NVM_CAL_LOCK_LOCK 0 && !s.on F.NVM_CAL_LOCK_LOCK 0 then lockStore true s4
      else s4
    ⟨h2.1, (match h2.2.1 with | [] => [] | c :: _ => [(c, a, word)]), s5⟩

/-! ### Accesses (R30, R40 to R42) -/

/-- The register mask, and the masks of origins, which only HOST0 and FW may write (R42). -/
def regDenied (s : State) (o : Nat) (b : Blk) : Bool :=
  !(o == 0 || o == 6) && (b.base == 0x80 || !permOk s o b.grp)

/-- Bits that a byte mask selects. -/
def byteBits (m : Nat) : Nat :=
  (if bitOf m 0 then 0xFF else 0) + (if bitOf m 1 then 0xFF00 else 0) + (if bitOf m 2 then 0xFF0000 else 0) + (if bitOf m 3 then 0xFF000000 else 0)

/-- The offsets of BAR0 that hold the MSI-X table and its pending bits (R294). -/
def vecAt (w : Who) (a : Nat) : Bool :=
  w.bar0 && ((decide (0xFF0000 ≤ a) && decide (a < 0xFF0400)) || (decide (0xFF8000 ≤ a) && decide (a < 0xFF8008)))

/-- A word of the MSI-X table; the pending bits take no write (R294; assumption 65). -/
def vecWrite (a word : Nat) (s : State) : State :=
  if a < 0xFF0400 then { s with msixTab := tabSet 0 s.msixTab ((a - 0xFF0000) / 4) (word % 2 ^ 32) } else s

/-- Address, mask, mapping, permission and width checks of a write, in order: status and cause, (0, 0) where all pass. -/
def accessWhy (s : State) (w : Who) (a bytes : Nat) : Nat × Nat :=
  if a % 4 != 0 then (stBadAlign, cBadAlign)
  else if bytes % 16 == 0 && !w.bar0 then (stBadParam, 0)
  else match wordAt a with
  | none =>
    if !vecAt w a then (stBadParam, cUnmapped) else if bytes % 16 != 15 then (stBadWidth, cBadWidth) else (0, 0)
  | some (b, u, r, _) =>
    if regDenied s w.o b then (stDenied, cDenied)
    else if bytes % 16 != 15 && (w.bar0 || !r.flds.all (fun f => clsOf f u == .live || clsOf f u == .ro)) then (stBadWidth, cBadWidth)
    else (0, 0)

/-- A write of one 32-bit word under a byte mask. -/
def regWrite (w : Who) (a bytes word : Nat) (s : State) : WRes :=
  let y := accessWhy s w a bytes
  if y.1 != 0 then ⟨y.1, if y.2 == 0 then [] else [(y.2, a, word)], s⟩
  else match wordAt a with
  | none => ⟨stOk, [], vecWrite a word s⟩
  | some (b, u, r, hi) =>
    let k := if hi then 2 ^ 32 else 1
    rowWrite w b u r a (byteBits bytes * k) (word % 2 ^ 32 * k) word s

/-- A write of both words of a pair in one tick: address of the low word (R40, R329). -/
def pairWrite (w : Who) (a bytes lo hi : Nat) (s : State) : WRes :=
  let y := accessWhy s w a bytes
  if y.1 != 0 then ⟨y.1, if y.2 == 0 then [] else [(y.2, a, lo)], s⟩
  else match wordAt a with
  | none => ⟨stBadParam, [], s⟩
  | some (b, u, r, _) =>
    let m := byteBits bytes
    rowWrite w b u r a (m + m * 2 ^ 32) (lo % 2 ^ 32 + hi % 2 ^ 32 * 2 ^ 32) lo s

/-- Whether an address is the low word of a pair. -/
def isPair (a : Nat) : Bool :=
  match regAt a with
  | some (_, _, r) => r.pair && a % 8 == 0
  | none => false

/-- Words at ascending addresses: with `pairs`, pairs that lie wholly in the range in one tick, the others on their own; the status is that
of the first refused word and the position counts from 1 (R329). -/
def regWrites (fuel : Nat) (pairs : Bool) (w : Who) (a bytes pos : Nat) (ws : List Nat) (r : Nat × Nat × List (Nat × Nat × Nat) × State) :
    Nat × Nat × List (Nat × Nat × Nat) × State :=
  match fuel with
  | 0 => r
  | n + 1 =>
    match ws with
    | [] => r
    | x :: rest =>
      let two := pairs && isPair a && !rest.isEmpty
      let e := if two then pairWrite w a bytes x (rest.headD 0) r.2.2.2 else regWrite w a bytes x r.2.2.2
      let r1 := (if r.1 == 0 then e.status else r.1, if r.1 == 0 && e.status != 0 then pos else r.2.1, r.2.2.1 ++ e.flags, e.st)
      if two then regWrites n pairs w (a + 8) bytes (pos + 2) (rest.drop 1) r1 else regWrites n pairs w (a + 4) bytes (pos + 1) rest r1

/-- Writes outside a batch: effects, then the flagged accesses; status, position of the first refused word, state. Of the accesses of
BAR0 only one of 8 bytes writes a pair in one tick (R40). -/
def writeNow (w : Who) (a bytes : Nat) (ws : List Nat) (s : State) : Nat × Nat × State :=
  let r := regWrites ws.length (!w.bar0 || ws.length == 2) w a bytes 1 ws (0, 0, [], s)
  (r.1, r.2.1, flagAll w.o r.2.2.1 r.2.2.2)

/-- A whole word written through BAR0 or by a packet of an origin, for the rows of single registers. -/
def writeWord (o a word : Nat) (s : State) : State :=
  (writeNow ⟨o, 0, 0, o == 0, false⟩ a 15 [word] s).2.2

end Sys2Proof.Machine
end

