-- ==== Sys2Proof/Machine/Boot.lean ====
section
/-! DEFINITION. Power, reset, start-up, the shelf image and RECOVER's end (R347 to R358, R376, R389, R402 to R409). -/

namespace Sys2Proof.Machine

/-! ### Applying an image (R347) -/

/-- The place of a register block in R347's order; blocks that R347 does not list come first (assumption 30). -/
def blkRank (b : Blk) : Nat :=
  match b.grp with
  | 1 => 1
  | 2 => 2
  | 3 => 3
  | 4 => 4
  | 11 => if b.base == 0x401000 then 6 else 5
  | 8 => 7
  | 7 => 8
  | 6 => 9
  | 5 => 10
  | 10 => 11
  | 9 => 12
  | 14 => 13
  | 12 => 14
  | 13 => 15
  | _ => 0

/-- The enable fields of units, which come last in their block. -/
def enables : List Nat :=
  [F.RSRC_CTL_EN.id, F.ENC_CTL_EN.id, F.RSRC_LT_CTL_EN.id, F.PLY_CTL_EN.id, F.CHN_CTL_EN.id, F.CNV_DAC_CTL_EN.id,
    F.CNV_ADC_CTL_EN.id, F.DMD_CTL_EN.id, F.CAP_CTL_EN.id, F.REF_CTL_EN.id, F.BRN_CTL_EN.id, F.FLM_OL_CTL_EN.id,
    F.FLM_IL_CTL_EN.id, F.RAKE_CTL_EN.id, F.RAKE_P_CTL_EN.id]

/-- The enables that are never restored (R348). -/
def ringEnables : List Nat := [F.HST_SQ_CTL_EN.id, F.HST_RQ_CTL_EN.id, F.HST_XR_CTL_EN.id]

/-- Hooked fields that WAKE only stores: nothing runs yet that their hook would act on. -/
def wakePlain : List Nat :=
  [F.PAN_OWN_OWNER.id, F.PAN_OWN_B_OWNER.id, F.CLK_REF_SEL.id, F.CLK_REF_POLICY.id, F.RAKE_CTL_FENCE.id]

/-- Blocks whose CFG fields follow the enable of a unit (R35). -/
def unitBlk (b : Blk) : Bool :=
  memN [0x300000, 0x302000, 0x303000, 0x100000, 0xA00000, 0x200000, 0x310000, 0x310100, 0x320000, 0x330000, 0x40000, 0x400000,
    0x401000, 0x500000, 0x500100, 0x600100, 0x600500, 0x600900, 0x700000, 0x700400] b.base

/-- The members of an image: every CFG and LIVE field that differs from the image's value or from its reset value. -/
def imgMembers (img : Tab Nat) (s : State) : List (Nat × Blk × Nat × Row × Fld × Nat) :=
  let rst := (shelfImage s 0).flds.filterMap (fun e => (fldAt e.1).map (fun f => (e.1, f.1.rst f.2)))
  let t := img.foldl (fun t e => tabPut t e.1 e.2) rst
  t.filterMap (fun e =>
    match regAt (e.1 / 64) with
    | none => none
    | some (b, u, r) => (r.flds.find? (fun f => f.lo == e.1 % 64)).map (fun f => (blkRank b, b, u, r, f, e.2)))

/-- A queue that kept its contents through SHELF-WARM is enabled without being emptied (R244). -/
def qRestore (q : Nat) (s : State) : State :=
  if qCause false q s == 0 then qSync false q (s.wrs [(F.BRN_CTL_EN, q, 1), (F.BRN_STAT_CFG_BAD, q, 0), (F.BRN_STAT_ENCAUSE, q, 0)])
  else (qEnable false q true s).2

/-- One member of an image. A refused enable is recorded (R347). -/
def imgPut (wake : Bool) (b : Blk) (u : Nat) (r : Row) (f : Fld) (v : Nat) (s : State) : State :=
  if s.rd f u == v || memN ringEnables f.id then s
  else if f.cls == .cfg then (if unitBlk b && unitOn s b u r then s else s.wr f u v)
  else if wake && memN wakePlain f.id then s.wr f u v
  else
    let s1 :=
      if wake && s.boot.warm && f.id == F.BRN_CTL_EN.id && v == 1 then qRestore u s
      else if memN liveHooks f.id then (liveHook ⟨6, 0, 0, false, true⟩ b u f v s).2.2
      else s.wr f u v
    if memN enables f.id && v == 1 && !s1.on f u then logEvent srcDevice 0x0E 5 (f.addr u) 0 s1 else s1

/-- An image applied block by block, the enables of each block last (R347). -/
def applyImage (wake : Bool) (img : Tab Nat) (s : State) : State :=
  let ms := imgMembers img s
  let put (t : State) (e : Nat × Blk × Nat × Row × Fld × Nat) : State :=
    imgPut wake e.2.1 e.2.2.1 e.2.2.2.1 e.2.2.2.2.1 e.2.2.2.2.2 t
  (List.range 16).foldl (fun t k =>
    let here := ms.filter (fun e => e.1 == k)
    let a := (here.filter (fun e => !memN enables e.2.2.2.2.1.id)).foldl put t
    (here.filter (fun e => memN enables e.2.2.2.2.1.id)).foldl put a) s

/-- The last completed shelf store. -/
def shelfLast (s : State) : Option ShelfImg := (nvNewer s 2).bind (fun i => tabGet s.nvm.shelves i)

/-- A field's value that the last completed shelf store gives, for a stage of start-up that needs it before the image is
applied (assumption 31). -/
def shelfVal (s : State) (f : Fld) (u : Nat) : Nat :=
  match shelfLast s with
  | some i => (tabGet i.flds (f.key u)).getD (f.rst u)
  | none => f.rst u

/-- `LAST_ID` and the audit entry of a restore (R347, R355). -/
def restored (staged : Bool) (id : Nat) (s : State) : State :=
  audit 3 false false 0 6 0 id 0 [b2n staged] (s.wr F.GLB_BATCH_LAST_ID 0 id)

/-! ### Loss of state (R349, R409) -/

/-- A mode of start-up is shown; start-up counts no change and writes no MODE record (assumption 32). -/
def modeShow (m : Nat) (s : State) : State := s.wrs [(F.GLB_MODE_PREV, 0, mode s), (F.GLB_MODE_MODE, 0, m)]

/-- NVM when the power ends or a reset comes: an operation in progress is cut, queued ones and firmware's lists are gone
(R374, R375, R409). -/
def nvmLost (s : State) : Nvm :=
  let n := s.nvm
  let br := match n.ops with
    | op :: _ => if s.on F.NVM_STAT_BUSY 0 then (match opPair op with | some g => if g == 4 then 0 else validBit (g + (nvTarget s g).1) | none => 0) else 0
    | [] => 0
  { n with broken := n.broken ||| br, ops := [], checks := [], posted := [], rebuild := 0, staged := none, since := [], again := false }

/-- Fields that show what is outside the logic die. -/
def ballFlds : List Nat :=
  [F.PWR_STAT_VIO.id, F.PWR_STAT_VBAK_OK.id, F.PWR_STAT_PF.id, F.PWR_VIN_VBAK.id, F.PWR_VIN_VIN.id, F.PWR_TEMP_DIE.id, F.PWR_TEMP_DRAM.id]

/-- Everything that power-on clears is cleared; start-up stands at a stage (R349, R409). -/
def coldTo (stage : Nat) (notes : List (Nat × Nat)) (s : State) : State :=
  let z := { State.reset with
    pending := s.pending
    cmd := s.cmd
    out := s.out
    freeN := s.freeN
    flds := s.flds.filter (fun (e : Nat × Nat) => match fldAt e.1 with | some (f, _) => memN ballFlds f.id | none => false)
    audMirror := []
    car := { Car.fresh with temps := s.car.temps }
    nvm := nvmLost s
    faultSum := s.faultSum
    boot := { s.boot with
      stage := stage, warm := false, service := false, shelf := none, shut := none, shutReq := false, vbakFell := false
      notes := s.boot.notes ++ notes, svcOnly := false, resetAt := none, wakeReq := false } }
  z.wrs [(F.GLB_MODE_PREV, 0, 0), (F.GLB_MODE_MODE, 0, mdTrain), (F.GLB_MODE_TRANSIT, 0, 1), (F.CLK_STAT_ON_STANDBY, 0, 1), (F.CLK_STAT_ACT, 0, 2)]

/-- A power-on reset while VIN, RESET_N and PWR_EN allow start-up, or the reset state until they do. -/
def porStart (notes : List (Nat × Nat)) (s : State) : State :=
  coldTo (if s.boot.vin && s.boot.pwrEn && s.boot.resetN then 3 else 2) notes s

/-- The fields that the always-on island and Carafe keep through SHELF-WARM (R244, R349). -/
def warmFld (f : Fld) : Bool :=
  f.cls == .wo1 || counterFlds.any (fun e => e.1.id == f.id) || memN ballFlds f.id ||
    memN ([F.GLB_MODE_CHANGES, F.GLB_MODE_DEPTH, F.GLB_TICK_TICK, F.GLB_CT_TICKS, F.GLB_CT_FRAC, F.BRN_WP_PTR, F.BRN_CP_PTR, F.BRN_RP_PTR,
      F.BRN_IPTR_ICP, F.BRN_IPTR_IRP, F.LOG_EV_WR_RECNO, F.LOG_EV_OLD_RECNO, F.LOG_AUD_SEQ_AUDSEQ, F.LOG_AUD_NVM_AUDSEQ,
      F.CAR_STAT_MAP_ACT, F.CAR_STAT_PWR, F.GLB_BATCH_LAST_ID].map Fld.id) f.id

/-- SHELF-WARM is left after `slept` ticks, and the Carafe with it its self-refresh (R212, R349). -/
def warmWake (slept : Nat) (s : State) : State :=
  let z := { State.reset with
    pending := s.pending
    cmd := s.cmd
    flds := s.flds.filter (fun (e : Nat × Nat) => match fldAt e.1 with | some (f, _) => warmFld f | none => false)
    wo1 := s.wo1
    freeN := s.freeN
    carafe := s.carafe
    pans := s.pans
    badPans := s.badPans
    fwImg := s.fwImg
    evRing := s.evRing
    audMirror := s.audMirror
    logSeq := s.logSeq
    logLevel := s.logLevel
    logTick := s.logTick
    rates := s.rates
    out := s.out
    wins := s.wins
    pool := s.pool
    segs := s.segs.map (fun (e : Nat × Seg) => (e.1, { e.2 with pin := none, locks := 0, state := if e.2.state == 3 then 2 else e.2.state }))
    badUnits := s.badUnits
    queues := s.queues.map (fun (e : Nat × Queue) => (e.1, { e.2 with writer := none, reader := none }))
    car := { Car.fresh with ueList := s.car.ueList, temps := s.car.temps, lfsr := s.car.lfsr, held := s.car.held, scrubAt := s.now, rhAt := s.now,
                            lastReq := s.now, driftAt := s.now }
    nvm := nvmLost s
    rake := { Rake.fresh with everJoined := s.rake.everJoined }
    faultSum := s.faultSum
    boot := { s.boot with stage := 3, warm := true, service := false, shelf := none, svcOnly := false, resetAt := none, wakeReq := false } }
  let t := (z.tallyBy F.GLB_TICK_TICK 0 slept).setCt (s.ct + 256 * slept)
  setPwr pwExit (t.wrs [(F.GLB_MODE_PREV, 0, 0), (F.GLB_MODE_MODE, 0, mdTrain), (F.GLB_MODE_TRANSIT, 0, 1), (F.CLK_STAT_ON_STANDBY, 0, 1),
    (F.CLK_STAT_ACT, 0, 2)])

/-- SHELF-COLD is left: a power-on with the retained pans (R226, R349). -/
def coldWake (s : State) : State :=
  { coldTo 3 (if s.boot.vbakFell then [(0x0E, 4)] else []) s with pans := s.pans, badPans := s.badPans }

/-! ### Start-up (R346, R376, R389) -/

/-- TRAIN begins. -/
def railsUp (s : State) : State :=
  if s.boot.stage == 3 then
    { s with boot := { s.boot with stage := 4 } }.wrs [(F.PWR_STAT_CONV_OK, 0, 1), (F.CLK_STAT_STBY_LOCK, 0, 1)]
  else s

/-- The highest AUDSEQ in the NVM ring whose entry passes its CRC (R389). -/
def audHighest (s : State) : Option Nat :=
  (s.nvm.audit.filter (fun e => e.2.getD 15 0 == crc32c (e.2.take 15))).foldl (fun (m : Option Nat) e =>
    let n := e.2.getD 1 0
    match m with | none => some n | some k => some (if k < n then n else k)) none

/-- The audit log after power-on: numbering goes on behind the highest entry found, the mirror is rebuilt (R389). -/
def audScan (s : State) : State :=
  let n := match audHighest s with | some k => k + 1 | none => 0
  let s1 := { s with audMirror := [] }.wrs [(F.LOG_AUD_SEQ_AUDSEQ, 0, n), (F.LOG_AUD_NVM_AUDSEQ, 0, n)]
  s1.wrB F.LOG_AUD_STAT_REBUILD 0 (n != 0)

/-- No firmware slot passes: SERVICE with the few commands of R352, and FW_INVALID in the audit ring. -/
def fwInvalid (s : State) : State :=
  let s1 := (modeShow mdService { s with boot := { s.boot with stage := 0, svcOnly := true } }).wr F.GLB_MODE_TRANSIT 0 0
  audit 5 false false 0 6 0 0 0 [s1.rd F.NVM_STAT_VALID 0] s1

/-- A firmware slot is selected among those that pass, with `bad` the slot whose check has failed (R376). -/
def fwSelect (ok : Nat → Bool) (s : State) : State :=
  let named := (bootRec s).1
  let had := s.on F.NVM_BOOT_LOCK_LOCK 0
  let miss (i : Nat) (t : State) : State :=
    let v := t.nvm.valid
    nvmShow ((setNvm (fun n => { n with valid := if bitOf v i then v - 2 ^ i else v }) t).bump F.NVM_ERR_CHECKFAIL 0)
  if ok named then s.wrs [(F.NVM_BOOT_ACTIVE, 0, named), (F.NVM_BOOT_FALLBACK, 0, 0)]
  else if !had && ok (1 - named) then
    let s1 := (miss named s).wrs [(F.NVM_BOOT_ACTIVE, 0, 1 - named), (F.NVM_BOOT_FALLBACK, 0, 1)]
    { s1 with boot := { s1.boot with notes := s1.boot.notes ++ [(0x0E, 3)] } }
  else fwInvalid (if had then miss named s else miss (1 - named) (miss named s))

/-- The boot stage ends: firmware slot, locks, calibration, shelf, the Carafe map of a cold start (R200, R376, R377). `ok`
says by bit which slot's header passes. -/
def bootChecked (ok : Nat) (s : State) : State :=
  if s.boot.stage != 4 then s
  else
    let s1 := if s.boot.warm then s else audScan s
    let b := bootRec s1
    let s2 := nvmShow (s1.wrs [(F.NVM_BOOT_NEXT, 0, b.1), (F.NVM_BOOT_LOCK_LOCK, 0, b2n b.2.1), (F.NVM_CAL_LOCK_LOCK, 0, b2n b.2.2)])
    let cal := (nvNewer s2 0).bind (fun i => tabGet s2.nvm.cals i)
    let s3 := match cal with
      | some c => calApply c s2
      | none => { s2 with boot := { s2.boot with notes := s2.boot.notes ++ [(0x0E, 2)] } }
    let s4 := if (shelfLast s3).isNone && s3.nvm.broken / 16 % 4 != 0 then
        { s3 with boot := { s3.boot with notes := s3.boot.notes ++ [(0x0E, 1)] } } else s3
    let torn := (List.range 4).foldl (fun n i => n + b2n (bitOf s4.nvm.broken (i + 2))) 0
    let s4 := s4.bumpBy F.NVM_ERR_CHECKFAIL 0 torn
    let s5 := if s.boot.warm then s4 else s4.wr F.CAR_STAT_MAP_ACT 0 (shelfVal s4 F.CAR_CTL_MAP 0)
    fwSelect (bitOf ok) { s5 with boot := { s5.boot with stage := 5, quickBad := false } }

/-- A setting that TRAIN follows: of the shelf at start-up, of the registers when SERVICE requested it. -/
def trainVal (s : State) (f : Fld) : Nat := if s.boot.service then s.rd f 0 else shelfVal s f 0

/-- Training or test failed: SERVICE with Carafe untrained and without data (R218, R352). -/
def trainFailed (s : State) : State :=
  let s1 := { carEmpty s with boot := { s.boot with stage := 0, service := false, warm := false } }
  let w := readReg0 s1 (F.CAR_TRAIN_STAT_LANE_OK.addr 0)
  (modeShow mdService (logEvent srcCarafe 0x0D w 0 0 (s1.wr F.CAR_STAT_TRAINED 0 0))).wr F.GLB_MODE_TRANSIT 0 0

/-- Carafe training ends: with valid stored delays a quick train comes first, and one that fails is followed by a full one. A success seeds
the generator of R210 (R210, R217, R218). -/
def trainDone (quick : Bool) (lanes step ms : Nat) (delays : List Int) (s : State) : State :=
  let first := trainVal s F.CAR_TRAIN_FORCE_FULL == 0 && (nvNewer s 0).isSome && !s.boot.quickBad
  if s.boot.stage != 5 || quick != first then s
  else
    let s1 := s.wrs [(F.CAR_TRAIN_STAT_LANE_OK, 0, lanes), (F.CAR_TRAIN_STAT_QUICK, 0, b2n quick), (F.CAR_TRAIN_STAT_DURATION, 0, ms),
      (F.CAR_TRAIN_STAT_FAIL_STEP, 0, if lanes % 256 == 255 then 0 else step)]
    if lanes % 256 != 255 then (if quick then { s1 with boot := { s1.boot with quickBad := true } } else trainFailed s1)
    else
      let s2 := { s1 with car := { s1.car with delays := if quick then s1.car.delays else delays, lfsr := trainVal s F.CAR_RH_SEED_SEED } }
      if s.boot.warm then
        modeShow mdWake ((setPwr pwRun (carRelease { s2 with boot := { s2.boot with stage := 8 } })).wr F.CAR_STAT_TRAINED 0 1)
      else { s2 with boot := { s2.boot with stage := 6 } }

/-- The ECC fill ends: Carafe holds no data, and no queue holds a packet (R217, R244). -/
def fillDone (s : State) : State :=
  if s.boot.stage != 6 then s
  else
    let s1 := carEmpty s
    let s2 := (List.range 128).foldl (fun t q => if t.on F.BRN_CTL_EN q && qDeep t q then qDiscard q t else t) s1
    { s2 with boot := { s2.boot with stage := 7 } }

/-- The test ends, or none was selected: WAKE, or the rest of a TRAIN that SERVICE requested. A byte lane that fails it shows (R217, R218). -/
def carTested (lanes : Nat) (s : State) : State :=
  if s.boot.stage != 7 then s
  else if lanes % 256 != 255 && trainVal s F.CAR_TRAIN_TEST != 0 then
    trainFailed (s.wrs [(F.CAR_TRAIN_STAT_LANE_OK, 0, lanes), (F.CAR_TRAIN_STAT_FAIL_STEP, 0, 7)])
  else
    let s1 := setPwr pwRun (s.wr F.CAR_STAT_TRAINED 0 1)
    if s.boot.service then { s1 with boot := { s1.boot with stage := 9 } }
    else modeShow mdWake { s1 with boot := { s1.boot with stage := 8 } }

/-- The records that earlier stages and the last shutdown left (R352). -/
def notesWrite (s : State) : State :=
  s.boot.notes.foldl (fun t e => logEvent srcDevice e.1 e.2 0 0 t) { s with boot := { s.boot with notes := [] } }

/-- The firmware image has been copied, or checked in Carafe after SHELF-WARM; BOOT is written (R376, R387). `ok` says which
slot's image passes. -/
def fwCopied (ok : Nat) (s : State) : State :=
  if s.boot.stage != 8 then s
  else
    let act := s.rd F.NVM_BOOT_ACTIVE 0
    let pass (i : Nat) : Bool := bitOf ok i
    let s1 :=
      if pass act then s
      else if s.on F.NVM_BOOT_FALLBACK 0 then fwInvalid s
      else fwSelect pass s
    if s1.boot.stage != 8 then s1
    else
      let v := s1.nvm.valid
      let a := s1.rd F.NVM_BOOT_ACTIVE 0
      let s2 := fwLoad (nvmShow (setNvm (fun n => { n with valid := if bitOf v a then v else v + 2 ^ a }) s1))
      let hi := match audHighest s2 with | some k => k | none => 0xFFFFFFFF
      let s3 := audit 6 false false 0 6 0 0 0
        [b2n (!s.boot.warm) * 4 + s2.rd F.NVM_BOOT_FALLBACK 0 * 2 + a, Config.fwVersion.toNat, hi] s2
      let s4 := notesWrite s3
      { s4 with boot := { s4.boot with stage := if s.boot.warm then 10 else 9 } }

/-- Pinned segments are back in Carafe (R79); a TRAIN of SERVICE ends here. -/
def pinsRestored (s : State) : State :=
  if s.boot.stage != 9 then s
  else
    let s1 := pinRestore s
    if s.boot.service then
      (modeTo mdService { s1 with boot := { s1.boot with stage := 0, service := false } }).wr F.GLB_MODE_TRANSIT 0 0
    else { s1 with boot := { s1.boot with stage := 10 } }

/-- Pans are awake; those not retained are zero (R226). -/
def pansReady (s : State) : State :=
  if s.boot.stage != 10 then s
  else
    let s1 := pansWake (fun _ => true) s
    { s1 with boot := { s1.boot with stage := 11 } }

/-! ### Shutdown (R408) -/

/-- A SAFE request of the shutdown that waits until it is legal. -/
def shutTry (s : State) : State :=
  if s.boot.shutReq && s.boot.stage == 0 && requestResult s mdSafe 0 == 0 then
    (modeRequest none mdSafe 0 { s with boot := { s.boot with shutReq := false } }).2
  else s

/-- The converter stops: the module is unpowered (R408). -/
def powerOff (s : State) : State := coldTo 1 [] s

/-- PWR_EN has been low for 10 µs. -/
def shutBegin (s : State) : State :=
  let s0 := { s with boot := { s.boot with pwrEn := false } }
  if s.boot.stage == 12 || s.boot.stage == 2 || s.boot.stage == 3 then powerOff s0
  else if s.boot.stage == 1 || s.boot.shut.isSome then s0
  else shutTry (audFlush { s0 with boot := { s0.boot with shut := some s.now, shutReq := true } })

/-- Ramps, shelf store and audit backlog are done. -/
def shutDrained (s : State) : State :=
  if s.boot.shut.isSome && !s.boot.shutReq && rampsDone s && !s.on F.GLB_BATCH_STORING 0 && !s.on F.LOG_AUD_STAT_BACKLOG 0 then
    powerOff s
  else s

/-- Two seconds into the shutdown; the tick does not count in a cold start-up. -/
def shutTimeout (s : State) : State :=
  match s.boot.shut with
  | some t => if s.boot.stage != 0 || decide (t + secTicks 2 ≤ s.now) then powerOff s else s
  | none => s

def shutReturn (s : State) : State :=
  let s0 := { s with boot := { s.boot with pwrEn := true } }
  if s.boot.stage == 1 && s.boot.vin then porStart [] s0 else s0

/-! ### The end of WAKE (R346, R347) -/

/-- The clocks at the end of WAKE: the sample PLL locked to the selected reference, or the standby PLL. -/
def wakeClocks (s : State) : State :=
  let p := refPresent s
  let s1 := { s with clk := { Clk.fresh with relation := p } }.wrs
    [(F.CLK_STAT_SPLL_LOCK, 0, b2n p), (F.CLK_STAT_ON_STANDBY, 0, b2n (!p)), (F.CLK_STAT_ACT, 0, if p then refSel s else 2),
     (F.CLK_STAT_STBY_LOCK, 0, 1), (F.CLK_STAT_FLUME_LOCK, 0, 1), (F.CLK_STAT_RAKE_LOCK, 0, 1)]
  (List.range 5).foldl (fun t x => ditherLoad x t) (pllShow s1)

/-- WAKE applies the shelf's image and leaves (R347). -/
def wakeEnd (s : State) : State :=
  if s.boot.stage != 11 then s
  else
    let s1 := match shelfLast s with
      | some i => restored false i.id (applyImage true i.flds s)
      | none => s
    let s2 := if s.boot.warm then
        (List.range 128).foldl (fun t q => if (tabGet t.queues q).isSome && !t.on F.BRN_CTL_EN q then qDiscard q t else t) s1
      else s1
    let s3 := (wakeClocks { s2 with boot := { s2.boot with stage := 0, warm := false } }).wr F.GLB_MODE_TRANSIT 0 0
    let s4 := if safePersists s3 then modeShow mdSafe (playersSafe s3) else modeShow (activityTarget s3) s3
    shutTry s4

/-! ### RECOVER's end (R354 to R357) -/

/-- The control processor has reloaded its firmware: the second stage. -/
def fwReloaded (s : State) : State :=
  if mode s == mdRecover && s.recov.stage == 1 then fwLoad { s with recov := { s.recov with stage := 2 } } else s

/-- `RECOVER_LOST` records of six lost batches each. -/
def lostRecords (l : List Nat) (s : State) : Nat → State
  | 0 => s
  | n + 1 =>
    if l.isEmpty then s
    else
      let w (i : Nat) : Nat := l.getD (2 * i) 0 % 65536 + l.getD (2 * i + 1) 0 % 65536 * 65536
      lostRecords (l.drop 6) (logEvent srcCp 0x0C (w 0) (w 1) (w 2) s) n

/-- RECOVER applies the image of the newest commit, or of the last completed store, and leaves. `good` says that the staged
image passes its check. With neither image every field returns to its reset value (assumption 33). -/
def recoverApply (good : Bool) (s : State) : State :=
  if !(mode s == mdRecover && s.recov.stage == 2 && rampsDone s) then s
  else
    let staged := match s.nvm.staged with | some i => if good then some i else none | none => none
    let img := match staged with | some i => some i | none => shelfLast s
    let lost := if staged.isSome then [] else s.nvm.since
    let id := match img with | some i => i.id | none => 0
    let s0 := setNvm (fun n => if staged.isSome then n else { n with staged := none, since := [] }) s
    let flds := match img with | some i => i.flds | none => []
    let keep := if s.recov.service then
        flds.filter (fun e => match fldAt e.1 with | some (f, _) => f.id != F.PLY_CTL_EN.id && f.id != F.REF_CTL_EN.id | none => true)
      else flds
    let s1 := applyImage false keep s0
    let ok (a : Nat) : Bool := match wordAt a with | some (b, u, r, _) => !(unitBlk b && unitOn s1 b u r) | none => true
    let s2 := { s1 with parBad := s1.parBad.filter (fun a => !ok a), parOdd := s1.parOdd.filter (fun a => !ok a) }
    let s3 := if img.isSome then restored staged.isSome id s2 else s2.wr F.GLB_BATCH_LAST_ID 0 0
    let s4 := lostRecords lost (logEvent srcCp 0x0B s.recov.cause (b2n staged.isSome * 65536 + id) lost.length s3) lost.length
    let jobs := s4.recov.jobs
    let s5 := { s4 with recov := { s4.recov with stage := 0, jobs := [], service := false, cause := 0 } }.wr F.GLB_MODE_TRANSIT 0 0
    let s6 := if s.recov.service then modeTo mdService s5
      else if safePersists s5 then modeTo mdSafe (playersSafe s5) else modeTo (activityTarget s5) s5
    shutTry (jobs.foldl (fun t j => complete j stInternal 0 [] t) s6)

/-! ### The supplies (R402, R404, R405, R409) -/

/-- VIN passes the start threshold. -/
def vinStart (mv : Nat) (s : State) : State :=
  let s1 := ({ s with boot := { s.boot with vin := true } }.wr F.PWR_STAT_PF 0 0).wr F.PWR_VIN_VIN 0 mv
  if s.boot.stage == 1 || s.boot.stage == 2 then (if s.boot.pwrEn then porStart [] s1 else s1)
  else if s.on F.PWR_STAT_PF 0 && powered s then nvmBegin s1 else s1

/-- VIN falls below the PF_N threshold. -/
def vinPf (mv : Nat) (s : State) : State :=
  if !s.boot.vin || s.on F.PWR_STAT_PF 0 then s
  else
    let s1 := (s.wr F.PWR_STAT_PF 0 1).wr F.PWR_VIN_VIN 0 mv
    if powered s then
      safeEnter (shelfAbandon (logEvent srcDevice 0x09 mv (s.rd F.NVM_STAT_OP 0) 0 (s1.bump F.PWR_EVT_PF 0)))
    else s1

/-- VIN falls below the brown-out threshold; SHELF-COLD lives on VBAK. -/
def vinBrownOut (s : State) : State :=
  let s0 := { s with boot := { s.boot with vin := false } }
  if s.boot.stage == 1 || (s.boot.stage == 12 && !s.boot.warm) then s0
  else if s.boot.stage == 2 then s0
  else coldTo 2 [(0x0A, 0)] s0

/-- RESET_N low for 1 µs. -/
def resetLow (s : State) : State :=
  let s0 := { s with boot := { s.boot with resetN := false } }
  if s.boot.stage == 1 then s0 else coldTo 2 [] s0

def resetHigh (s : State) : State :=
  let s0 := { s with boot := { s.boot with resetN := true } }
  if s.boot.stage == 2 then porStart [] s0 else s0

/-- A falling edge on WAKE_N: SHELF is left after `slept` ticks; during SHELF's entry the edge is kept (R351). -/
def wakeFall (slept : Nat) (s : State) : State :=
  if s.boot.shelf.isSome then { s with boot := { s.boot with wakeReq := true } }
  else if s.boot.stage != 12 then s
  else if s.boot.warm then warmWake slept s
  else if s.boot.vin then coldWake s else s

/-- The SHELF entry ends; COLD keeps the retained pans only, and a WAKE_N edge that came during the entry acts now. -/
def shelfDone (s : State) : State :=
  let s1 := shelfEntered s
  if s1.boot.stage != 12 || s.boot.stage == 12 then s1
  else
    let s2 := if s1.boot.warm then s1 else
      { s1 with
        pans := s1.pans.filter (fun c => bitOf (s1.rd F.PAN_RET_RET 0) (c.1 / 262144))
        badPans := s1.badPans.filter (fun w => bitOf (s1.rd F.PAN_RET_RET 0) (w / 32768))
        carafe := [], segs := [], fwImg := none }
    if s2.boot.wakeReq then wakeFall 0 { s2 with boot := { s2.boot with wakeReq := false } } else s2

/-- The die temperature reaches 125 °C. -/
def dieHigh (t : Nat) (s : State) : State :=
  if !powered s then s
  else
    let s1 := s.wr F.PWR_TEMP_DIE 0 t
    if s.on F.PWR_STAT_THERM 0 then s1
    else safeEnter (logEvent srcDevice 0x07 t 0 0 ((s1.wr F.PWR_STAT_THERM 0 1).bump F.PWR_EVT_THERM 0))

/-- The die temperature is below 115 °C. -/
def dieNormal (t : Nat) (s : State) : State :=
  if powered s then (s.wr F.PWR_TEMP_DIE 0 t).wr F.PWR_STAT_THERM 0 0 else s

/-- The die reaches 135 °C: the converter stops; the record is kept for the next WAKE. -/
def thermTrip (t : Nat) (s : State) : State :=
  if powered s then (coldTo 1 [(0x08, t)] s).wr F.PWR_TEMP_DIE 0 t else s

/-- The die has cooled below 100 °C after a trip. -/
def tripCooled (t : Nat) (s : State) : State :=
  let s1 := s.wr F.PWR_TEMP_DIE 0 t
  if s.boot.stage == 1 && s.boot.notes.any (fun e => e.1 == 0x08) && s.boot.vin && s.boot.pwrEn then porStart [] s1 else s

/-- VBAK crosses 2.7 V (R226, R351, R404). -/
def vbakTo (mv : Nat) (s : State) : State :=
  let ok := decide (2700 ≤ mv)
  let s1 := (s.wr F.PWR_VIN_VBAK 0 mv).wrB F.PWR_STAT_VBAK_OK 0 ok
  if s.boot.stage == 12 && !s.boot.warm && !ok then { s1 with pans := [], badPans := [], boot := { s1.boot with vbakFell := true } } else s1

/-- VIO is detected: 0 absent, 1 1.8 V, 2 3.3 V; a level that was present changes only through absent (R405). -/
def vioTo (v : Nat) (s : State) : State :=
  let old := s.rd F.PWR_STAT_VIO 0
  if old != 0 && v != 0 then s
  else
    let s1 := s.wr F.PWR_STAT_VIO 0 v
    if v == 0 then { s1.wr F.TRG_GP_STAT_LEVEL 0 0 with gpQueue := [] }
    else { s1 with gpQueue := ((List.range 16).filter (fun i => bitOf s.gpDrive i)).map (fun i => (4 * (s.now + 1), i, bitOf s.gpValue i)) }

end Sys2Proof.Machine
end

