-- ==== Sys2Proof/Machine/Packet.lean ====
section
/-! DEFINITION. Command packets: checks, tag windows, targets, holds, and what each opcode does (R44, R306 to R337). -/

namespace Sys2Proof

/-- Parameter word `i`. -/
def Pkt.w (p : Pkt) (i : Nat) : Nat := p.params.getD i 0

end Sys2Proof

namespace Sys2Proof.Machine

/-! ### What an opcode's execution answers -/

/-- Status, DETAIL, data words, accesses to be flagged, whether the command completes later, the state. -/
structure ORes where
  status : Nat
  detail : Nat
  data : List Nat
  flags : List (Nat × Nat × Nat)
  wait : Bool
  st : State

def rOk (s : State) : ORes := ⟨stOk, 0, [], [], false, s⟩
def rData (d : List Nat) (s : State) : ORes := ⟨stOk, 0, d, [], false, s⟩
def rBad (st : Nat) (s : State) : ORes := ⟨st, 0, [], [], false, s⟩
def rBadD (st d : Nat) (s : State) : ORes := ⟨st, d, [], [], false, s⟩
/-- A memory command refused for a segment that exists: its descriptor as it stands is returned (R330). -/
def rBadSeg (st d i : Nat) (s : State) : ORes := ⟨st, d, segWords (segOf s i), [], false, s⟩
def rWait (s : State) : ORes := ⟨stOk, 0, [], [], true, s⟩

/-- A command that its unit's state admits or refuses with WRONG_MODE. -/
def rIf (ok : Bool) (act : State → State) (s : State) : ORes := if ok then rOk (act s) else rBad stWrongMode s

/-- The writer that a packet is. -/
def pktWho (p : Pkt) (batch : Bool) : Who := ⟨p.org, p.src, p.tag, false, batch⟩

/-! ### The tables of R328 to R336 -/

/-- Mode groups of R326: 0 ANY, 1 LIVE, 2 PLAY, 3 SETSVC, 4 SVC, 5 as `CUP_RUN` says itself; whether the opcode is batchable;
the number of units (0: UNIT must be 0); whether it is interim. None for an opcode that is not listed. -/
def opInfo : Nat → Option (Nat × Bool × Nat × Bool)
  | 0x00 => some (0, false, 0, false)
  | 0x01 => some (0, false, 0, false)
  | 0x02 => some (0, false, 0, true)
  | 0x03 => some (1, false, 0, false)
  | 0x04 => some (1, false, 0, false)
  | 0x05 => some (1, false, 0, false)
  | 0x06 => some (0, false, 0, false)
  | 0x10 => some (0, false, 0, false)
  | 0x11 => some (1, true, 0, false)
  | 0x12 => some (1, true, 0, false)
  | 0x13 => some (0, false, 0, false)
  | 0x20 => some (1, false, 0, false)
  | 0x21 => some (1, false, 0, false)
  | 0x22 => some (1, false, 0, false)
  | 0x23 => some (1, false, 0, true)
  | 0x24 => some (1, false, 0, false)
  | 0x25 => some (1, false, 0, false)
  | 0x26 => some (1, true, 16, false)
  | 0x27 => some (0, false, 0, false)
  | 0x28 => some (0, false, 0, false)
  | 0x30 => some (2, false, 64, false)
  | 0x31 => some (2, false, 64, true)
  | 0x32 => some (2, true, 64, false)
  | 0x33 => some (2, true, 64, false)
  | 0x34 => some (2, true, 64, false)
  | 0x35 => some (2, true, 64, false)
  | 0x36 => some (2, true, 64, false)
  | 0x37 => some (2, true, 64, false)
  | 0x38 => some (2, true, 64, false)
  | 0x40 => some (1, true, 32, false)
  | 0x41 => some (1, true, 32, false)
  | 0x42 => some (1, true, 32, false)
  | 0x43 => some (1, true, 128, false)
  | 0x44 => some (1, true, 128, false)
  | 0x45 => some (1, true, 128, false)
  | 0x46 => some (0, false, 128, false)
  | 0x50 => some (1, true, 8, false)
  | 0x51 => some (1, true, 8, false)
  | 0x52 => some (1, true, 8, false)
  | 0x53 => some (1, true, 8, false)
  | 0x60 => some (1, true, 0, false)
  | 0x61 => some (1, true, 0, false)
  | 0x62 => some (1, false, 0, false)
  | 0x63 => some (3, false, 0, false)
  | 0x64 => some (0, false, 0, false)
  | 0x70 => some (5, false, 0, true)
  | 0x71 => some (3, false, 0, true)
  | 0x72 => some (4, false, 0, true)
  | 0x73 => some (4, false, 0, true)
  | 0x74 => some (4, false, 0, true)
  | 0x80 => some (0, false, 0, false)
  | 0x90 => some (0, false, 0, false)
  | 0x91 => some (0, false, 0, false)
  | 0xF0 => some (0, false, 0, false)
  | _ => none

/-- Whether an opcode gives an interim reply. -/
def opInterim (op : Nat) : Bool := match opInfo op with | some i => i.2.2.2 | none => false

/-- Bits of the first parameter words that the tables define. -/
def opBits : Nat → List Nat
  | 0x01 => [1]
  | 0x02 => [0x1F]
  | 0x10 => [0xFFFFFFFF, 0xF01FF]
  | 0x11 => [0xFFFFFFFF, 0xF01FF]
  | 0x12 => [0xFFFFFFFF, 0xF0000]
  | 0x20 => [0x3FFFF, 0x7FFFFFF, 0xF7]
  | 0x21 => [0x8003FFFF]
  | 0x22 => [0x3FFFF]
  | 0x23 => [0x8003FFFF]
  | 0x24 => [0x3FFFF]
  | 0x25 => [0xFFFFF]
  | 0x26 => [0x1FF]
  | 0x27 => [0x3FFFF]
  | 0x28 => [0xFFFFF]
  | 0x31 => [0xF3]
  | 0x35 => [0x3FFFF]
  | 0x36 => [0xFFFFFFFF, 0xFFFF]
  | 0x37 => [0xFFFFFF]
  | 0x38 => [0x3FFFF]
  | 0x45 => [0xFF]
  | 0x62 => [1]
  | 0x70 => [0xFF03]
  | 0x74 => [1]
  | 0x80 => [1]
  | _ => []

/-- The parameter words that an opcode takes (R308, R328 to R336). -/
def opWords (s : State) (p : Pkt) : Nat :=
  match p.opcode with
  | 0x01 => 1
  | 0x02 => 1
  | 0x04 => 2
  | 0x10 => 2
  | 0x11 => 2 + p.w 1 % 512
  | 0x12 => 4
  | 0x20 => 3
  | 0x21 =>
    let d := segOf s (p.w 0 % 2 ^ 18)
    if d.state == 0 then max 3 p.params.length else 3 + p.w 2 * widthWords d.width
  | 0x22 => 1
  | 0x23 => 1
  | 0x24 => 2 + 4 * p.w 1
  | 0x25 => 2 + 8 * p.w 1
  | 0x26 => 1
  | 0x27 => 1
  | 0x28 => 2
  | 0x31 => 3
  | 0x35 => 1
  | 0x36 => 2
  | 0x37 => 1
  | 0x38 => 1
  | 0x45 => 1
  | 0x61 => 2
  | 0x62 => 1
  | 0x63 => 2
  | 0x70 => 1
  | 0x73 => max 1 p.params.length
  | 0x74 => 1
  | 0x80 => 2
  | 0xF0 => 1
  | _ => 0

/-- LENGTH is what the opcode's table fixes (R308). -/
def lengthOk (s : State) (p : Pkt) : Bool :=
  p.length == 4 + p.params.length + b2n p.crc && p.params.length == opWords s p

/-- The device mode admits a group (R326). -/
def groupOk (g m : Nat) : Bool :=
  match g with
  | 0 => memN [mdSetup, mdArmed, mdRun, mdHold, mdCoast, mdCupping, mdSafe, mdService, mdRecover] m
  | 1 => memN [mdSetup, mdArmed, mdRun, mdHold, mdCoast, mdSafe, mdService] m
  | 2 => memN [mdSetup, mdArmed, mdRun, mdHold, mdCoast] m
  | 3 => m == mdSetup || m == mdService
  | 4 => m == mdService
  | _ => true

/-- Commands that read or write Carafe, which an untrained Carafe refuses in SERVICE (R346). -/
def opCarafe (p : Pkt) : Bool := p.opcode / 16 == 2 || p.opcode / 16 == 4 || (p.opcode == 0x80 && p.w 0 % 2 == 0)

/-- The commands of a device without a valid firmware image (R352). -/
def svcOps : List Nat := [0x00, 0x01, 0x73, 0x74, 0x90, 0x91, 0xF0]

/-- Step 10 of R321. -/
def modeOk (s : State) (p : Pkt) : Bool :=
  (match opInfo p.opcode with | some i => groupOk i.1 (mode s) | none => true)
    && (s.on F.CAR_STAT_TRAINED 0 || !opCarafe p)
    && (!s.boot.svcOnly || (p.org == 4 && memN svcOps p.opcode))

/-- Step 8 of R321; a device without firmware admits its few commands whatever the mask (assumption 34). -/
def maskOk (s : State) (p : Pkt) : Bool :=
  memN [0x00, 0x01, 0xF0] p.opcode || permCmd s p.org (p.opcode / 16) || (s.boot.svcOnly && p.org == 4 && memN svcOps p.opcode)

/-- Step 11 of R321: UNIT in range, reserved bits 0. -/
def unitOk (p : Pkt) : Bool :=
  (match opInfo p.opcode with | some i => (if i.2.2.1 == 0 then p.unit == 0 else decide (p.unit < i.2.2.1)) | none => true)
    && ((opBits p.opcode).zip p.params).all (fun e => e.2 ||| e.1 == e.1)

/-! ### Registers (R329) -/

/-- `COUNT` words read at ascending addresses; the position of the first unmapped one, 0 for none. -/
def regReads (s : State) (a : Nat) : Nat → List Nat
  | 0 => []
  | n + 1 => readReg0 s a :: regReads s (a + 4) n

def opRegRd (p : Pkt) (s : State) : ORes :=
  let a := p.w 0
  let n := p.w 1 % 512
  if n == 0 || decide (256 < n) || p.w 1 / 65536 % 16 == 0 then rBad stBadParam s
  else if a % 4 != 0 then rBad stBadAlign s
  else
    let gap := ((List.range n).find? (fun i => (readReg s (a + 4 * i)).isNone)).map (· + 1)
    ⟨if gap.isSome then stBadParam else stOk, gap.getD 0, regReads s a n, [], false, s⟩

/-- `REG_WR`: words, each by its class. -/
def opRegWr (batch : Bool) (p : Pkt) (s : State) : ORes :=
  let a := p.w 0
  let n := p.w 1 % 512
  let m := p.w 1 / 65536 % 16
  if n == 0 || decide (256 < n) || m == 0 then rBad stBadParam s
  else if a % 4 != 0 then ⟨stBadAlign, 1, [], [(cBadAlign, a, p.w 2)], false, s⟩
  else
    let r := regWrites n true (pktWho p batch) a m 1 (p.params.drop 2) (0, 0, [], s)
    ⟨r.1, r.2.1, [], r.2.2.1, false, r.2.2.2⟩

/-- `REG_RMW`: the written word is the old one with the selected bits replaced (R41). -/
def opRegRmw (batch : Bool) (p : Pkt) (s : State) : ORes :=
  let a := p.w 0
  let m := p.w 1 / 65536 % 16
  let old := readReg0 s a
  let new := (old - (old &&& p.w 2)) + (p.w 3 &&& p.w 2)
  if m == 0 then rBad stBadParam s
  else if a % 4 != 0 then ⟨stBadAlign, 0, [], [(cBadAlign, a, p.w 3)], false, s⟩
  else
    let r := regWrite (pktWho p batch) a m new s
    ⟨r.status, 0, if batch || r.status != stOk then [] else [old], r.flags, false, r.st⟩

/-! ### Session (R44, R45, R328) -/

def openOf (s : State) (o : Nat) : Option Batch := s.opens.find? (fun b => b.org == o)

def opBatchOpen (p : Pkt) (s : State) : ORes :=
  if p.batchId == 0 then rBad stBadParam s
  else if (openOf s p.org).isSome then rBad stBusy s
  else rOk (batchSync { s with opens := s.opens ++ [⟨p.org, p.src, p.batchId, [], 0, s.eff⟩] })

/-- Ticks that staging may take: 2 µs and 8 ns a member. -/
def stageTicks (n : Nat) : Nat := (2000 + 8 * n) * 4 / 25 + 1

def opBatchCommit (j : Nat) (p : Pkt) (s : State) : ORes :=
  let at_ := p.w 0 + p.w 1 * 2 ^ 32
  match openOf s p.org with
  | none => rBad stBadParam s
  | some b =>
    if b.id != p.batchId then rBad stBadParam s
    else if at_ != 0 && decide (serial 64 at_ (s.ctOf s.eff) > 256 * 1600000000) then rBad stBadParam s
    else if 4 ≤ s.staged.length then rBad stBusy s
    else rWait (batchSync { s with
      opens := s.opens.filter (fun x => x.org != p.org)
      staged := s.staged ++ [⟨b, j, p.tag, at_, false, false, s.eff + stageTicks b.words⟩] })

def opBatchAbort (p : Pkt) (s : State) : ORes :=
  match openOf s p.org with
  | some b =>
    if b.id == p.batchId then
      rOk (batchGone 1 b (batchSync { s with opens := s.opens.filter (fun x => x.org != p.org) }))
    else
      match s.staged.find? (fun g => g.batch.org == p.org && g.batch.id == p.batchId) with
      | some g => rOk (complete g.job stWrongMode 0x8001 [] (batchGone 1 g.batch (batchSync { s with
          staged := s.staged.filter (fun x => x.job != g.job) })))
      | none => rBad stBadParam s
  | none =>
    match s.staged.find? (fun g => g.batch.org == p.org && g.batch.id == p.batchId) with
    | some g => rOk (complete g.job stWrongMode 0x8001 [] (batchGone 1 g.batch (batchSync { s with
        staged := s.staged.filter (fun x => x.job != g.job) })))
    | none => rBad stBadParam s

def opHello (p : Pkt) (s : State) : ORes :=
  rData [Config.fwVersion.toNat, Config.fwBuild.toNat, p.org, (winOf s (winKey p.org p.src)).h, readReg0 s (F.GLB_ID_PART.addr 0),
    readReg0 s (F.GLB_ADDR_ADDR.addr 0)] s

def opModeSet (j : Nat) (p : Pkt) (s : State) : ORes :=
  let t := p.w 0 % 16
  let d := p.w 0 / 16 % 2
  if 11 < t then rBad stBadParam s
  else
    let r := modeReq (some j) p.org t d (s.wr F.GLB_MODE_REQ_DEPTH 0 d)
    if r.1 == 0 then rWait r.2 else rBad (modeStatus r.1) r.2

/-! ### Memory (R330) -/

/-- Why a segment may not be loaded, marked, freed or pinned: LOCKED (R78, R182, R232, R424). -/
def segBarred (s : State) (i : Nat) : Bool :=
  let d := segOf s i
  d.state == 3 || d.state == 4 || laneNames s i || qNames s i || (match d.pin with | some (_, false) => true | _ => false)

/-- The lowest index whose descriptor is ABSENT, and for a pair the next one too. -/
def lowAbsent (s : State) (pair : Bool) (i : Nat) : Nat → Option Nat
  | 0 => none
  | n + 1 =>
    if decide (i < segCount) && (segOf s i).state == 0 && (!pair || ((segOf s (i + 1)).state == 0 && decide (i + 1 < segCount))) then some i
    else lowAbsent s pair (i + 1) n

def opSegAlloc (p : Pkt) (s : State) : ORes :=
  let i := p.w 0
  let len := p.w 1
  let pair := bitOf (p.w 2) 2
  let width := p.w 2 % 4
  let mask := p.w 2 / 16
  if len == 0 || decide (67108864 < len) || width == 3 then rBad stBadParam s
  else
    let pick : Option Nat := if i == noSeg then lowAbsent s pair 0 (s.segs.length * 2 + 2) else some i
    match pick with
    | none => rBadD stNoMemory 1 s
    | some k =>
      if (segOf s k).state != 0 || (pair && (segOf s (k + 1)).state != 0) then
        (if (segOf s k).state != 0 then rBadSeg stBadParam 1 k s else rBadD stBadParam 1 s)
      else
        let d : Seg := { Seg.absent with state := 1, width := width, lenG := len, cpair := pair }
        match allocIn (chUsed s mask) (segStore d) s with
        | none => rBadD stNoMemory 2 s
        | some (a, s1) =>
          let s2 := setSeg k { d with base := a } s1
          if pair then
            match allocIn (chUsed s2 mask) (segStore d) s2 with
            | none => rBadD stNoMemory 2 s
            | some (b, s3) => rData (segWords (segOf s3 k)) (setSeg (k + 1) { d with base := b, cpair := false } s3)
          else rData (segWords (segOf s2 k)) s2

def opSegLoad (j : Nat) (p : Pkt) (s : State) : ORes :=
  let i := p.w 0 % 2 ^ 18
  let d := segOf s i
  if d.state == 0 then rBad stAbsent s
  else if segBarred s i then rBadSeg stLocked 0 i s
  else if segLen d < p.w 1 + p.w 2 then rBadSeg stBadParam 0 i s
  else
    let s1 := setSeg i { d with state := 1 } s
    let s2 := carWrite 67 (d.base + 4 * widthWords d.width * p.w 1) ((wordsBytes (p.params.drop 3)).map (BitVec.ofNat 8)) s1
    rWait { s2 with segLoads := s2.segLoads ++ [(j, i, bitOf (p.w 0) 31)] }

def opSegFree (p : Pkt) (s : State) : ORes :=
  let i := p.w 0
  let d := segOf s i
  if d.state == 0 then rBad stAbsent s
  else if segBarred s i || (d.cpair && segBarred s (i + 1)) then rBadSeg stLocked 0 i s
  else
    let s1 := setSeg i Seg.absent s
    let s2 := if d.cpair then setSeg (i + 1) Seg.absent s1 else s1
    rData (segWords Seg.absent) s2

def opSegPin (j : Nat) (p : Pkt) (s : State) : ORes :=
  let i := p.w 0 % 2 ^ 18
  if (segOf s i).state != 0 && (laneNames s i || qNames s i) then rBadSeg stLocked 0 i s
  else
    let r := if bitOf (p.w 0) 31 then unpinStart i j s else pinStart i j s
    if r.1 == stOk then rWait r.2
    else if (segOf s i).state == 0 then rBad r.1 s else rBadSeg r.1 0 i s

/-- A marker list that R80 admits for a segment of `l` frames: ascending offsets below L, at most 16 entries over a frame (the
cover is largest at the start of an entry). -/
def marksOk (l : Nat) (es : List (Nat × Nat × Nat)) : Bool :=
  es.all (fun e => decide (e.1 < l)) && ((es.zip (es.drop 1)).all (fun e => decide (e.1.1 ≤ e.2.1)))
    && es.all (fun e => decide ((es.filter (fun x => markCovers x e.1)).length ≤ 16))

/-- The entries of a list of words: OFFSET, BITS, DURATION. -/
def markEnts : List Nat → List (Nat × Nat × Nat)
  | a :: b :: c :: _ :: r => (a, b % 65536, c) :: markEnts r
  | _ => []

def opMarkLoad (p : Pkt) (s : State) : ORes :=
  let i := p.w 0
  let d := segOf s i
  let m := p.w 1
  if 4096 < m then rBad stBadParam s
  else if d.state == 0 then rBad stAbsent s
  else if segBarred s i then rBadSeg stLocked 0 i s
  else if !marksOk (segLen d) (markEnts (p.params.drop 2)) then rBadSeg stBadParam 0 i s
  else if m == 0 then
    let e := { d with markBase := 0, markCount := 0 }
    rData (segWords e) (setSeg i e s)
  else
    match allocIn (usedRanges s) (markStore m) s with
    | none => rBadSeg stNoMemory 0 i s
    | some (a, s1) =>
      let e := { d with markBase := a, markCount := m }
      rData (segWords e) (carWrite 67 a ((wordsBytes (p.params.drop 2)).map (BitVec.ofNat 8)) (setSeg i e s1))

/-- A step lies in the window of a player that is armed, active or arming (R85). -/
def stepLocked (s : State) (first count : Nat) : Bool :=
  (List.range 64).any (fun p =>
    (engaged s p || (plyOf s p).arm.isSome) &&
      decide (first < s.rd F.PLY_STEP_BASE_BASE p + s.rd F.PLY_STEP_COUNT_COUNT p) && decide (s.rd F.PLY_STEP_BASE_BASE p < first + count))

def opStepWrite (j : Nat) (p : Pkt) (s : State) : ORes :=
  let f := p.w 0
  let n := p.w 1
  if n == 0 || decide (2047 < n) || decide (1048576 < f + n) then rBad stBadParam s
  else if stepLocked s f n then rBad stLocked s
  else
    let s1 := carWrite 67 (stepAddr f) ((wordsBytes (p.params.drop 2)).map (BitVec.ofNat 8)) s
    rWait { s1 with stepLoads := s1.stepLoads ++ [j] }

/-- `PAN_GRANT`: as writes of `PAN_OWN`; it completes when the handovers do (R224). -/
def opPanGrant (j : Option Nat) (p : Pkt) (s : State) : ORes :=
  let k := p.unit
  let w := p.w 0
  if bitOf w 8 && k != 14 && k != 15 then rBad stBadParam s
  else if 8 < w % 16 || (bitOf w 8 && decide (8 < w / 16 % 16)) then rBad stBadParam s
  else
    let a := panRequest p.org k false (w % 16) s
    let b := if bitOf w 8 then panRequest p.org k true (w / 16 % 16) a.2 else (0, a.2)
    let c := if a.1 != 0 then a.1 else b.1
    if c != 0 then
      ⟨if c == cDenied then stDenied else stEnabled, 0, [], [(c, F.PAN_OWN_OWNER.addr k, w)], false, s⟩
    else if s.panX.hand == b.2.panX.hand then rOk b.2
    else
      match j with
      | some i => rWait { b.2 with panGrants := b.2.panGrants ++ [(i, k)] }
      | none => rOk b.2

def opStepRead (p : Pkt) (s : State) : ORes :=
  let f := p.w 0
  let n := p.w 1
  if n == 0 || decide (32 < n) || decide (1048576 < f + n) then rBad stBadParam s
  else
    let a := stepAddr f
    let bad := carBad s a (32 * n)
    let ws := (List.range (8 * n)).map (fun i => if carBad s (a + 4 * i) 4 then 0xFFFFFFFF else memRdW s.carafe (a + 4 * i))
    ⟨if bad then stEccUncorr else stOk, 0, ws, [], false, carScan 67 a (32 * n) s⟩

/-! ### Players (R331) -/

def opArm (j : Nat) (p : Nat) (s : State) : ORes :=
  let r := plyArm (plyPar s p) (some j) p s
  if r.1 == stOk then rWait r.2
  else ⟨r.1, 0, [readReg0 r.2 (F.PLY_ARM_ERR_CAUSE.addr p)], [], false, r.2⟩

/-- START writes `PLY_START` and `PLY_START_CT` before acting (R115); a refused one has no effect (R337). -/
def opStart (j : Nat) (p : Pkt) (s : State) : ORes :=
  let u := p.unit
  let s1 := s.wrs [(F.PLY_START_SRC, u, p.w 0 % 4), (F.PLY_START_EVT, u, p.w 0 / 16), (F.PLY_START_CT_AT_CT, u, p.w 1 + p.w 2 * 2 ^ 32)]
  let r := plyStart s1.eff (some j) u s1
  if r.1 == stOk then rWait r.2 else rBad r.1 s

def opJump (p : Pkt) (s : State) : ORes :=
  let u := p.unit
  let t := p.w 0 % 65536
  let m := p.w 0 / 65536
  if s.rd F.PLY_STEP_COUNT_COUNT u ≤ t || m == 0 then rBad stBadParam s
  else rIf (jumpOk s u) (plyJump s.eff u t m) s

/-- `RATE`: the register pair takes the rate, but for what a higher origin or the player's step writes in the same tick (R32, R59). -/
def opRate (batch : Bool) (p : Pkt) (s : State) : ORes :=
  let u := p.unit
  let reg := F.RSRC_RATE_RATE.addr u
  let m := s.openBits batch (2 * p.org) reg (2 ^ 64 - 1)
  let s1 := s.wr F.RSRC_RATE_RATE u (newVal s m (p.w 0 + p.w 1 * 2 ^ 32) u F.RSRC_RATE_RATE)
  if railSrc s u != 0 then rBad stWrongMode s else rOk (if batch then s1 else s1.noteWrite (2 * p.org) reg (2 ^ 64 - 1))

def opSkip (p : Pkt) (s : State) : ORes :=
  let u := p.unit
  if p.w 0 / 65536 == 3 then rBad stBadParam s
  else rIf (skipOk s u) (plySkip s.eff u (p.w 0 / 65536) (p.w 0 % 65536)) s

/-! ### The other families (R332 to R336) -/

def opQStat (q : Nat) (s : State) : ORes :=
  rData [readReg0 s (F.BRN_STAT_EMPTY.addr q), readReg0 s (F.BRN_FREE_WORDS.addr q), readReg0 s (F.BRN_FILL_WORDS.addr q),
    readReg0 s (F.BRN_NOTE_ACK.addr q)] s

def opQAck (p : Pkt) (s : State) : ORes :=
  let s1 := qAck p.unit (p.w 0) s
  rData [readReg0 s1 (F.BRN_NOTE_ACK.addr p.unit)] s1

/-- A lane command; a state that does not admit it leaves it without effect (R194). -/
def opLane (act : State → Bool × State) (s : State) : ORes := rOk (act s).2

/-- A root-only command: ENABLED elsewhere (R334). -/
def opRoot (r : Bool × State) (s : State) : ORes := if r.1 then rOk r.2 else rBad stEnabled s

def opCtLoad (p : Pkt) (s : State) : ORes := opRoot (ctLoad (s.wr F.RAKE_CT_LOAD_CT 0 (p.w 0 + p.w 1 * 2 ^ 32))) s

def opEnum (j : Nat) (p : Pkt) (s : State) : ORes :=
  let r := enumStart (p.w 0 == 1) (some j) s
  if r.1 then rWait r.2 else rBad stEnabled s

def opChainInfo (s : State) : ORes :=
  rData [readReg0 s (F.RAKE_TREE_DEVICES.addr 0), readReg0 s (F.RAKE_STAT_ROLE_ACT.addr 0), readReg0 s (F.GLB_ADDR_ADDR.addr 0),
    s.rd F.RAKE_THETA_THETA 0 % 2 ^ 32, s.rd F.RAKE_THETA_THETA 0 / 2 ^ 32] s

/-- A procedure that answers at its end. -/
def opProc (r : Nat × State) (s : State) : ORes := if r.1 == stOk then rWait r.2 else rBad r.1 s

/-- `SHELF_CLEAR`: both shelf slots are invalid and no store runs (R336). -/
def opShelfClear (p : Pkt) (s : State) : ORes :=
  let s1 := setGen 3 0 (setGen 2 0 (shelfAbandon s))
  let s2 := setNvm (fun n => { n with shelves := [], broken := n.broken % 16 }) s1
  rOk (audit 4 (p.org == 5) false (if p.org == 5 then p.src else 0) p.org p.tag 0 0 [3, 0] s2)

def opFwWrite (j : Nat) (p : Pkt) (s : State) : ORes :=
  let off := p.w 0
  let ws := p.params.drop 1
  if off % 4 != 0 || decide (8388608 < off + 4 * ws.length) then rBad stBadParam s else rWait (fwWrite j off ws s)

/-- Event records held from `r` on, up to `n` of them (R383, R385); one whose unit reads uncorrectable shows ones (R214). -/
def evRecs (s : State) (r : Nat) : Nat → List Nat
  | 0 => []
  | n + 1 =>
    if r % 2 ^ 32 == s.rd F.LOG_EV_WR_RECNO 0 then []
    else match tabGet s.evRing (r % 524288) with
      | some w => (if carBad s (evRingBase + 32 * (r % 524288)) 32 then List.replicate 8 0xFFFFFFFF else w) ++ evRecs s (r + 1) n
      | none => []

/-- Audit entries from AUDSEQ `q` on (R390). -/
def audRecs (s : State) (q : Nat) : Nat → List Nat
  | 0 => []
  | n + 1 =>
    if q % 2 ^ 32 == s.rd F.LOG_AUD_SEQ_AUDSEQ 0 then []
    else match audEntry s (q % 2 ^ 32) with
      | some w => w ++ audRecs s (q + 1) n
      | none => []

def opLogRead (p : Pkt) (s : State) : ORes :=
  let f := p.w 1
  if p.w 0 == 0 then
    let old := s.rd F.LOG_EV_OLD_RECNO 0
    let held := (s.rd F.LOG_EV_WR_RECNO 0 + 2 ^ 32 - old) % 2 ^ 32
    if held ≤ (f + 2 ^ 32 - old) % 2 ^ 32 then rBad stAbsent s
    else
      let d := evRecs s f 32
      let slots := (List.range (d.length / 8)).map (fun i => evRingBase + 32 * ((f + i) % 524288))
      if d.isEmpty then rBad stAbsent s
      else ⟨if slots.any (fun a => carBad s a 32) then stEccUncorr else stOk, d.length / 8, d, [], false,
        slots.foldl (fun t a => carScan 67 a 32 t) s⟩
  else
    let d := audRecs s f 16
    if d.isEmpty then rBad stAbsent s
    else ⟨stOk, d.length / 16, d, [], false, (List.range (d.length / 16)).foldl (fun t i => audScanned (f + i) t) s⟩

/-- STOP, HOLD and RESUME: answered at the end of the tick in which they act, unless an earlier action of that tick makes them void; a batch's
members answer with their batch (R113). -/
def opAct (j : Option Nat) (rank u : Nat) (ok : Bool) (f : State → State) (s : State) : ORes :=
  if !ok then rBad stWrongMode s
  else if j.isSome then rWait (plyAct rank j false u f s)
  else rOk (f s)

def opSvcInfo (s : State) : ORes :=
  rData [readReg0 s (F.GLB_ID_PART.addr 0), readReg0 s (F.GLB_REV_GRADE.addr 0), Config.serial.toNat % 2 ^ 32, Config.serial.toNat / 2 ^ 32,
    Config.fwVersion.toNat, readReg0 s (F.GLB_MODE_MODE.addr 0), s.faultSum] s

/-- `RESULT_GET` from the window of its own origin (R316). -/
def opResultGet (p : Pkt) (s : State) : ORes :=
  let w := winOf s (winKey p.org p.src)
  let t := p.w 0
  let d := serial 32 t w.h
  if !w.seen || decide (0 < d) then rBad stTagGap s
  else if d < -255 then rBad stTagStale s
  else match winEnt w t with
    | none => rBad stTagGap s
    | some e =>
      if !e.done then rBad stPending s
      else match e.reply with
        | some r => rData (replyList { r with dup := true }) s
        | none => rBad stTagStale s

/-! ### Step 12: execution -/

/-- The opcodes that a batch may hold, beside the register writes. -/
def opMember (j : Option Nat) (p : Pkt) (s : State) : ORes :=
  let u := p.unit
  match p.opcode with
  | 0x26 => opPanGrant j p s
  | 0x32 => opAct j 4 u (holdOk s u) (plyHold false u) s
  | 0x33 => opAct j 5 u (resumeOk s u) (plyResume s.eff u) s
  | 0x34 => opAct j 3 u (stopOk s u) (plyStop u) s
  | 0x35 => opJump p s
  | 0x36 => opRate j.isNone p s
  | 0x37 => rIf (phaseOk s u) (plyPhase s.eff u (p.w 0)) s
  | 0x38 => opSkip p s
  | 0x40 => rOk (capClose u false true s)
  | 0x41 => rOk (capRearm u s)
  | 0x42 => rOk (capClear u s)
  | 0x43 => rOk (queueFlush u s)
  | 0x44 => rOk (qDrop u s)
  | 0x45 => opQAck p s
  | 0x50 => opLane (laneFreeze u 1) s
  | 0x51 => opLane (laneUnfreeze u) s
  | 0x52 => opLane (laneFreeze u 2) s
  | 0x53 => rOk (laneClear u s)
  | 0x60 => opRoot (rkPulse s) s
  | 0x61 => rOk (rkRaiseMask (p.w 0 + p.w 1 * 2 ^ 32) s)
  | _ => rBad stBadOpcode s

/-- Every opcode's execution for a job. -/
def opRun (j : Nat) (p : Pkt) (s : State) : ORes :=
  match p.opcode with
  | 0x00 => rOk s
  | 0x01 => opHello p s
  | 0x02 => opModeSet j p s
  | 0x03 => opBatchOpen p s
  | 0x04 => opBatchCommit j p s
  | 0x05 => opBatchAbort p s
  | 0x06 => rWait { s with fences := s.fences ++ [j] }
  | 0x10 => opRegRd p s
  | 0x11 => opRegWr false p s
  | 0x12 => opRegRmw false p s
  | 0x13 => rWait { s with snapReq := true, snapJobs := s.snapJobs ++ [j] }
  | 0x20 => opSegAlloc p s
  | 0x21 => opSegLoad j p s
  | 0x22 => opSegFree p s
  | 0x23 => opSegPin j p s
  | 0x24 => opMarkLoad p s
  | 0x25 => opStepWrite j p s
  | 0x27 => rData (segWords (segOf s (p.w 0))) s
  | 0x28 => opStepRead p s
  | 0x30 => opArm j p.unit s
  | 0x31 => opStart j p s
  | 0x46 => opQStat p.unit s
  | 0x62 => opEnum j p s
  | 0x63 => opCtLoad p s
  | 0x64 => opChainInfo s
  | 0x70 => opProc (cupRun j (p.w 0 % 4) (p.w 0 / 256) s) s
  | 0x71 => opProc (calStore j s) s
  | 0x72 => opShelfClear p s
  | 0x73 => opFwWrite j p s
  | 0x74 => opProc (fwActivate j (p.w 0) s) s
  | 0x80 => opLogRead p s
  | 0x90 => opSvcInfo s
  | 0x91 => rOk { s with boot := { s.boot with resetAt := some (s.eff + msTicks 10) } }
  | 0xF0 => opResultGet p s
  | _ => opMember (some j) p s

/-! ### Batch members (R44, R320) -/

/-- Members that a packet counts for: one a word of `REG_WR`. -/
def memberWords (p : Pkt) : Nat := if p.opcode == 0x11 then p.w 1 % 512 else 1

/-- The address, alignment, width and permission checks of a register member: status, DETAIL, the access to be flagged. -/
def memberWhy (p : Pkt) (s : State) : Nat × Nat × List (Nat × Nat × Nat) :=
  if p.opcode == 0x11 || p.opcode == 0x12 then
    let n := if p.opcode == 0x11 then p.w 1 % 512 else 1
    let m := p.w 1 / 65536 % 16
    if n == 0 || decide (256 < n) then (stBadParam, 0, [])
    else
      let word (i : Nat) : Nat := if p.opcode == 0x11 then p.w (2 + i) else p.w 3
      match (List.range n).findSome? (fun i =>
          let a := p.w 0 + 4 * i
          let y := accessWhy s (pktWho p true) a m
          let posted : Bool := match wordAt a with | some (_, _, r, _) => r.flds.any (fun f => f.cls == .pst) | none => false
          if y.1 != 0 then some (y.1, i, y.2) else if posted then some (stBadParam, i, 0) else none) with
      | some (st, i, c) => (st, if p.opcode == 0x11 then i + 1 else 0, if c == 0 then [] else [(c, p.w 0 + 4 * i, word i)])
      | none => (stOk, 0, [])
  else (stOk, 0, [])

/-- A member is staged, or refused with the batch left open. -/
def addMember (p : Pkt) (s : State) : ORes :=
  match openOf s p.org with
  | none => rBad stBadParam s
  | some b =>
    let y := memberWhy p s
    if y.1 != stOk then ⟨y.1, y.2.1, [], y.2.2, false, s⟩
    else if 4096 < b.words + memberWords p then rBad stNoMemory s
    else
      let b1 := { b with members := b.members ++ [p], words := b.words + memberWords p, lastTick := s.eff }
      rOk { s with opens := s.opens.map (fun x => if x.org == p.org then b1 else x) }

/-- Step 9: membership of a packet with BATCH = 1. `own` says that TARGET is the module or 0xFFF. -/
def batchWhy (s : State) (p : Pkt) : Bool :=
  match openOf s p.org with
  | some b => b.id == p.batchId && (match opInfo p.opcode with | some i => i.2.1 | none => false)
  | none => false

/-! ### Steps 6 to 12 -/

/-- The first failing check of steps 6 to 11: status and accesses to be flagged; OK where all pass. -/
def pktWhy (s : State) (p : Pkt) : Nat × List (Nat × Nat × Nat) :=
  if (opInfo p.opcode).isNone then (stBadOpcode, [])
  else if !lengthOk s p then (stBadLength, [])
  else if !maskOk s p then (stDenied, [(cDenied, 0, 0)])
  else if p.batch && !batchWhy s p then (stBadParam, [])
  else if !modeOk s p then (stWrongMode, [])
  else if !unitOk p then (stBadParam, [])
  else (stOk, [])

/-- The outcome of a packet on the module that executes it, as job `j`. -/
def execute (j : Nat) (p : Pkt) (s : State) : State :=
  let y := pktWhy s p
  if y.1 != stOk then complete j y.1 0 [] (flagAll p.org y.2 s)
  else if p.batch then
    let r := addMember p s
    complete j r.status r.detail r.data (flagAll p.org r.flags r.st)
  else
    let inter := opInterim p.opcode && (opRun j p s).status == stOk
    let r := opRun j p (if inter then interim j s else s)
    let t := flagAll p.org r.flags r.st
    if r.wait then t else complete j r.status r.detail r.data t

/-! ### Targets (R322 to R325) -/

def isLocal (s : State) (p : Pkt) : Bool :=
  (match p.path with | .side _ => true | _ => false) ||
    (if s.on F.GLB_ADDR_VALID 0 then p.target == s.rd F.GLB_ADDR_ADDR 0 else p.target == 0)

/-- The next forward tag. -/
def fwdNext (s : State) : Nat × State :=
  (s.rake.fwdTag, setRake (fun k => { k with fwdTag := (k.fwdTag + 1) % 2 ^ 32 }) s)

/-- The tick at which a forwarded command times out. -/
def fwdDue (s : State) : Nat := s.now + msTicks (s.rd F.RAKE_TMO_TIMEOUT 0)

/-- The summary of a broadcast (R325): RESPONDER 0xFFF, DETAIL the number of modules that replied; cached for the tag. -/
def bcastDone (f : Fwd) (s : State) : State :=
  let n := f.from_.length
  let st := if s.rd F.RAKE_TREE_DEVICES 0 ≤ n then stOk else stChainTimeout
  let s1 := setRake (fun k => { k with fwds := k.fwds.map (fun x => if x.tag == f.tag then { f with done := true } else x) }) s
  match jobOf s1 f.job.id with
  | none => s1
  | some b =>
    let rep := { jobReply s1 b true false st (min n 0xFFFF) [] with responder := 0xFFF }
    let s2 := winDone (winKey b.org b.src) b.id rep { s1 with jobs := s1.jobs.filter (fun x => x.id != b.id) }
    if b.want || st != stOk then send b.path b.org rep s2 else s2

/-- A packet for another module is sent on as COMMAND with a forward tag; replies are asked for (R285, R323). -/
def forward (j : Job) (p : Pkt) (s : State) : State :=
  let t := fwdNext s
  let s1 := setRake (fun k => { k with fwds := k.fwds ++ [⟨t.1, j, fwdDue s, false, [], false⟩] }) t.2
  sideSend kdCommand p.target (pktWords { p with reply := true } t.1 true) s1

/-- A broadcast runs here as a command of its origin, its replies written but not cached, and then on every other module
(R324). -/
def broadcast (j : Job) (p : Pkt) (s : State) : State :=
  let a := newJob p s
  let s1 := execute a.1 p a.2
  let t := fwdNext s1
  let f : Fwd := ⟨t.1, j, fwdDue s1, true, [myAddr s1], false⟩
  let s2 := setRake (fun k => { k with fwds := (k.fwds ++ [f]).drop (k.fwds.length + 1 - 256) }) t.2
  let s3 := sideSend kdCommand 0xFFF (pktWords { p with reply := true } t.1 true) s2
  if s3.rd F.RAKE_TREE_DEVICES 0 ≤ 1 then bcastDone f s3 else s3

/-! ### Steps 2 to 5 -/

/-- A reply that no job carries: to a refused or repeated packet. -/
def bareReply (p : Pkt) (final pend dup : Bool) (status detail : Nat) (s : State) : Reply :=
  { opcode := p.opcode, tag := p.tag, status := status, detail := detail, responder := responder s, ct := s.ctEv, crc := p.crc,
    final := final, pend := pend, dup := dup, data := [] }

/-- A packet that fails step 2 or 3: always answered, never entered, recorded at most 1,000 times a second. -/
def pktRefused (status : Nat) (p : Pkt) (s : State) : State :=
  logLimited 321 (srcOrigin p.org) 0x12 (p.opcode * 2 ^ 24 + status) p.tag 0 (send p.path p.org (bareReply p true false false status 0 s) s)

/-- The window of `HELLO` with RESYNC: emptied, H at its tag. -/
def resync (k tag : Nat) (s : State) : State :=
  setWin k ⟨true, tag, []⟩ { s with pool := s.pool.filter (fun e => e.1 != k) }

/-- A packet that the tag window took as new, or `RESULT_GET`: step 5 and what follows. -/
def dispatch (entered : Bool) (p : Pkt) (s : State) : State :=
  let a := newJob p s
  let s1 := if entered then winEnter (winKey p.org p.src) p.tag p.opcode a.1 a.2 else a.2
  match jobOf s1 a.1 with
  | none => s1
  | some b =>
    let side := match p.path with | .side _ => true | _ => false
    if p.target == 0xFFF && !side then
      (if p.opcode == 0xF0 then complete a.1 stBadParam 0 [] s1 else broadcast b p s1)
    else if isLocal s1 p then execute a.1 p s1
    else if p.batch then complete a.1 stBadParam 0 [] s1
    else if !s1.on F.GLB_ADDR_VALID 0 then complete a.1 stChainTimeout 1 [] s1
    else forward b p s1

/-- Steps 2 to 5 for a packet that starts (R311, R312, R321). -/
def startPkt (p : Pkt) (s : State) : State :=
  let side := match p.path with | .side _ => true | _ => false
  let k := winKey p.org p.src
  let w := winOf s k
  let d := serial 32 p.tag w.h
  let answer (r : Reply) : State := if p.reply || (r.status != stOk && r.status != stPending) then send p.path p.org r s else s
  if (p.crc && !p.crcOk) || (side && !p.crc) then pktRefused stBadCrc p s
  else if !p.hdrOk || (p.batch && p.batchId == 0) then pktRefused stBadParam p s
  else if p.opcode == 0xF0 then dispatch false p s
  else if p.opcode == 0x01 && p.w 0 % 2 == 1 then
    match winEnt w p.tag with
    | some e =>
      if e.done && e.opcode == 0x01 && decide (-255 ≤ d) && decide (d ≤ 0) then
        (match e.reply with | some r => answer { r with dup := true } | none => answer (bareReply p true false false stTagStale 0 s))
      else dispatch true p (resync k p.tag s)
    | none => dispatch true p (resync k p.tag s)
  else if !w.seen then dispatch true p s
  else if 256 < d then answer (bareReply p true false false stTagGap (w.h % 65536) s)
  else if d < -255 then answer (bareReply p true false false stTagStale 0 s)
  else match winEnt w p.tag with
    | none => dispatch true p s
    | some e =>
      if !e.done then answer (bareReply p false true true stPending 0 s)
      else if e.opcode != p.opcode then answer (bareReply p true false false stDuplicate 0 s)
      else match e.reply with
        | some r => answer { r with dup := true }
        | none => answer (bareReply p true false false stTagStale 0 s)

/-! ### Holds (R317, R318, R326) -/

/-- Packets are fetched: not in SHELF, WAKE and TRAIN, not in RECOVER's first stage, not once a SHELF entry has begun. -/
def fetching (s : State) : Bool :=
  s.boot.stage == 0 && !memN [mdShelf, mdWake, mdTrain] (mode s) && s.boot.shelf.isNone && !(mode s == mdRecover && s.recov.stage == 1)

/-- Two packets of one origin. -/
def sameOrg (a b : Pkt) : Bool := a.org == b.org && (a.org != 5 || a.src == b.src)

/-- A job of a packet's origin. -/
def jobSame (s : State) (p : Pkt) (j : Nat) : Bool :=
  match jobOf s j with | some b => b.org == p.org && (p.org != 5 || b.src == p.src) | none => false

/-- Whether a packet may not start yet: an earlier packet of its origin, class and unit has not been accepted (an ARM is accepted
at its completion, and a further ARM of its player starts and answers `BUSY`, R114), or a fence holds it. -/
def pktHeld (s : State) (earlier : List Pkt) (p : Pkt) : Bool :=
  !fetching s
    || earlier.any (fun q => sameOrg q p && ((q.opcode / 16 == p.opcode / 16 && q.unit == p.unit) || p.fence || p.opcode == 0x06))
    || (p.opcode / 16 == 3 && p.opcode != 0x30 && (match (plyOf s p.unit).arm with | some (some j, _) => jobSame s p j | _ => false))
    || (p.fence && (s.jobs.any (fun b => b.org == p.org && (p.org != 5 || b.src == p.src)) || s.car.held.any (·.wr)))

/-- The state once a packet is counted at its transport (`HST_BYTES`). -/
def counted (p : Pkt) (s : State) : State :=
  match p.path with
  | .side _ => s
  | .none => s
  | _ => s.tallyBy F.HST_BYTES_COUNT 0 (4 * p.length)

/-- A packet arrives: it starts, or waits behind its holds. -/
def arrive (p : Pkt) (s : State) : State :=
  if !powered s then s
  else
    let s1 := counted p s
    if pktHeld s1 s1.heldPkts p then { s1 with heldPkts := s1.heldPkts ++ [p] } else startPkt p s1

/-- Held packets that may start do so, in order. -/
def drainHeld (s : State) : State :=
  let l := s.heldPkts
  let r := l.foldl (fun (e : List Pkt × State) p =>
    if pktHeld e.2 e.1 p then (e.1 ++ [p], e.2) else (e.1, startPkt p e.2)) ([], { s with heldPkts := [] })
  { r.2 with heldPkts := r.1 ++ r.2.heldPkts }

/-- A fence completes: every earlier command of its origin has replied and every Carafe write is visible (R318). -/
def fencesDone (s : State) : State :=
  let ready (t : State) (f : Nat) : Bool :=
    match jobOf t f with
    | none => true
    | some b => !t.jobs.any (fun x => decide (x.id < f) && x.org == b.org && (b.org != 5 || x.src == b.src)) &&
        t.segLoads.all (fun e => decide (f < e.1)) && t.stepLoads.all (fun e => decide (f < e)) && !t.car.held.any (·.wr)
  let r := s.fences.foldl (fun (e : List Nat × State) f =>
    if ready e.2 f then (e.1, complete f stOk 0 [] e.2) else (e.1 ++ [f], e.2)) ([], s)
  { r.2 with fences := r.1 }

/-! ### Batches in their commit tick (R46, R47) -/

/-- Members applied in order until one fails: status, its position, accesses to be flagged, state. -/
def batchRun : List Pkt → Nat → List (Nat × Nat × Nat) → State → Nat × Nat × List (Nat × Nat × Nat) × State
  | [], _, fl, s => (stOk, 0, fl, s)
  | p :: rest, pos, fl, s =>
    let r := if !modeOk s p then rBad stWrongMode s
      else if p.opcode == 0x11 then opRegWr true p s
      else if p.opcode == 0x12 then opRegRmw true p s
      else opMember none p s
    if r.status == stOk then batchRun rest (pos + memberWords p) (fl ++ r.flags) r.st
    else (r.status, pos + (if p.opcode == 0x11 then r.detail - 1 else 0), r.flags, s)

/-- CRC-32C over the member packets without trailers (R387). -/
def batchCrc (l : List Pkt) : Nat :=
  crc32c ((l.map (fun p => (pktWords p p.tag p.crc).take (4 + p.params.length))).flatten)

/-- A staged batch applies all its members, or none (R46, R47). -/
def batchApply (g : Staged) (s0 : State) : State :=
  let s := batchSync { s0 with staged := s0.staged.filter (fun x => x.job != g.job) }
  let b := g.batch
  let r := batchRun b.members 1 [] s
  if r.1 == stOk then
    let s1 := flagAll b.org r.2.2.1 r.2.2.2
    let s2 := audit 1 (b.org == 5) false (if b.org == 5 then b.src else 0) b.org g.tag b.id b.words [batchCrc b.members] s1
    let s3 := shelfStore b.id ((s2.wr F.GLB_BATCH_LAST_ID 0 b.id).tally F.GLB_BATCH_COMMITS 0)
    complete g.job stOk (b2n g.late) [] s3
  else complete g.job r.1 r.2.1 [] (flagAll b.org r.2.2.1 s)

/-- Whether a staged batch applies in the coming tick. -/
def batchDue (s : State) (g : Staged) : Bool :=
  g.ready && (g.atCt == 0 || g.late || decide (0 ≤ sgn 56 (s.ctOf s.eff / 256 + 2 ^ 56 - g.atCt / 256)))

/-- The batches of the coming tick apply in the order in which their commits arrived. -/
def batchesDue (s : State) : State :=
  (s.staged.filter (batchDue s)).foldl (fun t g => if t.staged.any (fun x => x.job == g.job) then batchApply g t else t) s

/-- Staging of the oldest unstaged commit completes: LATE where its AT_CT has passed; an interim reply where one was given
(R45, R328). -/
def stagingDone (s : State) : State :=
  match s.staged.find? (fun g => !g.ready) with
  | none => s
  | some g =>
    let late := g.atCt != 0 && decide (sgn 56 (g.atCt / 256 + 2 ^ 56 - s.ctOf s.eff / 256) < 0)
    let s1 := { s with staged := s.staged.map (fun x => if x.job == g.job then { x with ready := true, late := late } else x) }
    if g.atCt != 0 then interim g.job s1 else s1

/-- Open batches without a member and a commit for 60 s are aborted (R44). -/
def batchTimeout (s : State) : State :=
  let old := s.opens.filter (fun b => decide (b.lastTick + secTicks 60 ≤ s.now))
  old.foldl (fun t b => batchGone 2 b t)
    (batchSync { s with opens := s.opens.filter (fun b => !decide (b.lastTick + secTicks 60 ≤ s.now)) })

/-! ### Replies to other modules -/

/-- Replies for modules that sent COMMANDs leave as REPLY packets (R285). -/
def flushSide (s : State) : State :=
  let side (o : Out) : Bool := match o with | .reply (.side _) _ _ => true | _ => false
  (s.out.filter side).foldl (fun t o =>
    match o with
    | .reply (.side d) _ r => if d == 0xFFF then t else sideSend kdReply d (replyList { r with crc := true }) t
    | _ => t) { s with out := s.out.filter (fun o => !side o) }

/-- The end of every command. -/
def finish (s : State) : State := settle (flushSide s)

end Sys2Proof.Machine
end

