-- ==== Sys2Proof/Machine/HostLink.lean ====
section
/-! DEFINITION. The host attachment: submission fetch, transfers, BAR2, interrupts, USB paths, link loss (R296 to R305). -/

namespace Sys2Proof.Machine

/-! ### Submission rings (R298) -/

/-- The head shadow of a submission ring is written. -/
def sqShadow (i : Nat) (s : State) : State :=
  match tabGet s.hst.shadow i with
  | none => s
  | some _ => setHst (fun h => { h with shadow := tabDel h.shadow i })
      { s with out := s.out ++ [Out.hostWrite i 0 (s.rd F.HST_SQ_HEAD_V i)] }

/-- Bytes consumed: the head moves, and its shadow is written once a quarter of the ring has been consumed. -/
def sqConsume (i bytes : Nat) (s : State) : State :=
  let n := s.rd F.HST_SQ_CTL_SIZE i
  let s1 := s.wr F.HST_SQ_HEAD_V i ((s.rd F.HST_SQ_HEAD_V i + bytes) % 2 ^ (n + 1))
  let e := (tabGet s1.hst.shadow i).getD (0, s.eff)
  let s2 := setHst (fun h => { h with shadow := tabPut h.shadow i (e.1 + bytes, e.2) }) s1
  if 2 ^ n ≤ 4 * (e.1 + bytes) then sqShadow i s2 else s2

/-- Whether a ring's next turn finds something to do: a whole packet, or a length that stops the ring. -/
def sqReady (s : State) (i : Nat) : Bool :=
  s.on F.HST_SQ_CTL_EN i && s.rd F.HST_SQ_STAT_STATE i == 1 &&
    (match sqBuf s i with
      | [] => false
      | w :: r => let n := w % 65536
        decide (n < 4) || decide (2 ^ s.rd F.HST_SQ_CTL_SIZE i < 4 * n) || decide (n ≤ r.length + 1))

/-- One turn of a ring: its packet is presented, or the ring enters ERROR. -/
def sqTurn (i : Nat) (s : State) : State :=
  let ws := sqBuf s i
  let n := ws.headD 0 % 65536
  if n < 4 then sqStop i 3 1 s
  else if 2 ^ s.rd F.HST_SQ_CTL_SIZE i < 4 * n then sqStop i 3 2 s
  else arrive (pktOfWords (i / 8) 0 (.ring (Fin.ofNat 32 i)) (ws.take n)) (sqConsume i (4 * n) (setSqBuf i (ws.drop n) s))

/-- Rings are served in turn, one packet a turn, while any is ready. -/
def sqPump : Nat → State → State
  | 0, s => s
  | fuel + 1, s =>
    if !fetching s then s
    else match ((List.range 32).map (fun k => (s.hst.sqNext + k) % 32)).find? (sqReady s) with
      | none => s
      | some i => sqPump fuel (setHst (fun h => { h with sqNext := (i + 1) % 32 }) (sqTurn i s))

/-- Turns that the words at hand can fill. -/
def sqFuel (s : State) : Nat := (s.hst.sqBuf.map (fun e => e.2.length)).sum + 1

/-- The words of host memory up to a new tail, beyond those already shown; words not given read 0. -/
def ringTake (have_ want : Nat) (ws : List Nat) : List Nat :=
  let n := want - have_
  (ws ++ List.replicate (n - ws.length) 0).take n

/-! ### Transfers (R233, R236, R239, R301, R302) -/

/-- Ring group of a transfer: the ring's, or HOST0's on USB3 pair 3. -/
def xfGroup (s : State) (x : Nat) : Nat := if x < 8 then s.rd F.HST_XR_CTL_GROUP x else 0

def xfW (e : Xfer) (i : Nat) : Nat := e.desc.getD i 0
def xfOp (e : Xfer) : Nat := bitsOf (xfW e 0) 31 28
def xfQ (e : Xfer) : Nat := bitsOf (xfW e 0) 6 0
def xfLen (e : Xfer) : Nat := bitsOf (xfW e 1) 28 0
def xfEnd (e : Xfer) : Bool := bitOf (xfW e 0) 27

/-- The first of BAD_DESC, DENIED and REFUSED that holds, 0 for none. -/
def xfWhy (s : State) (e : Xfer) : Nat :=
  let q := xfQ e
  if !(xfOp e == 1 || xfOp e == 2) || bitsOf (xfW e 0) 26 7 != 0 || bitsOf (xfW e 1) 31 29 != 0 || xfW e 2 % 4 != 0
      || xfW e 5 != 0 || xfLen e == 0 then 5
  else if !permOk s (xfGroup s e.ring) 4 then 4
  else if !s.on F.BRN_CTL_EN q
      || (xfOp e == 1 && (s.on F.BRN_CTL_WR_SIDE q || ((quOf s q).opened && (quOf s q).ring != some e.ring)))
      || (xfOp e == 2 && (quOf s q).reader.isSome) then 3
  else 0

/-- The pans that a transfer of a shallow queue touches. -/
def xfPans (s : State) (q : Nat) : List Nat := if qDeep s q then [] else [s.rd F.BRN_STORE_PAN q, s.rd F.BRN_IDX_PAN q]

/-- Whether the host reaches a queue's storage through port B of a pan that is not its own, or that a handover takes from it
(R221, R224, R225). -/
def xfForeign (s : State) (q : Nat) : Bool :=
  let k := s.rd F.BRN_STORE_PAN q
  !qDeep s q && (k == 14 || k == 15)
    && (s.rd F.PAN_OWN_B_OWNER k != owHost || s.panX.hand.any (fun e => e.1 == k && e.2.1))

/-- The different values of a function over the first `n` words from `st` of a queue's storage: pan words, 64-bit words, units. -/
def xfSpan (s : State) (q st n : Nat) (f : Nat → Nat) : List Nat :=
  (List.range n).foldl (fun l i => addN l (f (qWordAddr s q (st + i)))) []

/-- Status, result and data of a WRITE; `coll` are the positions of words that collide with port A's in PAN14 or PAN15. -/
def xfWrite (e : Xfer) (coll : List Nat) (s : State) : Nat × Nat × List Nat × State :=
  let q := xfQ e
  let key := 128 * e.ring + q
  let n := xfLen e
  let mark (b : Bool) (t : State) : State := setHst (fun h => { h with rewoundX := tabSet false h.rewoundX key b }) t
  if (tabGet s.hst.rewoundX key).getD false then (2, 0, [], mark (!xfEnd e) s)
  else
    let o := if (quOf s q).opened then (true, s) else qOpen q (some e.ring) s
    if !o.1 then (2, 0, [], mark (!xfEnd e) (qRewind false q (setQu q { quOf s q with m := s.rd F.BRN_WP_PTR q } s)))
    else
      let k := s.rd F.BRN_STORE_PAN q
      let wp := s.rd F.BRN_WP_PTR q
      let foreign := xfForeign s q
      let portB := !qDeep s q && (k == 14 || k == 15)
      let hits := if portB && !foreign then coll.filter (fun i => decide (i < n)) else []
      let ws := (List.range n).map (fun i => if foreign || memN hits i then qWord s q (wp + i) else e.data.getD i 0 % 2 ^ 32)
      let r := qPut q ws (if qDeep s q then o.2.ask 68 true (qWordAddr s q wp) (4 * n) else o.2)
      let put := (r.2.rd F.BRN_WP_PTR q + qMod s q - wp) % qMod s q
      let s1 := if foreign then (xfSpan s q wp put (· / 32)).foldl (fun t _ => panConf owHost k t) r.2
        else (hits.foldl (fun l i => addN l (qWordAddr s q (wp + i) % 262144 / 32)) []).foldl (fun t w => panColl k w t) r.2
      if !r.1 then (2, 0, [], mark (!xfEnd e) (qRewind false q (qSync true q s1)))
      else (0, n, [], if xfEnd e then qCommit q s1 else qSync true q s1)

/-- Status, tag word and data of a READ. -/
def xfRead (e : Xfer) (s : State) : Nat × Nat × List Nat × State :=
  let q := xfQ e
  match qVisible s q with
  | [] => (1, 0, [], s.bump F.BRN_EVT_EMPTY_RD q)
  | i :: _ =>
    let len := qLen s q i
    let n := min (xfLen e) len
    let st := qStart s q i
    let addrs := (List.range n).map (fun k => qWordAddr s q (st + k))
    let foreign := xfForeign s q
    let unit := if qDeep s q then 64 else 8
    let bad := (xfSpan s q st n (· / unit)).filter (fun u => !foreign && qBad s q (unit * u))
    let ws := addrs.map (fun a => if foreign then 0 else if memN bad (a / unit) then 0xFFFFFFFF else qMemRd s q a)
    let trunc := decide (n < len)
    let s0 := if qDeep s q then s.ask 68 false (qWordAddr s q st) (4 * n) else s
    let s1 := (bad.foldl (fun t u => if qDeep s q then carUe 68 u t else t.bump F.PAN_ERR_UE (u / 32768)) s0).bumpBy F.BRN_EVT_ECC q bad.length
    let s2 := if trunc then s1.bump F.BRN_ERR_TRUNC q else s1
    let s3 := if foreign then (xfSpan s q st n (· / 32)).foldl (fun t _ => panConf owHost (s.rd F.BRN_STORE_PAN q) t) s2 else s2
    (0, 2 ^ 31 + b2n (!bad.isEmpty) * 2 ^ 30 + b2n trunc * 2 ^ 29 + len % 2 ^ 29, ws, qPass q s3)

/-- A transfer completes: words 6 and 7 written, the ring's head and vector. -/
def xfDone (e : Xfer) (r : Nat × Nat × List Nat × State) : State :=
  let s := r.2.2.2
  let bytes := 40 + 4 * (r.2.2.1.length + (if xfOp e == 1 then e.data.length else 0))
  let s1 := { s with out := s.out ++ [Out.xferDone e.ring r.1 r.2.1 (xfW e 4) r.2.2.1] }.tallyBy F.HST_BYTES_COUNT 0 bytes
  if e.ring < 8 then
    let n := s1.rd F.HST_XR_CTL_SIZE e.ring
    msixRaise (s1.rd F.HST_XR_CTL_VEC e.ring) (s1.wr F.HST_XR_HEAD_V e.ring ((s1.rd F.HST_XR_HEAD_V e.ring + 1) % 2 ^ (n + 1)))
  else s1

/-- A transfer runs, or waits for the pans that it wakes (R227). -/
def xfRun (e : Xfer) (coll : List Nat) (s : State) : State :=
  let c := xfWhy s e
  if c != 0 then xfDone e (c, 0, [], s)
  else
    let q := xfQ e
    let t := (xfPans s q).foldl (fun u k => panTouch k u) s
    if (xfPans s q).any (fun k => t.on F.PAN_STAT_WAKING k) then setHst (fun h => { h with heldX := h.heldX ++ [e] }) t
    else xfDone e (if xfOp e == 1 then xfWrite e coll t else xfRead e t)

/-- Whether a ring's next transfer may run: one ring's transfers run in order. -/
def xrReady (s : State) (x : Nat) : Bool :=
  s.on F.HST_XR_CTL_EN x && s.rd F.HST_XR_STAT_STATE x == 1 && !(xrBuf s x).isEmpty && !s.hst.heldX.any (fun e => e.ring == x)

/-- Transfer rings are served in turn, one descriptor a turn. -/
def xrPump : Nat → State → State
  | 0, s => s
  | fuel + 1, s =>
    if s.boot.stage != 0 then s
    else match ((List.range 8).map (fun k => (s.hst.xrNext + k) % 8)).find? (xrReady s) with
      | none => s
      | some x =>
        match xrBuf s x with
        | [] => s
        | e :: r => xrPump fuel (setHst (fun h => { h with xrNext := (x + 1) % 8 }) (xfRun e [] (setXrBuf x r s)))

def xrFuel (s : State) : Nat := (s.hst.xrBuf.map (fun e => e.2.length)).sum + 1

/-- A transfer doorbell: the descriptors up to the new tail join those at hand (R301). -/
def xrBell (x tail : Nat) (es : List Xfer) (s : State) : State :=
  let n := s.rd F.HST_XR_CTL_SIZE x
  let buf := xrBuf s x
  let want := (s.rd F.HST_XR_DB_TAIL x + 2 ^ (n + 1) - s.rd F.HST_XR_HEAD_V x) % 2 ^ (n + 1)
  let held := (s.hst.heldX.filter (fun e => e.ring == x)).length
  if !s.on F.HST_XR_CTL_EN x || s.rd F.HST_XR_STAT_STATE x != 1 || tail != s.rd F.HST_XR_DB_TAIL x then s
  else
    let k := want - buf.length - held
    let new : List Xfer := (es ++ List.replicate (k - es.length) (Xfer.mk x [] [])).take k
    let t := setXrBuf x (buf ++ new.map (fun (e : Xfer) => { e with ring := x })) s
    xrPump (xrFuel t) t

/-- One descriptor that the host gives to a ring, its tail with it; on USB3 pair 3 no ring stands before it. -/
def xferOne (e : Xfer) (coll : List Nat) (s : State) : State :=
  if s.boot.stage != 0 then s
  else if 8 ≤ e.ring then xfRun e coll s
  else if !s.on F.HST_XR_CTL_EN e.ring || s.rd F.HST_XR_STAT_STATE e.ring != 1 then s
  else
    let x := e.ring
    let n := s.rd F.HST_XR_CTL_SIZE x
    let idle := (xrBuf s x).isEmpty && !s.hst.heldX.any (fun h => h.ring == x)
    let s1 := xrTail x ((s.rd F.HST_XR_DB_TAIL x + 1) % 2 ^ (n + 1)) s
    if !s1.on F.HST_XR_CTL_EN x then s1
    else if idle then xfRun e coll s1
    else setXrBuf x (xrBuf s1 x ++ [e]) s1

/-- A pan has woken: the transfers that waited for it run, in order, and then what waits behind them. -/
def xfWoken (s : State) : State :=
  let l := s.hst.heldX
  let t := l.foldl (fun u e => xfRun e [] u) (setHst (fun h => { h with heldX := [] }) s)
  xrPump (xrFuel t) t

/-! ### BAR2 (R296) -/

/-- Bytes written through BAR2: those that R20 shuts out are discarded, the write counted; an untrained Carafe takes none (R218). -/
def bar2Write (off : Nat) (bs : List Nat) (s : State) : State :=
  let a := s.rd F.HST_BAR2_BASE_BASE 0 * 65536 + off
  let barred := (List.range bs.length).filter (fun i => writeBarred s (a + i))
  let s0 := s.tallyBy F.HST_BYTES_COUNT 0 bs.length
  let on := s.on F.CAR_STAT_TRAINED 0
  if barred.isEmpty then (if on then carWrite 66 a (bs.map (BitVec.ofNat 8)) s0 else s0)
  else
    let put := ((List.range bs.length).zip bs).foldl (fun t e =>
      if memN barred e.1 || !on then t else carWrite 66 (a + e.1) [BitVec.ofNat 8 e.2] t) s0
    msixRaise 50 (put.bump F.HST_ERR_BAR2_DISC 0)

/-- Words read through BAR2. What a read of an untrained Carafe returns no rule states: free values (R218; assumption 84). -/
def bar2Read (off n : Nat) (s : State) : State :=
  let a := s.rd F.HST_BAR2_BASE_BASE 0 * 65536 + off / 4 * 4
  if !s.on F.CAR_STAT_TRAINED 0 then
    let ws := (List.range n).map (fun i => (Config.freeValue (s.freeN + i)).toNat % 2 ^ 32)
    { s with freeN := s.freeN + n, out := s.out ++ [Out.bar2Data ws] }.tallyBy F.HST_BYTES_COUNT 0 (4 * n)
  else
    let bad := (unitsOf a (4 * n)).filter (fun u => memN s.badUnits u && decide (64 * u < carafeEnd))
    let ws := (List.range n).map (fun i => if memN bad ((a + 4 * i) / 64) then 0xFFFFFFFF else carWord s (a + 4 * i))
    let s0 := if a < carafeEnd then s.ask 66 false a (4 * n) else s
    let s1 := (bad.foldl (fun t u => carUe 66 u t) s0).bumpBy F.HST_ERR2_BAR2_UE 0 bad.length
    { s1 with out := s1.out ++ [Out.bar2Data ws] }.tallyBy F.HST_BYTES_COUNT 0 (4 * n)

/-! ### Interrupts (R300, R303) -/

/-- Ticks between messages of a vector: HOLDOFF of the enabled reply rings that name it, else 1 µs. -/
def holdoff (s : State) (v : Nat) : Nat :=
  let rs := (List.range 32).filter (fun r => s.on F.HST_RQ_CTL_EN r && s.rd F.HST_RQ_CTL_VEC r == v)
  if rs.isEmpty then usTicks 1 else (rs.map (fun r => usTicks (s.rd F.HST_RQ_CTL_HOLDOFF r))).foldl max 0

/-- The message of a vector whose cause waits leaves once its holdoff has passed; on USB3 it is a notice record. -/
def msixSend (v : Nat) (s : State) : State :=
  let due := match tabGet s.hst.msixLast v with | none => true | some t => decide (t + holdoff s v ≤ s.now)
  if memN s.msixWait v && due then
    let usb := s.rd F.HST_LINK_STATE 0 == 3 || s.rd F.HST_LINK_STATE 0 == 4
    setHst (fun h => { h with msixLast := tabPut h.msixLast v s.now })
      { s with msixWait := delN s.msixWait v, out := s.out ++ [if usb then Out.notice v s.ctEv else Out.msix v] }
  else s

/-! ### USB3 and the service device (R303, R304) -/

/-- The items of an OUT transfer of packets, each with its origin, and whether an incomplete one follows. `pre` says that a
word with the origin precedes each. -/
def usbPkts (pre : Bool) (org : Nat) : Nat → List Nat → List (Nat × List Nat) × Bool
  | 0, ws => ([], !ws.isEmpty)
  | fuel + 1, ws =>
    match ws with
    | [] => ([], false)
    | w :: r =>
      let body := if pre then r else w :: r
      let n := body.headD 0 % 65536
      if n < 4 || decide (body.length < n) || (pre && w % 4 == 3) then ([], true)
      else
        let rest := usbPkts pre org fuel (body.drop n)
        ((if pre then 1 + w % 4 else org, body.take n) :: rest.1, rest.2)

/-- The items of an OUT transfer of descriptors, each WRITE with its data. -/
def usbXfers : Nat → List Nat → List Xfer × Bool
  | 0, ws => ([], !ws.isEmpty)
  | fuel + 1, ws =>
    if ws.isEmpty then ([], false)
    else
      let d := ws.take 8
      let e : Xfer := ⟨8, d, []⟩
      let n := if xfOp e == 1 then xfLen e else 0
      if ws.length < 8 + n then ([], true)
      else
        let rest := usbXfers fuel (ws.drop (8 + n))
        ({ e with data := (ws.drop 8).take n } :: rest.1, rest.2)

/-- An OUT transfer of a pair (5: the service device) is taken up; `odd` says that bytes follow its words. -/
def usbTake (pair : Nat) (ws : List Nat) (odd : Bool) (s : State) : State :=
  if pair == 3 then
    let r := usbXfers ws.length ws
    let t := r.1.foldl (fun u e => xfRun e [] u) s
    if r.2 || odd then t.bump F.HST_ERR_FRAME 0 else t
  else
    let r := usbPkts (pair == 2) (if pair == 5 then 4 else 0) ws.length ws
    let path : Path := if pair == 5 then .svc else .usb3
    let t := r.1.foldl (fun u e => arrive (pktOfWords e.1 0 path e.2) u) s
    if r.2 || odd then t.bump F.HST_ERR_FRAME 0 else t

/-- An OUT transfer arrives: pair 4 stalls, while a PCIe tunnel is active the USB3 device is not presented (R292), and while no packet is
fetched the transfer waits. -/
def usbOut (pair : Nat) (ws : List Nat) (odd : Bool) (s : State) : State :=
  if pair == 0 || pair == 4 || (pair == 5 && !s.on F.HST_CTL_SVC_EN 0) || (pair != 5 && s.rd F.HST_LINK_STATE 0 == 2) then s
  else if fetching s then usbTake pair ws odd s
  else setHst (fun h => { h with usbWait := h.usbWait ++ [(pair + 8 * b2n odd, ws)] }) s

/-- Fetching goes on: what waited at the transports and behind the holds is taken up. -/
def hostResume (s : State) : State :=
  if !fetching s then s
  else
    let t := drainHeld s
    let w := t.hst.usbWait
    let u := w.foldl (fun v e => usbTake (e.1 % 8) e.2 (decide (8 ≤ e.1)) v) (setHst (fun h => { h with usbWait := [] }) t)
    sqPump (sqFuel u) u

/-- A submission doorbell with the words of host memory that it shows (R298). -/
def sqBell (i tail : Nat) (ws : List Nat) (s : State) : State :=
  if !s.on F.HST_SQ_CTL_EN i || s.rd F.HST_SQ_STAT_STATE i == 3 || tail != s.rd F.HST_SQ_DB_TAIL i then s
  else
    let n := s.rd F.HST_SQ_CTL_SIZE i
    let want := (s.rd F.HST_SQ_DB_TAIL i + 2 ^ (n + 1) - s.rd F.HST_SQ_HEAD_V i) % 2 ^ (n + 1) / 4
    let buf := sqBuf s i
    let t := setSqBuf i (buf ++ ringTake buf.length want ws) s
    sqPump (sqFuel t) t

/-! ### Loss and return of the link (R298, R299, R302, R305) -/

/-- A host memory error completion at a ring: 0 submission, 1 reply, 2 transfer. -/
def dmaError (kind ring : Nat) (s : State) : State :=
  let s1 := s.bump F.HST_ERR2_DMA 0
  if kind == 0 then (if s.on F.HST_SQ_CTL_EN ring then sqStop ring 3 4 s1 else s)
  else if kind == 1 then
    (if s.on F.HST_RQ_CTL_EN ring then msixRaise 50 (sqStall ring true (s1.wrs [(F.HST_RQ_STAT_STATE, ring, 3), (F.HST_RQ_STAT_ECAUSE, ring, 4)]))
      else s)
  else if s.on F.HST_XR_CTL_EN ring then xrStop ring 3 4 s1 else s

/-- The origins that a loss takes: 0 USB4 link, 1 PCIe tunnel, 2 function-level reset, 3 hot reset, 4 USB3 device, 5 service
device. -/
def lossOrgs (kind : Nat) : List Nat := if kind == 5 then [4] else [0, 1, 2, 3]

/-- `HST_LINK` after a loss. -/
def lossShow (kind : Nat) (s : State) : State :=
  if kind == 0 then s.wrs [(F.HST_LINK_STATE, 0, 0), (F.HST_LINK_GEN, 0, 0), (F.HST_LINK_LANES, 0, 0)]
  else if kind == 1 then s.wr F.HST_LINK_STATE 0 1
  else if kind == 4 then
    (if s.rd F.HST_LINK_STATE 0 == 4 then s.wrs [(F.HST_LINK_STATE, 0, 0), (F.HST_LINK_GEN, 0, 0), (F.HST_LINK_LANES, 0, 0)]
      else s.wr F.HST_LINK_STATE 0 1)
  else if kind == 5 then s.wr F.HST_LINK_SVC 0 0
  else s

/-- The rings of the host's origins are disabled, and what waited at its transports is gone. -/
def hostGone (s : State) : State :=
  let s1 := (List.range 32).foldl (fun t i => sqStop i 0 0 t) s
  let s2 := (List.range 32).foldl (fun t r => t.wrs [(F.HST_RQ_CTL_EN, r, 0), (F.HST_RQ_STAT_STATE, r, 0)]) s1
  let s3 := (List.range 8).foldl (fun t x => xrStop x 0 0 t) s2
  let s4 := qAbandonRing 8 { s3 with rqWait := [] }
  setHst (fun h => { h with heldX := [], rewoundX := [], usbWait := h.usbWait.filter (fun e => e.1 % 8 == 5) }) s4

/-- Packets and jobs of lost origins complete without a reply: their results stay for `RESULT_GET`. -/
def mute (os : List Nat) (s : State) : State :=
  { s with
    jobs := s.jobs.map (fun (b : Job) => if memN os b.org then { b with path := .none } else b)
    heldPkts := s.heldPkts.map (fun (p : Pkt) => if memN os p.org then { p with path := .none } else p)
    rake := { s.rake with fwds := s.rake.fwds.map (fun (f : Fwd) =>
      if memN os f.job.org then { f with job := { f.job with path := .none } } else f) } }

/-- Loss of a link. -/
def linkLoss (kind : Nat) (s : State) : State :=
  let os := lossOrgs kind
  let s1 := mute os (lossShow kind s)
  let s2 := if kind == 5 then setHst (fun h => { h with usbWait := h.usbWait.filter (fun e => e.1 % 8 != 5) }) s1 else hostGone s1
  let gone := s2.opens.filter (fun b => memN os b.org)
  let s3 := gone.foldl (fun t b => batchGone 4 b t)
    (batchSync { s2 with opens := s2.opens.filter (fun b => !memN os b.org) })
  let s4 := logEvent srcDevice 0x14 (os.foldl (fun m o => m + 2 ^ o) 0) 0 0 (s3.bump F.HST_ERR_LOSSES 0)
  let pol := s4.rd F.HST_CTL_LOSS_POL 0
  let t := if pol == 1 then mdHold else mdSafe
  if (pol == 1 || pol == 2) && permCmd s4 6 0 && requestResult s4 t 0 == 0 then (modeReq none 6 t 0 s4).2 else s4

/-- A link comes up: `HST_LINK` shows it. -/
def linkReturn (state gen lanes : Nat) (svc : Bool) (s : State) : State :=
  s.wrs [(F.HST_LINK_STATE, 0, state), (F.HST_LINK_GEN, 0, if state == 0 then 0 else gen),
    (F.HST_LINK_LANES, 0, if state == 0 then 0 else lanes), (F.HST_LINK_SVC, 0, b2n (svc && s.on F.HST_CTL_SVC_EN 0))]

end Sys2Proof.Machine
end

