-- ==== Sys2Proof/Machine/Side.lean ====
section
/-! DEFINITION. Side-channel packets received: commands of other modules, replies, addresses (R276, R277, R284, R285, R323 to
R325). -/

namespace Sys2Proof.Machine

def setFwds (l : List Fwd) (s : State) : State := setRake (fun k => { k with fwds := l }) s

/-- The forwarded command under a forward tag. -/
def fwdOf (s : State) (tag : Nat) : Option Fwd := s.rake.fwds.find? (fun f => f.tag == tag)

def fwdPut (f : Fwd) (s : State) : State := setFwds (s.rake.fwds.map (fun x => if x.tag == f.tag then f else x)) s

def fwdDel (tag : Nat) (s : State) : State := setFwds (s.rake.fwds.filter (fun x => x.tag != tag)) s

/-- A reply of another module with the host's tag and trailer flag restored (R323). -/
def fwdReply (b : Job) (r : Reply) : Reply := { r with tag := b.tag, crc := b.crc, opcode := b.opcode }

/-- The reply to an addressed command: an interim one stops the timeout, the final one completes the command. -/
def fwdAddressed (f : Fwd) (r : Reply) (s : State) : State :=
  match jobOf s f.job.id with
  | none => fwdDel f.tag s
  | some b =>
    let rep := fwdReply b r
    if !r.final then
      let t := fwdPut { f with from_ := [1] } s
      if b.want then send b.path b.org rep t else t
    else
      let t := fwdDel f.tag s
      let u := winDone (winKey b.org b.src) b.id rep { t with jobs := t.jobs.filter (fun x => x.id != b.id) }
      if b.want || r.status != stOk then send b.path b.org rep u else u

/-- A module's reply to a broadcast is delivered; the summary follows the last module counted (R324, R325). -/
def fwdBroadcast (f : Fwd) (r : Reply) (s : State) : State :=
  let g := { f with from_ := addN f.from_ r.responder, due := fwdDue s }
  let t := fwdPut g s
  let u := if f.job.want || (r.status != stOk && r.status != stPending) then send f.job.path f.job.org (fwdReply f.job r) t else t
  if !g.done && decide (u.rd F.RAKE_TREE_DEVICES 0 ≤ g.from_.length) then bcastDone g u else u

/-- A REPLY for this module; one that no forwarded command awaits is discarded. -/
def sideReply (body : List Nat) (s : State) : State :=
  if body.length < 6 then s
  else
    let r := replyOfWords body
    match fwdOf s r.tag with
    | none => s
    | some f => if f.bcast then fwdBroadcast f r s else fwdAddressed f r s

/-- A packet goes on with HOPS one higher, or is dropped (R284). -/
def sideOn (n : Nat) (go : List Nat → State → State) (ws : List Nat) (s : State) : State :=
  match sideHop ws with
  | some w => go w s
  | none => s.bump F.RAKE_P_ERR2_HOPS_DROP n

/-- A broadcast: upward until the root or island head, which runs it and sends it down; downward it runs and goes on. Its
sender has run it already. -/
def sideBroadcast (n : Nat) (ws : List Nat) (s : State) : State :=
  let src := bitsOf (ws.getD 1 0) 19 8
  let code := if n == 0 then 4 else n
  if n != 0 && role s == 2 then sideOn n (fun w t => sideTo 0 code w t) ws s
  else
    let t := sideOn n (fun w t => [1, 2, 3].foldl (fun u m => sideTo m code w u) t) ws s
    if src == myAddr s then t else arrive (pktOfWords 5 src (.side src) ((ws.drop 2).dropLast)) t

/-- An addressed packet: taken here, or on toward its address. -/
def sideAddressed (n : Nat) (here : State → State) (ws : List Nat) (s : State) : State :=
  let dst := bitsOf (ws.getD 1 0) 31 20
  if s.on F.GLB_ADDR_VALID 0 && dst == s.rd F.GLB_ADDR_ADDR 0 then here s
  else sideOn n (fun w t => sideRoute (if n == 0 then 4 else n) dst w t) ws s

/-- A packet received whole on a port; `bad` says that one of its cells was bad (R284). -/
def sidePacket (n : Nat) (bad : Bool) (ws : List Nat) (s : State) : State :=
  let w0 := ws.getD 0 0
  let kind := bitsOf w0 31 24
  let body := (ws.drop 2).dropLast
  if rkSt s n != rkJoined then s
  else if bad || decide (ws.length < 3) || bitsOf w0 15 0 != ws.length || crc32c ws.dropLast != ws.getLastD 0
      || kind == 0 || decide (5 < kind) then s.bump F.RAKE_P_ERR2_SIDE_DROP n
  else if kind == kdCommand then
    if bitsOf (ws.getD 1 0) 31 20 == 0xFFF then sideBroadcast n ws s
    else
      let src := bitsOf (ws.getD 1 0) 19 8
      sideAddressed n (arrive (pktOfWords 5 src (.side src) body)) ws s
  else if kind == kdReply then sideAddressed n (sideReply body) ws s
  else if kind == kdReport then
    (if n == 0 then s else treeChanged (setPort n { portOf s n with report := reportOf body } s))
  else if n != 0 then s
  else if kind == kdAssign then
    let h := body.headD 0
    assignTake (assignOf (body.drop 1)) (s.wrs [(F.RAKE_TREE_DEVICES, 0, h / 2 ^ 16), (F.RAKE_TREE_MAXDEPTH, 0, h % 2 ^ 16)])
  else
    let d := body.headD 0 / 2 ^ 16 + 1
    if 17 ≤ d then rkIsolate 0 2 s else s.wr F.GLB_ADDR_DEPTH 0 d

/-- The oldest packet that a port has received whole, which the row names, is taken up; one whose size is no whole number of words disagrees
with its LENGTH (R284). -/
def sideReceive (n : Nat) (bad : Bool) (bs : List Nat) (s : State) : State :=
  let p := portOf s n
  match p.rx.whole with
  | [] => s
  | e :: r =>
    if e != (bad, bs) then s
    else sidePacket n (bad || bs.length % 4 != 0) (bytesWords bs) (setPort n { p with rx := { p.rx with whole := r } } s)

/-- Addressed commands without a reply within RAKE_TMO (R285). -/
def fwdTimeout (s : State) : State :=
  (s.rake.fwds.filter (fun f => !f.bcast && f.from_.isEmpty && decide (f.due ≤ s.now))).foldl
    (fun t f => complete f.job.id stChainTimeout 0 [] (fwdDel f.tag t)) s

/-- Broadcasts whose latest reply lies RAKE_TMO back write their summary (R325). -/
def bcastTimeout (s : State) : State :=
  (s.rake.fwds.filter (fun f => f.bcast && !f.done && decide (f.due ≤ s.now))).foldl (fun t f => bcastDone f t) s

end Sys2Proof.Machine
end

