-- ==== Sys2Proof/Machine/Fabric.lean ====
section
/-! DEFINITION. The fabric's tick (R12 to R15), snapshots (R43), and the events of the fabric that have rows of their own. -/

namespace Sys2Proof.Machine

/-! ### Snapshots (R43) -/

/-- A pair of fields copied for every unit. -/
def snapOne (e : Fld × Fld × Nat) (s : State) : State :=
  (List.range e.2.2).foldl (fun t u => t.wr e.2.1 u (t.rd e.1 u)) s

/-- Every 64-bit value is copied into its holding pair, SEQ rises, and the waiting `SNAP` commands are answered. -/
def snapshot (s : State) : State :=
  let s1 := snapPairs.foldl (fun t e => snapOne e t) s
  let s2 := (s1.wr F.GLB_CT_SNAP_CT 0 s1.ct).wr F.GLB_SNAP_SEQ 0 (s1.rd F.GLB_SNAP_SEQ 0 + 1)
  let s3 := (List.range 8).foldl (fun t e => t.wr F.ENC_POS_SNAP_POS e (encPosWord t e)) s2
  let d := [s3.rd F.GLB_SNAP_SEQ 0, s3.ct % 2 ^ 32, s3.ct / 2 ^ 32]
  s3.snapJobs.foldl (fun t j => complete j stOk 0 d t) { s3 with snapReq := false, snapJobs := [] }

/-- The snapshot that a command of this tick asked for. -/
def snapTick (s : State) : State := if s.snapReq then snapshot s else s

/-! ### The tick -/

/-- Device time and chain time move by one tick. -/
def clockTick (s : State) : State := (s.wr F.GLB_TICK_TICK 0 (s.now + 1)).setCt (s.ct + 256)

/-- Chain events raised by trigger sources (R280): the raise lies in the registration tick's chain time. -/
def rakeEdge (g : Trig) (i : Nat) (s : State) : State :=
  if s.rd F.RAKE_EV_SRC_SRC i == g.src && edgeMatch g.src g.rising (s.rd F.RAKE_EV_SRC_EDGE i) then
    rkRaise false i (s.ctOf g.reg / 256) s
  else s

/-- An edge registers: players, capture gates, chain events (R89, R167, R280). -/
def trigOne (g : Trig) (s : State) : State :=
  let s1 := (List.range 64).foldl (fun t p => trigPlayer g t p) s
  let s2 := (List.range 32).foldl (fun t u => if t.on F.CAP_CTL_EN u then capEdge g u t else t) s1
  if s2.on F.RAKE_CTL_EN 0 then (List.range 64).foldl (fun t i => rakeEdge g i t) s2 else s2

/-- The edges whose registration tick has come, in the order of their reference. -/
def trigTick (s : State) : State :=
  let due := s.trigs.filter (fun g => decide (g.reg ≤ s.now))
  due.foldl (fun t g => trigOne g t) { s with trigs := s.trigs.filter (fun g => !decide (g.reg ≤ s.now)) }

/-- Marker taps: a change of an enabled tap's bit is an edge that registers in the next tick (R89). -/
def tapTick (s : State) : State :=
  (List.range 32).foldl (fun t i =>
    if t.on F.TRG_TAP_EN i && tapBit t i != memN t.tapBits i then
      pushTrig (0xA0 + i) (tapBit t i) (4 * t.now) (t.now + 1) (tapTake i t)
    else t) s

/-- Players in use: the others keep still. -/
def plyUsed (s : State) (p : Nat) : Bool := s.on F.PLY_CTL_EN p || s.on F.PLY_STATE_RAMPING p

/-- The queue's pans are woken by an access. -/
def queueTouch (q : Nat) (s : State) : State :=
  if qDeep s q then s else panTouch (s.rd F.BRN_IDX_PAN q) (panTouch (s.rd F.BRN_STORE_PAN q) s)

/-- The pans that the tick's accesses wake: buffers and queues of players that play, staging with what it moves to, the learning lanes'
pan (R227). -/
def panTick (s : State) : State :=
  let s1 := (List.range 64).foldl (fun t p =>
    if !active t p then t
    else if plyStream t p && !qDeep t (plyQueue t p) then queueTouch (plyQueue t p) t
    else
      let t1 := panTouch (t.rd F.PLY_PF_PAN p) t
      if pairAsleep t1 p then panTouch (t1.rd F.REF_GCTL_PAN 0) t1 else t1) s
  let s2 := (List.range 32).foldl (fun t u =>
    if (capOf t u).stage.isEmpty then t else queueTouch (capOf t u).q (panTouch 13 t)) s1
  if (List.range 8).any (fun l => laneSt s2 l == lsCollect || !(laneOf s2 l).passes.isEmpty) then panTouch (s2.rd F.REF_GCTL_PAN 0) s2 else s2

/-- One tick of the sample fabric (R13, R14): rails, players, trigger matrix, markers, outputs, capture, learning, Carafe, clocks. -/
def fabricRun (s0 : State) : State :=
  let s1 := clockTick (parTick s0)
  let s2a := railsTick s1.now (trkTick s1.now (encTick s1.now s1))
  let s2 := (List.range 256).foldl (fun t c => if t.on F.CHN_CTL_EN c || !(chnOf t c).pipe.isEmpty then chnTick c t else t) s2a
  let s3 := (List.range 64).foldl (fun t p => if plyUsed t p then plyTick s0 p t else t) (asksRun s2)
  let s4 := trigTick s3
  let s5 := (List.range 64).foldl (fun t p => if plyUsed t p || t.rd F.PLY_MARK_RAW p != 0 then markTick p t else t) s4
  let s6 := (List.range 64).foldl (fun t p => if plyUsed t p || !(plyOf t p).marks.isEmpty then markOutTick p t else t) s5
  let s7 := tapTick s6
  let s8 := gpTick ((List.range 256).foldl (fun t c => if t.on F.CHN_CTL_EN c || !(chnOf t c).pipe.isEmpty then chnNext c t else t) s7)
  let s9 := mbistTick (panTick (captureMoves (carTick (refineTick (captureTick s8)))))
  let sA := rkShow (shelfTick (flumeMoves (walkTick s9)))
  shutTry (activityTick ((List.range 64).foldl (fun t p => actsDone p t) (snapTick sA)))

/-- A tick: without power nothing happens; during a start that kept its clock, time goes on (R347). -/
def fabricTick (s : State) : State :=
  if !powered s then s
  else if s.boot.stage == 0 then fabricRun s
  else if s.boot.service || s.boot.warm then clockTick s
  else s

/-! ### Errors of the pans' words (R219) -/

/-- Where the frames of a candidate's head slot come from (R122). -/
def candSrc (s : State) (p code : Nat) : Src :=
  let st := curStep s p
  if plyStream s p then
    (match code, (plyOf s p).nxt with | 1, some k => (refPkt s p k 0).src | _, _ => (refCur s p 0).src)
  else match candStep s p code with
    | some n => (refStep s p n 0).src
    | none => (match code, (plyOf s p).hist with | 8, (n, _, _) :: _ => (refStep s p n 0).src | _, _ => (refStep s p st 0).src)

/-- A word of a player's buffer reads uncorrectable: the frame in it is substituted, or the player enters SAFE (R136, R219). The nine head
slots stand first in the buffer, the main ring after them (R122). -/
def panUePlayer (p off key frame : Nat) (s : State) : State :=
  let y := plyOf s p
  let slot := decide (off < 2304 * plyW s p)
  let src := if slot then candSrc s p (off / (256 * plyW s p)) else (refCur s p 0).src
  let seg := match src with | .seg i => i | .pkt _ _ _ => noSeg
  eccUnit p key seg frame true (setPly p { y with badBuf := ((slot, src, frame) :: y.badBuf).take 64 } s)

/-- A word of the step caches reads uncorrectable: the step is not held any more, or the history ends before the record (R136, R219, R223). -/
def panUeStep (b : Nat) (s : State) : State :=
  if b < 131072 then
    let p := b / 2048
    let y := plyOf s p
    let k := b % 2048 / 32
    match y.cache[k]? with
    | some e => setPly p { y with cache := tabDel y.cache e.1, ready := [] } s
    | none => s
  else
    let p := (b - 131072) / 256
    let y := plyOf s p
    if p < 64 then setPly p { y with hist := y.hist.take ((b - 131072) % 256 / 16) } s else s

/-- A word of queue storage or of an index reads uncorrectable: it is delivered marked, and a player that plays from the queue substitutes
(R136, R214, R219). -/
def panUeQueue (k off w frame : Nat) (s : State) : State :=
  let at_ := 262144 * k + off
  let s0 := { s with badPans := addN s.badPans w }
  let qs := (List.range 128).filter (fun q => s.on F.BRN_CTL_EN q && !qDeep s q
    && (qRanges s q).any (fun r => decide (r.1 ≤ at_) && decide (at_ < r.1 + r.2)))
  qs.foldl (fun t q => match (quOf t q).reader with | some p => eccUnit p (2 ^ 28 + w) noSeg frame true t | none => t) s0

/-- One read with an error: counted at its pan; its reader answers an uncorrectable word as R214 says of a unit, and firmware data take the
device to RECOVER (R219). What capture's staging, the learning lanes' working set or the host's pans hold no rule answers (assumption 85). -/
def panErr (e : PanErr) (s : State) : State :=
  let k := e.pan.val
  let b := 8 * e.word.val
  if !e.ue then s.bump F.PAN_ERR_CE k
  else
    let t := s.bump F.PAN_ERR_UE k
    let o := panOwner t k
    let key := 32768 * k + e.word.val
    if o == owFw then recoverEnter 3 t
    else if o == owPlayer then
      (List.range 64).foldl (fun u p =>
        let r := plyBuf u p
        if u.on F.PLY_CTL_EN p && engaged u p && decide (r.1 ≤ 262144 * k + b) && decide (262144 * k + b < r.1 + r.2) then
          panUePlayer p (262144 * k + b - r.1) (2 ^ 28 + key) e.frame u
        else u) t
    else if o == owStep then (if cachePan t == some k then panUeStep b t else t)
    else if o == owBrine then panUeQueue k b key e.frame t
    else t

/-- What runs only while the fabric runs; the mode follows the players in the same tick (R340). -/
def running (f : State → State) (s : State) : State := if s.boot.stage == 0 then activityTick (f s) else s

/-! ### Events of the fabric that the tick does not decide -/

/-- An edge on a GP input at a quarter tick counted back from the present tick, registered four ticks after its reference
(R89); the bank has no inputs without VIO (R405), and at a pin that a channel drives the level is the channel's (R155). -/
def gpEdge (i : Nat) (rising : Bool) (back : Nat) (s : State) : State :=
  if s.rd F.PWR_STAT_VIO 0 == 0 || bitOf s.gpDrive i then s
  else
    let rq := 4 * s.now - min back 15
    let l := s.rd F.TRG_GP_STAT_LEVEL 0
    if bitOf l i == rising then s
    else pushTrig i rising rq (max (s.now + 1) (rq / 4 + 4)) (s.wr F.TRG_GP_STAT_LEVEL 0 (if rising then l + 2 ^ i else l - 2 ^ i))

/-- Samples of every channel whose rate and offset match the tick (R139). -/
def channelSample (c : Nat) (s : State) : State := if chnDue s c then chnSample c s else s

/-- A capture's open packet older than AGE (R170). -/
def capAge (u : Nat) (s : State) : State := if capAged s u then capClose u false true s else s

end Sys2Proof.Machine
end

