-- ==== Sys2Proof/Machine/Events.lean ====
section
/-! DEFINITION. Events of the memory system, of commands in progress and of the control processor (R79, R202 to R218, R318,
R336, R352). -/

namespace Sys2Proof.Machine

/-! ### Carafe (R205 to R217) -/

def setCar (f : Car → Car) (s : State) : State := { s with car := f s.car }

/-- The reader's answer to an uncorrectable unit: firmware fetches its image again and rewrites the unit; its working store
takes the device to RECOVER (R214). -/
def fwUnit (u : Nat) (s : State) : State :=
  let a := 64 * u
  if fwImageBase ≤ a && a < workStoreBase then carHeal u s
  else if workStoreBase ≤ a && a < stepTableBase then recoverEnter 2 s
  else s

/-- The oldest read of a port that has been issued returns after `lat` ns, with the units that were corrected and those that
cannot be (R205, R213, R214). -/
def carRead (port lat : Nat) (ces ues : List Nat) (s : State) : State :=
  match s.car.flight.find? (fun r => r.port == port) with
  | none => s
  | some r =>
    let mine (l : List Nat) : List Nat := l.filter (fun u => memN (unitsOf r.addr r.len) u)
    let s1 := setCar (fun c => { c with flight := delReq r c.flight }) s
    let s2 := s1.wr F.CAR_PORT_LAT_LAT_MAX port (max (s1.rd F.CAR_PORT_LAT_LAT_MAX port) (min lat 65535))
    let s3 := if 400 < lat then s2.bump F.CAR_PORT_LAT_OVER400 port else s2
    let s4 := (mine ces).foldl (fun t u => carCe port u t) s3
    let s5 := (mine ues).foldl (fun t u => carUe port u t) s4
    if port == 67 then (mine ues).foldl (fun t u => fwUnit u t) s5
    else if port < 64 then refill port ((r.len + 255) / 256) s5
    else s5

/-- The oldest corrected block goes to its channel as a write of rank 4, at the port of MBIST and scrub; its contents stay the same (R213;
assumption 83). -/
def carWriteBack (s : State) : State :=
  match s.car.wbs with
  | [] => s
  | u :: r => carEnter ⟨71, true, 64 * u, 64, s.now, none, false, 200, []⟩ (setCar (fun c => { c with wbs := r }) s)

/-- A refresh of a channel falls due, not before its interval has passed (R207). -/
def refTimer (m : Nat) (s : State) : State :=
  let t := 100 * s.now
  let due := (tabGet s.car.refAt m).getD 0
  let n := refGap s m
  if !carServes s || t < due then s
  else refDue m (setCar (fun c => { c with refAt := tabPut c.refAt m ((if due + 9 * n < t then t else due) + n) }) s)

/-- The activate window of 32 ms ends: counts and throttles are cleared (R209). -/
def rhWindow (s : State) : State :=
  if s.now < s.car.rhAt + usTicks 32000 then s
  else setCar (fun c => { c with
    thr := [], thrUse := [], rhAt := s.now, banks := c.banks.map (fun (e : Nat × CarBank) => (e.1, { e.2 with trk := [] })) }) s

/-- Self-refresh entry begins (R211). -/
def srIdle (s : State) : State := if srAuto s then setPwr pwDrain s else s

/-- The drain has finished: owed refreshes paid, banks precharged, SRE issued; a bulk request held meanwhile triggers exit at
once, but not in SHELF (R212). -/
def srDrained (s : State) : State :=
  if carPwr s != pwDrain then s
  else
    let s1 := setCar (fun c => { c with banks := c.banks.map (fun (e : Nat × CarBank) => (e.1, { e.2 with row := none, chk := [] })) })
      (setPwr pwSr (s.wr F.CAR_REF_STAT_OWED 0 0))
    if s1.car.held.isEmpty || s.boot.stage == 12 then s1 else setPwr pwExit (s1.bump F.CAR_PWR_BOUNCES 0)

/-- Exit is complete: held requests are served, and the idle timer restarts (R212). -/
def srExited (s : State) : State :=
  if carPwr s == pwExit then setCar (fun c => { c with lastReq := s.now }) (setPwr pwRun (carRelease s)) else s

/-- The patrol period has passed (R216). -/
def patrol (s : State) : State :=
  if s.on F.CAR_CTL_SCRUB_EN 0 && carServes s && decide (s.car.scrubAt + secTicks (60 * s.rd F.CAR_SCRUB_PERIOD 0) ≤ s.now) then scrubStart s
  else s

/-- Every 100 ms the byte lanes' delays follow a drift (R217). -/
def driftTrack (adj : List Int) (s : State) : State :=
  if s.now < s.car.driftAt + usTicks 100000 then s
  else setCar (fun c => { c with
    driftAt := s.now, delays := (c.delays.zip (adj ++ List.replicate c.delays.length 0)).map (fun (e : Int × Int) => e.1 + e.2) }) s

/-- A channel reports its DRAM temperature in 1/16 °C: doubled refresh above 85 °C; above 105 °C SAFE, until below 95 °C
(R207, R208, R352). -/
def dramTemp (m : Nat) (t : Int) (s : State) : State :=
  let bit := s.rd F.CAR_REF_STAT_RATE2X 0 / 2 ^ m % 2
  let new := if 1360 < t then 1 else 0
  let s1 := setCar (fun c => { c with temps := c.temps.set m t }) s
  let s2 := s1.wr F.CAR_REF_STAT_RATE2X 0 (s1.rd F.CAR_REF_STAT_RATE2X 0 - bit * 2 ^ m + new * 2 ^ m)
  let s3 := s2.wrB F.CAR_STAT_HOT 0 (s2.rd F.CAR_REF_STAT_RATE2X 0 != 0)
  let top := s3.car.temps.foldl max (s3.car.temps.headD 0)
  let s4 := s3.wrI F.PWR_TEMP_DRAM 0 top
  if !s4.on F.CAR_STAT_OVERTEMP 0 && decide (1680 < top) then
    safeEnter (logEvent srcCarafe 0x06 (uns 32 top) 0 0 (s4.wr F.CAR_STAT_OVERTEMP 0 1))
  else if decide (top < 1520) then s4.wr F.CAR_STAT_OVERTEMP 0 0
  else s4

/-! ### Commands in progress (R79, R114, R204, R224, R318, R330) -/

/-- The writes of the oldest SEG_LOAD are visible: with LAST the segment is READY (R79, R204). -/
def segLoaded (s : State) : State :=
  match s.segLoads with
  | [] => s
  | (j, i, last) :: rest =>
    let d := segOf s i
    let s1 := { s with segLoads := rest }
    let s2 := if last && d.state != 0 then
        setSeg i { d with state := if d.state == 1 then 2 else d.state, loads := (d.loads + 1) % 2 ^ 32 } s1 else s1
    complete j stOk 0 (segWords (segOf s2 i)) s2

/-- The writes of the oldest STEP_WRITE are visible. -/
def stepsWritten (s : State) : State :=
  match s.stepLoads with
  | [] => s
  | j :: rest => complete j stOk 0 [] { s with stepLoads := rest }

/-- The handovers of a pan take effect, and the `PAN_GRANT`s that waited for them are answered (R224). -/
def panHanded (k : Nat) (s : State) : State :=
  let s1 := panHandDone k s
  let done := s1.panGrants.filter (fun e => e.2 == k)
  done.foldl (fun t e => complete e.1 stOk 0 [] t) { s1 with panGrants := s1.panGrants.filter (fun e => e.2 != k) }

/-- A player's ARM has ended, with the swaps that its window allows, and packets that waited for it go on (R114, R190, R317). -/
def armEnded (p : Nat) (s : State) : State :=
  let t := armDone p s
  drainHeld (if (plyOf s p).arm.isSome && pst t p == psArmed then armScan p (refArm p t) else t)

/-! ### The control processor (R336, R352) -/

/-- Ten milliseconds after SVC_RESET's reply (R336). -/
def svcReset (s : State) : State :=
  match s.boot.resetAt with
  | some t => if t ≤ s.now then porStart [] s else s
  | none => s

/-- The watchdog of 100 ms (R352). -/
def watchdog (s : State) : State := recoverEnter 4 s

/-- A command from outside: it reaches a module that is powered, and takes effect in the coming tick (R32). -/
def hostCmd (f : State → State) (s : State) : State := if powered s then byHost f s else s

/-- An event of a module that is powered. -/
def devEvent (f : State → State) (s : State) : State := if powered s then f s else s

/-! ### Encoder ports and references (R63, R72, R361) -/

/-- Whether a port's condition of R63 stands: the break detector's report in QUAD and PULSE, a SINCOS radius outside AMP_LO to AMP_HI,
three bad SSI frames in a row. -/
def encFault (s : State) (e : Nat) (broken : Bool) (radius : Nat) : Bool :=
  let md := s.rd F.ENC_CTL_MODE e
  if md == 2 then decide (3 ≤ (encOf s e).ssiBad)
  else if md == 1 then decide (radius < s.rd F.ENC_SINCOS_AMP_LO e) || decide (s.rd F.ENC_SINCOS_AMP_HI e < radius)
  else broken

/-- A port reports LOST: its condition has stood for 1 µs, a number of core cycles given by the row, or three SSI frames are bad (R63). -/
def encLost (e : Nat) (broken : Bool) (radius cycles : Nat) (s : State) : State :=
  if s.on F.ENC_STAT_LOST e || !encFault s e broken radius then s
  else if s.rd F.ENC_CTL_MODE e == 2 then railLossAll 1 e (s.wr F.ENC_STAT_LOST e 1)
  else if cycles < 640 then s
  else railLossAll 1 e ((s.bump F.ENC_ERR_AMP e).wr F.ENC_STAT_LOST e 1)

/-- A port leaves LOST: not while its condition stands, and not while it is in SAFE (R63, R72, R426). -/
def encReturn (e : Nat) (broken : Bool) (radius : Nat) (s : State) : State :=
  if memN s.unitSafe (F.ENC_CTL_EN.addr e) || !s.on F.ENC_STAT_LOST e || encFault s e broken radius then s
  else railLossAll 1 e (s.wr F.ENC_STAT_LOST e 0)

/-- The first whole passing window marks REFIN present (R361). -/
def refinPresent (s : State) : State := s.wr F.CLK_STAT_REFIN_OK 0 1

/-- The scrubber's pass (R38): upsets of stored bits that came before it are detected, later ones wait. -/
def cfgScrub (before after : List (Nat × Nat)) (s : State) : State :=
  let up (l : List (Nat × Nat)) (t : State) : State := l.foldl (fun u e => parUpset e.1 e.2 u) t
  let t := up before s
  up after (parDetectAll t.parOdd t)

/-- The store of a shelf image at the head of the NVM operations completes (R47). -/
def shelfStored (s : State) : State := match s.nvm.ops with | .shelf _ :: _ => storeDone s | _ => s

/-- Any store at the head of the NVM operations completes. -/
def nvmStored (s : State) : State := storeDone s

end Sys2Proof.Machine
end

