-- ==== Sys2Proof/Machine/RowOps.lean ====
section
/-! DEFINITION. What the rows of a kind share: packets of an opcode, register writes by origin and unit, doorbells, the operands
of device events. -/

namespace Sys2Proof.Machine

/-- The end of every meaning: the answer is a next state with its fault summary up to date. -/
def done_ (s : State) : Host.Outcome State Fault Refusal := .next (finish s)

/-! ### Packets (R306) -/

/-- A packet under the number of its row. -/
def numbered (op : Nat) (p : Pkt) : Pkt := { p with opcode := op }

/-- A packet of an opcode arrives. -/
def packet (op : Nat) (p : Pkt) (s : State) : State := arrive (numbered op p) s

/-- A packet whose opcode is not listed arrives (R327). -/
def unlisted (p : Pkt) (s : State) : State := if (opInfo p.opcode).isNone then arrive p s else s

/-! ### Register writes (R33, R40) -/

/-- Words written from an address upward, through BAR0 (as HOST0) or by a packet of an origin. -/
def registerWrite (o : Nat) (bar0 : Bool) (a mask : Nat) (ws : List Nat) (s : State) : State :=
  (writeNow ⟨if bar0 then 0 else o, 0, 0, bar0, false⟩ a mask ws s).2.2

/-- A write of 1 to one bit of a command register of a unit. -/
def cmdBit (f : Fld) (o u : Nat) (s : State) : State := writeWord o (f.addr u) (2 ^ f.lo) s

/-- A write of a whole word with one bit set. -/
def cmdWord (f : Fld) (o u w : Nat) (s : State) : State := writeWord o (f.addr u) (w ||| 2 ^ f.lo) s

/-- Both words of a pair written in one tick (R40). -/
def writePair (o a v : Nat) (s : State) : State :=
  (writeNow ⟨o, 0, 0, o == 0, false⟩ a 15 [v % 2 ^ 32, v / 2 ^ 32] s).2.2

/-- The stored bit that an upset changes: address of the register word, bit 0 to 31, or 32 for its parity bit. -/
def upsetReg : Upset → Option (Nat × Nat)
  | .reg a bit => some (a.toNat, bit.val)
  | .pan _ => none

/-- The read of a pan that an upset spoils. -/
def upsetPan : Upset → Option PanErr
  | .reg _ _ => none
  | .pan e => some e

/-- Soft errors and the scrubber's pass: stored register bits that changed before and after it (R38), and errors that the last tick's reads of
the pans met (R219). -/
def softErrors (before after : List Upset) (s : State) : State :=
  ((before ++ after).filterMap upsetPan).foldl (fun t e => panErr e t) (cfgScrub (before.filterMap upsetReg) (after.filterMap upsetReg) s)

/-! ### The host's rings (R297 to R302) -/

/-- A write of a reply ring's control word: its submission rings may run again. -/
def rqCtl (o i w : Nat) (s : State) : State :=
  let t := writeWord o (F.HST_RQ_CTL_EN.addr i) w s
  sqPump (sqFuel t) t

/-- A submission doorbell over BAR0, with the words of host memory up to the new tail. -/
def sqDoorbell (i tail : Nat) (ws : List Nat) (s : State) : State :=
  let t := writeWord 0 (F.HST_SQ_DB_TAIL.addr i) tail s
  sqBell i (tail % 2 ^ (s.rd F.HST_SQ_CTL_SIZE i + 1)) ws t

/-- A reply doorbell: waiting replies are written, and rings that stalled fetch again. -/
def rqDoorbell (i head : Nat) (s : State) : State :=
  let t := writeWord 0 (F.HST_RQ_DB_HEAD.addr i) head s
  sqPump (sqFuel t) t

/-- A descriptor with its data. -/
def xferOf (x : Nat) (e : List Word × List Word) : Xfer := ⟨x, e.1.map (·.toNat), e.2.map (·.toNat)⟩

/-- A transfer doorbell, with the descriptors of host memory up to the new tail. -/
def xrDoorbell (x tail : Nat) (es : List Xfer) (s : State) : State :=
  let t := writeWord 0 (F.HST_XR_DB_TAIL.addr x) tail s
  xrBell x (tail % 2 ^ (s.rd F.HST_XR_CTL_SIZE x + 1)) es t

/-- One WRITE or READ descriptor at a ring, or from USB3 pair 3 (8). -/
def xferRow (op ring : Nat) (desc data coll : List Nat) (s : State) : State :=
  xferOne ⟨ring, (desc.headD 0 % 2 ^ 28 + op * 2 ^ 28) :: desc.drop 1, data⟩ coll s

/-! ### Events at the balls and in the memories -/

/-- The quarter tick that lies `back` before the end of the present tick. -/
def quarter (s : State) (back : Nat) : Nat := 4 * s.now + 3 - back

/-- A delayed entry of a player, reported to the learning lanes in its tick (R184, R191). -/
def entryOf (f : Nat → State → State) (p : Nat) (s : State) : State :=
  let t := refEvents (f p s)
  if pst t p == pst s p && (plyOf t p).dec == (plyOf s p).dec then t else histPush p t

/-- A start tick, with the dither of the player's channels (R116, R153). -/
def playerStart (p : Nat) (s : State) : State :=
  let t := entryOf startTick p s
  if (plyOf s p).start.isSome && (plyOf t p).start.isNone then startSeeds p t else t

/-- An ADC's conversion, which cupping's steps 4 and 5 withhold. -/
def adcSample (i : Nat) (result : Int) (s : State) : State := if cupAdc s then s else adcConvert i result s

/-- Levels of A and B at the balls, and a Z edge: the quarter ticks counted back, the core cycles for which they hold. -/
def pairEdge (e : Nat) (a b : Bool) (ph back held : Nat) (s : State) : State := encEdge e a b ph (quarter s back) held s

def indexEdge (e : Nat) (level : Bool) (back held : Nat) (s : State) : State := encIndex e level (quarter s back) held s

/-- An edge at a line tracker's input. -/
def trackerEdge (j : Nat) (rising : Bool) (back : Nat) (s : State) : State := trkIn j rising (quarter s back) s

/-- The end of a line tracker's window without an edge. -/
def trackerMiss (j : Nat) (s : State) : State := trkLapse j (quarter s 0) s

/-- A request at a Carafe port. -/
def carRequest (port : Nat) (wr : Bool) (a len : Nat) (deadline : Option Nat) (s : State) : State :=
  carEnter ⟨port, wr, a, len, s.now, deadline, false, 0, []⟩ s

/-- A pan is awake, and the transfers that waited for it run. -/
def panWoken (k : Nat) (s : State) : State := xfWoken (panAwoke k s)

/-- The window of an in-lane's frame as its row gives it. -/
def inFrame (hdrs : List (BitVec 2)) (seq : BitVec 16) (ctLo : BitVec 8) (stat : BitVec 4) (hsa hsb : BitVec 16) (slots : List Word)
    (crc : Word) : IFrame :=
  ⟨hdrs.map (·.toNat), seq.toNat, ctLo.toNat, stat.toNat, hsa.toNat, hsb.toNat, slots.map (·.toNat), crc.toNat⟩

/-- Sixteen round trips are measured; a cupping of the lane holds its words back until it ends. -/
def laneMeasured (n : Nat) (s : State) : State := if cupInLane s n then s else ilMeasured n s

/-- A Rake port that idles in cupping's step 7 neither sends, takes nor joins. -/
def cellSend (n : Nat) (s : State) : State := if cupRake s n then s else rkTransmit n s

def cellTake (n k : Nat) (data : List Nat) (crc : Nat) (viol : Bool) (stamp : Nat) (s : State) : State :=
  if cupRake s n then s else rkReceive n k data crc viol stamp s

def portJoin (n : Nat) (s : State) : State := if cupRake s n then s else rkJoin n s

end Sys2Proof.Machine
end

