-- ==== Sys2Proof/Machine/Flumes.lean ====
section
/-! DEFINITION. The rows of the flume lanes: outgoing frames, incoming frames and messages, measurements. Each meaning is one call of the
operation that the rule describes, and ends with `done_`. -/

namespace Sys2Proof.Machine

/-- OUT_LANE_FRAME (R251): An out-lane assembles and sends a frame every frame period. -/
def execOutLaneFrame (n : Fin 16) (s : State) : Host.Outcome State Fault Refusal :=
  done_ (running (olSend n.val) s)

/-- OL_TRAIN_DONE (R257): An out-lane has sent TRAIN_SF superframes and enters RUN. -/
def execOlTrainDone (n : Fin 16) (s : State) : Host.Outcome State Fault Refusal :=
  done_ (running (olTrainDone n.val) s)

/-- OL_HOLD_EXIT (R257): An out-lane in HOLD returns to RUN after lock, alignment and one whole HOLD superframe. -/
def execOlHoldExit (n : Fin 16) (s : State) : Host.Outcome State Fault Refusal :=
  done_ (running (olHoldExit n.val) s)

/-- OL_CLOSING_DONE (R257): An out-lane has sent two CLOSING superframes and enters OFF. -/
def execOlClosingDone (n : Fin 16) (s : State) : Host.Outcome State Fault Refusal :=
  done_ (running (olClosed n.val) s)

/-- LANE_PLL_LOCK (R366): The lane PLL's Flume section locks after a move of its input. -/
def execLanePllLock (s : State) : Host.Outcome State Fault Refusal :=
  done_ (running laneLock s)

/-- IN_LANE_FRAME (R263): An in-lane frame is checked and its words delivered or the frame counted bad. -/
def execInLaneFrame (n : Fin 8) (seq : BitVec 16) (ctLo : BitVec 8) (hsa : BitVec 16) (hsb : BitVec 16) (slots : List Word) (x : FrameRest)
    (s : State) : Host.Outcome State Fault Refusal :=
  done_ (running (ilFrame n.val (inFrame x.hdrs seq ctLo x.stat hsa hsb slots x.crc)) s)

/-- IN_LANE_MESSAGE (R255): An in-lane superframe's message is applied, with echo, turnaround and head fields. -/
def execInLaneMessage (n : Fin 8) (msg : Nat) (arrival : Nat) (s : State) : Host.Outcome State Fault Refusal :=
  done_ (running (ilMessage n.val msg arrival) s)

/-- IL_MEASURE_DONE (R262): Sixteen round trips measured fix lambda and take the in-lane to RUN. -/
def execIlMeasureDone (n : Fin 8) (s : State) : Host.Outcome State Fault Refusal :=
  done_ (running (laneMeasured n.val) s)

/-- IL_LOSS (R261): Sixty-four consecutive bad frames take an in-lane to LOST and re-acquire. -/
def execIlLoss (n : Fin 8) (s : State) : Host.Outcome State Fault Refusal :=
  done_ (running (ilLoss n.val) s)

end Sys2Proof.Machine
end

