-- ==== Sys2Proof/Machine/HostPath.lean ====
section
/-! DEFINITION. The rows of the host link: rings, doorbells, transfers, BAR2, the USB devices, link loss and return. Each meaning is one call
of the operation that the rule describes, and ends with `done_`. -/

namespace Sys2Proof.Machine

/-- HST_RQ_CTL_EN_WRITE (R299): A write of a reply ring's enable resets its pointers, refused as disable while a bound
submission ring is enabled. -/
def execHstRqCtlEnWrite (o : Fin 7) (i : Fin 32) (w : Word) (s : State) : Host.Outcome State Fault Refusal :=
  done_ (hostCmd (rqCtl o.val i.val w.toNat) s)

/-- HST_SQ_DB (R298): A submission doorbell write sets a new tail, and the device fetches packets round-robin until ring
error. -/
def execHstSqDb (i : Fin 32) (tail : BitVec 25) (ws : List Word) (s : State) : Host.Outcome State Fault Refusal :=
  done_ (hostCmd (sqDoorbell i.val tail.toNat (ws.map (·.toNat))) s)

/-- HST_RQ_DB (R299): A reply doorbell write frees reply-ring space so that waiting replies are written. -/
def execHstRqDb (i : Fin 32) (head : BitVec 25) (s : State) : Host.Outcome State Fault Refusal :=
  done_ (hostCmd (rqDoorbell i.val head.toNat) s)

/-- HST_XR_DB (R301): A transfer doorbell write sets a new tail, and the device runs the descriptors in order. -/
def execHstXrDb (x : Fin 8) (tail : BitVec 17) (ds : List (List Word × List Word))
    (s : State) : Host.Outcome State Fault Refusal :=
  done_ (hostCmd (xrDoorbell x.val tail.toNat (ds.map (xferOf x.val))) s)

/-- BAR2_WRITE (R296): A host write through BAR2 is written to Carafe through port 66, or discarded and counted. -/
def execBar2Write (off : BitVec 28) (bs : List Byte) (s : State) : Host.Outcome State Fault Refusal :=
  done_ (running (bar2Write off.toNat (bs.map (·.toNat))) s)

/-- BAR2_READ (R296): A host read through BAR2 returns Carafe data, zero beyond memory, or all ones for an uncorrectable unit.
-/
def execBar2Read (off : BitVec 28) (n : Nat) (s : State) : Host.Outcome State Fault Refusal :=
  done_ (running (bar2Read off.toNat n) s)

/-- XFER_WRITE (R302): A WRITE transfer descriptor carries host words into a queue. -/
def execXferWrite (ring : Fin 9) (desc : List Word) (data : List Word) (coll : List Nat)
    (s : State) : Host.Outcome State Fault Refusal :=
  done_ (hostCmd (xferRow 1 ring.val (desc.map (·.toNat)) (data.map (·.toNat)) coll) s)

/-- XFER_READ (R239): A READ transfer descriptor returns the head packet of a queue and passes it. -/
def execXferRead (ring : Fin 9) (desc : List Word) (s : State) : Host.Outcome State Fault Refusal :=
  done_ (hostCmd (xferRow 2 ring.val (desc.map (·.toNat)) [] []) s)

/-- USB3_OUT_TRANSFER (R303): A USB3 bulk OUT transfer delivers packets or descriptors, discarding an incomplete item. -/
def execUsb3OutTransfer (pair : Fin 4) (ws : List Word) (odd : Bool) (s : State) : Host.Outcome State Fault Refusal :=
  done_ (hostCmd (usbOut (pair.val + 1) (ws.map (·.toNat)) odd) s)

/-- SVC_OUT_TRANSFER (R304): A service-device OUT transfer delivers packets of origin SVC. -/
def execSvcOutTransfer (ws : List Word) (odd : Bool) (s : State) : Host.Outcome State Fault Refusal :=
  done_ (hostCmd (usbOut 5 (ws.map (·.toNat)) odd) s)

/-- HOST_DMA_ERROR (R298): A host memory error completion puts the ring concerned into ERROR. -/
def execHostDmaError (kind : Fin 3) (ring : Fin 32) (s : State) : Host.Outcome State Fault Refusal :=
  done_ (devEvent (dmaError kind.val (if kind.val == 2 then ring.val % 8 else ring.val)) s)

/-- SQ_HEAD_SHADOW_WRITE (R298): Within 1 µs, or after a quarter ring, the device writes the submission head shadow. -/
def execSqHeadShadowWrite (i : Fin 32) (s : State) : Host.Outcome State Fault Refusal :=
  done_ (devEvent (sqShadow i.val) s)

/-- MSIX_MESSAGE_SEND (R300): A coalesced MSI-X message is sent once its holdoff has passed. -/
def execMsixMessageSend (v : Fin 64) (s : State) : Host.Outcome State Fault Refusal :=
  done_ (devEvent (msixSend v.val) s)

/-- LINK_LOSS (R305): Loss of an origin's link disables its rings, aborts its open batches and applies LOSS_POL. -/
def execLinkLoss (kind : Fin 6) (s : State) : Host.Outcome State Fault Refusal :=
  done_ (devEvent (linkLoss kind.val) s)

/-- HOST_LINK_RETURN (R305): The USB4 link, PCIe tunnel, USB3 device or service device comes up, updating HST_LINK and
presenting the transports so that the host can re-enable its rings. -/
def execHostLinkReturn (state : Fin 5) (gen : Fin 4) (lanes : Fin 3) (svc : Bool)
    (s : State) : Host.Outcome State Fault Refusal :=
  done_ (devEvent (linkReturn state.val gen.val lanes.val svc) s)

end Sys2Proof.Machine
end

