-- ==== Sys2Proof/Machine/InFlight.lean ====
section
/-! DEFINITION. The rows that end what a command began: held fences, loads, the service reset, batches, posted registers. Each meaning is one
call of the operation that the rule describes, and ends with `done_`. -/

namespace Sys2Proof.Machine

/-- PACKET_FENCE_RELEASE (R318): A packet with FENCE set starts once every earlier packet of its origin has replied and its
writes are visible. -/
def execPacketFenceRelease (s : State) : Host.Outcome State Fault Refusal :=
  done_ (hostCmd drainHeld s)

/-- FENCE_COMPLETE (R318): A FENCE completes once every write accepted at any Carafe port before it is visible. -/
def execFenceComplete (s : State) : Host.Outcome State Fault Refusal :=
  done_ (devEvent fencesDone s)

/-- SEG_LOAD_COMPLETE (R204): A SEG_LOAD completes once its writes are visible, making the segment READY when LAST was set. -/
def execSegLoadComplete (s : State) : Host.Outcome State Fault Refusal :=
  done_ (devEvent segLoaded s)

/-- STEP_WRITE_COMPLETE (R330): A STEP_WRITE completes once its writes are visible. -/
def execStepWriteComplete (s : State) : Host.Outcome State Fault Refusal :=
  done_ (devEvent stepsWritten s)

/-- SVC_RESET_DELAY (R336): Ten milliseconds after SVC_RESET's final reply, a power-on reset occurs. -/
def execSvcResetDelay (s : State) : Host.Outcome State Fault Refusal :=
  done_ (devEvent svcReset s)

/-- BATCH_STAGING_DONE (R45): Staging of a committed batch completes, so that it applies at once or waits for its AT_CT tick.
-/
def execBatchStagingDone (s : State) : Host.Outcome State Fault Refusal :=
  done_ (hostCmd stagingDone s)

/-- BATCH_COMMIT_TICK (R46): In its commit tick, a staged batch applies all its members in order, or none if any fails. -/
def execBatchCommitTick (s : State) : Host.Outcome State Fault Refusal :=
  done_ (hostCmd batchesDue s)

/-- BATCH_TIMEOUT (R44): An open batch with no member and no commit for 60 s is aborted. -/
def execBatchTimeout (s : State) : Host.Outcome State Fault Refusal :=
  done_ (devEvent batchTimeout s)

/-- PST_APPLY (R37): The slow domain applies a posted write and clears the block's busy bit. -/
def execPstApply (pwr : Bool) (s : State) : Host.Outcome State Fault Refusal :=
  done_ (devEvent (pstApply (if pwr then 18 else 15)) s)

end Sys2Proof.Machine
end

