-- ==== Sys2Proof/Machine/Memory.lean ====
section
/-! DEFINITION. The rows of the Carafe and the pans: requests, refresh, scrubs, tests, queue pointer faults, handovers. Each meaning is one
call of the operation that the rule describes, and ends with `done_`. -/

namespace Sys2Proof.Machine

/-- CARAFE_REQUEST (R203): A request enters a Carafe port and is scheduled by rank, hit and age. -/
def execCarafeRequest (port : Fin 72) (wr : Bool) (a : BitVec 34) (len : Nat) (deadline : Option Nat)
    (s : State) : Host.Outcome State Fault Refusal :=
  done_ (devEvent (carRequest port.val wr a.toNat len deadline) s)

/-- CARAFE_READ_COMPLETE (R205): A Carafe read's data, decoded by ECC, reaches its client. -/
def execCarafeReadComplete (port : Fin 72) (lat : Nat) (ces : List Nat) (ues : List Nat)
    (s : State) : Host.Outcome State Fault Refusal :=
  done_ (running (carRead port.val lat ces ues) s)

/-- ECC_WRITEBACK (R213): A corrected block is written back at rank 4. -/
def execEccWriteback (s : State) : Host.Outcome State Fault Refusal :=
  done_ (running carWriteBack s)

/-- DEADLINE_MISS (R202): A deadline request unserved at its deadline counts a miss. -/
def execDeadlineMiss (port : Fin 72) (s : State) : Host.Outcome State Fault Refusal :=
  done_ (running (dlMiss port.val) s)

/-- REFRESH_DUE (R207): A refresh falls due and is issued, postponed or forced. -/
def execRefreshDue (m : Fin 4) (s : State) : Host.Outcome State Fault Refusal :=
  done_ (running (refTimer m.val) s)

/-- ROW_HAMMER_WINDOW_END (R209): The 32 ms activate window ends, clearing counts and throttles. -/
def execRowHammerWindowEnd (s : State) : Host.Outcome State Fault Refusal :=
  done_ (running rhWindow s)

/-- SELF_REFRESH_IDLE (R211): No request for IDLE_SR µs under its conditions starts self-refresh entry. -/
def execSelfRefreshIdle (s : State) : Host.Outcome State Fault Refusal :=
  done_ (running srIdle s)

/-- SR_DRAIN_DONE (R212): DRAIN finishes and SRE is issued. -/
def execSrDrainDone (s : State) : Host.Outcome State Fault Refusal :=
  done_ (devEvent srDrained s)

/-- SR_EXIT_DONE (R212): Self-refresh exit completes and the controller returns to RUN. -/
def execSrExitDone (s : State) : Host.Outcome State Fault Refusal :=
  done_ (devEvent srExited s)

/-- PATROL_SCRUB_START (R216): The patrol period elapses and a scrub pass starts. -/
def execPatrolScrubStart (s : State) : Host.Outcome State Fault Refusal :=
  done_ (running patrol s)

/-- DRAM_DRIFT_TRACK (R217): Every 100 ms the byte-lane delays are adjusted for drift. -/
def execDramDriftTrack (adj : List Int) (s : State) : Host.Outcome State Fault Refusal :=
  done_ (running (driftTrack adj) s)

/-- DRAM_TEMP_CHANGE (R207): The DRAM reports a temperature that changes the refresh rate or the overtemperature state. -/
def execDramTempChange (m : Fin 4) (t : Int) (s : State) : Host.Outcome State Fault Refusal :=
  done_ (running (dramTemp m.val t) s)

/-- MBIST_SLICE (R228): At each interval the background test borrows, marches and restores one pan slice. -/
def execMbistSlice (fails : List (Fin 64)) (yielded : Bool) (s : State) : Host.Outcome State Fault Refusal :=
  done_ (running (mbistSlice (fails.map (·.val)) yielded) s)

/-- FULL_MARCH_DONE (R230): A full destructive test of a pan finishes and zero-fills it. -/
def execFullMarchDone (k : Fin 16) (fails : List (Fin 8192)) (s : State) : Host.Outcome State Fault Refusal :=
  done_ (running (fullMarch k.val (fails.map (·.val))) s)

/-- PAN_HANDOVER_DONE (R224): A pan handover takes effect once accepted accesses, yields or host transfers complete. -/
def execPanHandoverDone (k : Fin 16) (s : State) : Host.Outcome State Fault Refusal :=
  done_ (running (panHanded k.val) s)

/-- PAN_WAKE_DONE (R227): A sleeping pan finishes waking and serves the held access. -/
def execPanWakeDone (k : Fin 16) (s : State) : Host.Outcome State Fault Refusal :=
  done_ (running (panWoken k.val) s)

/-- QUEUE_POINTER_FAULT (R242): A pointer copy mismatch or failed sanity condition flushes the queue and reports it. -/
def execQueuePointerFault (q : Fin 128) (ptr : Fin 7) (copy : Word) (comp : Word)
    (s : State) : Host.Outcome State Fault Refusal :=
  done_ (running (qPtrFault q.val ptr.val copy.toNat comp.toNat) s)

end Sys2Proof.Machine
end

