-- ==== Sys2Proof/Machine/Packets.lean ====
section
/-! DEFINITION. The rows of command packets, one for each opcode, and of a packet whose opcode is not listed (R306 to R370). Each meaning is
one call of the operation that the rule describes, and ends with `done_`. -/

namespace Sys2Proof.Machine

/-- NOP (R328): Command 0x00 does nothing except reply. -/
def execNop (p : Pkt) (s : State) : Host.Outcome State Fault Refusal :=
  done_ (hostCmd (packet 0x00 p) s)

/-- HELLO (R311): Command 0x01 reports identity and, with RESYNC, empties and reseeds the origin's tag window. -/
def execHello (p : Pkt) (s : State) : Host.Outcome State Fault Refusal :=
  done_ (hostCmd (packet 0x01 p) s)

/-- MODE_SET (R341): Command 0x02 requests a device mode transition, which is accepted or refused by the legal-transition
table. -/
def execModeSet (p : Pkt) (s : State) : Host.Outcome State Fault Refusal :=
  done_ (hostCmd (packet 0x02 p) s)

/-- BATCH_OPEN (R44): Command 0x03 opens a batch with a nonzero ID for the origin. -/
def execBatchOpen (p : Pkt) (s : State) : Host.Outcome State Fault Refusal :=
  done_ (hostCmd (packet 0x03 p) s)

/-- BATCH_COMMIT (R45): Command 0x04 stages the origin's open batch to apply at once or at AT_CT. -/
def execBatchCommit (p : Pkt) (s : State) : Host.Outcome State Fault Refusal :=
  done_ (hostCmd (packet 0x04 p) s)

/-- BATCH_ABORT (R44): Command 0x05 discards every member of an open or staged batch of the origin. -/
def execBatchAbort (p : Pkt) (s : State) : Host.Outcome State Fault Refusal :=
  done_ (hostCmd (packet 0x05 p) s)

/-- FENCE (R318): Command 0x06 holds until earlier packets have replied and earlier Carafe writes are visible. -/
def execFence (p : Pkt) (s : State) : Host.Outcome State Fault Refusal :=
  done_ (hostCmd (packet 0x06 p) s)

/-- REG_RD (R329): Command 0x10 reads COUNT register words. -/
def execRegRd (p : Pkt) (s : State) : Host.Outcome State Fault Refusal :=
  done_ (hostCmd (packet 0x10 p) s)

/-- REG_WR (R329): Command 0x11 writes COUNT register words, each treated by its class, its byte mask and its permission. -/
def execRegWr (p : Pkt) (s : State) : Host.Outcome State Fault Refusal :=
  done_ (hostCmd (packet 0x11 p) s)

/-- REG_RMW (R41): Command 0x12 reads a register, replaces the masked bits and writes the result in one tick. -/
def execRegRmw (p : Pkt) (s : State) : Host.Outcome State Fault Refusal :=
  done_ (hostCmd (packet 0x12 p) s)

/-- SNAP (R43): Command 0x13 copies every 64-bit counter into its holding pair in one tick. -/
def execSnap (p : Pkt) (s : State) : Host.Outcome State Fault Refusal :=
  done_ (hostCmd (packet 0x13 p) s)

/-- SEG_ALLOC (R75): Command 0x20 allocates Carafe storage for a segment, or for a correction pair, and makes it LOADING. -/
def execSegAlloc (p : Pkt) (s : State) : Host.Outcome State Fault Refusal :=
  done_ (hostCmd (packet 0x20 p) s)

/-- SEG_LOAD (R79): Command 0x21 writes frames into a segment and, with LAST, makes it READY once the writes are visible. -/
def execSegLoad (p : Pkt) (s : State) : Host.Outcome State Fault Refusal :=
  done_ (hostCmd (packet 0x21 p) s)

/-- SEG_FREE (R77): Command 0x22 makes a segment ABSENT and frees its storage and marker list. -/
def execSegFree (p : Pkt) (s : State) : Host.Outcome State Fault Refusal :=
  done_ (hostCmd (packet 0x22 p) s)

/-- SEG_PIN (R424): Command 0x23 starts a pin copy to the NVM pinned region, or unpins or cancels one. -/
def execSegPin (p : Pkt) (s : State) : Host.Outcome State Fault Refusal :=
  done_ (hostCmd (packet 0x23 p) s)

/-- MARK_LOAD (R80): Command 0x24 replaces a segment's marker list after checking its order and coverage. -/
def execMarkLoad (p : Pkt) (s : State) : Host.Outcome State Fault Refusal :=
  done_ (hostCmd (packet 0x24 p) s)

/-- STEP_WRITE (R85): Command 0x25 writes whole steps unless they lie in the window of an armed player. -/
def execStepWrite (p : Pkt) (s : State) : Host.Outcome State Fault Refusal :=
  done_ (hostCmd (packet 0x25 p) s)

/-- PAN_GRANT (R224): Command 0x26 requests a change of pan ownership, as a PAN_OWN write. -/
def execPanGrant (p : Pkt) (s : State) : Host.Outcome State Fault Refusal :=
  done_ (hostCmd (packet 0x26 p) s)

/-- SEG_INFO (R330): Command 0x27 returns a segment descriptor. -/
def execSegInfo (p : Pkt) (s : State) : Host.Outcome State Fault Refusal :=
  done_ (hostCmd (packet 0x27 p) s)

/-- STEP_READ (R330): Command 0x28 returns steps from the step table. -/
def execStepRead (p : Pkt) (s : State) : Host.Outcome State Fault Refusal :=
  done_ (hostCmd (packet 0x28 p) s)

/-- ARM (R114): Command 0x30 starts the checks, locks, step-cache load and buffer fill of a player. -/
def execArm (p : Pkt) (s : State) : Host.Outcome State Fault Refusal :=
  done_ (hostCmd (packet 0x30 p) s)

/-- START (R115): Command 0x31 makes a start pending for an ARMED player, with source NOW, AT_CT, EVENT or RAKE. -/
def execStart (p : Pkt) (s : State) : Host.Outcome State Fault Refusal :=
  done_ (hostCmd (packet 0x31 p) s)

/-- HOLD (R117): Command 0x32 freezes a player's position and markers and takes it to HELD. -/
def execHold (p : Pkt) (s : State) : Host.Outcome State Fault Refusal :=
  done_ (hostCmd (packet 0x32 p) s)

/-- RESUME (R117): Command 0x33 re-anchors a HELD player and returns it to HELD_FROM, or releases a STARVED player under REST
policy. -/
def execResume (p : Pkt) (s : State) : Host.Outcome State Fault Refusal :=
  done_ (hostCmd (packet 0x33 p) s)

/-- STOP (R118): Command 0x34 freezes the player, ramps its channels to REST and enters DONE, or cancels an ARM in progress.
-/
def execStop (p : Pkt) (s : State) : Host.Outcome State Fault Refusal :=
  done_ (hostCmd (packet 0x34 p) s)

/-- JUMP (R93): Command 0x35 registers a jump request to a target step with a timing. -/
def execJump (p : Pkt) (s : State) : Host.Outcome State Fault Refusal :=
  done_ (hostCmd (packet 0x35 p) s)

/-- RATE (R59): Command 0x36 writes both words of a TIME rail's rate in one tick. -/
def execRate (p : Pkt) (s : State) : Host.Outcome State Fault Refusal :=
  done_ (hostCmd (packet 0x36 p) s)

/-- PHASE (R93): Command 0x37 registers a phase request that acts at the next decided boundary. -/
def execPhase (p : Pkt) (s : State) : Host.Outcome State Fault Refusal :=
  done_ (hostCmd (packet 0x37 p) s)

/-- STREAM_SKIP (R135): Command 0x38 registers a jump to the next stream packet and adds to the drop count. -/
def execStreamSkip (p : Pkt) (s : State) : Host.Outcome State Fault Refusal :=
  done_ (hostCmd (packet 0x38 p) s)

/-- CAP_FLUSH (R170): Command 0x40 closes a capture unit's open packet with SHORT. -/
def execCapFlush (p : Pkt) (s : State) : Host.Outcome State Fault Refusal :=
  done_ (hostCmd (packet 0x40 p) s)

/-- CAP_REARM (R167): Command 0x41 clears DONE so that a ONE_SHOT gate waits for the next start edge. -/
def execCapRearm (p : Pkt) (s : State) : Host.Outcome State Fault Refusal :=
  done_ (hostCmd (packet 0x41 p) s)

/-- CAP_CLR (R332): Command 0x42 zeroes a capture unit's lost and error counts. -/
def execCapClr (p : Pkt) (s : State) : Host.Outcome State Fault Refusal :=
  done_ (hostCmd (packet 0x42 p) s)

/-- Q_FLUSH (R241): Command 0x43 discards a queue's open packet and every unheld visible packet. -/
def execQFlush (p : Pkt) (s : State) : Host.Outcome State Fault Refusal :=
  done_ (hostCmd (packet 0x43 p) s)

/-- Q_DROP (R240): Command 0x44 drops the oldest unheld visible packet of a queue. -/
def execQDrop (p : Pkt) (s : State) : Host.Outcome State Fault Refusal :=
  done_ (hostCmd (packet 0x44 p) s)

/-- Q_ACK (R243): Command 0x45 writes a queue's crossing acknowledgement. -/
def execQAck (p : Pkt) (s : State) : Host.Outcome State Fault Refusal :=
  done_ (hostCmd (packet 0x45 p) s)

/-- Q_STAT (R332): Command 0x46 returns a queue's status, free space, fill and notice. -/
def execQStat (p : Pkt) (s : State) : Host.Outcome State Fault Refusal :=
  done_ (hostCmd (packet 0x46 p) s)

/-- REF_FREEZE (R194): Command 0x50 freezes a learning lane with a copy pass. -/
def execRefFreeze (p : Pkt) (s : State) : Host.Outcome State Fault Refusal :=
  done_ (hostCmd (packet 0x50 p) s)

/-- REF_UNFREEZE (R194): Command 0x51 returns a FROZEN lane to READY. -/
def execRefUnfreeze (p : Pkt) (s : State) : Host.Outcome State Fault Refusal :=
  done_ (hostCmd (packet 0x51 p) s)

/-- REF_ZERO (R194): Command 0x52 freezes a lane with a zero pass. -/
def execRefZero (p : Pkt) (s : State) : Host.Outcome State Fault Refusal :=
  done_ (hostCmd (packet 0x52 p) s)

/-- REF_CLR (R194): Command 0x53 zeroes a lane's RISE, counts and errors. -/
def execRefClr (p : Pkt) (s : State) : Host.Outcome State Fault Refusal :=
  done_ (hostCmd (packet 0x53 p) s)

/-- CHAIN_PULSE (R281): Command 0x60 raises a RAKE synchronising pulse on the root. -/
def execChainPulse (p : Pkt) (s : State) : Host.Outcome State Fault Refusal :=
  done_ (hostCmd (packet 0x60 p) s)

/-- CHAIN_EVENT (R280): Command 0x61 raises the chain events of its mask. -/
def execChainEvent (p : Pkt) (s : State) : Host.Outcome State Fault Refusal :=
  done_ (hostCmd (packet 0x61 p) s)

/-- CHAIN_ENUM (R276): Command 0x62 starts an incremental or full address assignment on the root. -/
def execChainEnum (p : Pkt) (s : State) : Host.Outcome State Fault Refusal :=
  done_ (hostCmd (packet 0x62 p) s)

/-- CHAIN_CT_LOAD (R275): Command 0x63 writes the CT load value and requests a CT load on the root. -/
def execChainCtLoad (p : Pkt) (s : State) : Host.Outcome State Fault Refusal :=
  done_ (hostCmd (packet 0x63 p) s)

/-- CHAIN_INFO (R334): Command 0x64 returns tree size, Rake status, address and theta. -/
def execChainInfo (p : Pkt) (s : State) : Host.Outcome State Fault Refusal :=
  done_ (hostCmd (packet 0x64 p) s)

/-- CUP_RUN (R370): Command 0x70 starts a full cupping, or a channel or out-lane partial cupping. -/
def execCupRun (p : Pkt) (s : State) : Host.Outcome State Fault Refusal :=
  done_ (hostCmd (packet 0x70 p) s)

/-- CAL_STORE (R374): Command 0x71 starts a store of the calibration into the older calibration slot. -/
def execCalStore (p : Pkt) (s : State) : Host.Outcome State Fault Refusal :=
  done_ (hostCmd (packet 0x71 p) s)

/-- SHELF_CLEAR (R336): Command 0x72 empties the shelf so that the next WAKE uses reset values. -/
def execShelfClear (p : Pkt) (s : State) : Host.Outcome State Fault Refusal :=
  done_ (hostCmd (packet 0x72 p) s)

/-- FW_WRITE (R376): Command 0x73 programs words into the firmware slot that did not boot. -/
def execFwWrite (p : Pkt) (s : State) : Host.Outcome State Fault Refusal :=
  done_ (hostCmd (packet 0x73 p) s)

/-- FW_ACTIVATE (R376): Command 0x74 checks a firmware image and names its slot for the next WAKE. -/
def execFwActivate (p : Pkt) (s : State) : Host.Outcome State Fault Refusal :=
  done_ (hostCmd (packet 0x74 p) s)

/-- LOG_READ (R385): Command 0x80 returns whole event-log records or audit entries from a record number. -/
def execLogRead (p : Pkt) (s : State) : Host.Outcome State Fault Refusal :=
  done_ (hostCmd (packet 0x80 p) s)

/-- SVC_INFO (R336): Command 0x90 returns identity and health. -/
def execSvcInfo (p : Pkt) (s : State) : Host.Outcome State Fault Refusal :=
  done_ (hostCmd (packet 0x90 p) s)

/-- SVC_RESET (R336): Command 0x91 schedules a power-on reset 10 ms after its final reply. -/
def execSvcReset (p : Pkt) (s : State) : Host.Outcome State Fault Refusal :=
  done_ (hostCmd (packet 0x91 p) s)

/-- RESULT_GET (R316): Command 0xF0 returns the cached result of a tag without entering the window. -/
def execResultGet (p : Pkt) (s : State) : Host.Outcome State Fault Refusal :=
  done_ (hostCmd (packet 0xF0 p) s)

/-- UNLISTED_OPCODE (R327): A packet whose opcode is not listed is answered BAD_OPCODE. -/
def execUnlistedOpcode (p : Pkt) (s : State) : Host.Outcome State Fault Refusal :=
  done_ (hostCmd (unlisted p) s)

end Sys2Proof.Machine
end

