-- ==== Sys2Proof/Machine/Play.lean ====
section
/-! DEFINITION. The rows of the sample fabric: the tick, players, channels, encoders, trackers, triggers, captures, refine lanes. Each meaning
is one call of the operation that the rule describes, and ends with `done_`. -/

namespace Sys2Proof.Machine

/-- SAMPLE_FABRIC_TICK (R13): In each tick, rails are evaluated, the sequencer decides and enters, and players fetch their
windows. -/
def execSampleFabricTick (s : State) : Host.Outcome State Fault Refusal :=
  done_ (fabricTick s)

/-- ARM_COMPLETE (R114): An ARM finishes its locks, step-cache load and buffer fill, and the player enters ARMED. -/
def execArmComplete (p : Fin 64) (s : State) : Host.Outcome State Fault Refusal :=
  done_ (running (armEnded p.val) s)

/-- START_TICK (R116): At t_s the player takes its origin and enters RUNNING, WAITING or STARVED. -/
def execStartTick (p : Fin 64) (s : State) : Host.Outcome State Fault Refusal :=
  done_ (running (playerStart p.val) s)

/-- SUCCESSOR_READY (R94): A candidate's step and first frames reach the step cache and the prefetch buffer. -/
def execSuccessorReady (p : Fin 64) (code : Fin 9) (s : State) : Host.Outcome State Fault Refusal :=
  done_ (running (markReady p.val code.val) s)

/-- LATE_SUCCESSOR_ENTRY (R95): A late successor is entered 20 ticks after it becomes ready, without carry. -/
def execLateSuccessorEntry (p : Fin 64) (s : State) : Host.Outcome State Fault Refusal :=
  done_ (running (entryOf lateEntry p.val) s)

/-- WAIT_RELEASE_ENTRY (R97): Twenty ticks after a release event, the waited step's first frame enters the output chain. -/
def execWaitReleaseEntry (p : Fin 64) (s : State) : Host.Outcome State Fault Refusal :=
  done_ (running (entryOf waitEntry p.val) s)

/-- STARVE_RESUME_ENTRY (R133): Twenty ticks after the next packet becomes ready, a STARVED player enters it and runs again.
-/
def execStarveResumeEntry (p : Fin 64) (s : State) : Host.Outcome State Fault Refusal :=
  done_ (running (entryOf starveEntry p.val) s)

/-- CHANNEL_SAMPLE (R139): In each tick matching its rate and offset, a channel takes a sample through its output chain. -/
def execChannelSample (c : Fin 256) (s : State) : Host.Outcome State Fault Refusal :=
  done_ (running (channelSample c.val) s)

/-- ADC_CONVERSION (R162): An ADC samples on its CT grid and delivers a calibrated word to its consumers. -/
def execAdcConversion (i : Fin 8) (result : Int) (s : State) : Host.Outcome State Fault Refusal :=
  done_ (running (adcSample i.val result) s)

/-- GP_INPUT_EDGE (R89): An edge on a GP input is timestamped and registered as a trigger source four ticks later. -/
def execGpInputEdge (i : Fin 16) (rising : Bool) (back : Fin 16) (s : State) : Host.Outcome State Fault Refusal :=
  done_ (running (gpEdge i.val rising back.val) s)

/-- ENCODER_EDGE (R61): An accepted A or B edge moves the encoder position. -/
def execEncoderEdge (e : Fin 8) (a : Bool) (b : Bool) (x : PairEdge) (s : State) : Host.Outcome State Fault Refusal :=
  done_ (running (pairEdge e.val a b x.ph.toNat x.back.val x.held) s)

/-- INDEX_EDGE (R62): A Z index edge latches the position and zeroes it as INDEX calls for. -/
def execIndexEdge (e : Fin 8) (level : Bool) (x : PinEdge) (s : State) : Host.Outcome State Fault Refusal :=
  done_ (running (indexEdge e.val level x.back.val x.held) s)

/-- SSI_FRAME_START (R61): An SSI port starts a frame when its period has elapsed. -/
def execSsiFrameStart (e : Fin 8) (s : State) : Host.Outcome State Fault Refusal :=
  done_ (running (ssiBegin e.val) s)

/-- SSI_FRAME_DONE (R61): An SSI frame completes and its word updates the position. -/
def execSsiFrameDone (e : Fin 8) (w : BitVec 48) (ok : Bool) (s : State) : Host.Outcome State Fault Refusal :=
  done_ (running (ssiEnd e.val w.toNat ok) s)

/-- ENCODER_LOST (R63): A line break, amplitude fault or bad SSI frames held long enough take a port to LOST. -/
def execEncoderLost (x : EncSeen) (s : State) : Host.Outcome State Fault Refusal :=
  done_ (running (encLost x.port.val x.broken x.radius.toNat x.cycles) s)

/-- ENCODER_RETURN (R72): An encoder port leaves LOST, and its COUNT rail re-anchors automatically. -/
def execEncoderReturn (x : EncSeen) (s : State) : Host.Outcome State Fault Refusal :=
  done_ (running (encReturn x.port.val x.broken x.radius.toNat) s)

/-- LINE_TRACKER_EDGE (R65): A tracker edge is accepted or rejected by its window and updates the period estimate. -/
def execLineTrackerEdge (j : Fin 8) (x : LineEdge) (s : State) : Host.Outcome State Fault Refusal :=
  done_ (running (trackerEdge j.val x.rising x.back.val) s)

/-- FLYWHEEL_MISS (R65): No edge by the window's end counts a missing pulse and may take the tracker to LOST. -/
def execFlywheelMiss (j : Fin 8) (s : State) : Host.Outcome State Fault Refusal :=
  done_ (running (trackerMiss j.val) s)

/-- COLLECTION_CLOSE (R185): Collection closes 1,024 ticks after the repetition boundary and the lane's pass starts. -/
def execCollectionClose (l : Fin 8) (s : State) : Host.Outcome State Fault Refusal :=
  done_ (running (laneClose l.val) s)

/-- REFINE_PASS_COMPLETE (R187): An update, copy or zero pass finishes, and the lane enters SWAP_WAIT or leaves CLOSING. -/
def execRefinePassComplete (l : Fin 8) (s : State) : Host.Outcome State Fault Refusal :=
  done_ (running (passEnd l.val) s)

/-- CAPTURE_AGE_EXPIRY (R170): An open capture packet older than AGE µs is committed with SHORT. -/
def execCaptureAgeExpiry (u : Fin 32) (s : State) : Host.Outcome State Fault Refusal :=
  done_ (running (capAge u.val) s)

/-- CAPTURE_FINAL_COMMIT (R171): After a capture disable the last packet is committed and PKT_OPEN falls. -/
def execCaptureFinalCommit (u : Fin 32) (s : State) : Host.Outcome State Fault Refusal :=
  done_ (running (capFinal u.val) s)

/-- DAC_CURRENT_LIMIT (R160): A DAC's output current limit starts or stops acting, setting or clearing OVLD and counting each
entry in CNV_DAC_ERR. -/
def execDacCurrentLimit (i : Fin 8) (acts : Bool) (s : State) : Host.Outcome State Fault Refusal :=
  done_ (running (dacLimit i.val acts) s)

end Sys2Proof.Machine
end

