-- ==== Sys2Proof/Machine/Power.lean ====
section
/-! DEFINITION. The rows of the supplies, of reset, of the thermal guard and of start-up. Each meaning is one call of the operation that the
rule describes, and ends with `done_`. -/

namespace Sys2Proof.Machine

/-- VIN_START (R402): VIN rising through the start threshold starts the converter and releases PF_N. -/
def execVinStart (mv : BitVec 16) (s : State) : Host.Outcome State Fault Refusal :=
  done_ (vinStart mv.toNat s)

/-- VIN_PF (R402): VIN falling below the PF_N threshold drives PF_N low and takes the device to SAFE. -/
def execVinPf (mv : BitVec 16) (s : State) : Host.Outcome State Fault Refusal :=
  done_ (vinPf mv.toNat s)

/-- VIN_BROWN_OUT (R402): VIN falling below the brown-out threshold causes a power-on reset. -/
def execVinBrownOut (s : State) : Host.Outcome State Fault Refusal :=
  done_ (vinBrownOut s)

/-- RESET_N_LOW (R409): RESET_N held low for at least 1 µs causes a power-on reset. -/
def execResetNLow (s : State) : Host.Outcome State Fault Refusal :=
  done_ (resetLow s)

/-- RESET_N_HIGH (R407): RESET_N rising with VIN above the start threshold begins start-up. -/
def execResetNHigh (s : State) : Host.Outcome State Fault Refusal :=
  done_ (resetHigh s)

/-- PWR_EN_FALL (R408): PWR_EN low for 10 µs starts an orderly shutdown. -/
def execPwrEnFall (s : State) : Host.Outcome State Fault Refusal :=
  done_ (shutBegin s)

/-- SHUTDOWN_DRAINED (R408): Ramps, shelf store and audit backlog done, the converter stops. -/
def execShutdownDrained (s : State) : Host.Outcome State Fault Refusal :=
  done_ (shutDrained s)

/-- SHUTDOWN_TIMEOUT (R408): Two seconds into a shutdown the converter stops whatever remains. -/
def execShutdownTimeout (s : State) : Host.Outcome State Fault Refusal :=
  done_ (shutTimeout s)

/-- PWR_EN_RISE (R408): PWR_EN rising after shutdown starts power-up. -/
def execPwrEnRise (s : State) : Host.Outcome State Fault Refusal :=
  done_ (shutReturn s)

/-- WAKE_N_FALL (R351): A falling edge on WAKE_N leaves SHELF and starts start-up at TRAIN. -/
def execWakeNFall (slept : Nat) (s : State) : Host.Outcome State Fault Refusal :=
  done_ (wakeFall slept s)

/-- DIE_TEMP_HIGH (R352): Die temperature at 125 °C sets THERM and takes the device to SAFE. -/
def execDieTempHigh (t : BitVec 16) (s : State) : Host.Outcome State Fault Refusal :=
  done_ (dieHigh t.toNat s)

/-- DIE_TEMP_NORMAL (R352): Die temperature below 115 °C ends the thermal SAFE cause. -/
def execDieTempNormal (t : BitVec 16) (s : State) : Host.Outcome State Fault Refusal :=
  done_ (dieNormal t.toNat s)

/-- THERMAL_TRIP (R352): Die temperature at 135 °C turns the converter off within 10 µs. -/
def execThermalTrip (t : BitVec 16) (s : State) : Host.Outcome State Fault Refusal :=
  done_ (thermTrip t.toNat s)

/-- TRIP_COOLED (R352): After a trip, the die falling below 100 °C causes a power-on reset. -/
def execTripCooled (t : BitVec 16) (s : State) : Host.Outcome State Fault Refusal :=
  done_ (tripCooled t.toNat s)

/-- VBAK_CHANGE (R404): VBAK crossing 2.7 V changes VBAK_OK. -/
def execVbakChange (mv : BitVec 16) (s : State) : Host.Outcome State Fault Refusal :=
  done_ (vbakTo mv.toNat s)

/-- VIO_CHANGE (R405): VIO appearing or disappearing changes the GP bank's level and drive. -/
def execVioChange (v : Fin 3) (s : State) : Host.Outcome State Fault Refusal :=
  done_ (vioTo v.val s)

/-- INTERNAL_RAILS_UP (R346): Internal rails, bypass oscillator and standby PLL are up and TRAIN begins. -/
def execInternalRailsUp (s : State) : Host.Outcome State Fault Refusal :=
  done_ (railsUp s)

/-- BOOT_CHECK_DONE (R376): Boot selects and checks a firmware slot and reads calibration and shelf headers. -/
def execBootCheckDone (ok : BitVec 2) (s : State) : Host.Outcome State Fault Refusal :=
  done_ (hostResume (bootChecked ok.toNat s))

/-- CARAFE_TRAINING_DONE (R217): Quick or full Carafe training finishes, passing or failing into SERVICE. -/
def execCarafeTrainingDone (quick : Bool) (lanes : BitVec 8) (step : BitVec 4) (ms : BitVec 16) (delays : List Int)
    (s : State) : Host.Outcome State Fault Refusal :=
  done_ (hostResume (trainDone quick lanes.toNat step.toNat ms.toNat delays s))

/-- ECC_FILL_DONE (R217): Every Carafe data block and its check bytes have been zero-filled. -/
def execEccFillDone (s : State) : Host.Outcome State Fault Refusal :=
  done_ (hostResume (fillDone s))

/-- CARAFE_TEST_DONE (R217): The selected Carafe test finishes. -/
def execCarafeTestDone (lanes : BitVec 8) (s : State) : Host.Outcome State Fault Refusal :=
  done_ (hostResume (carTested lanes.toNat s))

/-- FW_IMAGE_COPY_DONE (R346): The firmware image has been copied from NVM and checked. -/
def execFwImageCopyDone (ok : BitVec 2) (s : State) : Host.Outcome State Fault Refusal :=
  done_ (hostResume (fwCopied ok.toNat s))

/-- PINNED_RESTORE_DONE (R79): Pinned segments are restored to Carafe at their indices. -/
def execPinnedRestoreDone (s : State) : Host.Outcome State Fault Refusal :=
  done_ (hostResume (pinsRestored s))

/-- PAN_WAKE_FILL_DONE (R226): Pans are woken and those not retained are zero-filled. -/
def execPanWakeFillDone (s : State) : Host.Outcome State Fault Refusal :=
  done_ (hostResume (pansReady s))

/-- SHELF_IMAGE_APPLY (R347): WAKE applies the last completed shelf image as one batch and leaves WAKE. -/
def execShelfImageApply (s : State) : Host.Outcome State Fault Refusal :=
  done_ (hostResume (wakeEnd s))

/-- SHELF_ENTRY_DONE (R350): The SHELF entry steps finish and the device is in SHELF at its depth. -/
def execShelfEntryDone (s : State) : Host.Outcome State Fault Refusal :=
  done_ (hostResume (shelfDone s))

/-- CP_WATCHDOG_EXPIRY (R352): The control-processor watchdog of 100 ms expires and the device enters RECOVER. -/
def execCpWatchdogExpiry (s : State) : Host.Outcome State Fault Refusal :=
  done_ (devEvent watchdog s)

/-- FW_RELOAD_DONE (R354): The control processor has reloaded its firmware and RECOVER's second stage begins. -/
def execFwReloadDone (s : State) : Host.Outcome State Fault Refusal :=
  done_ (hostResume (fwReloaded s))

/-- RECOVER_APPLY (R354): Once ramps end, RECOVER applies the selected image and leaves to SAFE, the activity mode, COAST or
SERVICE. -/
def execRecoverApply (good : Bool) (s : State) : Host.Outcome State Fault Refusal :=
  done_ (hostResume (recoverApply good s))

end Sys2Proof.Machine
end

