-- ==== Sys2Proof/Machine/Registers.lean ====
section
/-! DEFINITION. The rows that write registers: command bits, enables, the writes that have rows of their own (R33 to R42). Each meaning is one
call of the operation that the rule describes, and ends with `done_`. -/

namespace Sys2Proof.Machine

/-- REGISTER_WRITE (R33): A register write, over BAR0 or as one word of REG_WR, to a register that has no row of its own is
treated field by field by access class. -/
def execRegisterWrite (o : Fin 7) (bar0 : Bool) (a : Word) (mask : BitVec 4) (ws : List Word)
    (s : State) : Host.Outcome State Fault Refusal :=
  done_ (hostCmd (registerWrite o.val bar0 a.toNat mask.toNat (ws.map (·.toNat))) s)

/-- GLB_MODE_REQ_WRITE (R341): A write of GLB_MODE_REQ.TARGET requests a mode transition, as MODE_SET. -/
def execGlbModeReqWrite (o : Fin 7) (w : Word) (s : State) : Host.Outcome State Fault Refusal :=
  done_ (hostCmd (writeWord o.val (F.GLB_MODE_REQ_TARGET.addr 0) w.toNat) s)

/-- GLB_REG_ERR_CLR (R39): A write of 1 to GLB_REG_ERR.CLR zeroes the flagged-access count, cause, origin and address. -/
def execGlbRegErrClr (o : Fin 7) (s : State) : Host.Outcome State Fault Refusal :=
  done_ (hostCmd (cmdBit F.GLB_REG_ERR_CLR o.val 0) s)

/-- GLB_SNAP_GO (R43): A write of 1 to GLB_SNAP.GO takes a snapshot. -/
def execGlbSnapGo (o : Fin 7) (s : State) : Host.Outcome State Fault Refusal :=
  done_ (hostCmd (cmdBit F.GLB_SNAP_GO o.val 0) s)

/-- RSRC_CTL_EN_WRITE (R54): A write of a rail unit's enable anchors the rail, or refuses the enable, or holds the rail. -/
def execRsrcCtlEnWrite (o : Fin 7) (p : Fin 64) (w : Word) (s : State) : Host.Outcome State Fault Refusal :=
  done_ (hostCmd (writeWord o.val (F.RSRC_CTL_EN.addr p.val) w.toNat) s)

/-- RSRC_CMD_CLR (R55): A write of 1 to RSRC_CMD.CLR zeroes a rail unit's event and slip counts. -/
def execRsrcCmdClr (o : Fin 7) (p : Fin 64) (s : State) : Host.Outcome State Fault Refusal :=
  done_ (hostCmd (cmdBit F.RSRC_CMD_CLR o.val p.val) s)

/-- RSRC_CMD_REANCHOR (R57): A write of 1 to RSRC_CMD.REANCHOR re-anchors the rail at its present value and discards lag. -/
def execRsrcCmdReanchor (o : Fin 7) (p : Fin 64) (s : State) : Host.Outcome State Fault Refusal :=
  done_ (hostCmd (cmdBit F.RSRC_CMD_REANCHOR o.val p.val) s)

/-- RSRC_CMD_LOAD (R57): A write of 1 to RSRC_CMD.LOAD sets the rail's target to RSRC_LOAD. -/
def execRsrcCmdLoad (o : Fin 7) (p : Fin 64) (s : State) : Host.Outcome State Fault Refusal :=
  done_ (hostCmd (cmdBit F.RSRC_CMD_LOAD o.val p.val) s)

/-- RSRC_SCALE_WRITE (R57): A write of RSRC_SCALE rebases the anchor and applies the new scale from that tick. -/
def execRsrcScaleWrite (o : Fin 7) (p : Fin 64) (v : BitVec 64) (s : State) : Host.Outcome State Fault Refusal :=
  done_ (hostCmd (writePair o.val (F.RSRC_SCALE_SCALE.addr p.val) v.toNat) s)

/-- RSRC_RATE_WRITE (R58): A write of RSRC_RATE changes a TIME rail's rate, phase-continuously. -/
def execRsrcRateWrite (o : Fin 7) (p : Fin 64) (v : BitVec 64) (s : State) : Host.Outcome State Fault Refusal :=
  done_ (hostCmd (writePair o.val (F.RSRC_RATE_RATE.addr p.val) v.toNat) s)

/-- ENC_CTL_EN_WRITE (R61): A write of an encoder port's enable starts counting from the levels then accepted, or refuses the
enable. -/
def execEncCtlEnWrite (o : Fin 7) (e : Fin 8) (w : Word) (s : State) : Host.Outcome State Fault Refusal :=
  done_ (hostCmd (writeWord o.val (F.ENC_CTL_EN.addr e.val) w.toNat) s)

/-- ENC_CMD_ZERO (R62): A write of 1 to ENC_CMD.ZERO sets the encoder position to 0. -/
def execEncCmdZero (o : Fin 7) (e : Fin 8) (s : State) : Host.Outcome State Fault Refusal :=
  done_ (hostCmd (cmdBit F.ENC_CMD_ZERO o.val e.val) s)

/-- ENC_CMD_CLR (R63): A write of 1 to ENC_CMD.CLR zeroes ENC_ERR and IDX_SEEN. -/
def execEncCmdClr (o : Fin 7) (e : Fin 8) (s : State) : Host.Outcome State Fault Refusal :=
  done_ (hostCmd (cmdBit F.ENC_CMD_CLR o.val e.val) s)

/-- RSRC_LT_CTL_EN_WRITE (R65): A write of a line tracker's enable starts tracking from pulse 0, or refuses the enable. -/
def execRsrcLtCtlEnWrite (o : Fin 7) (j : Fin 8) (w : Word) (s : State) : Host.Outcome State Fault Refusal :=
  done_ (hostCmd (writeWord o.val (F.RSRC_LT_CTL_EN.addr j.val) w.toNat) s)

/-- RSRC_LT_MAINS (R67): A write of 1 to RSRC_LT_CTL.MAINS loads the mains preset while the tracker is disabled. -/
def execRsrcLtMains (o : Fin 7) (j : Fin 8) (w : Word) (s : State) : Host.Outcome State Fault Refusal :=
  done_ (hostCmd (cmdWord F.RSRC_LT_CTL_MAINS o.val j.val w.toNat) s)

/-- RSRC_LT_CMD_CLR (R65): A write of 1 to RSRC_LT_CMD.CLR zeroes the tracker's error counts. -/
def execRsrcLtCmdClr (o : Fin 7) (j : Fin 8) (s : State) : Host.Outcome State Fault Refusal :=
  done_ (hostCmd (cmdBit F.RSRC_LT_CMD_CLR o.val j.val) s)

/-- PLY_CTL_EN_WRITE (R111): A write of a player's enable takes it to LOADED after its checks, or to IDLE when cleared. -/
def execPlyCtlEnWrite (o : Fin 7) (p : Fin 64) (w : Word) (s : State) : Host.Outcome State Fault Refusal :=
  done_ (hostCmd (writeWord o.val (F.PLY_CTL_EN.addr p.val) w.toNat) s)

/-- PLY_CMD_ARM (R114): A write of 1 to PLY_CMD.ARM arms the player as ARM. -/
def execPlyCmdArm (o : Fin 7) (p : Fin 64) (s : State) : Host.Outcome State Fault Refusal :=
  done_ (hostCmd (cmdBit F.PLY_CMD_ARM o.val p.val) s)

/-- PLY_CMD_START (R115): A write of 1 to PLY_CMD.START starts the player with PLY_START and PLY_START_CT. -/
def execPlyCmdStart (o : Fin 7) (p : Fin 64) (s : State) : Host.Outcome State Fault Refusal :=
  done_ (hostCmd (cmdBit F.PLY_CMD_START o.val p.val) s)

/-- PLY_CMD_HOLD (R117): A write of 1 to PLY_CMD.HOLD holds the player as HOLD. -/
def execPlyCmdHold (o : Fin 7) (p : Fin 64) (s : State) : Host.Outcome State Fault Refusal :=
  done_ (hostCmd (cmdBit F.PLY_CMD_HOLD o.val p.val) s)

/-- PLY_CMD_RESUME (R117): A write of 1 to PLY_CMD.RESUME resumes the player as RESUME. -/
def execPlyCmdResume (o : Fin 7) (p : Fin 64) (s : State) : Host.Outcome State Fault Refusal :=
  done_ (hostCmd (cmdBit F.PLY_CMD_RESUME o.val p.val) s)

/-- PLY_CMD_STOP (R118): A write of 1 to PLY_CMD.STOP stops the player as STOP. -/
def execPlyCmdStop (o : Fin 7) (p : Fin 64) (s : State) : Host.Outcome State Fault Refusal :=
  done_ (hostCmd (cmdBit F.PLY_CMD_STOP o.val p.val) s)

/-- PLY_CMD_SKIP (R135): A write of 1 to PLY_CMD.SKIP acts as STREAM_SKIP with PLY_SKIP. -/
def execPlyCmdSkip (o : Fin 7) (p : Fin 64) (s : State) : Host.Outcome State Fault Refusal :=
  done_ (hostCmd (cmdBit F.PLY_CMD_SKIP o.val p.val) s)

/-- PLY_CMD_CLR (R121): A write of 1 to PLY_CMD.CLR zeroes the player's error, stream and tick counts. -/
def execPlyCmdClr (o : Fin 7) (p : Fin 64) (s : State) : Host.Outcome State Fault Refusal :=
  done_ (hostCmd (cmdBit F.PLY_CMD_CLR o.val p.val) s)

/-- PLY_SEQ_CMD_CLR (R95): A write of 1 to PLY_SEQ_CMD.CLR zeroes the sequencer event, clamp and late counts. -/
def execPlySeqCmdClr (o : Fin 7) (p : Fin 64) (s : State) : Host.Outcome State Fault Refusal :=
  done_ (hostCmd (cmdBit F.PLY_SEQ_CMD_CLR o.val p.val) s)

/-- PLY_SEQ_CMD_EV_CLR (R90): A write to PLY_SEQ_CMD.EV_CLR clears the selected pending event bits. -/
def execPlySeqCmdEvClr (o : Fin 7) (p : Fin 64) (m : BitVec 16) (s : State) : Host.Outcome State Fault Refusal :=
  done_ (hostCmd (writeWord o.val (F.PLY_SEQ_CMD_EV_CLR.addr p.val) m.toNat) s)

/-- PLY_JUMP_GO (R93): A write of 1 to PLY_JUMP.GO registers a jump to TARGET with TIMING. -/
def execPlyJumpGo (o : Fin 7) (p : Fin 64) (w : Word) (s : State) : Host.Outcome State Fault Refusal :=
  done_ (hostCmd (cmdWord F.PLY_JUMP_GO o.val p.val w.toNat) s)

/-- PLY_PHASE_GO (R93): A write of 1 to PLY_PHASE.GO registers a phase request with VALUE. -/
def execPlyPhaseGo (o : Fin 7) (p : Fin 64) (w : Word) (s : State) : Host.Outcome State Fault Refusal :=
  done_ (hostCmd (cmdWord F.PLY_PHASE_GO o.val p.val w.toNat) s)

/-- TRG_TAP_WRITE (R89): A write of a marker tap takes the present marker bit without raising an event. -/
def execTrgTapWrite (o : Fin 7) (i : Fin 32) (w : Word) (s : State) : Host.Outcome State Fault Refusal :=
  done_ (hostCmd (writeWord o.val (F.TRG_TAP_EN.addr i.val) w.toNat) s)

/-- TRG_SW_WRITE (R89): A write to TRG_SW raises the selected software events. -/
def execTrgSwWrite (o : Fin 7) (m : BitVec 16) (s : State) : Host.Outcome State Fault Refusal :=
  done_ (hostCmd (writeWord o.val (F.TRG_SW_SW.addr 0) m.toNat) s)

/-- CHN_CTL_EN_WRITE (R157): A write of a channel's enable latches its configuration and resets its chain state, or refuses
it, or turns it OFF. -/
def execChnCtlEnWrite (o : Fin 7) (c : Fin 256) (w : Word) (s : State) : Host.Outcome State Fault Refusal :=
  done_ (hostCmd (writeWord o.val (F.CHN_CTL_EN.addr c.val) w.toNat) s)

/-- CHN_CMD_RESEED (R153): A write of 1 to CHN_CMD.RESEED reloads the dither generator and clears the shaping state. -/
def execChnCmdReseed (o : Fin 7) (c : Fin 256) (s : State) : Host.Outcome State Fault Refusal :=
  done_ (hostCmd (cmdBit F.CHN_CMD_RESEED o.val c.val) s)

/-- CHN_CMD_CLR (R150): A write of 1 to CHN_CMD.CLR zeroes the channel's limit and error counts. -/
def execChnCmdClr (o : Fin 7) (c : Fin 256) (s : State) : Host.Outcome State Fault Refusal :=
  done_ (hostCmd (cmdBit F.CHN_CMD_CLR o.val c.val) s)

/-- CHN_CMD_BQ_APPLY (R148): A write to CHN_CMD.BQ_APPLY copies the selected biquads' shadow coefficients to the active set.
-/
def execChnCmdBqApply (o : Fin 7) (c : Fin 256) (m : BitVec 4) (s : State) : Host.Outcome State Fault Refusal :=
  done_ (hostCmd (writeWord o.val (F.CHN_CMD_BQ_APPLY.addr c.val) m.toNat) s)

/-- CNV_DAC_CTL_EN_WRITE (R161): A write of a DAC's enable drives or releases it, refused while a channel uses it. -/
def execCnvDacCtlEnWrite (o : Fin 7) (i : Fin 8) (w : Word) (s : State) : Host.Outcome State Fault Refusal :=
  done_ (hostCmd (writeWord o.val (F.CNV_DAC_CTL_EN.addr i.val) w.toNat) s)

/-- CNV_ADC_CTL_EN_WRITE (R162): A write of an ADC's enable starts or stops its conversions. -/
def execCnvAdcCtlEnWrite (o : Fin 7) (i : Fin 8) (w : Word) (s : State) : Host.Outcome State Fault Refusal :=
  done_ (hostCmd (writeWord o.val (F.CNV_ADC_CTL_EN.addr i.val) w.toNat) s)

/-- DMD_CTL_EN_WRITE (R175): A write of a demodulator's enable starts it settling, or refuses the enable. -/
def execDmdCtlEnWrite (o : Fin 7) (d : Fin 16) (w : Word) (s : State) : Host.Outcome State Fault Refusal :=
  done_ (hostCmd (writeWord o.val (F.DMD_CTL_EN.addr d.val) w.toNat) s)

/-- CAP_CTL_EN_WRITE (R166): A write of a capture unit's enable claims its queue and starts gating, or refuses, or commits the
last packet on disable. -/
def execCapCtlEnWrite (o : Fin 7) (u : Fin 32) (w : Word) (s : State) : Host.Outcome State Fault Refusal :=
  done_ (hostCmd (writeWord o.val (F.CAP_CTL_EN.addr u.val) w.toNat) s)

/-- CAP_CMD_FLUSH (R170): A write of 1 to CAP_CMD.FLUSH closes the open packet with SHORT. -/
def execCapCmdFlush (o : Fin 7) (u : Fin 32) (s : State) : Host.Outcome State Fault Refusal :=
  done_ (hostCmd (cmdBit F.CAP_CMD_FLUSH o.val u.val) s)

/-- CAP_CMD_REARM (R167): A write of 1 to CAP_CMD.REARM clears DONE for ONE_SHOT. -/
def execCapCmdRearm (o : Fin 7) (u : Fin 32) (s : State) : Host.Outcome State Fault Refusal :=
  done_ (hostCmd (cmdBit F.CAP_CMD_REARM o.val u.val) s)

/-- CAP_CMD_CLR (R170): A write of 1 to CAP_CMD.CLR zeroes CAP_LOST and CAP_ERR. -/
def execCapCmdClr (o : Fin 7) (u : Fin 32) (s : State) : Host.Outcome State Fault Refusal :=
  done_ (hostCmd (cmdBit F.CAP_CMD_CLR o.val u.val) s)

/-- REF_CTL_EN_WRITE (R181): A write of a learning lane's enable enters READY after its checks, or starts CLOSING when
cleared. -/
def execRefCtlEnWrite (o : Fin 7) (l : Fin 8) (w : Word) (s : State) : Host.Outcome State Fault Refusal :=
  done_ (hostCmd (writeWord o.val (F.REF_CTL_EN.addr l.val) w.toNat) s)

/-- REF_CMD_FREEZE (R194): A write of 1 to REF_CMD.FREEZE freezes the lane with a copy pass. -/
def execRefCmdFreeze (o : Fin 7) (l : Fin 8) (s : State) : Host.Outcome State Fault Refusal :=
  done_ (hostCmd (cmdBit F.REF_CMD_FREEZE o.val l.val) s)

/-- REF_CMD_UNFREEZE (R194): A write of 1 to REF_CMD.UNFREEZE returns a FROZEN lane to READY. -/
def execRefCmdUnfreeze (o : Fin 7) (l : Fin 8) (s : State) : Host.Outcome State Fault Refusal :=
  done_ (hostCmd (cmdBit F.REF_CMD_UNFREEZE o.val l.val) s)

/-- REF_CMD_ZERO (R194): A write of 1 to REF_CMD.ZERO freezes the lane with a zero pass. -/
def execRefCmdZero (o : Fin 7) (l : Fin 8) (s : State) : Host.Outcome State Fault Refusal :=
  done_ (hostCmd (cmdBit F.REF_CMD_ZERO o.val l.val) s)

/-- REF_CMD_CLR (R194): A write of 1 to REF_CMD.CLR zeroes RISE, REF_CNT and REF_ERR. -/
def execRefCmdClr (o : Fin 7) (l : Fin 8) (s : State) : Host.Outcome State Fault Refusal :=
  done_ (hostCmd (cmdBit F.REF_CMD_CLR o.val l.val) s)

/-- CAR_CMD_SCRUB_NOW (R216): A write of 1 to CAR_CMD.SCRUB_NOW starts a patrol pass from address 0. -/
def execCarCmdScrubNow (o : Fin 7) (s : State) : Host.Outcome State Fault Refusal :=
  done_ (hostCmd (cmdBit F.CAR_CMD_SCRUB_NOW o.val 0) s)

/-- CAR_CMD_CLR (R216): A write of 1 to CAR_CMD.CLR zeroes the Carafe ECC, row-hammer, power and port counts. -/
def execCarCmdClr (o : Fin 7) (s : State) : Host.Outcome State Fault Refusal :=
  done_ (hostCmd (cmdBit F.CAR_CMD_CLR o.val 0) s)

/-- PAN_OWN_WRITE (R224): A write of PAN_OWN requests a pan handover, accepted or refused by the old owner's condition. -/
def execPanOwnWrite (o : Fin 7) (k : Fin 16) (w : Word) (s : State) : Host.Outcome State Fault Refusal :=
  done_ (hostCmd (writeWord o.val (F.PAN_OWN_OWNER.addr k.val) w.toNat) s)

/-- PAN_RET_SLEEP_WRITE (R227): A write of PAN_RET.SLEEP puts the selected pans at retention voltage. -/
def execPanRetSleepWrite (o : Fin 7) (w : Word) (s : State) : Host.Outcome State Fault Refusal :=
  done_ (hostCmd (writeWord o.val (F.PAN_RET_SLEEP.addr 0) w.toNat) s)

/-- PAN_CMD_CLR (R230): A write of 1 to PAN_CMD.CLR zeroes the pan error, collision, non-owner and test counts. -/
def execPanCmdClr (o : Fin 7) (s : State) : Host.Outcome State Fault Refusal :=
  done_ (hostCmd (cmdBit F.PAN_CMD_CLR o.val 0) s)

/-- BRN_CTL_EN_WRITE (R232): A write of a queue's enable empties it and zeroes its pointers, or refuses, or discards every
packet on disable. -/
def execBrnCtlEnWrite (o : Fin 7) (q : Fin 128) (w : Word) (s : State) : Host.Outcome State Fault Refusal :=
  done_ (hostCmd (writeWord o.val (F.BRN_CTL_EN.addr q.val) w.toNat) s)

/-- BRN_CMD_FLUSH (R241): A write of 1 to BRN_CMD.FLUSH discards the open and every unheld visible packet. -/
def execBrnCmdFlush (o : Fin 7) (q : Fin 128) (s : State) : Host.Outcome State Fault Refusal :=
  done_ (hostCmd (cmdBit F.BRN_CMD_FLUSH o.val q.val) s)

/-- BRN_CMD_DROP (R240): A write of 1 to BRN_CMD.DROP drops the oldest unheld visible packet. -/
def execBrnCmdDrop (o : Fin 7) (q : Fin 128) (s : State) : Host.Outcome State Fault Refusal :=
  done_ (hostCmd (cmdBit F.BRN_CMD_DROP o.val q.val) s)

/-- BRN_CMD_CLR (R242): A write of 1 to BRN_CMD.CLR zeroes BRN_ERR and BRN_EVT. -/
def execBrnCmdClr (o : Fin 7) (q : Fin 128) (s : State) : Host.Outcome State Fault Refusal :=
  done_ (hostCmd (cmdBit F.BRN_CMD_CLR o.val q.val) s)

/-- BRN_LVL_WRITE (R243): A write of BRN_LVL re-evaluates ABOVE without counting a crossing. -/
def execBrnLvlWrite (o : Fin 7) (q : Fin 128) (w : Word) (s : State) : Host.Outcome State Fault Refusal :=
  done_ (hostCmd (writeWord o.val (F.BRN_LVL_LEVEL.addr q.val) w.toNat) s)

/-- BRN_NOTE_ACK_WRITE (R243): A write of BRN_NOTE.ACK acknowledges crossings of a queue. -/
def execBrnNoteAckWrite (o : Fin 7) (q : Fin 128) (w : Word) (s : State) : Host.Outcome State Fault Refusal :=
  done_ (hostCmd (writeWord o.val (F.BRN_NOTE_ACK.addr q.val) w.toNat) s)

/-- FLM_OL_CTL_EN_WRITE (R258): A write of an out-lane's enable starts TRAIN, or starts CLOSING when cleared, or is refused.
-/
def execFlmOlCtlEnWrite (o : Fin 7) (n : Fin 16) (w : Word) (s : State) : Host.Outcome State Fault Refusal :=
  done_ (hostCmd (writeWord o.val (F.FLM_OL_CTL_EN.addr n.val) w.toNat) s)

/-- FLM_IL_CTL_EN_WRITE (R266): A write of an in-lane's enable starts ACQUIRE, or turns it OFF, or is refused. -/
def execFlmIlCtlEnWrite (o : Fin 7) (n : Fin 8) (w : Word) (s : State) : Host.Outcome State Fault Refusal :=
  done_ (hostCmd (writeWord o.val (F.FLM_IL_CTL_EN.addr n.val) w.toNat) s)

/-- FLM_IL_CMD_REMEASURE (R262): A write of 1 to FLM_IL_CMD.REMEASURE returns a RUN in-lane to MEASURE. -/
def execFlmIlCmdRemeasure (o : Fin 7) (n : Fin 8) (s : State) : Host.Outcome State Fault Refusal :=
  done_ (hostCmd (cmdBit F.FLM_IL_CMD_REMEASURE o.val n.val) s)

/-- FLM_IL_CMD_CLR (R263): A write of 1 to FLM_IL_CMD.CLR zeroes the in-lane error counts. -/
def execFlmIlCmdClr (o : Fin 7) (n : Fin 8) (s : State) : Host.Outcome State Fault Refusal :=
  done_ (hostCmd (cmdBit F.FLM_IL_CMD_CLR o.val n.val) s)

/-- RAKE_CTL_EN_WRITE (R268): A write of the Rake block's enable starts the role decision and the Rake ports. -/
def execRakeCtlEnWrite (o : Fin 7) (w : Word) (s : State) : Host.Outcome State Fault Refusal :=
  done_ (hostCmd (writeWord o.val (F.RAKE_CTL_EN.addr 0) w.toNat) s)

/-- RAKE_CTL_FENCE_WRITE (R279): A write of RAKE_CTL.FENCE on the root schedules a fence change 128 superframes later. -/
def execRakeCtlFenceWrite (o : Fin 7) (w : Word) (s : State) : Host.Outcome State Fault Refusal :=
  done_ (hostCmd (writeWord o.val (F.RAKE_CTL_FENCE.addr 0) w.toNat) s)

/-- RAKE_CMD_ENUM (R276): A write of 1 to RAKE_CMD.ENUM starts an incremental address assignment on the root. -/
def execRakeCmdEnum (o : Fin 7) (s : State) : Host.Outcome State Fault Refusal :=
  done_ (hostCmd (cmdBit F.RAKE_CMD_ENUM o.val 0) s)

/-- RAKE_CMD_ENUM_FULL (R276): A write of 1 to RAKE_CMD.ENUM_FULL starts a full address assignment on the root. -/
def execRakeCmdEnumFull (o : Fin 7) (s : State) : Host.Outcome State Fault Refusal :=
  done_ (hostCmd (cmdBit F.RAKE_CMD_ENUM_FULL o.val 0) s)

/-- RAKE_CMD_CT_LOAD (R275): A write of 1 to RAKE_CMD.CT_LOAD makes the root load RAKE_CT_LOAD at the next superframe start.
-/
def execRakeCmdCtLoad (o : Fin 7) (s : State) : Host.Outcome State Fault Refusal :=
  done_ (hostCmd (cmdBit F.RAKE_CMD_CT_LOAD o.val 0) s)

/-- RAKE_CMD_PULSE (R281): A write of 1 to RAKE_CMD.PULSE raises a synchronising pulse on the root. -/
def execRakeCmdPulse (o : Fin 7) (s : State) : Host.Outcome State Fault Refusal :=
  done_ (hostCmd (cmdBit F.RAKE_CMD_PULSE o.val 0) s)

/-- RAKE_CMD_CLR (R286): A write of 1 to RAKE_CMD.CLR zeroes RAKE_ERR. -/
def execRakeCmdClr (o : Fin 7) (s : State) : Host.Outcome State Fault Refusal :=
  done_ (hostCmd (cmdBit F.RAKE_CMD_CLR o.val 0) s)

/-- RAKE_EV_RAISE_WRITE (R280): A write to RAKE_EV_RAISE raises the selected chain events. -/
def execRakeEvRaiseWrite (o : Fin 7) (v : BitVec 64) (s : State) : Host.Outcome State Fault Refusal :=
  done_ (hostCmd (writePair o.val (F.RAKE_EV_RAISE_RAISE.addr 0) v.toNat) s)

/-- RAKE_P_CTL_EN_WRITE (R272): A write of a Rake port's enable starts alignment or takes the port DOWN. -/
def execRakePCtlEnWrite (o : Fin 7) (n : Fin 4) (w : Word) (s : State) : Host.Outcome State Fault Refusal :=
  done_ (hostCmd (writeWord o.val (F.RAKE_P_CTL_EN.addr n.val) w.toNat) s)

/-- RAKE_P_CMD_CLR (R286): A write of 1 to RAKE_P_CMD.CLR zeroes the port's error counts. -/
def execRakePCmdClr (o : Fin 7) (n : Fin 4) (s : State) : Host.Outcome State Fault Refusal :=
  done_ (hostCmd (cmdBit F.RAKE_P_CMD_CLR o.val n.val) s)

/-- HST_SQ_CTL_EN_WRITE (R297): A write of a submission ring's enable resets its pointers and starts or stops fetching. -/
def execHstSqCtlEnWrite (o : Fin 7) (i : Fin 32) (w : Word) (s : State) : Host.Outcome State Fault Refusal :=
  done_ (hostCmd (writeWord o.val (F.HST_SQ_CTL_EN.addr i.val) w.toNat) s)

/-- HST_XR_CTL_EN_WRITE (R301): A write of a transfer ring's enable starts or stops its transfers. -/
def execHstXrCtlEnWrite (o : Fin 7) (i : Fin 8) (w : Word) (s : State) : Host.Outcome State Fault Refusal :=
  done_ (hostCmd (writeWord o.val (F.HST_XR_CTL_EN.addr i.val) w.toNat) s)

/-- HST_CMD_CLR (R305): A write of 1 to HST_CMD.CLR zeroes HST_ERR and HST_ERR2. -/
def execHstCmdClr (o : Fin 7) (s : State) : Host.Outcome State Fault Refusal :=
  done_ (hostCmd (cmdBit F.HST_CMD_CLR o.val 0) s)

/-- HST_BAR2_BASE_WRITE (R296): A write of HST_BAR2_BASE moves the BAR2 window once accepted transactions have completed. -/
def execHstBar2BaseWrite (o : Fin 7) (v : BitVec 64) (s : State) : Host.Outcome State Fault Refusal :=
  done_ (hostCmd (writePair o.val (F.HST_BAR2_BASE_BASE.addr 0) v.toNat) s)

/-- CLK_REF_SEL_WRITE (R360): A write of CLK_REF.SEL acts as a loss of the old reference and selects a new one. -/
def execClkRefSelWrite (o : Fin 7) (w : Word) (s : State) : Host.Outcome State Fault Refusal :=
  done_ (hostCmd (writeWord o.val (F.CLK_REF_SEL.addr 0) w.toNat) s)

/-- CLK_REF_POLICY_WRITE (R368): A write of CLK_REF.POLICY to SLEW while an offset waits starts the walk. -/
def execClkRefPolicyWrite (o : Fin 7) (w : Word) (s : State) : Host.Outcome State Fault Refusal :=
  done_ (hostCmd (writeWord o.val (F.CLK_REF_POLICY.addr 0) w.toNat) s)

/-- CLK_CMD_CLR (R364): A write of 1 to CLK_CMD.CLR zeroes CLK_EVT. -/
def execClkCmdClr (o : Fin 7) (s : State) : Host.Outcome State Fault Refusal :=
  done_ (hostCmd (cmdBit F.CLK_CMD_CLR o.val 0) s)

/-- NVM_BOOT_LOCK_WRITE (R377): A first write of 1 to NVM_BOOT_LOCK writes a boot record carrying the persistent lock. -/
def execNvmBootLockWrite (o : Fin 7) (s : State) : Host.Outcome State Fault Refusal :=
  done_ (hostCmd (cmdBit F.NVM_BOOT_LOCK_LOCK o.val 0) s)

/-- NVM_CAL_LOCK_WRITE (R377): A first write of 1 to NVM_CAL_LOCK writes a boot record carrying the persistent lock. -/
def execNvmCalLockWrite (o : Fin 7) (s : State) : Host.Outcome State Fault Refusal :=
  done_ (hostCmd (cmdBit F.NVM_CAL_LOCK_LOCK o.val 0) s)

/-- NVM_ERASE_GO (R373): A posted write of NVM_ERASE.GO in SERVICE starts an erase of the selected NVM region. -/
def execNvmEraseGo (o : Fin 7) (region : BitVec 2) (s : State) : Host.Outcome State Fault Refusal :=
  done_ (hostCmd (cmdWord F.NVM_ERASE_GO o.val 0 region.toNat) s)

/-- LOG_EV_RD_WRITE (R384): A write of LOG_EV_RD moves the host mark and re-evaluates ABOVE without counting. -/
def execLogEvRdWrite (o : Fin 7) (w : Word) (s : State) : Host.Outcome State Fault Refusal :=
  done_ (hostCmd (writeWord o.val (F.LOG_EV_RD_RECNO.addr 0) w.toNat) s)

/-- LOG_EV_NOTE_ACK_WRITE (R384): A write of LOG_EV_NOTE.ACK acknowledges event-log crossings. -/
def execLogEvNoteAckWrite (o : Fin 7) (w : Word) (s : State) : Host.Outcome State Fault Refusal :=
  done_ (hostCmd (writeWord o.val (F.LOG_EV_NOTE_ACK.addr 0) w.toNat) s)

/-- LOG_CMD_AUD_FLUSH (R388): A write of 1 to LOG_CMD.AUD_FLUSH suspends the audit budget until the backlog is empty. -/
def execLogCmdAudFlush (o : Fin 7) (s : State) : Host.Outcome State Fault Refusal :=
  done_ (hostCmd (cmdBit F.LOG_CMD_AUD_FLUSH o.val 0) s)

/-- LOG_CMD_CLR (R388): A write of 1 to LOG_CMD.CLR zeroes the drop, overwrite and skip counts. -/
def execLogCmdClr (o : Fin 7) (s : State) : Host.Outcome State Fault Refusal :=
  done_ (hostCmd (cmdBit F.LOG_CMD_CLR o.val 0) s)

/-- PWR_CMD_CLR (R420): A write of 1 to PWR_CMD.CLR zeroes PWR_EVT and PWR_PIN.PEAK. -/
def execPwrCmdClr (o : Fin 7) (s : State) : Host.Outcome State Fault Refusal :=
  done_ (hostCmd (cmdBit F.PWR_CMD_CLR o.val 0) s)

/-- CFG_SCRUB (R38): The background scrubber visits every CFG register at least once per millisecond. -/
def execCfgScrub (before : List Upset) (after : List Upset) (s : State) : Host.Outcome State Fault Refusal :=
  done_ (running (softErrors before after) s)

end Sys2Proof.Machine
end

