-- ==== Sys2Proof/Machine/Stores.lean ====
section
/-! DEFINITION. The rows of the non-volatile stores, of the clocks and of cupping. Each meaning is one call of the operation that the rule
describes, and ends with `done_`. -/

namespace Sys2Proof.Machine

/-- SHELF_STORE_DONE (R47): A shelf store completes, clearing STORING or starting a store of the newest commit's image. -/
def execShelfStoreDone (s : State) : Host.Outcome State Fault Refusal :=
  done_ (devEvent shelfStored s)

/-- REFIN_LOSS (R361): Missing REFIN edges or a failing window mark the reference lost. -/
def execRefinLoss (s : State) : Host.Outcome State Fault Refusal :=
  done_ (running refinLoss s)

/-- REFIN_PRESENT (R361): The first whole passing window marks REFIN present. -/
def execRefinPresent (s : State) : Host.Outcome State Fault Refusal :=
  done_ (running refinPresent s)

/-- SAMPLE_PLL_LOCK (R364): The sample PLL declares lock, and the offset of a returning reference is measured. -/
def execSamplePllLock (x : Int) (s : State) : Host.Outcome State Fault Refusal :=
  done_ (running (splLock x) s)

/-- PLL_UNLOCK (R364): A PLL declares unlock, answered as a loss for the sample PLL. -/
def execPllUnlock (x : Fin 5) (s : State) : Host.Outcome State Fault Refusal :=
  done_ (running (pllUnlock x.val) s)

/-- SLEW_WALK_DONE (R368): The walk of ticks removes the offset, the tick returns to the sample PLL and COAST ends. -/
def execSlewWalkDone (s : State) : Host.Outcome State Fault Refusal :=
  done_ (running walkDone s)

/-- CUP_STEP_DONE (R370): A cupping step finishes, applying its results and starting the next step or ending the run. -/
def execCupStepDone (ok : Bool) (res : List (Nat × Nat × Int)) (s : State) : Host.Outcome State Fault Refusal :=
  done_ (running (cupStepDone ok res) s)

/-- CUP_PARTIAL_DONE (R371): A channel or out-lane partial cupping finishes. -/
def execCupPartialDone (res : List (Nat × Nat × Int)) (s : State) : Host.Outcome State Fault Refusal :=
  done_ (running (cupPartial res) s)

/-- NVM_STORE_DONE (R374): A calibration, shelf or boot-record store finishes programming and reading back its slot. -/
def execNvmStoreDone (s : State) : Host.Outcome State Fault Refusal :=
  done_ (devEvent nvmStored s)

/-- PIN_COPY_DONE (R424): A pin copy completes and the segment becomes PINNED. -/
def execPinCopyDone (s : State) : Host.Outcome State Fault Refusal :=
  done_ (running pinDone s)

/-- UNPIN_DONE (R424): An unpin completes once the directory is stored or the copy has stopped. -/
def execUnpinDone (i : Fin 262144) (s : State) : Host.Outcome State Fault Refusal :=
  done_ (running (unpinDone i.val) s)

/-- FW_PROGRAM_DONE (R376): The words of an FW_WRITE are programmed. -/
def execFwProgramDone (s : State) : Host.Outcome State Fault Refusal :=
  done_ (devEvent fwProgrammed s)

/-- FW_IMAGE_CHECK_DONE (R376): An FW_ACTIVATE image check finishes and a boot record is written. -/
def execFwImageCheckDone (ok : Bool) (s : State) : Host.Outcome State Fault Refusal :=
  done_ (devEvent (fwChecked ok) s)

/-- NVM_ERASE_DONE (R373): An NVM region erase finishes. -/
def execNvmEraseDone (s : State) : Host.Outcome State Fault Refusal :=
  done_ (devEvent nvmErased s)

/-- AUDIT_PROGRAM (R388): Within the budget, the next backlogged audit entry is programmed into NVM. -/
def execAuditProgram (s : State) : Host.Outcome State Fault Refusal :=
  done_ (devEvent audProgram s)

/-- MIRROR_REBUILD_DONE (R389): The audit mirror finishes rebuilding from NVM. -/
def execMirrorRebuildDone (s : State) : Host.Outcome State Fault Refusal :=
  done_ (devEvent mirrorRebuilt s)

end Sys2Proof.Machine
end

