-- ==== Sys2Proof/Machine/Tree.lean ====
section
/-! DEFINITION. The rows of the Rake: cells, joins, events of the CHAIN tree, fences, the side channel. Each meaning is one call of the
operation that the rule describes, and ends with `done_`. -/

namespace Sys2Proof.Machine

/-- CHAIN_RAIL_APPLY (R68): A chain rail update is applied at its CT plus the fence and the rail is re-extrapolated. -/
def execChainRailApply (i : Fin 16) (s : State) : Host.Outcome State Fault Refusal :=
  done_ (running (rkApply i.val) s)

/-- CHAIN_RAIL_LOST (R68): No newer update applied 4 µs after the expected apply tick makes the chain rail LOST. -/
def execChainRailLost (i : Fin 16) (s : State) : Host.Outcome State Fault Refusal :=
  done_ (running (rkRailLost i.val) s)

/-- RAKE_CELL_TRANSMIT (R270): A Rake port sends a cell on its CT grid with its records and side-channel bytes. -/
def execRakeCellTransmit (n : Fin 4) (s : State) : Host.Outcome State Fault Refusal :=
  done_ (running (cellSend n.val) s)

/-- RAKE_CELL_RECEIVE (R272): A received Rake cell is checked and its records taken or discarded. -/
def execRakeCellReceive (n : Fin 4) (k : Byte) (data : List Byte) (crc : BitVec 16) (viol : Bool) (stamp : BitVec 64)
    (s : State) : Host.Outcome State Fault Refusal :=
  done_ (running (cellTake n.val k.toNat (data.map (·.toNat)) crc.toNat viol stamp.toNat) s)

/-- RAKE_PORT_LOSS (R272): Sixty-four consecutive bad cells take a Rake port to LOST, or ISOLATED on the eighth loss. -/
def execRakePortLoss (n : Fin 4) (s : State) : Host.Outcome State Fault Refusal :=
  done_ (running (rkLoss n.val) s)

/-- RAKE_JOIN (R273): Sixty-four two-way measurements take a Rake port to JOINED, or ISOLATED if a check fails. -/
def execRakeJoin (n : Fin 4) (s : State) : Host.Outcome State Fault Refusal :=
  done_ (running (portJoin n.val) s)

/-- ROLE_AUTO_TIMEOUT (R268): With ROLE AUTO, 100 ms without RK_UP joining makes the module root. -/
def execRoleAutoTimeout (s : State) : Host.Outcome State Fault Refusal :=
  done_ (running roleAuto s)

/-- STEER_HOLD_END (R274): One millisecond after HOLD_STEER clears, phase steering resumes. -/
def execSteerHoldEnd (s : State) : Host.Outcome State Fault Refusal :=
  done_ (running steerEnd s)

/-- CHAIN_EVENT_ACT (R280): A chain event or pulse acts at its raise tick plus the fence on every module. -/
def execChainEventAct (s : State) : Host.Outcome State Fault Refusal :=
  done_ (running rkActs s)

/-- PERIODIC_PULSE (R281): The root raises a pulse at each period boundary under PERIODIC mode. -/
def execPeriodicPulse (s : State) : Host.Outcome State Fault Refusal :=
  done_ (running rkPeriodic s)

/-- RAIL_PUBLISH (R282): At each superframe start a module publishes its chain rails' value and rate. -/
def execRailPublish (s : State) : Host.Outcome State Fault Refusal :=
  done_ (running rkPublish s)

/-- FENCE_CHANGE_APPLY (R279): A pending fence takes effect at its announced superframe start. -/
def execFenceChangeApply (s : State) : Host.Outcome State Fault Refusal :=
  done_ (running fenceApply s)

/-- CT_LOAD_APPLY (R275): The root takes the loaded CT at the next superframe start and sets CT_STEP. -/
def execCtLoadApply (s : State) : Host.Outcome State Fault Refusal :=
  done_ (running ctLoadApply s)

/-- SIDE_PACKET_RECEIVE (R284): A side-channel packet is received whole, checked and routed by kind. -/
def execSidePacketReceive (n : Fin 4) (bad : Bool) (bs : List Byte) (s : State) : Host.Outcome State Fault Refusal :=
  done_ (hostCmd (running (sideReceive n.val bad (bs.map (·.toNat)))) s)

/-- ENUM_COMPLETE (R276): An address assignment completes and ENUM_BUSY falls. -/
def execEnumComplete (s : State) : Host.Outcome State Fault Refusal :=
  done_ (running enumDone s)

/-- AUTO_ENUM_DELAY (R276): With AUTO_ENUM, 100 ms after the last change the root runs ENUM. -/
def execAutoEnumDelay (s : State) : Host.Outcome State Fault Refusal :=
  done_ (running autoEnum s)

/-- CHAIN_FORWARD_TIMEOUT (R285): No reply to a forwarded command within RAKE_TMO answers CHAIN_TIMEOUT. -/
def execChainForwardTimeout (s : State) : Host.Outcome State Fault Refusal :=
  done_ (running fwdTimeout s)

/-- BROADCAST_SUMMARY_TIMEOUT (R325): The broadcast summary reply is written once all modules replied or RAKE_TMO passed. -/
def execBroadcastSummaryTimeout (s : State) : Host.Outcome State Fault Refusal :=
  done_ (running bcastTimeout s)

end Sys2Proof.Machine
end

