-- ==== Sys2Proof/Machine/Dispatch.lean ====
section
/-! DEFINITION. One arm for each command: a direct call of its meaning. -/

namespace Sys2Proof.Machine

def exec (i : Instr) (s : State) : Host.Outcome State Fault Refusal :=
  match i with
  | .registerWrite o bar0 a mask ws => Sys2Proof.Machine.execRegisterWrite o bar0 a mask ws s
  | .nop p => Sys2Proof.Machine.execNop p s
  | .hello p => Sys2Proof.Machine.execHello p s
  | .modeSet p => Sys2Proof.Machine.execModeSet p s
  | .batchOpen p => Sys2Proof.Machine.execBatchOpen p s
  | .batchCommit p => Sys2Proof.Machine.execBatchCommit p s
  | .batchAbort p => Sys2Proof.Machine.execBatchAbort p s
  | .fence p => Sys2Proof.Machine.execFence p s
  | .regRd p => Sys2Proof.Machine.execRegRd p s
  | .regWr p => Sys2Proof.Machine.execRegWr p s
  | .regRmw p => Sys2Proof.Machine.execRegRmw p s
  | .snap p => Sys2Proof.Machine.execSnap p s
  | .segAlloc p => Sys2Proof.Machine.execSegAlloc p s
  | .segLoad p => Sys2Proof.Machine.execSegLoad p s
  | .segFree p => Sys2Proof.Machine.execSegFree p s
  | .segPin p => Sys2Proof.Machine.execSegPin p s
  | .markLoad p => Sys2Proof.Machine.execMarkLoad p s
  | .stepWrite p => Sys2Proof.Machine.execStepWrite p s
  | .panGrant p => Sys2Proof.Machine.execPanGrant p s
  | .segInfo p => Sys2Proof.Machine.execSegInfo p s
  | .stepRead p => Sys2Proof.Machine.execStepRead p s
  | .arm p => Sys2Proof.Machine.execArm p s
  | .start p => Sys2Proof.Machine.execStart p s
  | .hold p => Sys2Proof.Machine.execHold p s
  | .resume p => Sys2Proof.Machine.execResume p s
  | .stop p => Sys2Proof.Machine.execStop p s
  | .jump p => Sys2Proof.Machine.execJump p s
  | .rate p => Sys2Proof.Machine.execRate p s
  | .phase p => Sys2Proof.Machine.execPhase p s
  | .streamSkip p => Sys2Proof.Machine.execStreamSkip p s
  | .capFlush p => Sys2Proof.Machine.execCapFlush p s
  | .capRearm p => Sys2Proof.Machine.execCapRearm p s
  | .capClr p => Sys2Proof.Machine.execCapClr p s
  | .qFlush p => Sys2Proof.Machine.execQFlush p s
  | .qDrop p => Sys2Proof.Machine.execQDrop p s
  | .qAck p => Sys2Proof.Machine.execQAck p s
  | .qStat p => Sys2Proof.Machine.execQStat p s
  | .refFreeze p => Sys2Proof.Machine.execRefFreeze p s
  | .refUnfreeze p => Sys2Proof.Machine.execRefUnfreeze p s
  | .refZero p => Sys2Proof.Machine.execRefZero p s
  | .refClr p => Sys2Proof.Machine.execRefClr p s
  | .chainPulse p => Sys2Proof.Machine.execChainPulse p s
  | .chainEvent p => Sys2Proof.Machine.execChainEvent p s
  | .chainEnum p => Sys2Proof.Machine.execChainEnum p s
  | .chainCtLoad p => Sys2Proof.Machine.execChainCtLoad p s
  | .chainInfo p => Sys2Proof.Machine.execChainInfo p s
  | .cupRun p => Sys2Proof.Machine.execCupRun p s
  | .calStore p => Sys2Proof.Machine.execCalStore p s
  | .shelfClear p => Sys2Proof.Machine.execShelfClear p s
  | .fwWrite p => Sys2Proof.Machine.execFwWrite p s
  | .fwActivate p => Sys2Proof.Machine.execFwActivate p s
  | .logRead p => Sys2Proof.Machine.execLogRead p s
  | .svcInfo p => Sys2Proof.Machine.execSvcInfo p s
  | .svcReset p => Sys2Proof.Machine.execSvcReset p s
  | .resultGet p => Sys2Proof.Machine.execResultGet p s
  | .unlistedOpcode p => Sys2Proof.Machine.execUnlistedOpcode p s
  | .packetFenceRelease => Sys2Proof.Machine.execPacketFenceRelease s
  | .fenceComplete => Sys2Proof.Machine.execFenceComplete s
  | .segLoadComplete => Sys2Proof.Machine.execSegLoadComplete s
  | .stepWriteComplete => Sys2Proof.Machine.execStepWriteComplete s
  | .svcResetDelay => Sys2Proof.Machine.execSvcResetDelay s
  | .batchStagingDone => Sys2Proof.Machine.execBatchStagingDone s
  | .batchCommitTick => Sys2Proof.Machine.execBatchCommitTick s
  | .batchTimeout => Sys2Proof.Machine.execBatchTimeout s
  | .shelfStoreDone => Sys2Proof.Machine.execShelfStoreDone s
  | .pstApply pwr => Sys2Proof.Machine.execPstApply pwr s
  | .glbModeReqWrite o w => Sys2Proof.Machine.execGlbModeReqWrite o w s
  | .glbRegErrClr o => Sys2Proof.Machine.execGlbRegErrClr o s
  | .glbSnapGo o => Sys2Proof.Machine.execGlbSnapGo o s
  | .rsrcCtlEnWrite o p w => Sys2Proof.Machine.execRsrcCtlEnWrite o p w s
  | .rsrcCmdClr o p => Sys2Proof.Machine.execRsrcCmdClr o p s
  | .rsrcCmdReanchor o p => Sys2Proof.Machine.execRsrcCmdReanchor o p s
  | .rsrcCmdLoad o p => Sys2Proof.Machine.execRsrcCmdLoad o p s
  | .rsrcScaleWrite o p v => Sys2Proof.Machine.execRsrcScaleWrite o p v s
  | .rsrcRateWrite o p v => Sys2Proof.Machine.execRsrcRateWrite o p v s
  | .encCtlEnWrite o e w => Sys2Proof.Machine.execEncCtlEnWrite o e w s
  | .encCmdZero o e => Sys2Proof.Machine.execEncCmdZero o e s
  | .encCmdClr o e => Sys2Proof.Machine.execEncCmdClr o e s
  | .rsrcLtCtlEnWrite o j w => Sys2Proof.Machine.execRsrcLtCtlEnWrite o j w s
  | .rsrcLtMains o j w => Sys2Proof.Machine.execRsrcLtMains o j w s
  | .rsrcLtCmdClr o j => Sys2Proof.Machine.execRsrcLtCmdClr o j s
  | .plyCtlEnWrite o p w => Sys2Proof.Machine.execPlyCtlEnWrite o p w s
  | .plyCmdArm o p => Sys2Proof.Machine.execPlyCmdArm o p s
  | .plyCmdStart o p => Sys2Proof.Machine.execPlyCmdStart o p s
  | .plyCmdHold o p => Sys2Proof.Machine.execPlyCmdHold o p s
  | .plyCmdResume o p => Sys2Proof.Machine.execPlyCmdResume o p s
  | .plyCmdStop o p => Sys2Proof.Machine.execPlyCmdStop o p s
  | .plyCmdSkip o p => Sys2Proof.Machine.execPlyCmdSkip o p s
  | .plyCmdClr o p => Sys2Proof.Machine.execPlyCmdClr o p s
  | .plySeqCmdClr o p => Sys2Proof.Machine.execPlySeqCmdClr o p s
  | .plySeqCmdEvClr o p m => Sys2Proof.Machine.execPlySeqCmdEvClr o p m s
  | .plyJumpGo o p w => Sys2Proof.Machine.execPlyJumpGo o p w s
  | .plyPhaseGo o p w => Sys2Proof.Machine.execPlyPhaseGo o p w s
  | .trgTapWrite o k w => Sys2Proof.Machine.execTrgTapWrite o k w s
  | .trgSwWrite o m => Sys2Proof.Machine.execTrgSwWrite o m s
  | .chnCtlEnWrite o c w => Sys2Proof.Machine.execChnCtlEnWrite o c w s
  | .chnCmdReseed o c => Sys2Proof.Machine.execChnCmdReseed o c s
  | .chnCmdClr o c => Sys2Proof.Machine.execChnCmdClr o c s
  | .chnCmdBqApply o c m => Sys2Proof.Machine.execChnCmdBqApply o c m s
  | .cnvDacCtlEnWrite o k w => Sys2Proof.Machine.execCnvDacCtlEnWrite o k w s
  | .cnvAdcCtlEnWrite o k w => Sys2Proof.Machine.execCnvAdcCtlEnWrite o k w s
  | .dmdCtlEnWrite o d w => Sys2Proof.Machine.execDmdCtlEnWrite o d w s
  | .capCtlEnWrite o u w => Sys2Proof.Machine.execCapCtlEnWrite o u w s
  | .capCmdFlush o u => Sys2Proof.Machine.execCapCmdFlush o u s
  | .capCmdRearm o u => Sys2Proof.Machine.execCapCmdRearm o u s
  | .capCmdClr o u => Sys2Proof.Machine.execCapCmdClr o u s
  | .refCtlEnWrite o l w => Sys2Proof.Machine.execRefCtlEnWrite o l w s
  | .refCmdFreeze o l => Sys2Proof.Machine.execRefCmdFreeze o l s
  | .refCmdUnfreeze o l => Sys2Proof.Machine.execRefCmdUnfreeze o l s
  | .refCmdZero o l => Sys2Proof.Machine.execRefCmdZero o l s
  | .refCmdClr o l => Sys2Proof.Machine.execRefCmdClr o l s
  | .carCmdScrubNow o => Sys2Proof.Machine.execCarCmdScrubNow o s
  | .carCmdClr o => Sys2Proof.Machine.execCarCmdClr o s
  | .panOwnWrite o k w => Sys2Proof.Machine.execPanOwnWrite o k w s
  | .panRetSleepWrite o w => Sys2Proof.Machine.execPanRetSleepWrite o w s
  | .panCmdClr o => Sys2Proof.Machine.execPanCmdClr o s
  | .brnCtlEnWrite o q w => Sys2Proof.Machine.execBrnCtlEnWrite o q w s
  | .brnCmdFlush o q => Sys2Proof.Machine.execBrnCmdFlush o q s
  | .brnCmdDrop o q => Sys2Proof.Machine.execBrnCmdDrop o q s
  | .brnCmdClr o q => Sys2Proof.Machine.execBrnCmdClr o q s
  | .brnLvlWrite o q w => Sys2Proof.Machine.execBrnLvlWrite o q w s
  | .brnNoteAckWrite o q w => Sys2Proof.Machine.execBrnNoteAckWrite o q w s
  | .flmOlCtlEnWrite o n w => Sys2Proof.Machine.execFlmOlCtlEnWrite o n w s
  | .flmIlCtlEnWrite o n w => Sys2Proof.Machine.execFlmIlCtlEnWrite o n w s
  | .flmIlCmdRemeasure o n => Sys2Proof.Machine.execFlmIlCmdRemeasure o n s
  | .flmIlCmdClr o n => Sys2Proof.Machine.execFlmIlCmdClr o n s
  | .rakeCtlEnWrite o w => Sys2Proof.Machine.execRakeCtlEnWrite o w s
  | .rakeCtlFenceWrite o w => Sys2Proof.Machine.execRakeCtlFenceWrite o w s
  | .rakeCmdEnum o => Sys2Proof.Machine.execRakeCmdEnum o s
  | .rakeCmdEnumFull o => Sys2Proof.Machine.execRakeCmdEnumFull o s
  | .rakeCmdCtLoad o => Sys2Proof.Machine.execRakeCmdCtLoad o s
  | .rakeCmdPulse o => Sys2Proof.Machine.execRakeCmdPulse o s
  | .rakeCmdClr o => Sys2Proof.Machine.execRakeCmdClr o s
  | .rakeEvRaiseWrite o v => Sys2Proof.Machine.execRakeEvRaiseWrite o v s
  | .rakePCtlEnWrite o n w => Sys2Proof.Machine.execRakePCtlEnWrite o n w s
  | .rakePCmdClr o n => Sys2Proof.Machine.execRakePCmdClr o n s
  | .hstSqCtlEnWrite o k w => Sys2Proof.Machine.execHstSqCtlEnWrite o k w s
  | .hstRqCtlEnWrite o k w => Sys2Proof.Machine.execHstRqCtlEnWrite o k w s
  | .hstXrCtlEnWrite o k w => Sys2Proof.Machine.execHstXrCtlEnWrite o k w s
  | .hstSqDb k tail ws => Sys2Proof.Machine.execHstSqDb k tail ws s
  | .hstRqDb k head => Sys2Proof.Machine.execHstRqDb k head s
  | .hstXrDb x tail ds => Sys2Proof.Machine.execHstXrDb x tail ds s
  | .hstCmdClr o => Sys2Proof.Machine.execHstCmdClr o s
  | .hstBar2BaseWrite o v => Sys2Proof.Machine.execHstBar2BaseWrite o v s
  | .clkRefSelWrite o w => Sys2Proof.Machine.execClkRefSelWrite o w s
  | .clkRefPolicyWrite o w => Sys2Proof.Machine.execClkRefPolicyWrite o w s
  | .clkCmdClr o => Sys2Proof.Machine.execClkCmdClr o s
  | .nvmBootLockWrite o => Sys2Proof.Machine.execNvmBootLockWrite o s
  | .nvmCalLockWrite o => Sys2Proof.Machine.execNvmCalLockWrite o s
  | .nvmEraseGo o region => Sys2Proof.Machine.execNvmEraseGo o region s
  | .logEvRdWrite o w => Sys2Proof.Machine.execLogEvRdWrite o w s
  | .logEvNoteAckWrite o w => Sys2Proof.Machine.execLogEvNoteAckWrite o w s
  | .logCmdAudFlush o => Sys2Proof.Machine.execLogCmdAudFlush o s
  | .logCmdClr o => Sys2Proof.Machine.execLogCmdClr o s
  | .pwrCmdClr o => Sys2Proof.Machine.execPwrCmdClr o s
  | .bar2Write off bs => Sys2Proof.Machine.execBar2Write off bs s
  | .bar2Read off n => Sys2Proof.Machine.execBar2Read off n s
  | .sampleFabricTick => Sys2Proof.Machine.execSampleFabricTick s
  | .armComplete p => Sys2Proof.Machine.execArmComplete p s
  | .startTick p => Sys2Proof.Machine.execStartTick p s
  | .successorReady p code => Sys2Proof.Machine.execSuccessorReady p code s
  | .lateSuccessorEntry p => Sys2Proof.Machine.execLateSuccessorEntry p s
  | .waitReleaseEntry p => Sys2Proof.Machine.execWaitReleaseEntry p s
  | .starveResumeEntry p => Sys2Proof.Machine.execStarveResumeEntry p s
  | .channelSample c => Sys2Proof.Machine.execChannelSample c s
  | .adcConversion k result => Sys2Proof.Machine.execAdcConversion k result s
  | .gpInputEdge k rising back => Sys2Proof.Machine.execGpInputEdge k rising back s
  | .encoderEdge e a b x => Sys2Proof.Machine.execEncoderEdge e a b x s
  | .indexEdge e level x => Sys2Proof.Machine.execIndexEdge e level x s
  | .ssiFrameStart e => Sys2Proof.Machine.execSsiFrameStart e s
  | .ssiFrameDone e w ok => Sys2Proof.Machine.execSsiFrameDone e w ok s
  | .encoderLost x => Sys2Proof.Machine.execEncoderLost x s
  | .encoderReturn x => Sys2Proof.Machine.execEncoderReturn x s
  | .lineTrackerEdge j x => Sys2Proof.Machine.execLineTrackerEdge j x s
  | .flywheelMiss j => Sys2Proof.Machine.execFlywheelMiss j s
  | .chainRailApply k => Sys2Proof.Machine.execChainRailApply k s
  | .chainRailLost k => Sys2Proof.Machine.execChainRailLost k s
  | .collectionClose l => Sys2Proof.Machine.execCollectionClose l s
  | .refinePassComplete l => Sys2Proof.Machine.execRefinePassComplete l s
  | .carafeRequest port wr a len deadline => Sys2Proof.Machine.execCarafeRequest port wr a len deadline s
  | .carafeReadComplete port lat ces ues => Sys2Proof.Machine.execCarafeReadComplete port lat ces ues s
  | .eccWriteback => Sys2Proof.Machine.execEccWriteback s
  | .deadlineMiss port => Sys2Proof.Machine.execDeadlineMiss port s
  | .refreshDue m => Sys2Proof.Machine.execRefreshDue m s
  | .rowHammerWindowEnd => Sys2Proof.Machine.execRowHammerWindowEnd s
  | .selfRefreshIdle => Sys2Proof.Machine.execSelfRefreshIdle s
  | .srDrainDone => Sys2Proof.Machine.execSrDrainDone s
  | .srExitDone => Sys2Proof.Machine.execSrExitDone s
  | .patrolScrubStart => Sys2Proof.Machine.execPatrolScrubStart s
  | .dramDriftTrack adj => Sys2Proof.Machine.execDramDriftTrack adj s
  | .dramTempChange m t => Sys2Proof.Machine.execDramTempChange m t s
  | .mbistSlice fails yielded => Sys2Proof.Machine.execMbistSlice fails yielded s
  | .fullMarchDone k fails => Sys2Proof.Machine.execFullMarchDone k fails s
  | .panHandoverDone k => Sys2Proof.Machine.execPanHandoverDone k s
  | .panWakeDone k => Sys2Proof.Machine.execPanWakeDone k s
  | .xferWrite ring desc data coll => Sys2Proof.Machine.execXferWrite ring desc data coll s
  | .xferRead ring desc => Sys2Proof.Machine.execXferRead ring desc s
  | .queuePointerFault q ptr copy comp => Sys2Proof.Machine.execQueuePointerFault q ptr copy comp s
  | .captureAgeExpiry u => Sys2Proof.Machine.execCaptureAgeExpiry u s
  | .captureFinalCommit u => Sys2Proof.Machine.execCaptureFinalCommit u s
  | .cfgScrub before after => Sys2Proof.Machine.execCfgScrub before after s
  | .outLaneFrame n => Sys2Proof.Machine.execOutLaneFrame n s
  | .olTrainDone n => Sys2Proof.Machine.execOlTrainDone n s
  | .olHoldExit n => Sys2Proof.Machine.execOlHoldExit n s
  | .olClosingDone n => Sys2Proof.Machine.execOlClosingDone n s
  | .lanePllLock => Sys2Proof.Machine.execLanePllLock s
  | .inLaneFrame n seq ctLo hsa hsb slots x => Sys2Proof.Machine.execInLaneFrame n seq ctLo hsa hsb slots x s
  | .inLaneMessage n msg arrival => Sys2Proof.Machine.execInLaneMessage n msg arrival s
  | .ilMeasureDone n => Sys2Proof.Machine.execIlMeasureDone n s
  | .ilLoss n => Sys2Proof.Machine.execIlLoss n s
  | .rakeCellTransmit n => Sys2Proof.Machine.execRakeCellTransmit n s
  | .rakeCellReceive n k data crc viol stamp => Sys2Proof.Machine.execRakeCellReceive n k data crc viol stamp s
  | .rakePortLoss n => Sys2Proof.Machine.execRakePortLoss n s
  | .rakeJoin n => Sys2Proof.Machine.execRakeJoin n s
  | .roleAutoTimeout => Sys2Proof.Machine.execRoleAutoTimeout s
  | .steerHoldEnd => Sys2Proof.Machine.execSteerHoldEnd s
  | .chainEventAct => Sys2Proof.Machine.execChainEventAct s
  | .periodicPulse => Sys2Proof.Machine.execPeriodicPulse s
  | .railPublish => Sys2Proof.Machine.execRailPublish s
  | .fenceChangeApply => Sys2Proof.Machine.execFenceChangeApply s
  | .ctLoadApply => Sys2Proof.Machine.execCtLoadApply s
  | .sidePacketReceive n bad bs => Sys2Proof.Machine.execSidePacketReceive n bad bs s
  | .enumComplete => Sys2Proof.Machine.execEnumComplete s
  | .autoEnumDelay => Sys2Proof.Machine.execAutoEnumDelay s
  | .chainForwardTimeout => Sys2Proof.Machine.execChainForwardTimeout s
  | .broadcastSummaryTimeout => Sys2Proof.Machine.execBroadcastSummaryTimeout s
  | .usb3OutTransfer pair ws odd => Sys2Proof.Machine.execUsb3OutTransfer pair ws odd s
  | .svcOutTransfer ws odd => Sys2Proof.Machine.execSvcOutTransfer ws odd s
  | .hostDmaError kind ring => Sys2Proof.Machine.execHostDmaError kind ring s
  | .sqHeadShadowWrite k => Sys2Proof.Machine.execSqHeadShadowWrite k s
  | .msixMessageSend v => Sys2Proof.Machine.execMsixMessageSend v s
  | .linkLoss kind => Sys2Proof.Machine.execLinkLoss kind s
  | .refinLoss => Sys2Proof.Machine.execRefinLoss s
  | .refinPresent => Sys2Proof.Machine.execRefinPresent s
  | .samplePllLock x => Sys2Proof.Machine.execSamplePllLock x s
  | .pllUnlock x => Sys2Proof.Machine.execPllUnlock x s
  | .slewWalkDone => Sys2Proof.Machine.execSlewWalkDone s
  | .cupStepDone ok res => Sys2Proof.Machine.execCupStepDone ok res s
  | .cupPartialDone res => Sys2Proof.Machine.execCupPartialDone res s
  | .nvmStoreDone => Sys2Proof.Machine.execNvmStoreDone s
  | .pinCopyDone => Sys2Proof.Machine.execPinCopyDone s
  | .unpinDone k => Sys2Proof.Machine.execUnpinDone k s
  | .fwProgramDone => Sys2Proof.Machine.execFwProgramDone s
  | .fwImageCheckDone ok => Sys2Proof.Machine.execFwImageCheckDone ok s
  | .nvmEraseDone => Sys2Proof.Machine.execNvmEraseDone s
  | .auditProgram => Sys2Proof.Machine.execAuditProgram s
  | .mirrorRebuildDone => Sys2Proof.Machine.execMirrorRebuildDone s
  | .vinStart mv => Sys2Proof.Machine.execVinStart mv s
  | .vinPf mv => Sys2Proof.Machine.execVinPf mv s
  | .vinBrownOut => Sys2Proof.Machine.execVinBrownOut s
  | .resetNLow => Sys2Proof.Machine.execResetNLow s
  | .resetNHigh => Sys2Proof.Machine.execResetNHigh s
  | .pwrEnFall => Sys2Proof.Machine.execPwrEnFall s
  | .shutdownDrained => Sys2Proof.Machine.execShutdownDrained s
  | .shutdownTimeout => Sys2Proof.Machine.execShutdownTimeout s
  | .pwrEnRise => Sys2Proof.Machine.execPwrEnRise s
  | .wakeNFall slept => Sys2Proof.Machine.execWakeNFall slept s
  | .dieTempHigh t => Sys2Proof.Machine.execDieTempHigh t s
  | .dieTempNormal t => Sys2Proof.Machine.execDieTempNormal t s
  | .thermalTrip t => Sys2Proof.Machine.execThermalTrip t s
  | .tripCooled t => Sys2Proof.Machine.execTripCooled t s
  | .vbakChange mv => Sys2Proof.Machine.execVbakChange mv s
  | .vioChange v => Sys2Proof.Machine.execVioChange v s
  | .internalRailsUp => Sys2Proof.Machine.execInternalRailsUp s
  | .bootCheckDone ok => Sys2Proof.Machine.execBootCheckDone ok s
  | .carafeTrainingDone quick lanes step ms delays => Sys2Proof.Machine.execCarafeTrainingDone quick lanes step ms delays s
  | .eccFillDone => Sys2Proof.Machine.execEccFillDone s
  | .carafeTestDone lanes => Sys2Proof.Machine.execCarafeTestDone lanes s
  | .fwImageCopyDone ok => Sys2Proof.Machine.execFwImageCopyDone ok s
  | .pinnedRestoreDone => Sys2Proof.Machine.execPinnedRestoreDone s
  | .panWakeFillDone => Sys2Proof.Machine.execPanWakeFillDone s
  | .shelfImageApply => Sys2Proof.Machine.execShelfImageApply s
  | .shelfEntryDone => Sys2Proof.Machine.execShelfEntryDone s
  | .cpWatchdogExpiry => Sys2Proof.Machine.execCpWatchdogExpiry s
  | .fwReloadDone => Sys2Proof.Machine.execFwReloadDone s
  | .recoverApply good => Sys2Proof.Machine.execRecoverApply good s
  | .dacCurrentLimit k acts => Sys2Proof.Machine.execDacCurrentLimit k acts s
  | .hostLinkReturn state gen lanes svc => Sys2Proof.Machine.execHostLinkReturn state gen lanes svc s

end Sys2Proof.Machine
end

