-- ==== Sys2Proof/WellFormed.lean ====
section
/-! DEFINITION. Well-formed commands: operands that the widths of packets, transfers, lanes and memories admit. -/

namespace Sys2Proof

/-- The fields of a packet fit their widths (R306), its origin is one of the seven, and an address of the tree names the sender
of a packet of the side channel and of no other (R285, R319). -/
def Pkt.wf (p : Pkt) : Bool :=
  decide (p.org < 7) && decide (p.src < 4096) && decide (p.opcode < 256) && decide (p.length < 2 ^ 16) && decide (p.tag < 2 ^ 32)
    && decide (p.target < 4096) && decide (p.unit < 2 ^ 16) && decide (p.batchId < 2 ^ 16) && p.params.all (fun w => decide (w < 2 ^ 32))
    && (match p.path with | .side x => p.org == 5 && x == p.src | _ => p.org != 5)

/-- The operands of a command are ones that its row can have. Operands of a fixed width are bounded by their types. -/
def Instr.wf : Instr → Bool
  | .registerWrite o bar0 _ _ ws => (!bar0 || o == 0) && decide (ws.length ≤ 256)
  | .nop p => p.wf
  | .hello p => p.wf
  | .modeSet p => p.wf
  | .batchOpen p => p.wf
  | .batchCommit p => p.wf
  | .batchAbort p => p.wf
  | .fence p => p.wf
  | .regRd p => p.wf
  | .regWr p => p.wf
  | .regRmw p => p.wf
  | .snap p => p.wf
  | .segAlloc p => p.wf
  | .segLoad p => p.wf
  | .segFree p => p.wf
  | .segPin p => p.wf
  | .markLoad p => p.wf
  | .stepWrite p => p.wf
  | .panGrant p => p.wf
  | .segInfo p => p.wf
  | .stepRead p => p.wf
  | .arm p => p.wf
  | .start p => p.wf
  | .hold p => p.wf
  | .resume p => p.wf
  | .stop p => p.wf
  | .jump p => p.wf
  | .rate p => p.wf
  | .phase p => p.wf
  | .streamSkip p => p.wf
  | .capFlush p => p.wf
  | .capRearm p => p.wf
  | .capClr p => p.wf
  | .qFlush p => p.wf
  | .qDrop p => p.wf
  | .qAck p => p.wf
  | .qStat p => p.wf
  | .refFreeze p => p.wf
  | .refUnfreeze p => p.wf
  | .refZero p => p.wf
  | .refClr p => p.wf
  | .chainPulse p => p.wf
  | .chainEvent p => p.wf
  | .chainEnum p => p.wf
  | .chainCtLoad p => p.wf
  | .chainInfo p => p.wf
  | .cupRun p => p.wf
  | .calStore p => p.wf
  | .shelfClear p => p.wf
  | .fwWrite p => p.wf
  | .fwActivate p => p.wf
  | .logRead p => p.wf
  | .svcInfo p => p.wf
  | .svcReset p => p.wf
  | .resultGet p => p.wf
  | .unlistedOpcode p => p.wf
  | .packetFenceRelease => true
  | .fenceComplete => true
  | .segLoadComplete => true
  | .stepWriteComplete => true
  | .svcResetDelay => true
  | .batchStagingDone => true
  | .batchCommitTick => true
  | .batchTimeout => true
  | .shelfStoreDone => true
  | .pstApply _ => true
  | .glbModeReqWrite _ _ => true
  | .glbRegErrClr _ => true
  | .glbSnapGo _ => true
  | .rsrcCtlEnWrite _ _ _ => true
  | .rsrcCmdClr _ _ => true
  | .rsrcCmdReanchor _ _ => true
  | .rsrcCmdLoad _ _ => true
  | .rsrcScaleWrite _ _ _ => true
  | .rsrcRateWrite _ _ _ => true
  | .encCtlEnWrite _ _ _ => true
  | .encCmdZero _ _ => true
  | .encCmdClr _ _ => true
  | .rsrcLtCtlEnWrite _ _ _ => true
  | .rsrcLtMains _ _ _ => true
  | .rsrcLtCmdClr _ _ => true
  | .plyCtlEnWrite _ _ _ => true
  | .plyCmdArm _ _ => true
  | .plyCmdStart _ _ => true
  | .plyCmdHold _ _ => true
  | .plyCmdResume _ _ => true
  | .plyCmdStop _ _ => true
  | .plyCmdSkip _ _ => true
  | .plyCmdClr _ _ => true
  | .plySeqCmdClr _ _ => true
  | .plySeqCmdEvClr _ _ _ => true
  | .plyJumpGo _ _ _ => true
  | .plyPhaseGo _ _ _ => true
  | .trgTapWrite _ _ _ => true
  | .trgSwWrite _ _ => true
  | .chnCtlEnWrite _ _ _ => true
  | .chnCmdReseed _ _ => true
  | .chnCmdClr _ _ => true
  | .chnCmdBqApply _ _ _ => true
  | .cnvDacCtlEnWrite _ _ _ => true
  | .cnvAdcCtlEnWrite _ _ _ => true
  | .dmdCtlEnWrite _ _ _ => true
  | .capCtlEnWrite _ _ _ => true
  | .capCmdFlush _ _ => true
  | .capCmdRearm _ _ => true
  | .capCmdClr _ _ => true
  | .refCtlEnWrite _ _ _ => true
  | .refCmdFreeze _ _ => true
  | .refCmdUnfreeze _ _ => true
  | .refCmdZero _ _ => true
  | .refCmdClr _ _ => true
  | .carCmdScrubNow _ => true
  | .carCmdClr _ => true
  | .panOwnWrite _ _ _ => true
  | .panRetSleepWrite _ _ => true
  | .panCmdClr _ => true
  | .brnCtlEnWrite _ _ _ => true
  | .brnCmdFlush _ _ => true
  | .brnCmdDrop _ _ => true
  | .brnCmdClr _ _ => true
  | .brnLvlWrite _ _ _ => true
  | .brnNoteAckWrite _ _ _ => true
  | .flmOlCtlEnWrite _ _ _ => true
  | .flmIlCtlEnWrite _ _ _ => true
  | .flmIlCmdRemeasure _ _ => true
  | .flmIlCmdClr _ _ => true
  | .rakeCtlEnWrite _ _ => true
  | .rakeCtlFenceWrite _ _ => true
  | .rakeCmdEnum _ => true
  | .rakeCmdEnumFull _ => true
  | .rakeCmdCtLoad _ => true
  | .rakeCmdPulse _ => true
  | .rakeCmdClr _ => true
  | .rakeEvRaiseWrite _ _ => true
  | .rakePCtlEnWrite _ _ _ => true
  | .rakePCmdClr _ _ => true
  | .hstSqCtlEnWrite _ _ _ => true
  | .hstRqCtlEnWrite _ _ _ => true
  | .hstXrCtlEnWrite _ _ _ => true
  | .hstSqDb _ _ _ => true
  | .hstRqDb _ _ => true
  | .hstXrDb _ _ ds => ds.all (fun e => e.1.length == 8)
  | .hstCmdClr _ => true
  | .hstBar2BaseWrite _ _ => true
  | .clkRefSelWrite _ _ => true
  | .clkRefPolicyWrite _ _ => true
  | .clkCmdClr _ => true
  | .nvmBootLockWrite _ => true
  | .nvmCalLockWrite _ => true
  | .nvmEraseGo _ _ => true
  | .logEvRdWrite _ _ => true
  | .logEvNoteAckWrite _ _ => true
  | .logCmdAudFlush _ => true
  | .logCmdClr _ => true
  | .pwrCmdClr _ => true
  | .bar2Write off bs => decide (off.toNat + bs.length ≤ 2 ^ 28)
  | .bar2Read off n => decide (off.toNat + n ≤ 2 ^ 28)
  | .sampleFabricTick => true
  | .armComplete _ => true
  | .startTick _ => true
  | .successorReady _ _ => true
  | .lateSuccessorEntry _ => true
  | .waitReleaseEntry _ => true
  | .starveResumeEntry _ => true
  | .channelSample _ => true
  | .adcConversion _ _ => true
  | .gpInputEdge _ _ _ => true
  | .encoderEdge _ _ _ _ => true
  | .indexEdge _ _ _ => true
  | .ssiFrameStart _ => true
  | .ssiFrameDone _ _ _ => true
  | .encoderLost _ => true
  | .encoderReturn _ => true
  | .lineTrackerEdge _ _ => true
  | .flywheelMiss _ => true
  | .chainRailApply _ => true
  | .chainRailLost _ => true
  | .collectionClose _ => true
  | .refinePassComplete _ => true
  | .carafeRequest _ _ a len _ => decide (0 < len) && decide (a.toNat + len ≤ 2 ^ 34)
  | .carafeReadComplete _ _ ces ues => ces.all (fun u => decide (u < 2 ^ 28)) && ues.all (fun u => decide (u < 2 ^ 28))
  | .eccWriteback => true
  | .deadlineMiss _ => true
  | .refreshDue _ => true
  | .rowHammerWindowEnd => true
  | .selfRefreshIdle => true
  | .srDrainDone => true
  | .srExitDone => true
  | .patrolScrubStart => true
  | .dramDriftTrack adj => decide (adj.length ≤ 8)
  | .dramTempChange _ t => decide (-32768 ≤ t) && decide (t < 32768)
  | .mbistSlice _ _ => true
  | .fullMarchDone _ _ => true
  | .panHandoverDone _ => true
  | .panWakeDone _ => true
  | .xferWrite _ desc data coll => desc.length == 8 && coll.all (fun i => decide (i < data.length))
  | .xferRead _ desc => desc.length == 8
  | .queuePointerFault _ _ _ _ => true
  | .captureAgeExpiry _ => true
  | .captureFinalCommit _ => true
  | .cfgScrub _ _ => true
  | .outLaneFrame _ => true
  | .olTrainDone _ => true
  | .olHoldExit _ => true
  | .olClosingDone _ => true
  | .lanePllLock => true
  | .inLaneFrame _ _ _ _ _ slots x => slots.length == 16 && (x.hdrs.length == 9 || x.hdrs.length == 10)
  | .inLaneMessage _ _ _ => true
  | .ilMeasureDone _ => true
  | .ilLoss _ => true
  | .rakeCellTransmit _ => true
  | .rakeCellReceive _ _ data _ _ _ => data.length == 22
  | .rakePortLoss _ => true
  | .rakeJoin _ => true
  | .roleAutoTimeout => true
  | .steerHoldEnd => true
  | .chainEventAct => true
  | .periodicPulse => true
  | .railPublish => true
  | .fenceChangeApply => true
  | .ctLoadApply => true
  | .sidePacketReceive _ _ _ => true
  | .enumComplete => true
  | .autoEnumDelay => true
  | .chainForwardTimeout => true
  | .broadcastSummaryTimeout => true
  | .usb3OutTransfer _ _ _ => true
  | .svcOutTransfer _ _ => true
  | .hostDmaError _ _ => true
  | .sqHeadShadowWrite _ => true
  | .msixMessageSend _ => true
  | .linkLoss _ => true
  | .refinLoss => true
  | .refinPresent => true
  | .samplePllLock _ => true
  | .pllUnlock _ => true
  | .slewWalkDone => true
  | .cupStepDone _ _ => true
  | .cupPartialDone _ => true
  | .nvmStoreDone => true
  | .pinCopyDone => true
  | .unpinDone _ => true
  | .fwProgramDone => true
  | .fwImageCheckDone _ => true
  | .nvmEraseDone => true
  | .auditProgram => true
  | .mirrorRebuildDone => true
  | .vinStart _ => true
  | .vinPf _ => true
  | .vinBrownOut => true
  | .resetNLow => true
  | .resetNHigh => true
  | .pwrEnFall => true
  | .shutdownDrained => true
  | .shutdownTimeout => true
  | .pwrEnRise => true
  | .wakeNFall _ => true
  | .dieTempHigh _ => true
  | .dieTempNormal _ => true
  | .thermalTrip _ => true
  | .tripCooled _ => true
  | .vbakChange _ => true
  | .vioChange _ => true
  | .internalRailsUp => true
  | .bootCheckDone _ => true
  | .carafeTrainingDone quick _ _ _ delays => quick || delays.length == 8
  | .eccFillDone => true
  | .carafeTestDone _ => true
  | .fwImageCopyDone _ => true
  | .pinnedRestoreDone => true
  | .panWakeFillDone => true
  | .shelfImageApply => true
  | .shelfEntryDone => true
  | .cpWatchdogExpiry => true
  | .fwReloadDone => true
  | .recoverApply _ => true
  | .dacCurrentLimit _ _ => true
  | .hostLinkReturn _ _ _ _ => true

end Sys2Proof
end

