-- ==== Sys2Proof/Safety.lean ====
section
/-! DEFINITION. The terms of the claims: who may write, when a packet is taken up, how it is answered, what every step keeps. -/

namespace Sys2Proof.Machine

/-! ### Between commands -/

/-- A reply that leaves by the side channel of the tree. -/
def sideOut (o : Out) : Bool := match o with | .reply (.side _) _ _ => true | _ => false

/-- No reply waits to leave by the side channel: every command sends them on at its end (R285). -/
def quiet (s : State) : Prop := ∀ o ∈ s.out, sideOut o = false

/-- The fault summary is the one that its causes give (R353, `GLB_FAULT_SUM`). -/
def summed (s : State) : Prop := s.faultSum = faultSumOf s

/-! ### Register accesses -/

/-- No write of the coming tick has a higher rank: what is written now prevails (R32, R295). -/
def prevails (s : State) (rank : Nat) : Prop := ∀ w ∈ s.wrote, w.tick = s.eff → w.rank ≤ rank

/-- The register mask, or an origin that no mask holds back, admits a write of a group (R42). -/
def mayCommand (s : State) (o grp : Nat) : Prop := o = 0 ∨ o = 6 ∨ permOk s o grp = true

/-- The same, and no later origin has written in this tick (R32); HOST0 writes through BAR0 (R295). -/
def mayWrite (s : State) (o grp : Nat) : Prop := mayCommand s o grp ∧ prevails s (2 * o + b2n (o == 0))

/-- The part of a word that a field takes. -/
def Fld.part (f : Fld) (w : Nat) : Nat := w / 2 ^ f.lo % 2 ^ f.width

/-- A word that leaves these fields of a unit's register as they are. -/
def asIs (fs : List Fld) (w u : Nat) (s : State) : Prop := ∀ f ∈ fs, f.part w = s.rd f u

/-- These fields of a unit read the same. -/
def kept (fs : List Fld) (u : Nat) (s t : State) : Prop := ∀ f ∈ fs, t.rd f u = s.rd f u

/-- Every register field but the listed ones reads the same. -/
def sameBut (l : List (Fld × Nat)) (s t : State) : Prop :=
  ∀ (f : Fld) (u : Nat), (∀ e ∈ l, e.1.key e.2 ≠ f.key u) → t.rd f u = s.rd f u

/-- Nothing but registers, the mark of a command in progress, the interrupts that wait and the fault summary differs. -/
def onlyRegs (s t : State) : Prop :=
  { t with flds := s.flds, cmd := s.cmd, msixWait := s.msixWait, faultSum := s.faultSum } = s

/-- The command answers a next state in which the listed fields read 0, and only they differ. -/
def clears (i : Instr) (s : State) (l : List (Fld × Nat)) : Prop :=
  ∃ t, exec i s = .next t ∧ (∀ e ∈ l, t.rd e.1 e.2 = 0) ∧ sameBut l s t ∧ onlyRegs s t

/-! ### Frames -/

/-- A place of a field, 64 to an address, that lies in one of a list of ranges. -/
def within (A : List (Nat × Nat)) (k : Nat) : Prop := ∃ r ∈ A, r.1 ≤ k ∧ k < r.2

/-- Every register field outside the listed ranges reads the same. -/
def regsBut (A : List (Nat × Nat)) (s t : State) : Prop :=
  ∀ (f : Fld) (u : Nat), ¬ within A (f.key u) → t.rd f u = s.rd f u

/-- No byte of Carafe and of the pans differs. -/
def bytesKept (s t : State) : Prop := ∀ a, memRd t.carafe a = memRd s.carafe a ∧ memRd t.pans a = memRd s.pans a

/-- The place of one field of a unit, as a range. -/
def field (f : Fld) (u : Nat) : Nat × Nat := (f.key u, f.key u + 1)

/-- All fields of a unit's register that holds this one. -/
def reg (f : Fld) (u : Nat) : Nat × Nat := (64 * f.addr u, 64 * f.addr u + 64)

/-- The registers of a unit, from the first register of its block. -/
def unitRegs (f : Fld) (u : Nat) : Nat × Nat := (64 * f.addr u, 64 * (f.addr u + f.stride))

/-- One unit's record is `v` in the next state, and every other unit's record of the kind is as before. -/
def unitTo {α : Type} (recOf : State → Nat → α) (s t : State) (u : Nat) (v : α) : Prop :=
  recOf t u = v ∧ ∀ w, w ≠ u → recOf t w = recOf s w

/-- No unit's record of a kind differs. -/
def unitsKept {α : Type} (recOf : State → Nat → α) (s t : State) : Prop := ∀ w, recOf t w = recOf s w

/-- No register holds a parity mismatch, and no unit is in SAFE for one. -/
def sound (s : State) : Prop := s.parOdd = [] ∧ s.parBad = [] ∧ s.unitSafe = []

/-- Where the mode, flagged accesses, records and packets that the tree drops show: `GLB_MODE` to `GLB_REG_ERR_ADDR`, `RAKE_ERR`,
`RAKE_P_ERR2` of the four ports, and the logs. -/
def records : List (Nat × Nat) :=
  [(64 * 0x10, 64 * 0x20), (64 * 0x500030, 64 * 0x500031), (64 * 0x500114, 64 * 0x500115), (64 * 0x500154, 64 * 0x500155),
    (64 * 0x500194, 64 * 0x500195), (64 * 0x5001D4, 64 * 0x5001D5), (64 * 0x900000, 64 * 0xA00000)]

/-- The registers of the host link. -/
def hostRegs : Nat × Nat := (64 * 0x600000, 64 * 0x700000)

/-- The registers of every rail unit. -/
def railRegs : Nat × Nat := (64 * 0x300000, 64 * 0x302000)

/-- The registers of a queue, and the word of `HST_QPEND` that shows it. -/
def queueSpan (q : Nat) : List (Nat × Nat) := [unitRegs F.BRN_CTL_EN q, reg F.HST_QPEND_PEND (q / 32)]

/-- The registers of a player, of its queue, and the rate of its rail. -/
def playerSpan (s : State) (p : Nat) : List (Nat × Nat) := unitRegs F.PLY_CTL_EN p :: reg F.RSRC_RATE_RATE p :: queueSpan (plyQueue s p)

/-- A modulo counter's value after one more count (R391). -/
def wrapUp (f : Fld) (u : Nat) (s : State) : Nat := (s.rd f u + 1) % 2 ^ f.width

/-- A saturating counter's value after one more count (R391). -/
def satUp (f : Fld) (u : Nat) (s : State) : Nat := min (s.rd f u + 1) (2 ^ f.width - 1)

/-- What a power-on leaves: memory lists nothing, no command is in progress, and every register outside the records, `CLK_STAT` and
the fields that show what lies outside the logic die holds its reset value (R349, R409). -/
def cleared (t : State) : Prop :=
  (∀ a, memRd t.carafe a = 0 ∧ memRd t.pans a = 0) ∧ t.jobs = [] ∧ t.queues = [] ∧ t.segs = [] ∧
    ∀ (f : Fld) (u : Nat), ¬ within (reg F.CLK_STAT_ACT 0 :: records) (f.key u) →
      (∀ g v, fldAt (f.key u) = some (g, v) → memN ballFlds g.id = false) → t.rd f u = f.rst u % 2 ^ f.width

/-- The same, and the host link, where replies show. -/
def replies : List (Nat × Nat) := hostRegs :: records

/-- The command answers a next state in which the listed fields read the listed values, every register outside `A` and the
records is as before, and no byte of memory has changed. -/
def acts (i : Instr) (s : State) (A : List (Nat × Nat)) (l : List (Fld × Nat × Nat)) : Prop :=
  ∃ t, exec i s = .next t ∧ (∀ e ∈ l, t.rd e.1 e.2.1 = e.2.2) ∧ regsBut (A ++ records) s t ∧ bytesKept s t

/-- The same, with what else holds of the next state. -/
def actsTo (i : Instr) (s : State) (A : List (Nat × Nat)) (l : List (Fld × Nat × Nat)) (more : State → Prop) : Prop :=
  ∃ t, exec i s = .next t ∧ (∀ e ∈ l, t.rd e.1 e.2.1 = e.2.2) ∧ regsBut (A ++ records) s t ∧ bytesKept s t ∧ more t

/-- A word that enables a disabled unit and leaves the register's other fields as they are; no register holds a parity mismatch. -/
def turnsOn (en : Fld) (fs : List Fld) (w u : Nat) (s : State) : Prop :=
  sound s ∧ s.on en u = false ∧ en.part w = 1 ∧ asIs fs w u s

/-- A word that disables an enabled unit and leaves the register's other fields as they are; no register holds a parity mismatch. -/
def turnsOff (en : Fld) (fs : List Fld) (w u : Nat) (s : State) : Prop :=
  sound s ∧ s.on en u = true ∧ en.part w = 0 ∧ asIs fs w u s

/-- A register of a unit takes a whole word: every field is CFG or LIVE, has no effect of its own and lists its part of the word, and a CFG
field's unit is disabled (R5, R33, R35). -/
def stores (s : State) (b : Blk) (u : Nat) (r : Row) (v : Nat) : Prop :=
  r.flds ≠ [] ∧ rowRefused b r v = false ∧ b.base ≠ 0xA01000 ∧
    ∀ f ∈ r.flds, (f.cls = .live ∨ f.cls = .cfg) ∧ hooked f = false ∧ clsOf f u = f.cls ∧ f.ok (f.part v) = true ∧
      (f.cls = .cfg → unitOn s b u r = false)

/-- An access is flagged, and does nothing else (R39). -/
def flaggedOnly (i : Instr) (s : State) (cause org addr : Nat) : Prop :=
  actsTo i s [] [(F.GLB_REG_ERR_COUNT, 0, min (s.rd F.GLB_REG_ERR_COUNT 0 + 1) (2 ^ F.GLB_REG_ERR_COUNT.width - 1)),
    (F.GLB_REG_ERR_CAUSE, 0, cause), (F.GLB_REG_ERR_ORIGIN, 0, org), (F.GLB_REG_ERR_ADDR_ADDR, 0, addr)]
    (fun t => t.wo1 = s.wo1 ∧ t.parBad = s.parBad)

/-! ### Packets -/

/-- A tag that the window of the packet's origin takes as new (R311, R312). -/
def newTag (s : State) (p : Pkt) : Prop :=
  winEnt (winOf s (winKey p.org p.src)) p.tag = none ∧
    ((winOf s (winKey p.org p.src)).seen = true →
      -255 ≤ serial 32 p.tag (winOf s (winKey p.org p.src)).h ∧ serial 32 p.tag (winOf s (winKey p.org p.src)).h ≤ 256)

/-- A packet over a host's transport that R321's steps 1 to 11 let through to its execution on this module, at once and outside
a batch: whole, with a new tag, for this module, with opcode, length, mask, mode, unit and parameters in order, held by nothing.
Its number is one that no command in progress has. -/
def passes (op : Nat) (p : Pkt) (s : State) : Prop :=
  let q := numbered op p
  fetching s = true ∧ pktHeld s s.heldPkts q = false ∧
    (∀ x, p.path ≠ .side x) ∧ (p.crc = true → p.crcOk = true) ∧ p.hdrOk = true ∧ p.batch = false ∧
    newTag s p ∧ p.target ≠ 0xFFF ∧ isLocal s q = true ∧ (pktWhy s q).1 = stOk ∧
    jobOf s s.nextJob = none ∧ memN s.recov.jobs s.nextJob = false ∧ (p.org < 7 ∧ p.org ≠ 5)

/-- The window of a packet's origin holds the final reply of its tag with this status and these data words (R312, R315, R338). -/
def replied (p : Pkt) (status : Nat) (data : List Nat) (t : State) : Prop :=
  ∃ e r, winEnt (winOf t (winKey p.org p.src)) p.tag = some e ∧ e.done = true ∧ e.reply = some r ∧
    r.tag = p.tag ∧ r.status = status ∧ r.final = true ∧ r.data = data

/-- A packet has become a command in progress: its tag is pending, and its reply will come at its end (R310, R314). -/
def begun (op : Nat) (p : Pkt) (j : Nat) (t : State) : Prop :=
  (∃ e, winEnt (winOf t (winKey p.org p.src)) p.tag = some e ∧ e.done = false ∧ e.opcode = op ∧ e.job = j) ∧
    ∃ b ∈ t.jobs, b.id = j ∧ b.tag = p.tag ∧ b.opcode = op ∧ b.org = p.org

/-- The rows of command packets with their opcodes, but for `RESULT_GET`, which enters no window (R316). -/
def packetRows : List ((Pkt → Instr) × Nat) :=
  [(.nop, 0x00), (.hello, 0x01), (.modeSet, 0x02), (.batchOpen, 0x03), (.batchCommit, 0x04), (.batchAbort, 0x05),
    (.fence, 0x06), (.regRd, 0x10), (.regWr, 0x11), (.regRmw, 0x12), (.snap, 0x13), (.segAlloc, 0x20),
    (.segLoad, 0x21), (.segFree, 0x22), (.segPin, 0x23), (.markLoad, 0x24), (.stepWrite, 0x25), (.panGrant, 0x26),
    (.segInfo, 0x27), (.stepRead, 0x28), (.arm, 0x30), (.start, 0x31), (.hold, 0x32), (.resume, 0x33),
    (.stop, 0x34), (.jump, 0x35), (.rate, 0x36), (.phase, 0x37), (.streamSkip, 0x38), (.capFlush, 0x40),
    (.capRearm, 0x41), (.capClr, 0x42), (.qFlush, 0x43), (.qDrop, 0x44), (.qAck, 0x45), (.qStat, 0x46),
    (.refFreeze, 0x50), (.refUnfreeze, 0x51), (.refZero, 0x52), (.refClr, 0x53), (.chainPulse, 0x60), (.chainEvent, 0x61),
    (.chainEnum, 0x62), (.chainCtLoad, 0x63), (.chainInfo, 0x64), (.cupRun, 0x70), (.calStore, 0x71), (.shelfClear, 0x72),
    (.fwWrite, 0x73), (.fwActivate, 0x74), (.logRead, 0x80), (.svcInfo, 0x90), (.svcReset, 0x91)]

/-- A command in progress that waits for its final reply: its tag is pending in the window of its origin (R310, R314). -/
def jobWaits (b : Job) (s : State) : Prop :=
  jobOf s b.id = some b ∧ b.org < 7 ∧ b.org ≠ 5 ∧ memN s.recov.jobs b.id = false ∧
    ∃ e, winEnt (winOf s (winKey b.org b.src)) b.tag = some e ∧ e.job = b.id ∧ e.done = false

/-- The command in progress has its final reply, kept in the window of its origin (R312, R314, R315). -/
def jobDone (b : Job) (status : Nat) (data : List Nat) (t : State) : Prop :=
  ∃ e r, winEnt (winOf t (winKey b.org b.src)) b.tag = some e ∧ e.done = true ∧ e.reply = some r ∧
    r.tag = b.tag ∧ r.status = status ∧ r.final = true ∧ r.data = data

/-- The packet's row answers a next state in which its final reply is OK with these data words, the listed fields read the listed
values, and every register outside `A`, the host link and the records is as before. -/
def answers (i : Instr) (p : Pkt) (s : State) (data : List Nat) (A : List (Nat × Nat)) (l : List (Fld × Nat × Nat)) (more : State → Prop) :
    Prop :=
  ∃ t, exec i s = .next t ∧ replied p stOk data t ∧ (∀ e ∈ l, t.rd e.1 e.2.1 = e.2.2) ∧ regsBut (A ++ replies) s t ∧ more t

/-- The same for a command whose reply comes at its end: it is in progress under the next job's number. -/
def begins (i : Instr) (op : Nat) (p : Pkt) (s : State) (A : List (Nat × Nat)) (l : List (Fld × Nat × Nat)) (more : State → Prop) : Prop :=
  ∃ t, exec i s = .next t ∧ begun op p s.nextJob t ∧ (∀ e ∈ l, t.rd e.1 e.2.1 = e.2.2) ∧ regsBut (A ++ replies) s t ∧ more t

end Sys2Proof.Machine
end

