-- ==== Sys2Proof/Certificates/Slice0/Obligations.lean ====
section
/-! DEFINITION. The statements for the provers. -/

open Sys2Proof Sys2Proof.Machine

/-- A write of 1 to CLR of PLY_CMD, PLY_SEQ_CMD, CHN_CMD, RSRC_CMD, ENC_CMD or RSRC_LT_CMD by an origin that the register mask admits answers a next state in which the fields that CLR names read 0; every other field, and everything that is no register, is as before. -/
def Obligations.PlayerSideClears : Prop :=
  ∀ (s : State), powered s = true → quiet s → ∀ (o : Fin 7),
    (∀ p : Fin 64, mayCommand s o 5 →
      clears (.plyCmdClr o p) s [(F.PLY_ERR_STARVES, p), (F.PLY_ERR_UNDERRUNS, p), (F.PLY_ERR_ECC, p), (F.PLY_ERR_PANICS, p),
        (F.PLY_STREAM_STAT_BADPKT, p), (F.PLY_STREAM_STAT_SEQGAP, p), (F.PLY_STARVE_TICKS_TICKS, p), (F.PLY_UNDER_TICKS_TICKS, p),
        (F.PLY_STATE_CMD_REJ, p)] ∧
      clears (.plySeqCmdClr o p) s [(F.PLY_SEQ_EVT_LATE, p), (F.PLY_SEQ_EVT_DEFERRED, p), (F.PLY_SEQ_EVT_HIST_OVF, p),
        (F.PLY_SEQ_EVT_DROPPED, p), (F.PLY_CLAMP_TICKS_TICKS, p), (F.PLY_LATE_TICKS_TICKS, p)]) ∧
    (∀ c : Fin 256, mayCommand s o 6 →
      clears (.chnCmdClr o c) s [(F.CHN_LIM_POS_COUNT, c), (F.CHN_LIM_VA_VEL, c), (F.CHN_LIM_VA_ACC, c), (F.CHN_ERR_RQ_SAT, c),
        (F.CHN_ERR_SAT, c)]) ∧
    (mayCommand s o 7 →
      (∀ p : Fin 64, clears (.rsrcCmdClr o p) s [(F.RSRC_EVT_LOSSES, p), (F.RSRC_EVT_LIMITS, p), (F.RSRC_SLIP_SLIP, p)]) ∧
      (∀ e : Fin 8, clears (.encCmdClr o e) s [(F.ENC_ERR_AMP, e), (F.ENC_ERR_ILLEGAL, e), (F.ENC_STAT_IDX_SEEN, e)]) ∧
      (∀ j : Fin 8, clears (.rsrcLtCmdClr o j) s [(F.RSRC_LT_ERR_MISSED, j), (F.RSRC_LT_ERR_REJECTED, j)]))

/-- A write of 1 to CLR of CAP_CMD, REF_CMD, BRN_CMD or FLM_IL_CMD by an origin that the register mask admits answers a next state in which the fields that CLR names read 0; every other field, and everything that is no register, is as before. -/
def Obligations.DataPathClears : Prop :=
  ∀ (s : State), powered s = true → quiet s → ∀ (o : Fin 7),
    (∀ u : Fin 32, mayCommand s o 10 →
      clears (.capCmdClr o u) s [(F.CAP_LOST_LOST, u), (F.CAP_ERR_OVF, u), (F.CAP_ERR_NOROOM, u)]) ∧
    (∀ l : Fin 8, mayCommand s o 14 →
      clears (.refCmdClr o l) s [(F.REF_STAT_RISE, l), (F.REF_CNT_FREEZES, l), (F.REF_CNT_DISCARDS, l), (F.REF_CNT_CYCLES, l),
        (F.REF_ERR_LOST, l), (F.REF_ERR_ECC, l)]) ∧
    (∀ q : Fin 128, mayCommand s o 4 →
      clears (.brnCmdClr o q) s [(F.BRN_ERR_OVERSIZE, q), (F.BRN_ERR_PTR, q), (F.BRN_ERR_ABANDON, q), (F.BRN_ERR_TRUNC, q),
        (F.BRN_EVT_EMPTY_RD, q), (F.BRN_EVT_ECC, q)]) ∧
    (∀ n : Fin 8, mayCommand s o 11 →
      clears (.flmIlCmdClr o n) s [(F.FLM_IL_ERR_CRC, n), (F.FLM_IL_ERR_SEQGAP, n), (F.FLM_IL_ERR_CTMIS, n), (F.FLM_IL_ERR2_LOSSES, n),
        (F.FLM_IL_ERR2_ECHO, n), (F.FLM_IL_ERR2_DRIFTS, n), (F.FLM_IL_ERR2_ISOLATIONS, n)])

/-- A write of 1 to CLR of RAKE_CMD, RAKE_P_CMD, HST_CMD, CLK_CMD, LOG_CMD, PWR_CMD or GLB_REG_ERR by an origin that the register mask admits answers a next state in which the fields that CLR names read 0; every other field, and everything that is no register, is as before. -/
def Obligations.DeviceClears : Prop :=
  ∀ (s : State), powered s = true → quiet s → ∀ (o : Fin 7),
    (mayCommand s o 12 →
      clears (.rakeCmdClr o) s [(F.RAKE_ERR_PIN_CONFLICT, 0), (F.RAKE_ERR_NOROUTE, 0), (F.RAKE_ERR_EV_LATE, 0), (F.RAKE_ERR_EV_DROP, 0)] ∧
      (∀ n : Fin 4, clears (.rakePCmdClr o n) s [(F.RAKE_P_ERR_BAD, n), (F.RAKE_P_ERR_LOSSES, n), (F.RAKE_P_ERR_ISOLATIONS, n),
        (F.RAKE_P_ERR2_SIDE_DROP, n), (F.RAKE_P_ERR2_RAIL_CONFLICT, n), (F.RAKE_P_ERR2_AGE_OVF, n), (F.RAKE_P_ERR2_HOPS_DROP, n)])) ∧
    (mayCommand s o 13 →
      clears (.hstCmdClr o) s [(F.HST_ERR_BAR2_DISC, 0), (F.HST_ERR_FRAME, 0), (F.HST_ERR_LOSSES, 0), (F.HST_ERR2_BAR2_UE, 0),
        (F.HST_ERR2_DMA, 0)]) ∧
    (mayCommand s o 1 → clears (.clkCmdClr o) s [(F.CLK_EVT_LOSSES, 0), (F.CLK_EVT_UNLOCKS, 0), (F.CLK_EVT_RETURNS, 0)]) ∧
    (mayCommand s o 16 → clears (.logCmdClr o) s [(F.LOG_EV_DROP_DROPPED, 0), (F.LOG_EV_OVW_COUNT, 0), (F.LOG_AUD_STAT_SKIPPED, 0)]) ∧
    (mayCommand s o 18 → clears (.pwrCmdClr o) s [(F.PWR_EVT_PF, 0), (F.PWR_EVT_THERM, 0), (F.PWR_PIN_PEAK, 0)]) ∧
    (mayCommand s o 0 → clears (.glbRegErrClr o) s [(F.GLB_REG_ERR_COUNT, 0), (F.GLB_REG_ERR_CAUSE, 0), (F.GLB_REG_ERR_ORIGIN, 0),
        (F.GLB_REG_ERR_ADDR_ADDR, 0)])

/-- A write of 1 to CAR_CMD.CLR zeroes CAR_ECC, the throttle counts, CAR_PWR and the counts of all 72 ports; a write of 1 to PAN_CMD.CLR zeroes the error and collision counts of the 16 pans, the conflict counts of the 9 owners, and YIELDS and FAIL; every other field, and everything that is no register, is as before. -/
def Obligations.MemoryClears : Prop :=
  ∀ (s : State), powered s = true → quiet s → ∀ (o : Fin 7),
    (mayCommand s o 2 → clears (.carCmdClr o) s ([(F.CAR_ECC_CE, 0), (F.CAR_ECC_UE, 0), (F.CAR_RH_STAT_THROTTLES, 0),
        (F.CAR_RH_STAT_FORCED, 0), (F.CAR_PWR_ABORTS, 0), (F.CAR_PWR_BOUNCES, 0)] ++
      ((List.range 72).map (fun i => [(F.CAR_PORT_LAT_LAT_MAX, i), (F.CAR_PORT_LAT_OVER400, i), (F.CAR_PORT_EVT_DL_MISS, i),
        (F.CAR_PORT_EVT_THROTTLED, i)])).flatten)) ∧
    (mayCommand s o 3 → clears (.panCmdClr o) s (((List.range 16).map (fun k => [(F.PAN_ERR_CE, k), (F.PAN_ERR_UE, k),
        (F.PAN_COLL_COUNT, k)])).flatten ++ ((List.range 9).map (fun i => (F.PAN_CONF_COUNT, i))) ++
      [(F.PAN_MBIST_STAT_YIELDS, 0), (F.PAN_MBIST_STAT_FAIL, 0)]))

/-- A write of 1 to RSRC_CMD.REANCHOR or RSRC_CMD.LOAD of an enabled rail unit clears AUTO_REANCHORED and leaves the re-anchor, or the load of RSRC_LOAD, to the coming tick; of a disabled unit it only clears AUTO_REANCHORED; RSRC_SCALE takes the value written, and an enabled rail keeps the scale that was in force for its rebase; RSRC_RATE takes the value written; a write of 1 to ENC_CMD.ZERO sets the position of the port to 0; MAINS of a disabled tracker loads the preset of the mains. Every other register outside the records, every record of another rail and every byte of memory is as before. -/
def Obligations.RailRegisterCommands : Prop :=
  ∀ (s : State), powered s = true → ∀ (o : Fin 7), mayCommand s o 7 →
    (∀ p : Fin 64,
      actsTo (.rsrcCmdReanchor o p) s [field F.RSRC_STAT_AUTO_REANCHORED p] [(F.RSRC_STAT_AUTO_REANCHORED, p, 0)] (fun t =>
        unitTo railOf s t p (if s.on F.RSRC_CTL_EN p then { railOf s p with reanchor := true } else railOf s p)) ∧
      actsTo (.rsrcCmdLoad o p) s [field F.RSRC_STAT_AUTO_REANCHORED p] [(F.RSRC_STAT_AUTO_REANCHORED, p, 0)] (fun t =>
        unitTo railOf s t p (if s.on F.RSRC_CTL_EN p then { railOf s p with load := some (s.rd F.RSRC_LOAD_LOAD p) } else railOf s p)) ∧
      (mayWrite s o 7 → ∀ v : BitVec 64,
        actsTo (.rsrcScaleWrite o p v) s [reg F.RSRC_SCALE_SCALE p] [(F.RSRC_SCALE_SCALE, p, F.RSRC_SCALE_SCALE.part v.toNat)] (fun t =>
          unitTo railOf s t p (if s.on F.RSRC_CTL_EN p then
            { railOf s p with oldScale := some ((railOf s p).oldScale.getD (s.rd F.RSRC_SCALE_SCALE p)) } else railOf s p)) ∧
        actsTo (.rsrcRateWrite o p v) s [reg F.RSRC_RATE_RATE p] [(F.RSRC_RATE_RATE, p, F.RSRC_RATE_RATE.part v.toNat)]
          (unitsKept railOf s))) ∧
    (∀ e : Fin 8, acts (.encCmdZero o e) s [field F.ENC_POS_COUNT e, field F.ENC_POS_FRAC e] [(F.ENC_POS_COUNT, e, 0), (F.ENC_POS_FRAC, e, 0)]) ∧
    (mayWrite s o 7 → ∀ (j : Fin 8) (w : Word), sound s → s.on F.RSRC_LT_CTL_EN j = false → F.RSRC_LT_CTL_EN.part w.toNat = 0 →
      acts (.rsrcLtMains o j w) s [reg F.RSRC_LT_CTL_EN j, reg F.RSRC_LT_NOM_NOM j]
        [(F.RSRC_LT_CTL_EN, j, 0), (F.RSRC_LT_CTL_EDGE, j, 0), (F.RSRC_LT_NOM_NOM, j, 11636364), (F.RSRC_LT_CTL_AVG, j, 4),
          (F.RSRC_LT_CTL_WIN, j, 26), (F.RSRC_LT_CTL_MISS_MAX, j, 4), (F.RSRC_LT_CTL_SLEW, j, 1)])

/-- In a mode that admits commands of players: a write of 1 to PLY_CMD.ARM of a LOADED or DONE player that passes the check of an ARM starts the ARM; to START of an ARMED one leaves the start pending; to HOLD, of a player that may be held, and to RESUME of a HELD player outside mode HOLD changes the state and HELD_FROM; to STOP of a LOADED player cancels its ARM; to SKIP registers the skip, and its packets to drop; JUMP.GO and PHASE.GO register their request; EV_CLR clears the pending bits that its mask selects. CMD_REJ falls. Where the mode or the state of the player does not admit the command, CMD_REJ rises and nothing else happens. -/
def Obligations.PlayerRegisterCommands : Prop :=
  ∀ (s : State), powered s = true → ∀ (o : Fin 7), mayCommand s o 5 → ∀ p : Fin 64,
    (playMode s = true →
      ((pst s p = psLoaded ∨ pst s p = psDone) → (plyOf s p).arm = none → plyPar s p = false → stepPan s = true → armCheck s p = none →
        (∃ t, exec (.plyCmdArm o p) s = .next t ∧ t.rd F.PLY_STATE_ARM_BUSY p = 1 ∧ t.rd F.PLY_STATE_CMD_REJ p = 0 ∧
          (plyOf t p).arm = some (none, s.eff) ∧ (plyOf t p).locks = (if plyStream s p then [] else windowSegs s p) ∧
          (∀ w, w ≠ p.val → plyOf t w = plyOf s w) ∧ bytesKept s t ∧
          regsBut ([field F.PLY_STATE_ARM_BUSY p, field F.PLY_EVPEND_PEND p, field F.PLY_SEQ_STAT_HIST p, field F.PLY_STATE_CMD_REJ p] ++ records) s t) ∧
        (plyStream s p = true → actsTo (.plyCmdArm o p) s [field F.PLY_STATE_ARM_BUSY p, field F.PLY_EVPEND_PEND p, field F.PLY_SEQ_STAT_HIST p, field F.PLY_STATE_CMD_REJ p]
          [(F.PLY_STATE_ARM_BUSY, p, 1), (F.PLY_EVPEND_PEND, p, 0), (F.PLY_SEQ_STAT_HIST, p, 0), (F.PLY_STATE_CMD_REJ, p, 0)]
          (fun t => (plyOf t p).arm = some (none, s.eff) ∧ (plyOf t p).locks = [] ∧ ∀ w, w ≠ p.val → plyOf t w = plyOf s w))) ∧
      (pst s p = psArmed → (plyOf s p).start = none → s.rd F.PLY_START_SRC p ≠ 1 →
        actsTo (.plyCmdStart o p) s [field F.PLY_STATE_START_PEND p, field F.PLY_STATE_CMD_REJ p]
          [(F.PLY_STATE_START_PEND, p, 1), (F.PLY_STATE_CMD_REJ, p, 0)]
          (fun t => unitTo plyOf s t p { plyOf s p with start := some { src := s.rd F.PLY_START_SRC p, evt := s.rd F.PLY_START_EVT p, eff := s.eff, ts := (if s.rd F.PLY_START_SRC p = 0 then some (s.eff + 20) else none), ct := none, job := none, late := false } })) ∧
      (holdOk s p = true →
        actsTo (.plyCmdHold o p) s [field F.PLY_STATE_HELD_FROM p, field F.PLY_STATE_STATE p, field F.PLY_STATE_HELD_MODE p, field F.PLY_STATE_CMD_REJ p,
            field F.PLY_EVPEND_PEND p]
          [(F.PLY_STATE_HELD_FROM, p, pst s p), (F.PLY_STATE_STATE, p, psHeld), (F.PLY_STATE_HELD_MODE, p, 0), (F.PLY_STATE_CMD_REJ, p, 0)]
          (fun t => unitTo plyOf s t p { plyOf s p with acts := (plyOf t p).acts, evReg := (plyOf s p).evReg.filter (fun e => decide (e.2 < s.eff)) } ∧
            ((∀ e ∈ (plyOf s p).evReg, e.2 < s.eff) → t.rd F.PLY_EVPEND_PEND p = s.rd F.PLY_EVPEND_PEND p))) ∧
      (pst s p = psHeld → mode s ≠ mdHold →
        actsTo (.plyCmdResume o p) s [field F.PLY_STATE_STATE p, field F.PLY_STATE_HELD_MODE p, field F.PLY_STATE_CMD_REJ p]
          [(F.PLY_STATE_STATE, p, s.rd F.PLY_STATE_HELD_FROM p), (F.PLY_STATE_HELD_MODE, p, 0), (F.PLY_STATE_CMD_REJ, p, 0)]
          (fun t => (plyOf t p).resumedAt = some s.eff ∧ (plyOf t p).anchor = true ∧ ∀ w, w ≠ p.val → plyOf t w = plyOf s w)) ∧
      (∀ a, pst s p = psLoaded → (plyOf s p).arm = some (none, a) → (plyOf s p).locks = [] →
        actsTo (.plyCmdStop o p) s [field F.PLY_STATE_ARM_BUSY p, field F.PLY_STATE_CMD_REJ p]
          [(F.PLY_STATE_ARM_BUSY, p, 0), (F.PLY_STATE_CMD_REJ, p, 0)]
          (fun t => (plyOf t p).arm = none ∧ ∀ w, w ≠ p.val → plyOf t w = plyOf s w)) ∧
      (pst s p = psLoaded → (plyOf s p).arm.isSome = true →
        ∃ t, exec (.plyCmdStop o p) s = .next t ∧ pst t p = psLoaded ∧ (plyOf t p).arm = none ∧ (plyOf t p).locks = [] ∧
          t.rd F.PLY_STATE_ARM_BUSY p = 0 ∧ t.rd F.PLY_STATE_CMD_REJ p = 0 ∧ ∀ w, w ≠ p.val → plyOf t w = plyOf s w) ∧
      ((pst s p = psArmed ∨ pst s p = psRunning ∨ pst s p = psWaiting ∨ pst s p = psStarved ∨ pst s p = psHeld) →
        ∃ t, exec (.plyCmdStop o p) s = .next t ∧ pst t p = psDone ∧ t.rd F.PLY_STATE_CMD_REJ p = 0 ∧ (plyOf t p).ramp = true ∧
          (plyOf t p).locks = [] ∧ (plyOf t p).start = none ∧ (plyOf t p).jump = none ∧ (plyOf t p).phase = none ∧ (plyOf t p).wait = none ∧
          (∀ w, w ≠ p.val → plyOf t w = plyOf s w) ∧ bytesKept s t ∧ regsBut (hostRegs :: playerSpan s p ++ records) s t) ∧
      (skipOk s p = true → pst s p ≠ psStarved → pst s p ≠ psWaiting → s.rd F.PLY_SKIP_TIMING p ≠ 0 →
        actsTo (.plyCmdSkip o p) s [field F.PLY_STREAM_STAT_DROP_LEFT p, field F.PLY_STATE_CMD_REJ p]
          [(F.PLY_STREAM_STAT_DROP_LEFT, p, min (s.rd F.PLY_STREAM_STAT_DROP_LEFT p + s.rd F.PLY_SKIP_DROP p) (2 ^ F.PLY_STREAM_STAT_DROP_LEFT.width - 1)),
            (F.PLY_STATE_CMD_REJ, p, 0)]
          (fun t => unitTo plyOf s t p { plyOf s p with skip := some (s.rd F.PLY_SKIP_TIMING p, s.eff) }))) ∧
    (∀ m : BitVec 16, actsTo (.plySeqCmdEvClr o p m) s [field F.PLY_EVPEND_PEND p, reg F.PLY_SEQ_CMD_EV_CLR p]
      [(F.PLY_EVPEND_PEND, p, s.rd F.PLY_EVPEND_PEND p - (s.rd F.PLY_EVPEND_PEND p &&& m.toNat))]
      (fun t => unitTo plyOf s t p { plyOf s p with evReg := (plyOf s p).evReg.filter (fun x => !bitOf m.toNat x.1) })) ∧
    (∀ w : Word, playMode s = true → prevails s (2 * o + b2n (o.val == 0)) →
      (jumpOk s p = true → pst s p ≠ psWaiting → F.PLY_JUMP_TARGET.part w.toNat < s.rd F.PLY_STEP_COUNT_COUNT p → 1 ≤ F.PLY_JUMP_TIMING.part w.toNat →
        actsTo (.plyJumpGo o p w) s [reg F.PLY_JUMP_TARGET p, field F.PLY_STATE_CMD_REJ p]
          [(F.PLY_JUMP_TARGET, p, F.PLY_JUMP_TARGET.part w.toNat), (F.PLY_JUMP_TIMING, p, F.PLY_JUMP_TIMING.part w.toNat),
            (F.PLY_STATE_CMD_REJ, p, 0)]
          (fun t => unitTo plyOf s t p { plyOf s p with
            jump := some (F.PLY_JUMP_TARGET.part w.toNat, F.PLY_JUMP_TIMING.part w.toNat, s.eff), ready := (plyOf s p).ready.filter (fun e => e.1 != 6) })) ∧
      (phaseOk s p = true →
        actsTo (.plyPhaseGo o p w) s [reg F.PLY_PHASE_VALUE p, field F.PLY_STATE_CMD_REJ p]
          [(F.PLY_PHASE_VALUE, p, F.PLY_PHASE_VALUE.part w.toNat), (F.PLY_STATE_CMD_REJ, p, 0)]
          (fun t => unitTo plyOf s t p { plyOf s p with phase := some (F.PLY_PHASE_VALUE.part w.toNat, s.eff), ready := (plyOf s p).ready.filter (fun e => e.1 != 7) }))) ∧
    (playMode s = false → ∀ i ∈ [Instr.plyCmdArm o p, .plyCmdStart o p, .plyCmdHold o p, .plyCmdResume o p, .plyCmdStop o p, .plyCmdSkip o p],
      actsTo i s [field F.PLY_STATE_CMD_REJ p] [(F.PLY_STATE_CMD_REJ, p, 1)] (unitsKept plyOf s))

/-- RESEED reloads the dither generator of a channel from its seed and clears the shaping state, and does nothing while the latched seed is 0; BQ_APPLY leaves the selected biquads of the channel pending with their shadow coefficients; TRG_SW raises one edge for every bit that is set, to be registered in the tick after the coming one; a tap that is enabled takes the present marker bit and raises no edge; GLB_SNAP.GO asks for a snapshot. Everything else that is named is as before. -/
def Obligations.ChannelRegisterCommands : Prop :=
  ∀ (s : State), powered s = true → ∀ (o : Fin 7),
    (mayCommand s o 6 → ∀ c : Fin 256,
      actsTo (.chnCmdReseed o c) s [] [] (fun t => unitTo chnOf s t c (if (chnOf s c).seed = 0 then chnOf s c else
        { chnOf s c with lfsr := (chnOf s c).seed, e1 := 0, e2 := 0 })) ∧
      ∀ m : BitVec 4, actsTo (.chnCmdBqApply o c m) s [field F.CHN_STAT_BQ_PEND c, reg F.CHN_CMD_BQ_APPLY c]
        [(F.CHN_STAT_BQ_PEND, c, s.rd F.CHN_STAT_BQ_PEND c ||| m.toNat)]
        (fun t => (∀ i < 4, tabGet (chnOf t c).coefPend i = if bitOf m.toNat i then some (chnShadow s c i) else tabGet (chnOf s c).coefPend i) ∧
          ∀ w, w ≠ c.val → chnOf t w = chnOf s w)) ∧
    (mayCommand s o 17 →
      (∀ m : BitVec 16, actsTo (.trgSwWrite o m) s [reg F.TRG_SW_SW 0] [] (fun t =>
        t.trigs = s.trigs ++ ((List.range 16).filter (bitOf m.toNat)).map (fun i => ⟨0xE0 + i, true, 4 * s.eff, s.eff + 1⟩))) ∧
      (mayWrite s o 17 → ∀ (i : Fin 32) (w : Word), s.on F.TRG_TAP_EN i = false → F.TRG_TAP_EN.part w.toNat = 1 →
        actsTo (.trgTapWrite o i w) s [reg F.TRG_TAP_EN i]
          [(F.TRG_TAP_EN, i, 1), (F.TRG_TAP_PLAYER, i, F.TRG_TAP_PLAYER.part w.toNat), (F.TRG_TAP_BIT, i, F.TRG_TAP_BIT.part w.toNat)]
          (fun t => t.trigs = s.trigs ∧ t.tapBits =
            if bitOf (s.rd F.PLY_MARK_RAW (F.TRG_TAP_PLAYER.part w.toNat)) (F.TRG_TAP_BIT.part w.toNat) then addN s.tapBits i else delN s.tapBits i))) ∧
    (mayCommand s o 0 → actsTo (.glbSnapGo o) s [] [] (fun t => t.snapReq = true))

/-- REARM clears DONE and waits for the next start edge; FLUSH without an open packet does nothing, and closes an open one with SHORT: its end waits in the staging or is committed; with nothing staged its header is written and the packet committed, and no other byte of memory changes; FREEZE and ZERO of a collecting lane are left pending, FREEZE of a READY lane freezes it at once; UNFREEZE returns a FROZEN lane to READY. -/
def Obligations.CaptureRegisterCommands : Prop :=
  ∀ (s : State), powered s = true → ∀ (o : Fin 7),
    (mayCommand s o 10 → ∀ u : Fin 32,
      actsTo (.capCmdRearm o u) s [field F.CAP_STAT_DONE u] [(F.CAP_STAT_DONE, u, 0)]
        (fun t => unitTo capOf s t u { capOf s u with edges := [], edgeOvf := false, shot := false }) ∧
      ((capOf s u).isOpen = false → actsTo (.capCmdFlush o u) s [] [] (unitsKept capOf s)) ∧
      ((capOf s u).isOpen = true →
        ∃ t, exec (.capCmdFlush o u) s = .next t ∧ (capOf t u).isOpen = false ∧ (capOf t u).recs = 0 ∧ (capOf t u).lost = 0 ∧
          ((capOf t u).stage = [] ∨ ∃ hdr, CapItem.done hdr (capOf s u).recs (capOf s u).lost ∈ (capOf t u).stage ∧ bitOf (hdr.headD 0) 4 = true) ∧
          ∀ w, w ≠ u.val → capOf t w = capOf s w) ∧
      ((capOf s u).isOpen = true → (capOf s u).stage = [] → (capOf s u).closing = false → qDeep s (capOf s u).q = false → capAsleep s u = false →
        let q := (capOf s u).q
        ∃ t, exec (.capCmdFlush o u) s = .next t ∧ t.rd F.CAP_STAT_PKT_OPEN u = 0 ∧ (capOf t u).isOpen = false ∧ (capOf t u).stage = [] ∧
          (capOf t u).seq = ((capOf s u).seq + 1) % 2 ^ 32 ∧
          t.rd F.BRN_CP_PTR q = s.rd F.BRN_WP_PTR q ∧
          regsBut ([unitRegs F.CAP_CTL_EN u, unitRegs F.BRN_CTL_EN q, field F.HST_QPEND_PEND (q / 32)] ++ records) s t ∧
          (∀ w, w ≠ u.val → capOf t w = capOf s w) ∧
          ∀ a, memRd t.carafe a = memRd s.carafe a ∧
            ((∀ i < 8, ¬ (qWordAddr s q ((quOf s q).m + i) ≤ a ∧ a < qWordAddr s q ((quOf s q).m + i) + 4)) →
              ¬ (qIdxAddr s q (s.rd F.BRN_IPTR_ICP q) ≤ a ∧ a < qIdxAddr s q (s.rd F.BRN_IPTR_ICP q) + 4) →
              memRd t.pans a = memRd s.pans a))) ∧
    (mayCommand s o 14 → ∀ l : Fin 8,
      (laneSt s l = lsCollect →
        actsTo (.refCmdFreeze o l) s [field F.REF_STAT_FRZ_PEND l] [(F.REF_STAT_FRZ_PEND, l, 1)]
          (fun t => unitTo laneOf s t l { laneOf s l with freeze := 1 }) ∧
        actsTo (.refCmdZero o l) s [field F.REF_STAT_FRZ_PEND l] [(F.REF_STAT_FRZ_PEND, l, 1)]
          (fun t => unitTo laneOf s t l { laneOf s l with freeze := 2 })) ∧
      (laneSt s l = lsReady →
        actsTo (.refCmdFreeze o l) s [field F.REF_STAT_STATE l, field F.REF_STAT_ACTIVE l, field F.REF_STAT_PASS l] [(F.REF_STAT_STATE, l, lsFrozen)] (unitsKept laneOf s)) ∧
      (laneSt s l = lsFrozen →
        actsTo (.refCmdUnfreeze o l) s [field F.REF_STAT_STATE l, field F.REF_STAT_ACTIVE l, field F.REF_STAT_PASS l] [(F.REF_STAT_STATE, l, lsReady)] (unitsKept laneOf s)))

/-- A packet that passes the checks of R321: NOP only replies; HELLO answers the firmware version and build, the origin, the highest tag, GLB_ID and GLB_ADDR; MODE_SET that is admitted answers at once to the present mode and enters SAFE at once; to another mode it waits for its tick, in which it acts and is answered; BATCH_OPEN opens a batch of its origin; BATCH_COMMIT stages it with its AT_CT and answers later; BATCH_ABORT removes the open batch; FENCE waits; SVC_INFO answers the identity, the mode and the fault summary; SVC_RESET leaves a reset due in 10 ms. No other register outside the host link and the records differs, and no byte of memory. -/
def Obligations.SessionPackets : Prop :=
  ∀ (p : Pkt) (s : State),
    (passes 0x00 p s → answers (.nop p) p s [] [] [] (bytesKept s)) ∧
    (passes 0x01 p s → p.w 0 % 2 = 0 →
      answers (.hello p) p s [Config.fwVersion.toNat, Config.fwBuild.toNat, p.org,
        (if (winOf s (winKey p.org p.src)).seen = false ∨ 0 < serial 32 p.tag (winOf s (winKey p.org p.src)).h then p.tag
          else (winOf s (winKey p.org p.src)).h),
        readReg0 s (F.GLB_ID_PART.addr 0), readReg0 s (F.GLB_ADDR_ADDR.addr 0)] [] [] (bytesKept s)) ∧
    (passes 0x02 p s → permCmd s p.org 0 = true → p.w 0 % 16 ≤ 11 →
      let target := p.w 0 % 16
      let depth := p.w 0 / 16 % 2
      requestResult s.coming target depth = 0 →
      (target = mode s → s.asks = [] →
        answers (.modeSet p) p s [] [reg F.GLB_MODE_REQ_RESULT 0] [(F.GLB_MODE_REQ_DEPTH, 0, depth), (F.GLB_MODE_REQ_RESULT, 0, 0), (F.GLB_MODE_MODE, 0, mode s)]
          (bytesKept s)) ∧
      (target ≠ mdSafe → (target ≠ mode s ∨ s.asks ≠ []) →
        begins (.modeSet p) 0x02 p s [reg F.GLB_MODE_REQ_RESULT 0] [(F.GLB_MODE_REQ_DEPTH, 0, depth), (F.GLB_MODE_REQ_RESULT, 0, 0), (F.GLB_MODE_MODE, 0, mode s)]
          (fun t => t.asks = s.asks ++ [⟨target, depth, some s.nextJob⟩] ∧ bytesKept s t)) ∧
      (target = mdSafe → mode s ≠ mdSafe →
        ∃ t, exec (.modeSet p) s = .next t ∧ replied p stOk [] t ∧ t.rd F.GLB_MODE_REQ_RESULT 0 = 0 ∧ mode t = mdSafe)) ∧
    (passes 0x03 p s → p.batchId ≠ 0 → openOf s p.org = none →
      answers (.batchOpen p) p s [] [reg F.GLB_BATCH_OPEN 0] [(F.GLB_BATCH_OPEN, 0, (s.opens.length + 1) % 2 ^ F.GLB_BATCH_OPEN.width)]
        (fun t => t.opens = s.opens ++ [⟨p.org, p.src, p.batchId, [], 0, s.eff⟩] ∧ t.staged = s.staged ∧ bytesKept s t)) ∧
    (passes 0x04 p s → ∀ b, openOf s p.org = some b → b.id = p.batchId → s.staged.length < 4 →
      (p.w 0 + p.w 1 * 2 ^ 32 = 0 ∨ serial 64 (p.w 0 + p.w 1 * 2 ^ 32) (s.ctOf s.eff) ≤ 256 * 1600000000) →
      begins (.batchCommit p) 0x04 p s [reg F.GLB_BATCH_OPEN 0] [(F.GLB_BATCH_STAGED, 0, (s.staged.length + 1) % 2 ^ F.GLB_BATCH_STAGED.width)]
        (fun t => t.opens = s.opens.filter (fun x => x.org != p.org) ∧
          t.staged = s.staged ++ [⟨b, s.nextJob, p.tag, p.w 0 + p.w 1 * 2 ^ 32, false, false, s.eff + stageTicks b.words⟩] ∧ bytesKept s t)) ∧
    (passes 0x05 p s → ∀ b, openOf s p.org = some b → b.id = p.batchId →
      answers (.batchAbort p) p s [] [reg F.GLB_BATCH_OPEN 0]
        [(F.GLB_BATCH_OPEN, 0, (s.opens.filter (fun x => x.org != p.org)).length % 2 ^ F.GLB_BATCH_OPEN.width)]
        (fun t => t.opens = s.opens.filter (fun x => x.org != p.org) ∧ t.staged = s.staged ∧ bytesKept s t)) ∧
    (passes 0x06 p s → begins (.fence p) 0x06 p s [] [] (fun t => t.fences = s.fences ++ [s.nextJob] ∧ bytesKept s t)) ∧
    (passes 0x90 p s →
      answers (.svcInfo p) p s [readReg0 s (F.GLB_ID_PART.addr 0), readReg0 s (F.GLB_REV_GRADE.addr 0), Config.serial.toNat % 2 ^ 32,
        Config.serial.toNat / 2 ^ 32, Config.fwVersion.toNat, readReg0 s (F.GLB_MODE_MODE.addr 0), s.faultSum] [] [] (bytesKept s)) ∧
    (passes 0x91 p s → answers (.svcReset p) p s [] [] [] (fun t => t.boot = { s.boot with resetAt := some (s.eff + msTicks 10) } ∧ bytesKept s t))

/-- A register write by an origin is flagged with its cause, origin and address, and changes nothing else: misaligned, of an unmapped address (over BAR0 outside the MSI-X table and its pending bits), of a register whose group or mask the origin may not write, over BAR0 with less than the whole word, of a register of read-only fields, and of a register of CFG fields, all with new values, of an enabled unit. -/
def Obligations.RegisterWritesRefused : Prop :=
  ∀ (s : State), powered s = true → ∀ (o : Fin 7) (bar0 : Bool) (a w : Word),
    let org := if bar0 then 0 else o.val
    (a.toNat % 4 ≠ 0 → flaggedOnly (.registerWrite o bar0 a 15 [w]) s cBadAlign org a.toNat) ∧
    (a.toNat % 4 = 0 → wordAt a.toNat = none →
      (bar0 = true → (a.toNat < 0xFF0000 ∨ 0xFF0400 ≤ a.toNat) ∧ (a.toNat < 0xFF8000 ∨ 0xFF8008 ≤ a.toNat)) →
      flaggedOnly (.registerWrite o bar0 a 15 [w]) s cUnmapped org a.toNat) ∧
    (∀ b u r hi, a.toNat % 4 = 0 → wordAt a.toNat = some (b, u, r, hi) →
      (regDenied s org b = true → flaggedOnly (.registerWrite o bar0 a 15 [w]) s cDenied org a.toNat) ∧
      (regDenied s org b = false →
        (∀ m : BitVec 4, bar0 = true → m ≠ 15 → flaggedOnly (.registerWrite o bar0 a m [w]) s cBadWidth org a.toNat) ∧
        ((∀ f ∈ r.flds, clsOf f u = .ro ∨ clsOf f u = .st) → flaggedOnly (.registerWrite o bar0 a 15 [w]) s cRoWrite org a.toNat) ∧
        (hi = false → r.pair = false → r.flds ≠ [] → rowRefused b r w.toNat = false → unitOn s b u r = true →
          (∀ f ∈ r.flds, f.cls = .cfg ∧ clsOf f u = .cfg ∧ f.part w.toNat ≠ s.rd f u) →
          flaggedOnly (.registerWrite o bar0 a 15 [w]) s cCfgEnabled org a.toNat)))

/-- A write of a whole register, or of both words of a pair, whose fields are LIVE or CFG of a disabled unit, by an origin that may write it, where no later origin has written in the tick (R32), stores each field its part of the word and changes no other register outside the records, and no byte of memory; a write of some bytes of a LIVE register by a packet leaves the other bytes; bits that an origin of a higher code has written in the same tick stay as they are (R32). A word written over BAR0 to the MSI-X table is kept in it (its contents are otherwise the model's choice: log entry 65), and no register changes. -/
def Obligations.RegisterWritesStored : Prop :=
  ∀ (s : State), powered s = true →
   (∀ (o : Fin 7) (bar0 : Bool) (a lo hi : Word) (b : Blk) (u : Nat) (r : Row),
    regAt a.toNat = some (b, u, r) → a.toNat % 4 = 0 → (r.pair = true → a.toNat % 8 = 0) → regDenied s (if bar0 then 0 else o.val) b = false →
    (stores s b u r (lo.toNat + (if r.pair then hi.toNat * 2 ^ 32 else 0)) →
      (prevails s (2 * (if bar0 then 0 else o.val) + b2n bar0) →
        actsTo (.registerWrite o bar0 a 15 (if r.pair then [lo, hi] else [lo])) s [(64 * a.toNat, 64 * a.toNat + 64)] []
          (fun t => ∀ f ∈ r.flds, t.rd f u = f.part (lo.toNat + (if r.pair then hi.toNat * 2 ^ 32 else 0)))) ∧
      (∀ w ∈ s.wrote, w.tick = s.eff → w.reg = a.toNat → 2 * (if bar0 then 0 else o.val) + b2n bar0 < w.rank →
        ∃ t, exec (.registerWrite o bar0 a 15 (if r.pair then [lo, hi] else [lo])) s = .next t ∧
          ∀ f ∈ r.flds, ∀ k < f.width, bitOf w.mask (f.lo + k) = true → bitOf (t.rd f u) k = bitOf (s.rd f u) k)) ∧
    (∀ m : BitVec 4, m ≠ 0 → bar0 = false → prevails s (2 * o.val) → r.pair = false → r.flds ≠ [] → rowRefused b r lo.toNat = false → b.base ≠ 0xA01000 →
      (∀ f ∈ r.flds, f.cls = .live ∧ hooked f = false ∧ clsOf f u = .live ∧ f.ok (newVal s (byteBits m.toNat) lo.toNat u f) = true) →
      actsTo (.registerWrite o bar0 a m [lo]) s [(64 * a.toNat, 64 * a.toNat + 64)] []
        (fun t => ∀ f ∈ r.flds, t.rd f u = newVal s (byteBits m.toNat) lo.toNat u f))) ∧
   (∀ (k : Fin 256) (w : Word),
      actsTo (.registerWrite 0 true (BitVec.ofNat 32 (0xFF0000 + 4 * k.val)) 15 [w]) s [] []
        (fun t => (tabGet t.msixTab k).getD 0 = w.toNat ∧ ∀ j, j ≠ k.val → tabGet t.msixTab j = tabGet s.msixTab j))

/-- A packet that passes: REG_RD of mapped words answers them and changes no register outside the host link and the records; REG_WR of a whole register, or of both words of a pair, stores its fields; REG_RMW replaces the bits that its mask selects and answers the previous word; SNAP leaves a snapshot to the coming tick and answers when it has been taken. -/
def Obligations.RegisterPackets : Prop :=
  ∀ (p : Pkt) (s : State),
    (passes 0x10 p s → 1 ≤ p.w 1 % 512 → p.w 1 % 512 ≤ 256 → p.w 1 / 65536 % 16 ≠ 0 → p.w 0 % 4 = 0 →
      (∀ i < p.w 1 % 512, (readReg s (p.w 0 + 4 * i)).isSome = true) →
      answers (.regRd p) p s (regReads (counted (numbered 0x10 p) s.coming) (p.w 0) (p.w 1 % 512)) [] [] (bytesKept s)) ∧
    (passes 0x11 p s → prevails s (2 * p.org) → ∀ b u r, regAt (p.w 0) = some (b, u, r) → p.w 0 % 4 = 0 → (r.pair = true → p.w 0 % 8 = 0) → p.w 0 < 2 ^ 32 →
      regDenied s p.org b = false → p.w 1 / 65536 % 16 = 15 → p.w 1 % 512 = (if r.pair then 2 else 1) →
      stores s b u r (p.w 2 % 2 ^ 32 + (if r.pair then p.w 3 % 2 ^ 32 * 2 ^ 32 else 0)) →
      answers (.regWr p) p s [] [(64 * p.w 0, 64 * p.w 0 + 64)] []
        (fun t => ((p.w 0 < 0x600000 ∨ 0x700000 ≤ p.w 0) → ∀ f ∈ r.flds, t.rd f u = f.part (p.w 2 % 2 ^ 32 + (if r.pair then p.w 3 % 2 ^ 32 * 2 ^ 32 else 0))) ∧
          bytesKept s t)) ∧
    (passes 0x12 p s → prevails s (2 * p.org) → ∀ b u r, regAt (p.w 0) = some (b, u, r) → p.w 0 % 4 = 0 → r.pair = false → regDenied s p.org b = false →
      p.w 1 / 65536 % 16 = 15 →
      stores s b u r ((readReg0 s (p.w 0) - (readReg0 s (p.w 0) &&& p.w 2)) + (p.w 3 &&& p.w 2)) →
      p.w 2 < 2 ^ 32 →
      answers (.regRmw p) p s [readReg0 s (p.w 0)] [(64 * p.w 0, 64 * p.w 0 + 64)] []
        (fun t => ((p.w 0 < 0x600000 ∨ 0x700000 ≤ p.w 0) → ∀ f ∈ r.flds, t.rd f u = f.part ((readReg0 s (p.w 0) - (readReg0 s (p.w 0) &&& p.w 2)) + (p.w 3 &&& p.w 2))) ∧
          bytesKept s t)) ∧
    (passes 0x13 p s → begins (.snap p) 0x13 p s [] [] (fun t => t.snapReq = true ∧ t.snapJobs = s.snapJobs ++ [s.nextJob] ∧ bytesKept s t))

/-- With the rest of the register as it is and no parity mismatch: EN := 1 of a rail unit whose configuration R69 or R70 refuses sets CFG_BAD and leaves EN 0; of another, whose source is present, it sets EN, clears CFG_BAD and LOST and leaves the anchor to the coming tick; EN := 0 clears EN, RATE_LIMIT and LOST and holds the rail; the encoder port and the tracker likewise, the tracker from its nominal period with its counts at 0. -/
def Obligations.RailEnables : Prop :=
  ∀ (s : State), powered s = true → ∀ (o : Fin 7), mayWrite s o 7 →
    (∀ (p : Fin 64) (w : Word),
      (turnsOn F.RSRC_CTL_EN [F.RSRC_CTL_COMP, F.RSRC_CTL_ABS, F.RSRC_CTL_LOSS_POL, F.RSRC_CTL_SEL, F.RSRC_CTL_SRC] w.toNat p s →
        (railEnableBad s p = true →
          actsTo (.rsrcCtlEnWrite o p w) s [reg F.RSRC_CTL_EN p, reg F.RSRC_STAT_LOST p] [(F.RSRC_CTL_EN, p, 0), (F.RSRC_STAT_CFG_BAD, p, 1)]
            (unitsKept railOf s)) ∧
        (railEnableBad s p = false → railSrcLost s p = false →
          actsTo (.rsrcCtlEnWrite o p w) s [reg F.RSRC_CTL_EN p, reg F.RSRC_STAT_LOST p]
            [(F.RSRC_CTL_EN, p, 1), (F.RSRC_STAT_CFG_BAD, p, 0), (F.RSRC_STAT_LOST, p, 0)]
            (fun t => (railOf t p).anchor = true ∧ (railOf t p).load = none ∧ ∀ q, q ≠ p.val → railOf t q = railOf s q))) ∧
      (turnsOff F.RSRC_CTL_EN [F.RSRC_CTL_COMP, F.RSRC_CTL_ABS, F.RSRC_CTL_LOSS_POL, F.RSRC_CTL_SEL, F.RSRC_CTL_SRC] w.toNat p s →
        actsTo (.rsrcCtlEnWrite o p w) s [reg F.RSRC_CTL_EN p, reg F.RSRC_STAT_LOST p]
          [(F.RSRC_CTL_EN, p, 0), (F.RSRC_STAT_RATE_LIMIT, p, 0), (F.RSRC_STAT_LOST, p, 0)]
          (fun t => unitTo railOf s t p { railOf s p with heldX := none }))) ∧
    (∀ (e : Fin 8) (w : Word),
      (turnsOn F.ENC_CTL_EN [F.ENC_CTL_TERM, F.ENC_CTL_INDEX, F.ENC_CTL_FILT, F.ENC_CTL_INVERT, F.ENC_CTL_MODE] w.toNat e s →
        (s.rd F.ENC_CTL_MODE e = 2 ∧ s.rd F.ENC_CTL_INDEX e ≠ 0 →
          actsTo (.encCtlEnWrite o e w) s [reg F.ENC_CTL_EN e, reg F.ENC_STAT_LOST e] [(F.ENC_CTL_EN, e, 0), (F.ENC_STAT_CFG_BAD, e, 1)]
            (unitsKept encOf s)) ∧
        (¬ (s.rd F.ENC_CTL_MODE e = 2 ∧ s.rd F.ENC_CTL_INDEX e ≠ 0) →
          actsTo (.encCtlEnWrite o e w) s [reg F.ENC_CTL_EN e, reg F.ENC_STAT_LOST e] [(F.ENC_CTL_EN, e, 1), (F.ENC_STAT_CFG_BAD, e, 0)]
            (fun t => unitTo encOf s t e { encOf s e with ssiBad := 0, ssiStart := none, ssiEnd := none, ssiBusy := false, ssiLast := none, ssiVal := none }))) ∧
      (turnsOff F.ENC_CTL_EN [F.ENC_CTL_TERM, F.ENC_CTL_INDEX, F.ENC_CTL_FILT, F.ENC_CTL_INVERT, F.ENC_CTL_MODE] w.toNat e s →
        actsTo (.encCtlEnWrite o e w) s [reg F.ENC_CTL_EN e] [(F.ENC_CTL_EN, e, 0)]
          (fun t => unitTo encOf s t e { encOf s e with ssiBusy := false, evs := (encOf s e).evs.filter (fun x => match x.2.2 with | .word _ _ => false | _ => true) }))) ∧
    (∀ (j : Fin 8) (w : Word), F.RSRC_LT_CTL_MAINS.part w.toNat = 0 →
      (turnsOn F.RSRC_LT_CTL_EN [F.RSRC_LT_CTL_MISS_MAX, F.RSRC_LT_CTL_WIN, F.RSRC_LT_CTL_IN_SEL, F.RSRC_LT_CTL_AVG, F.RSRC_LT_CTL_EDGE, F.RSRC_LT_CTL_SLEW] w.toNat j s →
        actsTo (.rsrcLtCtlEnWrite o j w) s [reg F.RSRC_LT_CTL_EN j, reg F.RSRC_LT_STAT_LOST j, reg F.RSRC_LT_CNT_K j, reg F.RSRC_LT_PER_EST j]
          [(F.RSRC_LT_CTL_EN, j, 1), (F.RSRC_LT_STAT_CFG_BAD, j, 0), (F.RSRC_LT_STAT_LOCKED, j, 0), (F.RSRC_LT_STAT_LOST, j, 0),
            (F.RSRC_LT_STAT_FLYWHEEL, j, 0), (F.RSRC_LT_CNT_K, j, 0), (F.RSRC_LT_PER_EST, j, s.rd F.RSRC_LT_NOM_NOM j % 2 ^ F.RSRC_LT_PER_EST.width)]
          (fun t => unitTo trkOf s t j { Trk.fresh with cmp := (trkOf s j).cmp })) ∧
      (turnsOff F.RSRC_LT_CTL_EN [F.RSRC_LT_CTL_MISS_MAX, F.RSRC_LT_CTL_WIN, F.RSRC_LT_CTL_IN_SEL, F.RSRC_LT_CTL_AVG, F.RSRC_LT_CTL_EDGE, F.RSRC_LT_CTL_SLEW] w.toNat j s →
        actsTo (.rsrcLtCtlEnWrite o j w) s [reg F.RSRC_LT_CTL_EN j] [(F.RSRC_LT_CTL_EN, j, 0)] (unitsKept trkOf s)))

/-- With the rest of the register as it is and no parity mismatch: EN := 1 of a player that R111 refuses sets CFG_BAD and leaves EN 0; of another it sets EN, clears CFG_BAD and makes the player LOADED with a fresh record; EN := 0 of a LOADED player without an ARM in progress makes it IDLE. -/
def Obligations.PlayerEnable : Prop :=
  ∀ (s : State), powered s = true → ∀ (o : Fin 7), mayWrite s o 5 → ∀ (p : Fin 64) (w : Word),
    (turnsOn F.PLY_CTL_EN [F.PLY_CTL_BIND, F.PLY_CTL_STARVE_POL, F.PLY_CTL_ECC_POL, F.PLY_CTL_UNDER_POL, F.PLY_CTL_MODE, F.PLY_CTL_WIDTH] w.toNat p s →
      (plyEnableBad false p s = true →
        actsTo (.plyCtlEnWrite o p w) s [reg F.PLY_CTL_EN p, reg F.PLY_STATE_STATE p] [(F.PLY_CTL_EN, p, 0), (F.PLY_STATE_CFG_BAD, p, 1), (F.PLY_STATE_STATE, p, pst s p)]
          (unitsKept plyOf s)) ∧
      (plyEnableBad false p s = false →
        actsTo (.plyCtlEnWrite o p w) s [reg F.PLY_CTL_EN p, reg F.PLY_STATE_STATE p]
          [(F.PLY_CTL_EN, p, 1), (F.PLY_STATE_CFG_BAD, p, 0), (F.PLY_STATE_STATE, p, psLoaded), (F.PLY_STATE_RAMPING, p, 0)]
          (fun t => unitTo plyOf s t p { Ply.fresh with eccUnits := [] }))) ∧
    (turnsOff F.PLY_CTL_EN [F.PLY_CTL_BIND, F.PLY_CTL_STARVE_POL, F.PLY_CTL_ECC_POL, F.PLY_CTL_UNDER_POL, F.PLY_CTL_MODE, F.PLY_CTL_WIDTH] w.toNat p s →
      pst s p = psLoaded → (plyOf s p).arm = none → (plyOf s p).start = none → (plyOf s p).locks = [] → plyStream s p = false →
      actsTo (.plyCtlEnWrite o p w) s [unitRegs F.PLY_CTL_EN p] [(F.PLY_CTL_EN, p, 0), (F.PLY_STATE_STATE, p, psIdle)]
        (fun t => t.segs = s.segs ∧ ∀ q, q ≠ p.val → plyOf t q = plyOf s q))

/-- With the rest of the register as it is and no parity mismatch: EN := 1 of a channel that R157 refuses sets CFG_BAD and the lowest cause; of another it sets EN and state ON, clears the causes and the sample count, and latches destination, rate and coefficients; EN := 0 of an ON channel makes it OFF. A DAC that is enabled or disabled outputs code 0; an ADC that is enabled converts from the coming tick on; a demodulator is refused with its lowest cause of R175 or starts settling. -/
def Obligations.ChannelEnables : Prop :=
  ∀ (s : State), powered s = true → ∀ (o : Fin 7),
    (mayWrite s o 6 → ∀ (c : Fin 256) (w : Word),
      (turnsOn F.CHN_CTL_EN [F.CHN_CTL_BQ_EN, F.CHN_CTL_LIM_POL, F.CHN_CTL_TYPE, F.CHN_CTL_INTERP] w.toNat c s →
        (chnEnableCause false c s ≠ 0 →
          actsTo (.chnCtlEnWrite o c w) s [reg F.CHN_CTL_EN c, reg F.CHN_STAT_STATE c]
            [(F.CHN_CTL_EN, c, 0), (F.CHN_STAT_CFG_BAD, c, 1), (F.CHN_STAT_ENCAUSE, c, chnEnableCause false c s)] (unitsKept chnOf s)) ∧
        (chnEnableCause false c s = 0 →
          actsTo (.chnCtlEnWrite o c w) s [unitRegs F.CHN_CTL_EN c, (64 * 0x310000, 64 * 0x310100)]
            [(F.CHN_CTL_EN, c, 1), (F.CHN_STAT_STATE, c, 1), (F.CHN_STAT_CFG_BAD, c, 0), (F.CHN_STAT_ENCAUSE, c, 0), (F.CHN_STAT_SAFE_CAUSE, c, 0),
              (F.CHN_STAT_BQ_PEND, c, 0), (F.CHN_SAMPLES_COUNT, c, 0), (F.CHN_CAL_GAIN_CAL_GAIN, c, (chnCal s (chnDestWord s c) (s.rd F.CHN_RATE_OFFSET c)).1 % 2 ^ F.CHN_CAL_GAIN_CAL_GAIN.width)]
            (fun t => (chnOf t c).everOn = true ∧ (chnOf t c).dest = chnDestWord s c ∧ (chnOf t c).dm1 = s.rd F.CHN_RATE_DM1 c ∧
              (chnOf t c).rest = s.rd F.CHN_REST_REST c ∧ (chnOf t c).seed = s.rd F.CHN_DSEED_DSEED c ∧
              (chnOf t c).newCoef = (List.range 4).map (chnShadow s c) ∧ (chnOf t c).first = true ∧ ∀ d, d ≠ c.val → chnOf t d = chnOf s d))) ∧
      (turnsOff F.CHN_CTL_EN [F.CHN_CTL_BQ_EN, F.CHN_CTL_LIM_POL, F.CHN_CTL_TYPE, F.CHN_CTL_INTERP] w.toNat c s → s.rd F.CHN_STAT_STATE c = 1 →
        actsTo (.chnCtlEnWrite o c w) s [reg F.CHN_CTL_EN c, reg F.CHN_STAT_STATE c, (64 * 0x310000, 64 * 0x310100)]
          [(F.CHN_CTL_EN, c, 0), (F.CHN_STAT_STATE, c, 0)] (unitsKept chnOf s))) ∧
    (mayWrite s o 8 → ∀ (i : Fin 8) (w : Word),
      (turnsOn F.CNV_DAC_CTL_EN [] w.toNat i s →
        acts (.cnvDacCtlEnWrite o i w) s [reg F.CNV_DAC_CTL_EN i, field F.CNV_DAC_STAT_CODE i] [(F.CNV_DAC_CTL_EN, i, 1), (F.CNV_DAC_STAT_CODE, i, 0)]) ∧
      (turnsOff F.CNV_DAC_CTL_EN [] w.toNat i s → dacUsed s i = false →
        acts (.cnvDacCtlEnWrite o i w) s [reg F.CNV_DAC_CTL_EN i, field F.CNV_DAC_STAT_CODE i] [(F.CNV_DAC_CTL_EN, i, 0), (F.CNV_DAC_STAT_CODE, i, 0)]) ∧
      (turnsOn F.CNV_ADC_CTL_EN [F.CNV_ADC_CTL_PHASE] w.toNat i s →
        actsTo (.cnvAdcCtlEnWrite o i w) s [reg F.CNV_ADC_CTL_EN i, field F.CNV_ADC_STAT_VALID i] [(F.CNV_ADC_CTL_EN, i, 1), (F.CNV_ADC_STAT_VALID, i, 0)]
          (fun t => tabGet t.adcOn i = some (s.now + 1) ∧ t.adcQ = s.adcQ.filter (fun x => x.i != i.val))) ∧
      (turnsOff F.CNV_ADC_CTL_EN [F.CNV_ADC_CTL_PHASE] w.toNat i s →
        actsTo (.cnvAdcCtlEnWrite o i w) s [reg F.CNV_ADC_CTL_EN i, field F.CNV_ADC_STAT_VALID i] [(F.CNV_ADC_CTL_EN, i, 0), (F.CNV_ADC_STAT_VALID, i, 0)]
          (fun t => t.adcOn = tabDel s.adcOn i ∧ t.adcQ = s.adcQ.filter (fun x => x.i != i.val)))) ∧
    (mayWrite s o 9 → ∀ (d : Fin 16) (w : Word), s.on F.DMD_STAT_VALID d = false →
      (turnsOn F.DMD_CTL_EN [F.DMD_CTL_REF_PLAYER, F.DMD_CTL_IN_UNIT, F.DMD_CTL_REF_MODE, F.DMD_CTL_IN_KIND, F.DMD_CTL_K] w.toNat d s →
        (dmdCause false d s ≠ 0 →
          actsTo (.dmdCtlEnWrite o d w) s [reg F.DMD_CTL_EN d, reg F.DMD_STAT_VALID d]
            [(F.DMD_CTL_EN, d, 0), (F.DMD_STAT_CFG_BAD, d, 1), (F.DMD_STAT_ENCAUSE, d, dmdCause false d s)] (unitsKept dmdOf s)) ∧
        (dmdCause false d s = 0 →
          actsTo (.dmdCtlEnWrite o d w) s [reg F.DMD_CTL_EN d, reg F.DMD_STAT_VALID d]
            [(F.DMD_CTL_EN, d, 1), (F.DMD_STAT_CFG_BAD, d, 0), (F.DMD_STAT_ENCAUSE, d, 0), (F.DMD_STAT_VALID, d, 0)]
            (fun t => (dmdOf t d).outs = 0 ∧ ∀ u, u ≠ d.val → dmdOf t u = dmdOf s u))) ∧
      (turnsOff F.DMD_CTL_EN [F.DMD_CTL_REF_PLAYER, F.DMD_CTL_IN_UNIT, F.DMD_CTL_REF_MODE, F.DMD_CTL_IN_KIND, F.DMD_CTL_K] w.toNat d s →
        actsTo (.dmdCtlEnWrite o d w) s [reg F.DMD_CTL_EN d, reg F.DMD_STAT_VALID d]
          [(F.DMD_CTL_EN, d, 0), (F.DMD_STAT_VALID, d, 0), (F.DMD_STAT_SETTLING, d, 0), (F.DMD_STAT_REF_LOST, d, 0)]
          (fun t => (dmdOf t d).outs = 0 ∧ ∀ u, u ≠ d.val → dmdOf t u = dmdOf s u)))

/-- With the rest of the register as it is and no parity mismatch: EN := 1 of a capture unit, learning lane or queue with a cause of R166, R181 or R232 sets CFG_BAD and the lowest cause; without one it enables the unit: the capture claims its queue as writer and keeps its sequence and loss counts, the lane is READY, the queue is empty with its pointers at 0. EN := 0 closes the capture unit, takes a lane that is at work to CLOSING, and discards a queue without users; of a queue in use it is ignored and flagged. -/
def Obligations.CaptureEnables : Prop :=
  ∀ (s : State), powered s = true → ∀ (o : Fin 7),
    (mayWrite s o 10 → ∀ (u : Fin 32) (w : Word),
      (turnsOn F.CAP_CTL_EN [F.CAP_CTL_TAG_PLAYER, F.CAP_CTL_TAG, F.CAP_CTL_DEC_MODE, F.CAP_CTL_GATE, F.CAP_CTL_UNIT, F.CAP_CTL_KIND] w.toNat u s →
        (capCause false u s ≠ 0 →
          actsTo (.capCtlEnWrite o u w) s [reg F.CAP_CTL_EN u, reg F.CAP_STAT_DONE u]
            [(F.CAP_CTL_EN, u, 0), (F.CAP_STAT_CFG_BAD, u, 1), (F.CAP_STAT_ENCAUSE, u, capCause false u s)] (unitsKept capOf s)) ∧
        (capCause false u s = 0 → (capOf s u).closing = false →
          actsTo (.capCtlEnWrite o u w) s [reg F.CAP_CTL_EN u, reg F.CAP_STAT_DONE u, unitRegs F.BRN_CTL_EN (capQueue s u), reg F.HST_QPEND_PEND (capQueue s u / 32)]
            [(F.CAP_CTL_EN, u, 1), (F.CAP_STAT_CFG_BAD, u, 0), (F.CAP_STAT_ENCAUSE, u, 0), (F.CAP_STAT_DONE, u, 0), (F.CAP_STAT_OPEN, u, 0)]
            (fun t => unitTo capOf s t u { Cap.fresh with seq := (capOf s u).seq, lost := (capOf s u).lost, q := capQueue s u, sp := (capOf s u).sp } ∧ (quOf t (capQueue s u)).writer = some u.val))) ∧
      (turnsOff F.CAP_CTL_EN [F.CAP_CTL_TAG_PLAYER, F.CAP_CTL_TAG, F.CAP_CTL_DEC_MODE, F.CAP_CTL_GATE, F.CAP_CTL_UNIT, F.CAP_CTL_KIND] w.toNat u s →
        (∃ t, exec (.capCtlEnWrite o u w) s = .next t ∧ t.rd F.CAP_CTL_EN u = 0 ∧ t.rd F.CAP_STAT_OPEN u = 0 ∧ (capOf t u).isOpen = false ∧
          (capOf t u).closing = true ∧ ∀ v, v ≠ u.val → capOf t v = capOf s v) ∧
        ((capOf s u).isOpen = false →
          actsTo (.capCtlEnWrite o u w) s [reg F.CAP_CTL_EN u, reg F.CAP_STAT_DONE u] [(F.CAP_CTL_EN, u, 0), (F.CAP_STAT_OPEN, u, 0)]
            (fun t => unitTo capOf s t u { capOf s u with pend := [], n := 0, sums := [], tag := none, gate := false, closing := true })))) ∧
    (mayWrite s o 14 → ∀ (l : Fin 8) (w : Word),
      (turnsOn F.REF_CTL_EN [F.REF_CTL_PAIR, F.REF_CTL_PLAYER, F.REF_CTL_WD_POL, F.REF_CTL_LIM_POL, F.REF_CTL_CYCLIC, F.REF_CTL_WORD] w.toNat l s →
        (laneCause false l s ≠ 0 →
          actsTo (.refCtlEnWrite o l w) s [reg F.REF_CTL_EN l, reg F.REF_STAT_STATE l]
            [(F.REF_CTL_EN, l, 0), (F.REF_STAT_CFG_BAD, l, 1), (F.REF_STAT_ENCAUSE, l, laneCause false l s)] (unitsKept laneOf s)) ∧
        (laneCause false l s = 0 →
          actsTo (.refCtlEnWrite o l w) s [reg F.REF_CTL_EN l, reg F.REF_STAT_STATE l]
            [(F.REF_CTL_EN, l, 1), (F.REF_STAT_CFG_BAD, l, 0), (F.REF_STAT_ENCAUSE, l, 0), (F.REF_STAT_RISE, l, 0), (F.REF_STAT_FRZ_PEND, l, 0),
              (F.REF_STAT_STATE, l, lsReady)] (fun t => unitTo laneOf s t l Lane.fresh))) ∧
      (turnsOff F.REF_CTL_EN [F.REF_CTL_PAIR, F.REF_CTL_PLAYER, F.REF_CTL_WD_POL, F.REF_CTL_LIM_POL, F.REF_CTL_CYCLIC, F.REF_CTL_WORD] w.toNat l s →
        laneSt s l ≠ lsOff → laneSt s l ≠ lsSafe → laneSt s l ≠ lsClosing →
        actsTo (.refCtlEnWrite o l w) s [reg F.REF_CTL_EN l, reg F.REF_STAT_STATE l]
          [(F.REF_CTL_EN, l, 0), (F.REF_STAT_STATE, l, lsClosing), (F.REF_STAT_FRZ_PEND, l, 0), (F.REF_STAT_PASS, l, 1)]
          (fun t => (laneOf t l).passes = [1] ∧ (laneOf t l).words = [] ∧ (laneOf t l).freeze = 0 ∧ ∀ k, k ≠ l.val → laneOf t k = laneOf s k))) ∧
    (mayWrite s o 4 → ∀ (q : Fin 128) (w : Word),
      (turnsOn F.BRN_CTL_EN [F.BRN_CTL_B, F.BRN_CTL_A, F.BRN_CTL_WR_SIDE, F.BRN_CTL_DEEP] w.toNat q s →
        (qCause false q s ≠ 0 →
          actsTo (.brnCtlEnWrite o q w) s [reg F.BRN_CTL_EN q, reg F.BRN_STAT_EMPTY q]
            [(F.BRN_CTL_EN, q, 0), (F.BRN_STAT_CFG_BAD, q, 1), (F.BRN_STAT_ENCAUSE, q, qCause false q s)] (unitsKept quOf s)) ∧
        (qCause false q s = 0 →
          actsTo (.brnCtlEnWrite o q w) s [unitRegs F.BRN_CTL_EN q, reg F.HST_QPEND_PEND (q / 32)]
            [(F.BRN_CTL_EN, q, 1), (F.BRN_STAT_CFG_BAD, q, 0), (F.BRN_STAT_ENCAUSE, q, 0), (F.BRN_WP_PTR, q, 0), (F.BRN_CP_PTR, q, 0), (F.BRN_RP_PTR, q, 0),
              (F.BRN_IPTR_ICP, q, 0), (F.BRN_IPTR_IRP, q, 0)] (fun t => (quOf t q).m = 0 ∧ (quOf t q).writer = none ∧ (quOf t q).reader = none ∧ ∀ v, v ≠ q.val → quOf t v = quOf s v))) ∧
      (turnsOff F.BRN_CTL_EN [F.BRN_CTL_B, F.BRN_CTL_A, F.BRN_CTL_WR_SIDE, F.BRN_CTL_DEEP] w.toNat q s →
        ((quOf s q).writer = none → (quOf s q).reader = none →
          actsTo (.brnCtlEnWrite o q w) s [unitRegs F.BRN_CTL_EN q, reg F.HST_QPEND_PEND (q / 32)]
            [(F.BRN_CTL_EN, q, 0), (F.BRN_WP_PTR, q, 0), (F.BRN_CP_PTR, q, 0), (F.BRN_RP_PTR, q, 0), (F.BRN_IPTR_ICP, q, 0), (F.BRN_IPTR_IRP, q, 0)]
            (fun t => ∀ v, v ≠ q.val → quOf t v = quOf s v)) ∧
        ((quOf s q).writer.isSome = true ∨ (quOf s q).reader.isSome = true →
          actsTo (.brnCtlEnWrite o q w) s [reg F.BRN_CTL_EN q] [(F.BRN_CTL_EN, q, 1), (F.GLB_REG_ERR_CAUSE, 0, cCfgEnabled)] (unitsKept quOf s))))

/-- With the rest of the register as it is and no parity mismatch: an in-lane with a cause of R266 is refused with it, another starts acquiring, and an enabled one without users is OFF; the Rake block with role AUTO, enabled with no rail on a chain source, marks every chain rail lost; disabled with its ports down and no reference through it, it has no role; a port takes its enable, and one that is not JOINED is down with it. -/
def Obligations.LaneEnables : Prop :=
  ∀ (s : State), powered s = true → ∀ (o : Fin 7),
    (mayWrite s o 11 → ∀ (n : Fin 8) (w : Word),
      (turnsOn F.FLM_IL_CTL_EN [F.FLM_IL_CTL_COMP, F.FLM_IL_CTL_RATE] w.toNat n s →
        (ilCause false n s ≠ 0 →
          actsTo (.flmIlCtlEnWrite o n w) s [reg F.FLM_IL_CTL_EN n, reg F.FLM_IL_STAT_STATE n]
            [(F.FLM_IL_CTL_EN, n, 0), (F.FLM_IL_STAT_CFG_BAD, n, 1), (F.FLM_IL_STAT_ENCAUSE, n, ilCause false n s)] (unitsKept ilOf s)) ∧
        (ilCause false n s = 0 → (∀ d : Fin 16, s.on F.DMD_CTL_EN d = true → ¬ (s.rd F.DMD_CTL_IN_KIND d = 1 ∧ s.rd F.DMD_CTL_IN_UNIT d / 16 = n.val)) →
          actsTo (.flmIlCtlEnWrite o n w) s [reg F.FLM_IL_CTL_EN n, reg F.FLM_IL_STAT_STATE n]
            [(F.FLM_IL_CTL_EN, n, 1), (F.FLM_IL_STAT_CFG_BAD, n, 0), (F.FLM_IL_STAT_ENCAUSE, n, 0), (F.FLM_IL_STAT_DRIFT, n, 0),
              (F.FLM_IL_STAT_LOOPING, n, 0), (F.FLM_IL_STAT_STATE, n, ilAcquire)] (fun t => unitTo ilOf s t n ILane.fresh))) ∧
      (turnsOff F.FLM_IL_CTL_EN [F.FLM_IL_CTL_COMP, F.FLM_IL_CTL_RATE] w.toNat n s →
        (ilUsed s n = false →
          actsTo (.flmIlCtlEnWrite o n w) s [reg F.FLM_IL_CTL_EN n, reg F.FLM_IL_STAT_STATE n] [(F.FLM_IL_CTL_EN, n, 0), (F.FLM_IL_STAT_STATE, n, ilOff)]
            (fun t => unitTo ilOf s t n ILane.fresh)) ∧
        (ilUsed s n = true →
          actsTo (.flmIlCtlEnWrite o n w) s [reg F.FLM_IL_CTL_EN n] [(F.FLM_IL_CTL_EN, n, 1), (F.GLB_REG_ERR_CAUSE, 0, cCfgEnabled)] (unitsKept ilOf s)))) ∧
    (mayWrite s o 12 →
      (∀ w : Word, s.rd F.RAKE_CTL_FENCE 0 = F.RAKE_CTL_FENCE.part w.toNat → 1 ≤ F.RAKE_CTL_FENCE.part w.toNat → F.RAKE_CTL_FENCE.part w.toNat ≤ 64 →
        (turnsOn F.RAKE_CTL_EN [F.RAKE_CTL_ROLE, F.RAKE_CTL_AUTO_ENUM] w.toNat 0 s → s.rd F.RAKE_CTL_ROLE 0 = 0 →
          (∀ p : Fin 64, s.on F.RSRC_CTL_EN p = true → railSrc s p ≠ 3) →
          actsTo (.rakeCtlEnWrite o w) s [reg F.RAKE_CTL_EN 0, (64 * 0x500000, 64 * 0x500800)] [(F.RAKE_CTL_EN, 0, 1)]
            (fun t => (∀ i : Fin 16, t.rd F.RAKE_RSTAT_LOST i = 1 ∧ (chRailOf t i).seen = false) ∧ t.rake.enabledAt = s.now + 1 ∧ t.rake.acts = [] ∧ t.rake.updates = []))) ∧
      (∀ (n : Fin 4) (w : Word),
        (turnsOn F.RAKE_P_CTL_EN [F.RAKE_P_CTL_SWING] w.toNat n s →
          actsTo (.rakePCtlEnWrite o n w) s [reg F.RAKE_P_CTL_EN n] [(F.RAKE_P_CTL_EN, n, 1)] (unitsKept portOf s)) ∧
        (turnsOff F.RAKE_P_CTL_EN [F.RAKE_P_CTL_SWING] w.toNat n s → rkSt s n ≠ rkJoined →
          actsTo (.rakePCtlEnWrite o n w) s [reg F.RAKE_P_CTL_EN n, reg F.RAKE_P_STAT_STATE n]
            [(F.RAKE_P_CTL_EN, n, 0), (F.RAKE_P_STAT_STATE, n, rkDown), (F.RAKE_P_STAT_ICAUSE, n, 0)]
            (fun t => unitTo portOf s t n { RkPort.fresh with losses := (portOf s n).losses, lastTx := (portOf s n).lastTx }))))

/-- With the rest of the register as it is and no other parity mismatch than the one that cause 2 names: a write of 1 to FLM_OL_CTL(n).EN of a disabled lane is refused with cause 1 where RATE is 3, else with cause 2 where a FLM_OL_ mismatch of the lane is detected or CLOSING has not finished, and otherwise enables it; a write of 0 is ignored and flagged CFG_ENABLED where a channel that is ON or ramping has the lane as its destination or an enabled in-lane names it as its companion, and otherwise the lane goes to CLOSING. -/
def Obligations.OutLaneEnable : Prop :=
  ∀ (s : State), powered s = true → ∀ (o : Fin 7), mayWrite s o 11 → ∀ (n : Fin 16) (w : Word),
    (turnsOn F.FLM_OL_CTL_EN [F.FLM_OL_CTL_TRAIN_SF, F.FLM_OL_CTL_ORDER, F.FLM_OL_CTL_MARK_EN, F.FLM_OL_CTL_MPLAYER, F.FLM_OL_CTL_RATE] w.toNat n s →
      (s.rd F.FLM_OL_CTL_RATE n = 3 →
        acts (.flmOlCtlEnWrite o n w) s [reg F.FLM_OL_CTL_EN n, reg F.FLM_OL_STAT_STATE n]
          [(F.FLM_OL_CTL_EN, n, 0), (F.FLM_OL_STAT_CFG_BAD, n, 1), (F.FLM_OL_STAT_ENCAUSE, n, 1)]) ∧
      (s.rd F.FLM_OL_CTL_RATE n ≠ 3 → olSt s n = olClosing →
        acts (.flmOlCtlEnWrite o n w) s [reg F.FLM_OL_CTL_EN n, reg F.FLM_OL_STAT_STATE n]
          [(F.FLM_OL_CTL_EN, n, 0), (F.FLM_OL_STAT_CFG_BAD, n, 1), (F.FLM_OL_STAT_ENCAUSE, n, 2)]) ∧
      (s.rd F.FLM_OL_CTL_RATE n ≠ 3 → olSt s n ≠ olClosing →
        actsTo (.flmOlCtlEnWrite o n w) s [reg F.FLM_OL_CTL_EN n, reg F.FLM_OL_STAT_STATE n]
          [(F.FLM_OL_CTL_EN, n, 1), (F.FLM_OL_STAT_CFG_BAD, n, 0), (F.FLM_OL_STAT_ENCAUSE, n, 0), (F.FLM_OL_STAT_HCAUSE, n, 0), (F.FLM_OL_STAT_STATE, n, olTrain)]
          (fun t => (olOf t n).sf = 0 ∧ ∀ k, k ≠ n.val → olOf t k = olOf s k))) ∧
    (turnsOff F.FLM_OL_CTL_EN [F.FLM_OL_CTL_TRAIN_SF, F.FLM_OL_CTL_ORDER, F.FLM_OL_CTL_MARK_EN, F.FLM_OL_CTL_MPLAYER, F.FLM_OL_CTL_RATE] w.toNat n s →
      ((∃ c : Fin 256, chnHolds s c = true ∧ (dKind (chnOf s c).dest = 1 ∨ dKind (chnOf s c).dest = 4) ∧ dUnit (chnOf s c).dest = n.val) ∨
          (∃ i : Fin 8, s.on F.FLM_IL_CTL_EN i = true ∧ s.rd F.FLM_IL_CTL_COMP i = n.val) →
        acts (.flmOlCtlEnWrite o n w) s [reg F.FLM_OL_CTL_EN n] [(F.FLM_OL_CTL_EN, n, 1)] ∧
        (16 ≤ s.rd F.FLM_OL_CTL_TRAIN_SF n →
          acts (.flmOlCtlEnWrite o n w) s [reg F.FLM_OL_CTL_EN n] [(F.FLM_OL_CTL_EN, n, 1), (F.GLB_REG_ERR_CAUSE, 0, cCfgEnabled)])) ∧
      (olUsed s n = false → (∀ i : Fin 8, ¬ (s.on F.FLM_IL_CTL_EN i = true ∧ s.rd F.FLM_IL_CTL_COMP i = n.val)) →
        actsTo (.flmOlCtlEnWrite o n w) s [reg F.FLM_OL_CTL_EN n, reg F.FLM_OL_STAT_STATE n] [(F.FLM_OL_CTL_EN, n, 0), (F.FLM_OL_STAT_STATE, n, olClosing)]
          (fun t => unitTo olOf s t n { olOf s n with sf := 0, whole := false, holds := 0 })))

/-- SCRUB_NOW starts a patrol pass at address 0; FLUSH of a queue with nothing held and no open capture packet empties it; DROP of an empty queue does nothing, of a queue whose oldest loose packet lies behind a held one takes it out of sight, and of one whose head is loose passes the head; LVL and NOTE_ACK take their values, and PENDING follows the counts; PAN_OWN asks for a handover, is flagged where the present owner refuses, and does nothing where the owner is the same; SLEEP puts the selected pans to sleep and wakes the others; HST_BAR2_BASE takes its value. -/
def Obligations.MemoryCommands : Prop :=
  ∀ (s : State), powered s = true → ∀ (o : Fin 7),
    (mayCommand s o 2 → actsTo (.carCmdScrubNow o) s [] [] (fun t => t.car = { s.car with scrub := some 0, scrubAt := s.now })) ∧
    (mayCommand s o 4 → ∀ q : Fin 128,
      ((quOf s q).held = false → (quOf s q).writer = none →
        actsTo (.brnCmdFlush o q) s [unitRegs F.BRN_CTL_EN q, reg F.HST_QPEND_PEND (q / 32)]
          [(F.BRN_WP_PTR, q, 0), (F.BRN_CP_PTR, q, 0), (F.BRN_RP_PTR, q, 0), (F.BRN_IPTR_ICP, q, 0), (F.BRN_IPTR_IRP, q, 0)]
          (fun t => unitTo quOf s t q { quOf s q with opened := false, words := 0, ring := none, dropped := [], decided := false, m := 0 })) ∧
      ((qVisible s q).drop (b2n (quOf s q).held) = [] → actsTo (.brnCmdDrop o q) s [] [] (unitsKept quOf s)) ∧
      (∀ i l, (qVisible s q).drop (b2n (quOf s q).held) = i :: l →
        (i ≠ s.rd F.BRN_IPTR_IRP q →
          actsTo (.brnCmdDrop o q) s [unitRegs F.BRN_CTL_EN q, reg F.HST_QPEND_PEND (q / 32)] [(F.BRN_RP_PTR, q, s.rd F.BRN_RP_PTR q)]
            (fun t => unitTo quOf s t q { quOf s q with dropped := (quOf s q).dropped ++ [i], decided := false })) ∧
        (i = s.rd F.BRN_IPTR_IRP q → (quOf s q).dropped = [] → qAvail s q ≠ 0 →
          actsTo (.brnCmdDrop o q) s [unitRegs F.BRN_CTL_EN q, reg F.HST_QPEND_PEND (q / 32)]
            [(F.BRN_RP_PTR, q, (s.rd F.BRN_RP_PTR q + qLen s q i) % qMod s q % 2 ^ F.BRN_RP_PTR.width), (F.BRN_IPTR_IRP, q, (i + 1) % qIMod s q % 2 ^ F.BRN_IPTR_IRP.width)]
            (fun t => unitTo quOf s t q { quOf s q with decided := false }))) ∧
      (mayWrite s o 4 → ∀ w : Word,
        actsTo (.brnLvlWrite o q w) s [unitRegs F.BRN_CTL_EN q, reg F.HST_QPEND_PEND (q / 32)]
          [(F.BRN_LVL_SENSE, q, F.BRN_LVL_SENSE.part w.toNat), (F.BRN_LVL_LEVEL, q, F.BRN_LVL_LEVEL.part w.toNat), (F.BRN_NOTE_XCNT, q, s.rd F.BRN_NOTE_XCNT q)]
          (unitsKept quOf s) ∧
        actsTo (.brnNoteAckWrite o q w) s [reg F.BRN_NOTE_ACK q, field F.BRN_STAT_PENDING q, reg F.HST_QPEND_PEND (q / 32)]
          [(F.BRN_NOTE_ACK, q, F.BRN_NOTE_ACK.part w.toNat), (F.BRN_NOTE_XCNT, q, s.rd F.BRN_NOTE_XCNT q),
            (F.BRN_STAT_PENDING, q, b2n (s.rd F.BRN_NOTE_XCNT q != F.BRN_NOTE_ACK.part w.toNat))]
          (unitsKept quOf s))) ∧
    (mayWrite s o 3 →
      (∀ (k : Fin 16) (w : Word), (∀ e, s.panX.slice = some e → e.1 ≠ k.val) → F.PAN_OWN_OWNER.part w.toNat ≤ 8 →
        (k.val < 14 ∨ F.PAN_OWN_B_OWNER.part w.toNat = s.rd F.PAN_OWN_B_OWNER k) →
        (F.PAN_OWN_OWNER.part w.toNat = panOwner s k → actsTo (.panOwnWrite o k w) s [] [] (fun t => t.panX = s.panX)) ∧
        (F.PAN_OWN_OWNER.part w.toNat ≠ panOwner s k →
          (handRefuse s o k (panOwner s k) = 0 →
            actsTo (.panOwnWrite o k w) s [field F.PAN_STAT_HANDOVER k] [(F.PAN_STAT_HANDOVER, k, 1), (F.PAN_OWN_OWNER, k, panOwner s k)]
              (fun t => t.panX.hand = s.panX.hand.filter (fun e => !(e.1 == k.val && e.2.1 == false)) ++ [(k.val, false, F.PAN_OWN_OWNER.part w.toNat)])) ∧
          (handRefuse s o k (panOwner s k) ≠ 0 →
            actsTo (.panOwnWrite o k w) s [] [(F.GLB_REG_ERR_CAUSE, 0, handRefuse s o k (panOwner s k)), (F.PAN_OWN_OWNER, k, panOwner s k)]
              (fun t => t.panX = s.panX)))) ∧
      (∀ w : Word, asIs [F.PAN_RET_RET] w.toNat 0 s →
        actsTo (.panRetSleepWrite o w) s (reg F.PAN_RET_SLEEP 0 :: (List.range 16).map (fun k => reg F.PAN_STAT_ASLEEP k))
          [(F.PAN_RET_SLEEP, 0, F.PAN_RET_SLEEP.part w.toNat)]
          (fun t => ∀ k : Fin 16,
            t.rd F.PAN_STAT_ASLEEP k = (if bitOf (F.PAN_RET_SLEEP.part w.toNat) k && !s.on F.PAN_STAT_WAKING k then 1 else s.rd F.PAN_STAT_ASLEEP k) ∧
              t.rd F.PAN_STAT_WAKING k = (if !bitOf (F.PAN_RET_SLEEP.part w.toNat) k && s.on F.PAN_STAT_ASLEEP k then 1 else s.rd F.PAN_STAT_WAKING k)))) ∧
    (mayWrite s o 13 → ∀ v : BitVec 64, acts (.hstBar2BaseWrite o v) s [reg F.HST_BAR2_BASE_BASE 0] [(F.HST_BAR2_BASE_BASE, 0, F.HST_BAR2_BASE_BASE.part v.toNat)])

/-- REMEASURE of a running in-lane without demodulators takes it to MEASURE, of another does nothing; a write of FENCE on a root or an island head is left pending 128 superframes on, elsewhere it only takes the value, and while one is pending it is flagged; ENUM and ENUM_FULL mark an enumeration, CT_LOAD a load, on a root, and are flagged elsewhere; PULSE is flagged on a module that is neither root nor island head, and on a root without joined ports its pair is known and waits to act, as a raised event is. -/
def Obligations.TreeCommands : Prop :=
  ∀ (s : State), powered s = true → ∀ (o : Fin 7),
    (mayCommand s o 11 → ∀ n : Fin 8,
      (ilSt s n = ilRun → (∀ d : Fin 16, s.on F.DMD_CTL_EN d = true → ¬ (s.rd F.DMD_CTL_IN_KIND d = 1 ∧ s.rd F.DMD_CTL_IN_UNIT d / 16 = n.val)) →
        actsTo (.flmIlCmdRemeasure o n) s [field F.FLM_IL_STAT_STATE n] [(F.FLM_IL_STAT_STATE, n, ilMeasure)] (fun t => unitTo ilOf s t n { ilOf s n with rts := [] })) ∧
      (ilSt s n ≠ ilRun → actsTo (.flmIlCmdRemeasure o n) s [] [] (unitsKept ilOf s))) ∧
    (mayCommand s o 12 →
      (mayWrite s o 12 → ∀ w : Word, 1 ≤ F.RAKE_CTL_FENCE.part w.toNat → F.RAKE_CTL_FENCE.part w.toNat ≤ 64 → s.on F.RAKE_CTL_EN 0 = true →
        asIs [F.RAKE_CTL_EN, F.RAKE_CTL_ROLE, F.RAKE_CTL_AUTO_ENUM] w.toNat 0 s →
        (s.rake.fencePend = none → (role s = 1 ∨ role s = 3) →
          actsTo (.rakeCtlFenceWrite o w) s [field F.RAKE_CTL_FENCE 0, field F.RAKE_STAT_FENCE_PEND 0]
            [(F.RAKE_CTL_FENCE, 0, F.RAKE_CTL_FENCE.part w.toNat), (F.RAKE_STAT_FENCE_PEND, 0, 1)]
            (fun t => t.rake = { s.rake with fencePend := some ((ctNow s + 1) / 160 + 128, F.RAKE_CTL_FENCE.part w.toNat) })) ∧
        (s.rake.fencePend = none → role s ≠ 1 → role s ≠ 3 →
          actsTo (.rakeCtlFenceWrite o w) s [field F.RAKE_CTL_FENCE 0] [(F.RAKE_CTL_FENCE, 0, F.RAKE_CTL_FENCE.part w.toNat)] (fun t => t.rake = s.rake)) ∧
        (s.rake.fencePend.isSome = true → s.rd F.RAKE_CTL_ROLE 0 ≤ 2 →
          actsTo (.rakeCtlFenceWrite o w) s [] [(F.RAKE_CTL_FENCE, 0, s.rd F.RAKE_CTL_FENCE 0), (F.GLB_REG_ERR_CAUSE, 0, cCfgEnabled)] (fun t => t.rake = s.rake))) ∧
      (role s = 1 →
        actsTo (.rakeCmdEnum o) s [field F.RAKE_STAT_ENUM_BUSY 0] [(F.RAKE_STAT_ENUM_BUSY, 0, 1)] (fun t => t.rake = { s.rake with change := none }) ∧
        actsTo (.rakeCmdEnumFull o) s [field F.RAKE_STAT_ENUM_BUSY 0] [(F.RAKE_STAT_ENUM_BUSY, 0, 1)] (fun t => t.rake = { s.rake with enumFull := true, change := none }) ∧
        actsTo (.rakeCmdCtLoad o) s [] [] (fun t => t.rake = { s.rake with ctLoad := true })) ∧
      (role s ≠ 1 → ∀ i ∈ [Instr.rakeCmdEnum o, .rakeCmdEnumFull o, .rakeCmdCtLoad o], flaggedOnly i s cCfgEnabled o (F.RAKE_CMD_ENUM.addr 0)) ∧
      (role s ≠ 1 → role s ≠ 3 → flaggedOnly (.rakeCmdPulse o) s cCfgEnabled o (F.RAKE_CMD_PULSE.addr 0)) ∧
      (role s = 1 → s.on F.RAKE_CTL_EN 0 = true → (∀ n : Fin 4, rkSt s n ≠ rkJoined) →
        let t0 := ctNow s + 1 - (ctNow s + 1) % 16
        s.rake.known = [] → t0 + fenceAt s t0 ≥ ctNow s →
          actsTo (.rakeCmdPulse o) s [] [] (fun t => t.rake.acts = s.rake.acts ++ [(true, 0, max (t0 + fenceAt s t0) (ctNow s + 1))] ∧ t.rake.known = [(true, 0, t0)]) ∧
          ∀ i : Fin 64, actsTo (.rakeEvRaiseWrite o (BitVec.ofNat 64 (2 ^ i.val))) s [] []
            (fun t => t.rake.acts = s.rake.acts ++ [(false, i.val, max (t0 + fenceAt s t0) (ctNow s + 1))] ∧ t.rake.known = [(false, i.val, t0)])))

/-- A write of CLK_REF with the present SEL and POLICY changes nothing there; with another POLICY, while no offset waits or the policy is not SLEW, it takes the policy; with another SEL it takes the selection, counts a loss, and the tick runs from the standby PLL; a first write of 1 to a lock register sets it and leaves a boot record to be stored, a later one is flagged; an erase is posted in SERVICE and flagged elsewhere; LOG_EV_RD and LOG_EV_NOTE_ACK take their values; AUD_FLUSH shows FLUSHING while entries wait; GLB_MODE_REQ, admitted, enters SAFE at once and leaves another mode to its tick, and without class 0 is flagged and denied. -/
def Obligations.ClockLogCommands : Prop :=
  ∀ (s : State), powered s = true → ∀ (o : Fin 7),
    (mayWrite s o 1 → ∀ w : Word, F.CLK_REF_POLICY.part w.toNat ≤ 2 →
      asIs [F.CLK_REF_SLEW_PPM, F.CLK_REF_REFOUT_EN, F.CLK_REF_TERM, F.CLK_REF_FREQ] w.toNat 0 s →
      (F.CLK_REF_SEL.part w.toNat = s.rd F.CLK_REF_SEL 0 → (s.clk.wait = none ∨ F.CLK_REF_POLICY.part w.toNat ≠ 0) →
        actsTo (.clkRefPolicyWrite o w) s [reg F.CLK_REF_SEL 0, (64 * 0x10100, 64 * 0x10150)]
          [(F.CLK_REF_POLICY, 0, F.CLK_REF_POLICY.part w.toNat), (F.CLK_REF_SEL, 0, s.rd F.CLK_REF_SEL 0)] (fun t => t.clk = s.clk)) ∧
      (F.CLK_REF_SEL.part w.toNat ≠ s.rd F.CLK_REF_SEL 0 → F.CLK_REF_POLICY.part w.toNat = s.rd F.CLK_REF_POLICY 0 → s.clk.wait = none →
        (s.on F.CLK_STAT_ON_STANDBY 0 = true → mode s = mdCoast →
          actsTo (.clkRefSelWrite o w) s [(64 * 0x10000, 64 * 0x10200)]
            [(F.CLK_REF_SEL, 0, F.CLK_REF_SEL.part w.toNat), (F.CLK_STAT_SPLL_LOCK, 0, 0), (F.CLK_STAT_ON_STANDBY, 0, 1),
              (F.CLK_EVT_LOSSES, 0, min (s.rd F.CLK_EVT_LOSSES 0 + 1) (2 ^ F.CLK_EVT_LOSSES.width - 1)), (F.GLB_MODE_MODE, 0, mdCoast)]
            (fun t => t.clk.relation = false ∧ t.clk.walk = none ∧ t.rake.islandO = none)) ∧
        (s.on F.CLK_STAT_ON_STANDBY 0 = false → (mode s = mdSetup ∨ mode s = mdArmed ∨ mode s = mdRun) →
          actsTo (.clkRefSelWrite o w) s [(64 * 0x10000, 64 * 0x10200), (64 * 0x400000, 64 * 0x401000)]
            [(F.CLK_REF_SEL, 0, F.CLK_REF_SEL.part w.toNat), (F.CLK_STAT_SPLL_LOCK, 0, 0), (F.CLK_STAT_ON_STANDBY, 0, 1), (F.CLK_STAT_ACT, 0, 2),
              (F.CLK_EVT_LOSSES, 0, min (s.rd F.CLK_EVT_LOSSES 0 + 1) (2 ^ F.CLK_EVT_LOSSES.width - 1)), (F.GLB_MODE_MODE, 0, mdCoast), (F.GLB_MODE_PREV, 0, mode s)]
            (fun t => t.clk.relation = false ∧ t.clk.flumeMove = true)))) ∧
    (mayWrite s o 15 →
      (wo1Done s F.NVM_BOOT_LOCK_LOCK 0 = false → s.on F.NVM_BOOT_LOCK_LOCK 0 = false →
        actsTo (.nvmBootLockWrite o) s [(64 * 0x800800, 64 * 0x801000)] [(F.NVM_BOOT_LOCK_LOCK, 0, 1)]
          (fun t => t.nvm.ops = s.nvm.ops ++ [.boot none (bootRec s).1 true (bootRec s).2.2] ∧
            (s.nvm.ops = [] → s.on F.PWR_STAT_PF 0 = false → t.rd F.NVM_STAT_BUSY 0 = 1))) ∧
      (wo1Done s F.NVM_CAL_LOCK_LOCK 0 = false → s.on F.NVM_CAL_LOCK_LOCK 0 = false →
        actsTo (.nvmCalLockWrite o) s [(64 * 0x800800, 64 * 0x801000)] [(F.NVM_CAL_LOCK_LOCK, 0, 1)]
          (fun t => t.nvm.ops = s.nvm.ops ++ [.boot none (bootRec s).1 (bootRec s).2.1 true] ∧
            (s.nvm.ops = [] → s.on F.PWR_STAT_PF 0 = false → t.rd F.NVM_STAT_BUSY 0 = 1))) ∧
      (wo1Done s F.NVM_BOOT_LOCK_LOCK 0 = true → flaggedOnly (.nvmBootLockWrite o) s cWo1Rewrite o (F.NVM_BOOT_LOCK_LOCK.addr 0)) ∧
      (wo1Done s F.NVM_CAL_LOCK_LOCK 0 = true → flaggedOnly (.nvmCalLockWrite o) s cWo1Rewrite o (F.NVM_CAL_LOCK_LOCK.addr 0)) ∧
      (∀ r : BitVec 2, s.on F.NVM_PBUSY_BUSY 0 = false → mode s = mdService →
        actsTo (.nvmEraseGo o r) s [field F.NVM_PBUSY_BUSY 0] [(F.NVM_PBUSY_BUSY, 0, 1)]
          (fun t => t.nvm = { s.nvm with posted := s.nvm.posted ++ [(F.NVM_ERASE_GO.addr 0, r.toNat + 256)] })) ∧
      (∀ r : BitVec 2, s.on F.NVM_PBUSY_BUSY 0 = false → mode s ≠ mdService →
        actsTo (.nvmEraseGo o r) s [field F.NVM_PBUSY_BUSY 0] [(F.GLB_REG_ERR_CAUSE, 0, cCfgEnabled)]
          (fun t => t.nvm = { s.nvm with posted := s.nvm.posted ++ [(F.NVM_ERASE_GO.addr 0, r.toNat)] }))) ∧
    (mayWrite s o 16 →
      (∀ w : Word,
        acts (.logEvRdWrite o w) s [] [(F.LOG_EV_RD_RECNO, 0, w.toNat), (F.LOG_EV_WR_RECNO, 0, s.rd F.LOG_EV_WR_RECNO 0), (F.LOG_EV_NOTE_XCNT, 0, s.rd F.LOG_EV_NOTE_XCNT 0)] ∧
        acts (.logEvNoteAckWrite o w) s [] [(F.LOG_EV_NOTE_ACK, 0, F.LOG_EV_NOTE_ACK.part w.toNat),
          (F.LOG_EV_STAT_PENDING, 0, b2n (s.rd F.LOG_EV_NOTE_XCNT 0 != F.LOG_EV_NOTE_ACK.part w.toNat))]) ∧
      acts (.logCmdAudFlush o) s [] [(F.LOG_AUD_STAT_FLUSHING, 0, b2n (s.rd F.LOG_AUD_SEQ_AUDSEQ 0 != s.rd F.LOG_AUD_NVM_AUDSEQ 0)),
        (F.LOG_AUD_STAT_BACKLOG, 0, b2n (s.rd F.LOG_AUD_SEQ_AUDSEQ 0 != s.rd F.LOG_AUD_NVM_AUDSEQ 0))]) ∧
    (mayWrite s o 0 → ∀ w : Word, s.rd F.GLB_MODE_REQ_DEPTH 0 = F.GLB_MODE_REQ_DEPTH.part w.toNat →
      let target := F.GLB_MODE_REQ_TARGET.part w.toNat
      let depth := F.GLB_MODE_REQ_DEPTH.part w.toNat
      target ≤ 11 →
      (permCmd s o 0 = true → requestResult s.coming target depth = 0 →
        (target ≠ mdSafe → (target ≠ mode s ∨ s.asks ≠ []) →
          actsTo (.glbModeReqWrite o w) s [] [(F.GLB_MODE_REQ_RESULT, 0, 0), (F.GLB_MODE_MODE, 0, mode s)]
            (fun t => t.asks = s.asks ++ [⟨target, depth, none⟩])) ∧
        (target = mode s → s.asks = [] →
          actsTo (.glbModeReqWrite o w) s [] [(F.GLB_MODE_REQ_RESULT, 0, 0), (F.GLB_MODE_MODE, 0, mode s)] (fun t => t.asks = [])) ∧
        (target = mdSafe → mode s ≠ mdSafe →
          ∃ t, exec (.glbModeReqWrite o w) s = .next t ∧ t.rd F.GLB_MODE_REQ_RESULT 0 = 0 ∧ mode t = mdSafe)) ∧
      (permCmd s o 0 = false →
        acts (.glbModeReqWrite o w) s [] [(F.GLB_MODE_REQ_RESULT, 0, 3), (F.GLB_MODE_MODE, 0, mode s), (F.GLB_REG_ERR_CAUSE, 0, cDenied)]))

/-- With the rest of the register as it is: a submission ring that is enabled starts empty, stalled with its reply ring or running; a reply ring with nothing waiting starts at tail 0; a transfer ring starts at head 0; a disabled ring is OFF with nothing at hand; a doorbell of a disabled ring is ignored; a tail too far ahead stops the ring in ERROR with cause 3; a tail of a stalled submission ring keeps the words shown; a transfer tail at the head does nothing but take the value; a reply head, nothing waiting, is taken. -/
def Obligations.RingCommands : Prop :=
  ∀ (s : State), powered s = true → ∀ (o : Fin 7), mayWrite s o 13 →
    (∀ (i : Fin 32) (w : Word),
      (turnsOn F.HST_SQ_CTL_EN [F.HST_SQ_CTL_RQ, F.HST_SQ_CTL_SIZE] w.toNat i s →
        actsTo (.hstSqCtlEnWrite o i w) s [unitRegs F.HST_SQ_CTL_EN i, reg F.HST_SQ_DB_TAIL i]
          [(F.HST_SQ_CTL_EN, i, 1), (F.HST_SQ_HEAD_V, i, 0), (F.HST_SQ_DB_TAIL, i, 0),
            (F.HST_SQ_STAT_STATE, i, if s.rd F.HST_RQ_STAT_STATE (rqOf s i) = 2 ∨ s.rd F.HST_RQ_STAT_STATE (rqOf s i) = 3 then 2 else 1)]
          (fun t => sqBuf t i = [] ∧ ∀ k, k ≠ i.val → sqBuf t k = sqBuf s k)) ∧
      (turnsOff F.HST_SQ_CTL_EN [F.HST_SQ_CTL_RQ, F.HST_SQ_CTL_SIZE] w.toNat i s →
        actsTo (.hstSqCtlEnWrite o i w) s [unitRegs F.HST_SQ_CTL_EN i] [(F.HST_SQ_CTL_EN, i, 0), (F.HST_SQ_STAT_STATE, i, 0)]
          (fun t => sqBuf t i = [] ∧ ∀ k, k ≠ i.val → sqBuf t k = sqBuf s k)) ∧
      (turnsOn F.HST_RQ_CTL_EN [F.HST_RQ_CTL_VEC, F.HST_RQ_CTL_HOLDOFF, F.HST_RQ_CTL_SIZE] w.toNat i s → tabGet s.rqWait i = none →
        s.rd F.HST_RQ_STAT_STATE i ≠ 2 →
        actsTo (.hstRqCtlEnWrite o i w) s [unitRegs F.HST_RQ_CTL_EN i] [(F.HST_RQ_CTL_EN, i, 1), (F.HST_RQ_TAIL_V, i, 0), (F.HST_RQ_STAT_STATE, i, 1)]
          (fun t => tabGet t.rqHead i = none ∧ t.rqWait = s.rqWait)) ∧
      (turnsOff F.HST_RQ_CTL_EN [F.HST_RQ_CTL_VEC, F.HST_RQ_CTL_HOLDOFF, F.HST_RQ_CTL_SIZE] w.toNat i s →
        ((∀ q : Fin 32, sqBound s i q = false) →
          acts (.hstRqCtlEnWrite o i w) s [unitRegs F.HST_RQ_CTL_EN i] [(F.HST_RQ_CTL_EN, i, 0), (F.HST_RQ_STAT_STATE, i, 0)]) ∧
        ((∃ q : Fin 32, sqBound s i q = true) →
          acts (.hstRqCtlEnWrite o i w) s [reg F.HST_RQ_CTL_EN i] [(F.HST_RQ_CTL_EN, i, 1), (F.GLB_REG_ERR_CAUSE, 0, cCfgEnabled)]))) ∧
    (∀ (x : Fin 8) (w : Word),
      (turnsOn F.HST_XR_CTL_EN [F.HST_XR_CTL_VEC, F.HST_XR_CTL_GROUP, F.HST_XR_CTL_SIZE] w.toNat x s →
        actsTo (.hstXrCtlEnWrite o x w) s [unitRegs F.HST_XR_CTL_EN x, reg F.HST_XR_DB_TAIL x]
          [(F.HST_XR_CTL_EN, x, 1), (F.HST_XR_HEAD_V, x, 0), (F.HST_XR_DB_TAIL, x, 0), (F.HST_XR_STAT_STATE, x, 1)] (fun t => xrBuf t x = [])) ∧
      (turnsOff F.HST_XR_CTL_EN [F.HST_XR_CTL_VEC, F.HST_XR_CTL_GROUP, F.HST_XR_CTL_SIZE] w.toNat x s → (∀ q : Fin 128, (quOf s q).opened = false) →
        actsTo (.hstXrCtlEnWrite o x w) s [unitRegs F.HST_XR_CTL_EN x] [(F.HST_XR_CTL_EN, x, 0), (F.HST_XR_STAT_STATE, x, 0)] (fun t => xrBuf t x = []))) ∧
    (∀ (i : Fin 32) (tail : BitVec 25) (ws : List Word),
      (s.on F.HST_SQ_CTL_EN i = false → actsTo (.hstSqDb i tail ws) s [] [] (fun t => t.hst = s.hst)) ∧
      (s.on F.HST_SQ_CTL_EN i = true → tail.toNat < 2 ^ (s.rd F.HST_SQ_CTL_SIZE i + 1) →
        let ahead := (tail.toNat + 2 ^ (s.rd F.HST_SQ_CTL_SIZE i + 1) - s.rd F.HST_SQ_HEAD_V i) % 2 ^ (s.rd F.HST_SQ_CTL_SIZE i + 1)
        (2 ^ s.rd F.HST_SQ_CTL_SIZE i < ahead →
          actsTo (.hstSqDb i tail ws) s [unitRegs F.HST_SQ_CTL_EN i]
            [(F.HST_SQ_CTL_EN, i, 0), (F.HST_SQ_STAT_STATE, i, 3), (F.HST_SQ_STAT_ECAUSE, i, 3)] (fun t => sqBuf t i = [])) ∧
        (ahead ≤ 2 ^ s.rd F.HST_SQ_CTL_SIZE i → (∀ k : Fin 32, s.rd F.HST_SQ_STAT_STATE k ≠ 1) → s.rd F.HST_SQ_STAT_STATE i = 2 → 
          actsTo (.hstSqDb i tail ws) s [reg F.HST_SQ_DB_TAIL i] [(F.HST_SQ_DB_TAIL, i, tail.toNat)]
            (fun t => sqBuf t i = sqBuf s i ++ ringTake (sqBuf s i).length (ahead / 4) (ws.map (·.toNat))))) ∧
      (s.on F.HST_RQ_CTL_EN i = false → (∀ k : Fin 32, s.rd F.HST_SQ_STAT_STATE k ≠ 1) → acts (.hstRqDb i tail) s [] []) ∧
      (s.on F.HST_RQ_CTL_EN i = true → (∀ k : Fin 32, s.rd F.HST_SQ_STAT_STATE k ≠ 1) → s.rd F.HST_RQ_STAT_STATE i = 1 → tabGet s.rqWait i = none →
        let m := 2 ^ (s.rd F.HST_RQ_CTL_SIZE i + 1)
        (tail.toNat % m + m - (tabGet s.rqHead i).getD 0) % m ≤ (s.rd F.HST_RQ_TAIL_V i + m - (tabGet s.rqHead i).getD 0) % m →
          actsTo (.hstRqDb i tail) s [] [] (fun t => (tabGet t.rqHead i).getD 0 = tail.toNat % m))) ∧
    (∀ (x : Fin 8) (tail : BitVec 17) (ds : List (List Word × List Word)),
      (s.on F.HST_XR_CTL_EN x = false → actsTo (.hstXrDb x tail ds) s [] [] (fun t => t.hst = s.hst)) ∧
      (s.on F.HST_XR_CTL_EN x = true → tail.toNat < 2 ^ (s.rd F.HST_XR_CTL_SIZE x + 1) →
        let ahead := (tail.toNat + 2 ^ (s.rd F.HST_XR_CTL_SIZE x + 1) - s.rd F.HST_XR_HEAD_V x) % 2 ^ (s.rd F.HST_XR_CTL_SIZE x + 1)
        (2 ^ s.rd F.HST_XR_CTL_SIZE x < ahead → (∀ q : Fin 128, (quOf s q).opened = false) →
          actsTo (.hstXrDb x tail ds) s [unitRegs F.HST_XR_CTL_EN x]
            [(F.HST_XR_CTL_EN, x, 0), (F.HST_XR_STAT_STATE, x, 3), (F.HST_XR_STAT_ECAUSE, x, 3)] (fun t => xrBuf t x = [])) ∧
        (ahead = 0 → (∀ k : Fin 8, xrBuf s k = []) →
          actsTo (.hstXrDb x tail ds) s [reg F.HST_XR_DB_TAIL x] [(F.HST_XR_DB_TAIL, x, tail.toNat)] (fun t => xrBuf t x = []))))

/-- A packet that passes: SEG_ALLOC at an absent index answers the new descriptor; SEG_LOAD of a loadable segment writes its words at the range that it names, keeps every other byte, and answers later; SEG_FREE makes the descriptor absent; SEG_PIN and UNPIN begin; MARK_LOAD stores the list, or none, and answers the descriptor; STEP_WRITE writes the steps; PAN_GRANT to the present owner answers at once, to another one begins a handover; SEG_INFO and STEP_READ answer words and change nothing outside the host link and the records. -/
def Obligations.MemoryPackets : Prop :=
  ∀ (p : Pkt) (s : State),
    (passes 0x20 p s →
      let d : Seg := { Seg.absent with state := 1, width := p.w 2 % 4, lenG := p.w 1, cpair := false }
      p.w 0 ≠ noSeg → p.w 1 ≠ 0 → p.w 1 ≤ 67108864 → p.w 2 % 4 ≠ 3 → bitOf (p.w 2) 2 = false → (segOf s (p.w 0)).state = 0 →
      ∀ (a : Nat) (x : State), allocIn (chUsed s (p.w 2 / 16)) (segStore d) s = some (a, x) →
      answers (.segAlloc p) p s (segWords { d with base := a }) [] []
        (fun t => unitTo segOf s t (p.w 0) { d with base := a } ∧ bytesKept s t)) ∧
    (passes 0x21 p s →
      let i := p.w 0 % 2 ^ 18
      let d := segOf s i
      let a := d.base + 4 * widthWords d.width * p.w 1
      d.state ≠ 0 → segBarred s i = false → p.w 1 + p.w 2 ≤ segLen d → s.badUnits = [] → 
      begins (.segLoad p) 0x21 p s [] []
        (fun t => unitTo segOf s t i { d with state := 1 } ∧ t.segLoads = s.segLoads ++ [(s.nextJob, i, bitOf (p.w 0) 31)] ∧
          (∀ b, memRd t.pans b = memRd s.pans b) ∧
          (∀ b, ¬ (a ≤ b ∧ b < a + 4 * (p.params.length - 3)) → memRd t.carafe b = memRd s.carafe b) ∧
          ∀ k < p.params.length - 3, ∀ j < 4, memRd t.carafe (a + 4 * k + j) = keptByte (a + 4 * k + j) (BitVec.ofNat 8 (p.w (3 + k) / 256 ^ j)))) ∧
    (passes 0x22 p s → (segOf s (p.w 0)).state ≠ 0 → segBarred s (p.w 0) = false → (segOf s (p.w 0)).cpair = false →
      answers (.segFree p) p s (segWords Seg.absent) [] [] (fun t => unitTo segOf s t (p.w 0) Seg.absent ∧ bytesKept s t)) ∧
    (passes 0x23 p s → (p.w 0 / 2 ^ 31 = 0 ∨ p.w 0 / 2 ^ 31 = 1) →
      let i := p.w 0 % 2 ^ 18
      laneNames s i = false → qNames s i = false → (segOf s i).pin = none → 
      (p.w 0 / 2 ^ 31 = 0 → ((segOf s i).state = 2 ∨ (segOf s i).state = 3) → pinUsed s + pinBytes (segOf s i) ≤ 33554432 →
        begins (.segPin p) 0x23 p s [(64 * 0x800800, 64 * 0x801000)] []
          (fun t => unitTo segOf s t i { segOf s i with pin := some (s.nextJob, false) } ∧ t.nvm.ops = s.nvm.ops ++ [.pin i s.nextJob] ∧ bytesKept s t)) ∧
      (p.w 0 / 2 ^ 31 = 1 → (segOf s i).state = 4 →
        begins (.segPin p) 0x23 p s [(64 * 0x800800, 64 * 0x801000)] []
          (fun t => (∀ k, segOf t k = segOf s k) ∧ t.nvm.ops = s.nvm.ops ++ [.unpin i s.nextJob] ∧ bytesKept s t))) ∧
    (passes 0x24 p s → (segOf s (p.w 0)).state ≠ 0 → segBarred s (p.w 0) = false →
      (p.w 1 = 0 →
        answers (.markLoad p) p s (segWords { segOf s (p.w 0) with markBase := 0, markCount := 0 }) [] []
          (fun t => unitTo segOf s t (p.w 0) { segOf s (p.w 0) with markBase := 0, markCount := 0 } ∧ bytesKept s t)) ∧
      (p.w 1 ≠ 0 → p.w 1 ≤ 4096 → marksOk (segLen (segOf s (p.w 0))) (markEnts (p.params.drop 2)) = true → s.badUnits = [] →
        ∀ (a : Nat) (x : State), allocIn (usedRanges s) (markStore (p.w 1)) s = some (a, x) →
        answers (.markLoad p) p s (segWords { segOf s (p.w 0) with markBase := a, markCount := p.w 1 }) [] []
          (fun t => unitTo segOf s t (p.w 0) { segOf s (p.w 0) with markBase := a, markCount := p.w 1 } ∧
            (∀ b, memRd t.pans b = memRd s.pans b) ∧ (∀ b, ¬ (a ≤ b ∧ b < a + 16 * p.w 1) → memRd t.carafe b = memRd s.carafe b) ∧
            ∀ k < 4 * p.w 1, ∀ j < 4, memRd t.carafe (a + 4 * k + j) = keptByte (a + 4 * k + j) (BitVec.ofNat 8 (p.w (2 + k) / 256 ^ j))))) ∧
    (passes 0x25 p s → p.w 1 ≠ 0 → p.w 1 ≤ 2047 → p.w 0 + p.w 1 ≤ 1048576 → stepLocked s (p.w 0) (p.w 1) = false → s.badUnits = [] →
      begins (.stepWrite p) 0x25 p s [] []
        (fun t => t.stepLoads = s.stepLoads ++ [s.nextJob] ∧ (∀ b, memRd t.pans b = memRd s.pans b) ∧
          (∀ b, ¬ (stepAddr (p.w 0) ≤ b ∧ b < stepAddr (p.w 0) + 32 * p.w 1) → memRd t.carafe b = memRd s.carafe b) ∧
          ∀ k < 8 * p.w 1, ∀ j < 4, memRd t.carafe (stepAddr (p.w 0) + 4 * k + j) =
            keptByte (stepAddr (p.w 0) + 4 * k + j) (BitVec.ofNat 8 (p.w (2 + k) / 256 ^ j)))) ∧
    (passes 0x26 p s → bitOf (p.w 0) 8 = false → p.w 0 % 16 ≤ 8 → (∀ e, s.panX.slice = some e → e.1 ≠ p.unit) →
      (p.w 0 % 16 = panOwner s p.unit → answers (.panGrant p) p s [] [] [] (fun t => t.panX = s.panX ∧ bytesKept s t)) ∧
      (p.w 0 % 16 ≠ panOwner s p.unit → handRefuse s p.org p.unit (panOwner s p.unit) = 0 → (p.unit, false, p.w 0 % 16) ∉ s.panX.hand →
        begins (.panGrant p) 0x26 p s [field F.PAN_STAT_HANDOVER p.unit] [(F.PAN_STAT_HANDOVER, p.unit, 1)]
          (fun t => t.panX.hand = s.panX.hand.filter (fun e => !(e.1 == p.unit && e.2.1 == false)) ++ [(p.unit, false, p.w 0 % 16)] ∧
            t.panGrants = s.panGrants ++ [(s.nextJob, p.unit)] ∧ bytesKept s t))) ∧
    (passes 0x27 p s → answers (.segInfo p) p s (segWords (segOf s (p.w 0))) [] [] (fun t => t.segs = s.segs ∧ bytesKept s t)) ∧
    (passes 0x28 p s → p.w 1 ≠ 0 → p.w 1 ≤ 32 → p.w 0 + p.w 1 ≤ 1048576 → s.badUnits = [] →
      answers (.stepRead p) p s ((List.range (8 * p.w 1)).map (fun i => memRdW s.carafe (stepAddr (p.w 0) + 4 * i))) [] [] (bytesKept s))

/-- A packet that passes and that the state of its player admits: ARM starts the ARM and START leaves the start pending, both answering later; HOLD, RESUME and STOP act at once and answer when their tick ends; JUMP, RATE of a TIME rail, PHASE and STREAM_SKIP act on the player and answer OK. Nothing else outside the host link and the records differs. -/
def Obligations.PlayerPackets : Prop :=
  ∀ (p : Pkt) (s : State),
    (passes 0x30 p s → (plyOf s p.unit).arm = none → (pst s p.unit = psLoaded ∨ pst s p.unit = psDone) → plyPar s p.unit = false → stepPan s = true →
      armCheck s p.unit = none →
      begins (.arm p) 0x30 p s [field F.PLY_STATE_ARM_BUSY p.unit, field F.PLY_EVPEND_PEND p.unit, field F.PLY_SEQ_STAT_HIST p.unit]
        [(F.PLY_STATE_ARM_BUSY, p.unit, 1), (F.PLY_EVPEND_PEND, p.unit, 0), (F.PLY_SEQ_STAT_HIST, p.unit, 0)]
        (fun t => (plyOf t p.unit).arm = some (some s.nextJob, s.eff) ∧ (plyOf t p.unit).locks = (if plyStream s p.unit then [] else windowSegs s p.unit) ∧ (∀ w, w ≠ p.unit → plyOf t w = plyOf s w) ∧ bytesKept s t)) ∧
    (passes 0x31 p s → pst s p.unit = psArmed → (plyOf s p.unit).start = none → p.w 0 % 4 ≠ 1 →
      begins (.start p) 0x31 p s [reg F.PLY_START_SRC p.unit, reg F.PLY_START_CT_AT_CT p.unit, field F.PLY_STATE_START_PEND p.unit]
        [(F.PLY_START_SRC, p.unit, p.w 0 % 4), (F.PLY_START_EVT, p.unit, p.w 0 / 16 % 2 ^ F.PLY_START_EVT.width), (F.PLY_STATE_START_PEND, p.unit, 1),
          (F.PLY_START_CT_AT_CT, p.unit, (p.w 1 + p.w 2 * 2 ^ 32) % 2 ^ 64)]
        (fun t => unitTo plyOf s t p.unit { plyOf s p.unit with start := some { src := p.w 0 % 4, evt := p.w 0 / 16 % 2 ^ F.PLY_START_EVT.width, eff := s.eff, ts := (if p.w 0 % 4 = 0 then some (s.eff + 20) else none), ct := none, job := some s.nextJob, late := false } } ∧ bytesKept s t)) ∧
    (passes 0x32 p s → holdOk s p.unit = true →
      begins (.hold p) 0x32 p s [field F.PLY_STATE_HELD_FROM p.unit, field F.PLY_STATE_STATE p.unit, field F.PLY_STATE_HELD_MODE p.unit, field F.PLY_EVPEND_PEND p.unit]
        [(F.PLY_STATE_HELD_FROM, p.unit, pst s p.unit), (F.PLY_STATE_STATE, p.unit, psHeld), (F.PLY_STATE_HELD_MODE, p.unit, 0)]
        (fun t => unitTo plyOf s t p.unit { plyOf s p.unit with acts := (plyOf s p.unit).acts ++ [⟨s.eff, 4, some s.nextJob, false, s.rd F.PLY_STATE_HELD_FROM p.unit, (plyOf s p.unit).ramp⟩], evReg := (plyOf s p.unit).evReg.filter (fun e => decide (e.2 < s.eff)) } ∧ bytesKept s t)) ∧
    (passes 0x33 p s → pst s p.unit = psHeld → mode s ≠ mdHold →
      begins (.resume p) 0x33 p s [field F.PLY_STATE_STATE p.unit, field F.PLY_STATE_HELD_MODE p.unit]
        [(F.PLY_STATE_STATE, p.unit, s.rd F.PLY_STATE_HELD_FROM p.unit), (F.PLY_STATE_HELD_MODE, p.unit, 0)]
        (fun t => (plyOf t p.unit).resumedAt = some s.eff ∧ (plyOf t p.unit).anchor = true ∧
          (plyOf t p.unit).acts = (plyOf s p.unit).acts ++ [⟨s.eff, 5, some s.nextJob, false, s.rd F.PLY_STATE_HELD_FROM p.unit, (plyOf s p.unit).ramp⟩] ∧
          (∀ w, w ≠ p.unit → plyOf t w = plyOf s w) ∧ bytesKept s t)) ∧
    (passes 0x34 p s → stopOk s p.unit = true →
      (pst s p.unit = psLoaded →
        ∃ t, exec (.stop p) s = .next t ∧ begun 0x34 p s.nextJob t ∧ pst t p.unit = psLoaded ∧ (plyOf t p.unit).arm = none ∧ (plyOf t p.unit).locks = [] ∧
          t.rd F.PLY_STATE_ARM_BUSY p.unit = 0 ∧ (∀ w, w ≠ p.unit → plyOf t w = plyOf s w) ∧ bytesKept s t) ∧
      (pst s p.unit ≠ psLoaded →
        ∃ t, exec (.stop p) s = .next t ∧ begun 0x34 p s.nextJob t ∧ pst t p.unit = psDone ∧ (plyOf t p.unit).ramp = true ∧ (plyOf t p.unit).locks = [] ∧
          (plyOf t p.unit).start = none ∧ (plyOf t p.unit).wait = none ∧ (∀ w, w ≠ p.unit → plyOf t w = plyOf s w) ∧ bytesKept s t ∧
          regsBut (hostRegs :: playerSpan s p.unit ++ records) s t)) ∧
    (passes 0x35 p s → jumpOk s p.unit = true → pst s p.unit ≠ psWaiting → p.w 0 % 65536 < s.rd F.PLY_STEP_COUNT_COUNT p.unit → 1 ≤ p.w 0 / 65536 →
      answers (.jump p) p s [] [] []
        (fun t => unitTo plyOf s t p.unit { plyOf s p.unit with jump := some (p.w 0 % 65536, p.w 0 / 65536, s.eff), ready := (plyOf s p.unit).ready.filter (fun e => e.1 != 6) } ∧ bytesKept s t)) ∧
    (passes 0x36 p s → railSrc s p.unit = 0 → prevails s (2 * p.org) →
      answers (.rate p) p s [] [reg F.RSRC_RATE_RATE p.unit] [(F.RSRC_RATE_RATE, p.unit, (p.w 0 + p.w 1 * 2 ^ 32) % 2 ^ F.RSRC_RATE_RATE.width)]
        (fun t => unitsKept railOf s t ∧ bytesKept s t)) ∧
    (passes 0x37 p s → phaseOk s p.unit = true →
      answers (.phase p) p s [] [] []
        (fun t => unitTo plyOf s t p.unit { plyOf s p.unit with phase := some (p.w 0, s.eff), ready := (plyOf s p.unit).ready.filter (fun e => e.1 != 7) } ∧ bytesKept s t)) ∧
    (passes 0x38 p s → skipOk s p.unit = true → pst s p.unit ≠ psStarved → pst s p.unit ≠ psWaiting → (p.w 0 / 65536 = 1 ∨ p.w 0 / 65536 = 2) →
      answers (.streamSkip p) p s [] [field F.PLY_STREAM_STAT_DROP_LEFT p.unit]
        [(F.PLY_STREAM_STAT_DROP_LEFT, p.unit, min (s.rd F.PLY_STREAM_STAT_DROP_LEFT p.unit + p.w 0 % 65536) (2 ^ F.PLY_STREAM_STAT_DROP_LEFT.width - 1))]
        (fun t => unitTo plyOf s t p.unit { plyOf s p.unit with skip := some (p.w 0 / 65536, s.eff) } ∧ bytesKept s t))

/-- Each packet completes when it passes: CAP_FLUSH of a capture with no open packet does nothing and closes an open one with SHORT, committed or behind what is staged, CAP_REARM clears DONE and waits for the next start edge, CAP_CLR zeroes the counts; Q_FLUSH empties a queue with nothing held and no capture as writer, Q_DROP drops the oldest visible packet that is not held, at the head by passing it, and of a queue without one does nothing, Q_ACK takes the count and answers it, Q_STAT answers four words of the queue; REF_FREEZE, REF_ZERO and REF_UNFREEZE act on a lane whose state admits them, REF_CLR zeroes the counts. -/
def Obligations.DataPackets : Prop :=
  ∀ (p : Pkt) (s : State),
    (passes 0x40 p s →
      ((capOf s p.unit).isOpen = false → answers (.capFlush p) p s [] [] [] (fun t => unitsKept capOf s t ∧ bytesKept s t)) ∧
      ((capOf s p.unit).isOpen = true →
        ∃ t, exec (.capFlush p) s = .next t ∧ replied p stOk [] t ∧ (capOf t p.unit).isOpen = false ∧ (capOf t p.unit).recs = 0 ∧ (capOf t p.unit).lost = 0 ∧
          ((capOf t p.unit).stage = [] ∨ ∃ hdr, CapItem.done hdr (capOf s p.unit).recs (capOf s p.unit).lost ∈ (capOf t p.unit).stage ∧ bitOf (hdr.headD 0) 4 = true) ∧
          ∀ w, w ≠ p.unit → capOf t w = capOf s w) ∧
      ((capOf s p.unit).isOpen = true → (capOf s p.unit).stage = [] → (capOf s p.unit).closing = false → qDeep s (capOf s p.unit).q = false → capAsleep s p.unit = false →
        ∃ t, exec (.capFlush p) s = .next t ∧ replied p stOk [] t ∧ (capOf t p.unit).isOpen = false ∧ (capOf t p.unit).stage = [] ∧
          t.rd F.CAP_STAT_PKT_OPEN p.unit = 0 ∧ (capOf t p.unit).seq = ((capOf s p.unit).seq + 1) % 2 ^ 32 ∧
          t.rd F.BRN_CP_PTR (capOf s p.unit).q = s.rd F.BRN_WP_PTR (capOf s p.unit).q)) ∧
    (passes 0x41 p s → answers (.capRearm p) p s [] [field F.CAP_STAT_DONE p.unit] [(F.CAP_STAT_DONE, p.unit, 0)]
      (fun t => unitTo capOf s t p.unit { capOf s p.unit with edges := [], edgeOvf := false, shot := false } ∧ bytesKept s t)) ∧
    (passes 0x42 p s → answers (.capClr p) p s [] [reg F.CAP_LOST_LOST p.unit, reg F.CAP_ERR_OVF p.unit]
      [(F.CAP_LOST_LOST, p.unit, 0), (F.CAP_ERR_OVF, p.unit, 0), (F.CAP_ERR_NOROOM, p.unit, 0)] (fun t => unitsKept capOf s t ∧ bytesKept s t)) ∧
    (passes 0x43 p s → (quOf s p.unit).held = false → (quOf s p.unit).writer = none →
      answers (.qFlush p) p s [] [unitRegs F.BRN_CTL_EN p.unit]
        [(F.BRN_WP_PTR, p.unit, 0), (F.BRN_CP_PTR, p.unit, 0), (F.BRN_RP_PTR, p.unit, 0), (F.BRN_IPTR_ICP, p.unit, 0), (F.BRN_IPTR_IRP, p.unit, 0)]
        (fun t => unitTo quOf s t p.unit { quOf s p.unit with opened := false, words := 0, ring := none, dropped := [], decided := false, m := 0 } ∧ bytesKept s t)) ∧
    (passes 0x44 p s →
      ((qVisible s p.unit).drop (b2n (quOf s p.unit).held) = [] → answers (.qDrop p) p s [] [] [] (fun t => unitsKept quOf s t ∧ bytesKept s t)) ∧
      (∀ i l, (qVisible s p.unit).drop (b2n (quOf s p.unit).held) = i :: l →
        (i ≠ s.rd F.BRN_IPTR_IRP p.unit →
          answers (.qDrop p) p s [] [unitRegs F.BRN_CTL_EN p.unit] [(F.BRN_RP_PTR, p.unit, s.rd F.BRN_RP_PTR p.unit)]
            (fun t => unitTo quOf s t p.unit { quOf s p.unit with dropped := (quOf s p.unit).dropped ++ [i], decided := false } ∧ bytesKept s t)) ∧
        (i = s.rd F.BRN_IPTR_IRP p.unit → (quOf s p.unit).dropped = [] → qAvail s p.unit ≠ 0 →
          answers (.qDrop p) p s [] [unitRegs F.BRN_CTL_EN p.unit]
            [(F.BRN_RP_PTR, p.unit, (s.rd F.BRN_RP_PTR p.unit + qLen s p.unit i) % qMod s p.unit % 2 ^ F.BRN_RP_PTR.width),
              (F.BRN_IPTR_IRP, p.unit, (i + 1) % qIMod s p.unit % 2 ^ F.BRN_IPTR_IRP.width)]
            (fun t => unitTo quOf s t p.unit { quOf s p.unit with decided := false } ∧ bytesKept s t)))) ∧
    (passes 0x45 p s →
      answers (.qAck p) p s [s.rd F.BRN_NOTE_XCNT p.unit * 2 ^ F.BRN_NOTE_XCNT.lo + p.w 0 % 2 ^ F.BRN_NOTE_ACK.width * 2 ^ F.BRN_NOTE_ACK.lo]
        [reg F.BRN_NOTE_ACK p.unit, field F.BRN_STAT_PENDING p.unit]
        [(F.BRN_NOTE_ACK, p.unit, p.w 0 % 2 ^ F.BRN_NOTE_ACK.width), (F.BRN_STAT_PENDING, p.unit, b2n (s.rd F.BRN_NOTE_XCNT p.unit != p.w 0 % 2 ^ F.BRN_NOTE_ACK.width))]
        (fun t => unitsKept quOf s t ∧ bytesKept s t)) ∧
    (passes 0x46 p s →
      answers (.qStat p) p s [readReg0 s (F.BRN_STAT_EMPTY.addr p.unit), readReg0 s (F.BRN_FREE_WORDS.addr p.unit), readReg0 s (F.BRN_FILL_WORDS.addr p.unit),
        readReg0 s (F.BRN_NOTE_ACK.addr p.unit)] [] [] (fun t => unitsKept quOf s t ∧ bytesKept s t)) ∧
    (passes 0x50 p s →
      (laneSt s p.unit = lsCollect → answers (.refFreeze p) p s [] [field F.REF_STAT_FRZ_PEND p.unit] [(F.REF_STAT_FRZ_PEND, p.unit, 1)]
        (fun t => unitTo laneOf s t p.unit { laneOf s p.unit with freeze := 1 } ∧ bytesKept s t)) ∧
      (laneSt s p.unit = lsReady → answers (.refFreeze p) p s [] [field F.REF_STAT_STATE p.unit, field F.REF_STAT_ACTIVE p.unit, field F.REF_STAT_PASS p.unit]
        [(F.REF_STAT_STATE, p.unit, lsFrozen)] (fun t => unitsKept laneOf s t ∧ bytesKept s t))) ∧
    (passes 0x51 p s → laneSt s p.unit = lsFrozen →
      answers (.refUnfreeze p) p s [] [field F.REF_STAT_STATE p.unit, field F.REF_STAT_ACTIVE p.unit, field F.REF_STAT_PASS p.unit]
        [(F.REF_STAT_STATE, p.unit, lsReady)] (fun t => unitsKept laneOf s t ∧ bytesKept s t)) ∧
    (passes 0x52 p s → laneSt s p.unit = lsCollect →
      answers (.refZero p) p s [] [field F.REF_STAT_FRZ_PEND p.unit] [(F.REF_STAT_FRZ_PEND, p.unit, 1)]
        (fun t => unitTo laneOf s t p.unit { laneOf s p.unit with freeze := 2 } ∧ bytesKept s t)) ∧
    (passes 0x53 p s → answers (.refClr p) p s [] [unitRegs F.REF_CTL_EN p.unit]
      [(F.REF_STAT_RISE, p.unit, 0), (F.REF_CNT_FREEZES, p.unit, 0), (F.REF_CNT_DISCARDS, p.unit, 0), (F.REF_CNT_CYCLES, p.unit, 0), (F.REF_ERR_LOST, p.unit, 0),
        (F.REF_ERR_ECC, p.unit, 0)] (fun t => unitsKept laneOf s t ∧ bytesKept s t))

/-- A packet that passes: CHAIN_PULSE and CHAIN_EVENT on a root without joined ports make their pair known and leave it to act; CHAIN_ENUM on a root begins an enumeration and CHAIN_CT_LOAD loads the value for the next load; CHAIN_INFO answers five words; CUP_RUN of a partial scope begins a run; CAL_STORE, FW_WRITE and FW_ACTIVATE, not locked, leave their operation to the NVM controller; SHELF_CLEAR with no store running empties both slots; LOG_READ answers the records or entries held from its first number on. -/
def Obligations.TreePackets : Prop :=
  ∀ (p : Pkt) (s : State),
    let t0 := ctNow s + 1 - (ctNow s + 1) % 16
    (role s = 1 → s.on F.RAKE_CTL_EN 0 = true → (∀ n : Fin 4, rkSt s n ≠ rkJoined) → s.rake.known = [] → t0 + fenceAt s t0 ≥ ctNow s →
      (passes 0x60 p s → answers (.chainPulse p) p s [] [] [] (fun t => t.rake.acts = s.rake.acts ++ [(true, 0, max (t0 + fenceAt s t0) (ctNow s + 1))] ∧ t.rake.known = [(true, 0, t0)] ∧ bytesKept s t)) ∧
      (passes 0x61 p s → ∀ i : Fin 64, p.w 0 + p.w 1 * 2 ^ 32 = 2 ^ i.val →
        answers (.chainEvent p) p s [] [] [] (fun t => t.rake.acts = s.rake.acts ++ [(false, i.val, max (t0 + fenceAt s t0) (ctNow s + 1))] ∧ t.rake.known = [(false, i.val, t0)] ∧ bytesKept s t))) ∧
    (passes 0x62 p s → role s = 1 →
      begins (.chainEnum p) 0x62 p s [field F.RAKE_STAT_ENUM_BUSY 0] [(F.RAKE_STAT_ENUM_BUSY, 0, 1)]
        (fun t => t.rake = { s.rake with enumFull := s.rake.enumFull || p.w 0 == 1, enumJobs := s.rake.enumJobs ++ [s.nextJob], change := none } ∧ bytesKept s t)) ∧
    (passes 0x63 p s → role s = 1 →
      answers (.chainCtLoad p) p s [] [reg F.RAKE_CT_LOAD_CT 0] [(F.RAKE_CT_LOAD_CT, 0, (p.w 0 + p.w 1 * 2 ^ 32) % 2 ^ F.RAKE_CT_LOAD_CT.width)]
        (fun t => t.rake = { s.rake with ctLoad := true } ∧ bytesKept s t)) ∧
    (passes 0x64 p s →
      answers (.chainInfo p) p s [readReg0 s (F.RAKE_TREE_DEVICES.addr 0), readReg0 s (F.RAKE_STAT_ROLE_ACT.addr 0), readReg0 s (F.GLB_ADDR_ADDR.addr 0),
        s.rd F.RAKE_THETA_THETA 0 % 2 ^ 32, s.rd F.RAKE_THETA_THETA 0 / 2 ^ 32] [] [] (bytesKept s)) ∧
    (passes 0x70 p s → p.w 0 % 4 = 1 → s.rd F.CHN_STAT_STATE (p.w 0 / 256) = 0 → mode s ≠ mdCupping → s.on F.CUP_STAT_BUSY 0 = false →
      memN [mdSetup, mdArmed, mdRun, mdHold, mdCoast, mdService] (mode s) = true →
      begins (.cupRun p) 0x70 p s [reg F.CUP_STAT_BUSY 0]
        [(F.CUP_STAT_BUSY, 0, 1), (F.CUP_STAT_SCOPE, 0, 1), (F.CUP_STAT_INDEX, 0, p.w 0 / 256 % 2 ^ F.CUP_STAT_INDEX.width), (F.CUP_STAT_ABANDONED, 0, 0)]
        (fun t => t.cup = some ⟨1, p.w 0 / 256, s.nextJob, mode s⟩ ∧ bytesKept s t)) ∧
    (passes 0x71 p s → s.on F.NVM_CAL_LOCK_LOCK 0 = false →
      begins (.calStore p) 0x71 p s [(64 * 0x800800, 64 * 0x801000)] [] (fun t => t.nvm.ops = s.nvm.ops ++ [.cal (some s.nextJob) (calImage s)] ∧ bytesKept s t)) ∧
    (passes 0x72 p s → s.on F.GLB_BATCH_STORING 0 = false →
      answers (.shelfClear p) p s [] [(64 * 0x800800, 64 * 0x801000)] []
        (fun t => t.nvm.shelves = [] ∧ t.nvm.gens.getD 2 0 = 0 ∧ t.nvm.gens.getD 3 0 = 0 ∧ t.nvm.ops = s.nvm.ops ∧ bytesKept s t)) ∧
    (passes 0x73 p s → p.w 0 % 4 = 0 → p.w 0 + 4 * (p.params.length - 1) ≤ 8388608 → (bootRec s).1 ≠ fwOther s →
      begins (.fwWrite p) 0x73 p s [(64 * 0x800800, 64 * 0x801000)] [] (fun t => t.nvm.ops = s.nvm.ops ++ [.fwWrite s.nextJob (p.w 0) (p.params.drop 1)] ∧ bytesKept s t)) ∧
    (passes 0x74 p s → s.on F.NVM_BOOT_LOCK_LOCK 0 = false →
      begins (.fwActivate p) 0x74 p s [] [] (fun t => t.nvm = { s.nvm with checks := s.nvm.checks ++ [(s.nextJob, p.w 0)] } ∧ bytesKept s t)) ∧
    (passes 0x80 p s →
      (p.w 0 = 0 → (p.w 1 + 2 ^ 32 - s.rd F.LOG_EV_OLD_RECNO 0) % 2 ^ 32 < (s.rd F.LOG_EV_WR_RECNO 0 + 2 ^ 32 - s.rd F.LOG_EV_OLD_RECNO 0) % 2 ^ 32 →
        evRecs s (p.w 1) 32 ≠ [] → answers (.logRead p) p s (evRecs s (p.w 1) 32) [] [] (bytesKept s)) ∧
      (p.w 0 = 1 → audRecs s (p.w 1) 16 ≠ [] → answers (.logRead p) p s (audRecs s (p.w 1) 16) [] [] (bytesKept s)))

/-- RESULT_GET of a tag whose final reply the window of its origin caches is answered over USB or the service link with that reply, marked as a duplicate; a packet whose opcode is not listed is answered BAD_OPCODE; neither changes a register outside the host link and the records. -/
def Obligations.BarePackets : Prop :=
  ∀ (p : Pkt) (s : State), fetching s = true → p.batch = false → p.hdrOk = true → (p.crc = true → p.crcOk = true) → (p.path = .usb3 ∨ p.path = .svc) →
    p.org < 7 → p.org ≠ 5 → jobOf s s.nextJob = none → memN s.recov.jobs s.nextJob = false →
    (pktHeld s s.heldPkts (numbered 0xF0 p) = false → isLocal s (numbered 0xF0 p) = true → p.target ≠ 0xFFF → (pktWhy s (numbered 0xF0 p)).1 = stOk →
      p.reply = true →
      ∀ e r, (winOf s (winKey p.org p.src)).seen = true → serial 32 (p.w 0) (winOf s (winKey p.org p.src)).h ≤ 0 →
        -255 ≤ serial 32 (p.w 0) (winOf s (winKey p.org p.src)).h → winEnt (winOf s (winKey p.org p.src)) (p.w 0) = some e → e.done = true → e.reply = some r →
        ∃ t q, exec (.resultGet p) s = .next t ∧ .reply p.path p.org q ∈ t.out ∧ q.tag = p.tag ∧ q.status = stOk ∧ q.final = true ∧
          q.data = replyList { r with dup := true } ∧ regsBut replies s t ∧ bytesKept s t) ∧
    (pktHeld s s.heldPkts p = false → isLocal s p = true → p.target ≠ 0xFFF → opInfo p.opcode = none → newTag s p →
      ∃ t, exec (.unlistedOpcode p) s = .next t ∧ replied p stBadOpcode [] t ∧ regsBut replies s t ∧ bytesKept s t)

/-- While the fabric runs: an ARM that ends with no packet held makes the player ARMED; a start tick that is due takes the origin, clears START_PEND, sets STARTED_CT and leaves ARMED; a candidate becomes ready at the present tick; a late successor, a released wait and a starved player enter their successor 20 ticks after it is ready, RUNNING, or HELD in HOLD. Only the player, its queue, its rail's rate and, where a command is answered, the host link change. -/
def Obligations.PlayerEntries : Prop :=
  ∀ (s : State), s.boot.stage = 0 → ∀ p : Fin 64,
    (∀ a, (plyOf s p).arm = some a → s.heldPkts = [] → s.badUnits = [] →
      actsTo (.armComplete p) s (hostRegs :: playerSpan s p)
        [(F.PLY_STATE_STATE, p, psArmed), (F.PLY_STATE_ARM_BUSY, p, 0), (F.PLY_STATE_RAMPING, p, 0), (F.PLY_ARM_ERR_CAUSE, p, 0), (F.PLY_ARM_ERR_STEP, p, 0),
          (F.PLY_ENTRIES_COUNT, p, 0)]
        (fun t => (plyOf t p).arm = none ∧ ∀ q, q ≠ p.val → plyOf t q = plyOf s q)) ∧
    (∀ a, (plyOf s p).start = some a → startDue s a = true → pst s p = psArmed →
      actsTo (.startTick p) s ((64 * 0x20000, 64 * 0x20100) :: hostRegs :: playerSpan s p)
        [(F.PLY_STATE_START_PEND, p, 0), (F.PLY_STARTED_CT_CT, p, s.ct % 2 ^ 64), (F.PLY_ITER_ITER, p, 1)]
        (fun t => pst t p ≠ psArmed ∧ (plyOf t p).start = none ∧ ∀ q, q ≠ p.val → plyOf t q = plyOf s q)) ∧
    (∀ c : Fin 9, engaged s p = true → isReady s p c = false → s.badUnits = [] → (c.val = 7 → (plyOf s p).phase.isSome = true) →
      (c.val = 8 → (plyOf s p).hist ≠ []) →
      (plyStream s p = true → (c.val = 1 → (plyOf s p).nxt.isSome = true) →
        actsTo (.successorReady p c) s [] []
          (fun t => unitTo plyOf s t p { plyOf s p with ready := tabPut (plyOf s p).ready c s.now, stale := (plyOf s p).stale && c.val != 8 })) ∧
      (plyStream s p = false → cacheAsleep s = false → (c.val = 0 ∨ 6 < c.val ∨ (candKey s p (curStep s p) c).isSome = true) →
        actsTo (.successorReady p c) s [] []
          (fun t => (plyOf t p).ready = tabPut (plyOf s p).ready c s.now ∧ (∀ n, candStep s p c = some n → inCache t p n = true) ∧
            (∀ n w, tabGet (plyOf s p).cache n = some w → tabGet (plyOf t p).cache n = some w) ∧ ∀ q, q ≠ p.val → plyOf t q = plyOf s q))) ∧
    (∀ d, (plyOf s p).dec = some d → pst s p = psRunning → d.te.isSome = true → lateOk s p d = true →
      actsTo (.lateSuccessorEntry p) s ((64 * 0x20000, 64 * 0x20100) :: playerSpan s p)
        [(F.PLY_STATE_STATE, p, if mode s = mdHold then psHeld else psRunning), (F.PLY_ENTRIES_COUNT, p, wrapUp F.PLY_ENTRIES_COUNT p s)]
        (fun t => t.trigs = s.trigs ++ [⟨0x60 + p, true, 4 * s.now, s.now + 1⟩] ∧ (∀ n, d.succ = .step n → n < 65536 → curStep t p = n) ∧
          ∀ q, q ≠ p.val → plyOf t q = plyOf s q)) ∧
    (∀ w r g own u, (plyOf s p).wait = some w → w.rel = some (r, g, own, u) → pst s p = psWaiting → r + 20 ≤ s.now →
      (u = .packet → isReady s p 1 = true) → (own = true ∨ succWaits s p u = false) →
      actsTo (.waitReleaseEntry p) s ((64 * 0x20000, 64 * 0x20100) :: playerSpan s p)
        [(F.PLY_STATE_STATE, p, if mode s = mdHold then psHeld else psRunning), (F.PLY_SEQ_STAT_WAITING, p, 0)]
        (fun t => (plyOf t p).wait = none ∧ ∀ q, q ≠ p.val → plyOf t q = plyOf s q)) ∧
    (∀ tr, readyAt s p 1 = some tr → pst s p = psStarved → (plyOf s p).nxt.isSome = true →
      ((plyOf s p).starveRel.isSome = true ∨ s.on F.PLY_CTL_STARVE_POL p = false) →
      max tr (max (plyOf s p).starveMin ((plyOf s p).starveRel.getD 0)) + 20 ≤ s.now →
      actsTo (.starveResumeEntry p) s ((64 * 0x20000, 64 * 0x20100) :: playerSpan s p)
        [(F.PLY_STATE_STATE, p, if mode s = mdHold then psHeld else psRunning), (F.PLY_STATE_RAMPING, p, 0), (F.PLY_SEQ_STAT_WAITING, p, 0)]
        (fun t => (plyOf t p).nxt = none ∧ ∀ q, q ≠ p.val → plyOf t q = plyOf s q))

/-- While the fabric runs: a channel whose tick has come takes one sample with the configuration latched and counts it; a conversion of an ADC in its tick puts its result, saturated to 18 bits, on its way for its latency, to be delivered from 1 µs after the enable on; a GP input edge is registered and on its way to the trigger matrix; the current limit of a DAC shows and counts when it begins; the open packet of a capture older than AGE is closed with SHORT, and committed where nothing holds it back; what a disabled capture has staged is committed and its queue released. -/
def Obligations.SampleRows : Prop :=
  ∀ (s : State), s.boot.stage = 0 →
    (∀ c : Fin 256, chnDue s c = true →
      actsTo (.channelSample c) s [reg F.CHN_SAMPLES_COUNT c] [(F.CHN_SAMPLES_COUNT, c, wrapUp F.CHN_SAMPLES_COUNT c s)]
        (fun t => (chnOf t c).lastT = some s.now ∧ (chnOf t c).first = false ∧ (∀ d, d ≠ c.val → chnOf t d = chnOf s d) ∧
          ∃ x, (chnOf t c).pipe = (chnOf s c).pipe ++ [x] ∧ x.t0 = s.now ∧ x.ctl = (chnOf s c).ctl ∧ x.dest = (chnOf s c).dest ∧
            x.rest = (chnOf s c).rest ∧ x.kind = chnKind s c ∧ x.first = (chnOf s c).first)) ∧
    (∀ (i : Fin 8) (r : Int) (t0 : Nat), tabGet s.adcOn i = some t0 → cupAdc s = false → s.rd F.GLB_CT_TICKS 0 % 32 = s.rd F.CNV_ADC_CTL_PHASE i →
      1 ≤ s.rd F.CNV_ADC_LAT_LAT i → (∀ w ∈ s.adcQ, s.now < w.avail) →
      actsTo (.adcConversion i r) s [reg F.CNV_ADC_STAT_VALID i] [(F.CNV_ADC_STAT_VALID, i, if t0 + 160 ≤ s.now then 1 else s.rd F.CNV_ADC_STAT_VALID i)]
        (fun t => t.adcQ = s.adcQ ++ [⟨i, s.now + (s.rd F.CNV_ADC_LAT_LAT i + 3) / 4, max (-131072) (min 131071 r), decide (r < -131072 ∨ 131071 < r),
          decide (t0 + 160 ≤ s.now)⟩])) ∧
    (∀ (i : Fin 16) (rising : Bool) (back : Fin 16), s.rd F.PWR_STAT_VIO 0 ≠ 0 → bitOf s.gpDrive i = false →
      bitOf (s.rd F.TRG_GP_STAT_LEVEL 0) i = !rising →
      actsTo (.gpInputEdge i rising back) s [reg F.TRG_GP_STAT_LEVEL 0]
        [(F.TRG_GP_STAT_LEVEL, 0, if rising then s.rd F.TRG_GP_STAT_LEVEL 0 + 2 ^ i.val else s.rd F.TRG_GP_STAT_LEVEL 0 - 2 ^ i.val)]
        (fun t => t.trigs = s.trigs ++ [⟨i, rising, 4 * s.now - back, max (s.now + 1) ((4 * s.now - back) / 4 + 4)⟩])) ∧
    (∀ (i : Fin 8) (b : Bool),
      acts (.dacCurrentLimit i b) s [field F.CNV_DAC_STAT_OVLD i, field F.CNV_DAC_ERR_OVLD i]
        [(F.CNV_DAC_STAT_OVLD, i, if b then 1 else 0),
          (F.CNV_DAC_ERR_OVLD, i, if b && !s.on F.CNV_DAC_STAT_OVLD i then satUp F.CNV_DAC_ERR_OVLD i s else s.rd F.CNV_DAC_ERR_OVLD i)]) ∧
    (∀ u : Fin 32,
      (capAged s u = true → ∃ t, exec (.captureAgeExpiry u) s = .next t ∧ (capOf t u).isOpen = false ∧ (capOf t u).recs = 0 ∧ (capOf t u).lost = 0 ∧
        ((capOf t u).stage = [] ∨ ∃ hdr, CapItem.done hdr (capOf s u).recs (capOf s u).lost ∈ (capOf t u).stage ∧ bitOf (hdr.headD 0) 4 = true) ∧
        ∀ w, w ≠ u.val → capOf t w = capOf s w) ∧
      (capAged s u = true → (capOf s u).stage = [] → (capOf s u).closing = false → qDeep s (capOf s u).q = false → capAsleep s u = false →
        ∃ t, exec (.captureAgeExpiry u) s = .next t ∧ t.rd F.CAP_STAT_PKT_OPEN u = 0 ∧ (capOf t u).stage = [] ∧
        t.rd F.CAP_RECS_COUNT u = (s.rd F.CAP_RECS_COUNT u + (capOf s u).recs) % 2 ^ 64 ∧
        (capOf t u).seq = ((capOf s u).seq + 1) % 2 ^ 32 ∧ t.rd F.BRN_CP_PTR (capOf s u).q = t.rd F.BRN_WP_PTR (capOf s u).q ∧
        regsBut (unitRegs F.CAP_CTL_EN u :: queueSpan (capOf s u).q ++ records) s t) ∧
      ((capOf s u).closing = true → ∃ t, exec (.captureFinalCommit u) s = .next t ∧ (capOf t u).closing = false ∧
        (capOf t u).stage = [] ∧ t.rd F.CAP_STAT_PKT_OPEN u = b2n (capOf s u).isOpen ∧ (quOf t (capOf s u).q).writer ≠ some u.val ∧
        (∀ w, w ≠ u.val → capOf t w = capOf s w) ∧ regsBut (unitRegs F.CAP_CTL_EN u :: queueSpan (capOf s u).q ++ records) s t))

/-- While the fabric runs: levels of A and B that pass the filter, and a level of Z, are put on their way to the position, which they reach 3 + ⌈FILT/4⌉ ticks (SINCOS: 4) after the ball; an accepted edge of an enabled port then moves the position by one count, or the phase difference in SINCOS mode, INVERT reversing it, and an illegal transition counts; an index edge latches the position and, where INDEX says so, zeroes it; an SSI frame starts when its period has elapsed, a good one puts its word on its way, a bad one counts, and a word moves the position by the shortest difference of the words; LOST of a port and its end reach the rails that follow it; a pulse is put on its way to the tracker, which accepts its first one, takes intervals inside its window into its mean, rejects others, and counts missing pulses. -/
def Obligations.EncoderRows : Prop :=
  ∀ (s : State), s.boot.stage = 0 →
    (∀ e : Fin 8,
      (∀ (a b : Bool) (ph : BitVec 12) (back : Fin 16) (held : Nat),
        ((s.rd F.ENC_CTL_MODE e = 0 ∨ s.rd F.ENC_CTL_MODE e = 3) → held ≤ s.rd F.ENC_CTL_FILT e →
          actsTo (.encoderEdge e a b ⟨ph, back, held⟩) s [] [] (unitsKept encOf s)) ∧
        (((s.rd F.ENC_CTL_MODE e = 0 ∨ s.rd F.ENC_CTL_MODE e = 3) → s.rd F.ENC_CTL_FILT e < held) → ∀ q, q = 4 * s.now + 3 - back →
          actsTo (.encoderEdge e a b ⟨ph, back, held⟩) s [] []
            (fun t => unitTo encOf s t e { encOf s e with
              evs := encPut q (q / 4 + if s.rd F.ENC_CTL_MODE e = 1 then 4 else 3 + (s.rd F.ENC_CTL_FILT e + 3) / 4) (.ab a b ph.toNat) (encOf s e).evs })) ∧
        (s.on F.ENC_CTL_EN e = true → ∀ d : Int,
          (s.rd F.ENC_CTL_MODE e = 0 ∧ quadPhase a b = (quadPhase (encOf s e).a (encOf s e).b + 1) % 4 ∧ d = 4096 ∨
            s.rd F.ENC_CTL_MODE e = 0 ∧ quadPhase a b = (quadPhase (encOf s e).a (encOf s e).b + 3) % 4 ∧ d = -4096 ∨
            s.rd F.ENC_CTL_MODE e = 3 ∧ (encOf s e).a = false ∧ a = true ∧ d = (if (encOf s e).b then 4096 else -4096) ∨
            s.rd F.ENC_CTL_MODE e = 1 ∧ d = serial 12 ph.toNat (encOf s e).phase) →
          let t := encDo e (.ab a b ph.toNat) s
          t.rd F.ENC_POS_COUNT e = uns 60 (encPos s e + (if s.on F.ENC_CTL_INVERT e then -d else d)) / 4096 ∧
            t.rd F.ENC_POS_FRAC e = uns 60 (encPos s e + (if s.on F.ENC_CTL_INVERT e then -d else d)) % 4096 ∧ regsBut [reg F.ENC_POS_COUNT e] s t ∧
            unitTo encOf s t e { encOf s e with a := a, b := b, phase := ph.toNat % 4096 }) ∧
        (s.on F.ENC_CTL_EN e = true → s.rd F.ENC_CTL_MODE e = 0 → (encOf s e).a ≠ a → (encOf s e).b ≠ b →
          let t := encDo e (.ab a b ph.toNat) s
          t.rd F.ENC_ERR_ILLEGAL e = satUp F.ENC_ERR_ILLEGAL e s ∧ regsBut [field F.ENC_ERR_ILLEGAL e] s t)) ∧
      (∀ (level : Bool) (back : Fin 32) (held : Nat),
        (s.on F.ENC_CTL_EN e = true → s.rd F.ENC_CTL_MODE e ≠ 2 → (encOf s e).zIn = !level → s.rd F.ENC_CTL_FILT e < held → ∀ q, q = 4 * s.now + 3 - back →
          actsTo (.indexEdge e level ⟨back, held⟩) s [] []
            (fun t => unitTo encOf s t e { encOf s e with zIn := level, evs := encPut q (q / 4 + (3 + (s.rd F.ENC_CTL_FILT e + 3) / 4)) (.z level) (encOf s e).evs } ∧
              t.trigs = s.trigs ++ [⟨0x10 + e, level, q, q / 4 + max 4 (3 + (s.rd F.ENC_CTL_FILT e + 3) / 4)⟩])) ∧
        (s.on F.ENC_CTL_EN e = true → s.rd F.ENC_CTL_MODE e ≠ 2 → (encOf s e).z = !level →
          let t := encDo e (.z level) s
          regsBut [reg F.ENC_POS_COUNT e, reg F.ENC_IDX_POS e, field F.ENC_STAT_IDX_SEEN e] s t ∧ unitTo encOf s t e { encOf s e with z := level } ∧
            (level = true → s.rd F.ENC_CTL_INDEX e ≠ 0 →
              t.rd F.ENC_IDX_POS e = uns 64 (sgn 60 (encPos s e)) ∧ t.rd F.ENC_STAT_IDX_SEEN e = 1 ∧
                t.rd F.ENC_POS_COUNT e = (if s.rd F.ENC_CTL_INDEX e = 3 ∨ s.rd F.ENC_CTL_INDEX e = 2 ∧ s.on F.ENC_STAT_IDX_SEEN e = false then 0 else s.rd F.ENC_POS_COUNT e)) ∧
            (level = false ∨ s.rd F.ENC_CTL_INDEX e = 0 → t.rd F.ENC_IDX_POS e = s.rd F.ENC_IDX_POS e ∧ t.rd F.ENC_POS_COUNT e = s.rd F.ENC_POS_COUNT e))) ∧
      (∀ (t : Nat) (x : EncEv) (q due : Nat), s.encs = [(e.val, encOf s e)] → (encOf s e).evs = [(q, due, x)] →
        (due ≤ t → encTick t s = encDo e x (setEnc e { encOf s e with evs := [] } s)) ∧ (t < due → encTick t s = s)) ∧
      (ssiDue s e = true → actsTo (.ssiFrameStart e) s [] [] (fun t => unitTo encOf s t e { encOf s e with ssiBusy := true, ssiStart := some s.now })) ∧
      (∀ (w : BitVec 48) (t0 : Nat), s.on F.ENC_CTL_EN e = true → (encOf s e).ssiBusy = true → (encOf s e).ssiStart = some t0 →
        t0 + 2 * (s.rd F.ENC_SSI_CLKDIV e + 1) * s.rd F.ENC_SSI_LEN e ≤ s.now →
        actsTo (.ssiFrameDone e w false) s [field F.ENC_ERR_ILLEGAL e] [(F.ENC_ERR_ILLEGAL, e, satUp F.ENC_ERR_ILLEGAL e s)]
          (fun t => unitTo encOf s t e { encOf s e with ssiBusy := false, ssiEnd := some s.now, ssiBad := (encOf s e).ssiBad + 1 }) ∧
        ∀ n v : Nat, n = s.rd F.ENC_SSI_LEN e → v = (if s.on F.ENC_SSI_GRAY e then grayBin n (w.toNat % 2 ^ n) else w.toNat % 2 ^ n) →
          actsTo (.ssiFrameDone e w true) s [] []
            (fun t => unitTo encOf s t e { encOf s e with ssiBusy := false, ssiEnd := some s.now, ssiBad := 0, evs := encPut (4 * s.now) (t0 + 2 * (s.rd F.ENC_SSI_CLKDIV e + 1) * (s.rd F.ENC_SSI_LEN e + 1) + 2) (.word v t0) (encOf s e).evs }) ∧
          ∀ p : Int,
            ((encOf s e).ssiLast = none ∧ p = (if s.on F.ENC_CTL_INVERT e then -(v * 4096 : Int) else v * 4096) ∨
              (∃ l d : Int, (encOf s e).ssiLast = some l.toNat ∧ 0 ≤ l ∧ -(2 ^ n : Int) < 2 * d ∧ 2 * d < 2 ^ n ∧
                (d = v - l ∨ d = v - l - 2 ^ n ∨ d = v - l + 2 ^ n) ∧ p = encPos s e + (if s.on F.ENC_CTL_INVERT e then -(d * 4096) else d * 4096))) →
            let t := encDo e (.word v t0) s
            t.rd F.ENC_POS_COUNT e = uns 60 p / 4096 ∧ t.rd F.ENC_POS_FRAC e = uns 60 p % 4096 ∧ regsBut [reg F.ENC_POS_COUNT e] s t ∧
              unitTo encOf s t e { encOf s e with ssiLast := some v, ssiVal := some t0 }) ∧
      (∀ (broken : Bool) (radius : BitVec 16) (cycles : Nat), s.on F.ENC_STAT_LOST e = false →
        (s.rd F.ENC_CTL_MODE e = 2 ∧ 3 ≤ (encOf s e).ssiBad ∨
          s.rd F.ENC_CTL_MODE e = 1 ∧ 640 ≤ cycles ∧ (radius.toNat < s.rd F.ENC_SINCOS_AMP_LO e ∨ s.rd F.ENC_SINCOS_AMP_HI e < radius.toNat) ∨
          s.rd F.ENC_CTL_MODE e ≠ 1 ∧ s.rd F.ENC_CTL_MODE e ≠ 2 ∧ 640 ≤ cycles ∧ broken = true) →
        (∀ p : Fin 64, railSrc s p = 1 → railSel s p = e → s.on F.RSRC_CTL_LOSS_POL p = false) →
        actsTo (.encoderLost ⟨e, broken, radius, cycles⟩) s [field F.ENC_STAT_LOST e, field F.ENC_ERR_AMP e, railRegs]
          [(F.ENC_STAT_LOST, e, 1), (F.ENC_ERR_AMP, e, if s.rd F.ENC_CTL_MODE e = 2 then s.rd F.ENC_ERR_AMP e else satUp F.ENC_ERR_AMP e s)]
          (fun t => ∀ p : Fin 64, (railSrc s p = 1 → railSel s p = e → s.on F.RSRC_CTL_EN p = true →
              t.rd F.RSRC_STAT_LOST p = 1 ∧ (s.rd F.RSRC_STAT_LOST p = 0 → t.rd F.RSRC_EVT_LOSSES p = satUp F.RSRC_EVT_LOSSES p s)) ∧
            (¬ (railSrc s p = 1 ∧ railSel s p = e) → kept [F.RSRC_STAT_LOST, F.RSRC_EVT_LOSSES] p s t))) ∧
      (∀ (broken : Bool) (radius : BitVec 16) (cycles : Nat), s.rd F.ENC_CTL_MODE e ≠ 2 → cycles < 640 →
        actsTo (.encoderLost ⟨e, broken, radius, cycles⟩) s [] [(F.ENC_STAT_LOST, e, s.rd F.ENC_STAT_LOST e)] (unitsKept railOf s)) ∧
      (∀ (broken : Bool) (radius : BitVec 16) (cycles : Nat), s.on F.ENC_STAT_LOST e = true → memN s.unitSafe (F.ENC_CTL_EN.addr e) = false →
        (s.rd F.ENC_CTL_MODE e = 2 ∧ (encOf s e).ssiBad < 3 ∨
          s.rd F.ENC_CTL_MODE e = 1 ∧ s.rd F.ENC_SINCOS_AMP_LO e ≤ radius.toNat ∧ radius.toNat ≤ s.rd F.ENC_SINCOS_AMP_HI e ∨
          s.rd F.ENC_CTL_MODE e ≠ 1 ∧ s.rd F.ENC_CTL_MODE e ≠ 2 ∧ broken = false) →
        actsTo (.encoderReturn ⟨e, broken, radius, cycles⟩) s [field F.ENC_STAT_LOST e, railRegs] [(F.ENC_STAT_LOST, e, 0)]
          (fun t => ∀ p : Fin 64, (railSrc s p = 1 → railSel s p = e → s.on F.RSRC_CTL_EN p = true →
              t.rd F.RSRC_STAT_LOST p = 0 ∧ (s.rd F.RSRC_STAT_LOST p = 1 → t.rd F.RSRC_STAT_AUTO_REANCHORED p = 1)) ∧
            (¬ (railSrc s p = 1 ∧ railSel s p = e) → kept [F.RSRC_STAT_LOST, F.RSRC_STAT_AUTO_REANCHORED] p s t)))) ∧
    (∀ j : Fin 8,
      (∀ (rising : Bool) (back : Fin 16) (q : Nat), q = 4 * s.now + 3 - back → s.on F.RSRC_LT_CTL_EN j = true →
        ((s.rd F.RSRC_LT_CTL_EDGE j = 2 ∨ (s.rd F.RSRC_LT_CTL_EDGE j = 0 ∧ rising = true) ∨ (s.rd F.RSRC_LT_CTL_EDGE j ≠ 0 ∧ rising = false)) →
          (∀ x ∈ (trkOf s j).evs, x < q) → ((trkOf s j).seen = true → (trkOf s j).qk ≠ q) →
          actsTo (.lineTrackerEdge j ⟨rising, back⟩) s [] [] (fun t => unitTo trkOf s t j { trkOf s j with evs := (trkOf s j).evs ++ [q] })) ∧
        ((s.rd F.RSRC_LT_CTL_EDGE j = 0 ∧ rising = false ∨ s.rd F.RSRC_LT_CTL_EDGE j = 1 ∧ rising = true) →
          actsTo (.lineTrackerEdge j ⟨rising, back⟩) s [] [] (unitsKept trkOf s))) ∧
      (∀ t q : Nat, s.trks = [(j.val, trkOf s j)] → (trkOf s j).evs = [q] →
        (q / 4 + 3 ≤ t → trkTick t s = trkEdge j q (setTrk j { trkOf s j with evs := [] } s)) ∧ (t < q / 4 + 3 → trkTick t s = s)) ∧
      (∀ q : Nat, s.on F.RSRC_LT_CTL_EN j = true →
        let t := trkEdge j q s
        ((trkOf s j).seen = false →
          regsBut [unitRegs F.RSRC_LT_CTL_EN j, railRegs] s t ∧ t.rd F.RSRC_LT_CNT_K j = 0 ∧ t.rd F.RSRC_LT_STAT_LOST j = 0 ∧ t.rd F.RSRC_LT_STAT_FLYWHEEL j = 0 ∧
            (trkOf t j).seen = true ∧ (trkOf t j).qk = q ∧ ⟨0x18 + j, true, q, max (s.now + 1) (q / 4 + 4)⟩ ∈ t.trigs) ∧
        ((trkOf s j).seen = true → s.on F.RSRC_LT_STAT_LOST j = false → s.on F.RSRC_LT_STAT_LOCKED j = true → trkOver s j q = false →
          (s.rd F.RSRC_LT_PER_EST j ≤ q - (trkOf s j).qk → (trkOf s j).real = true →
            regsBut [unitRegs F.RSRC_LT_CTL_EN j, railRegs] s t ∧ t.rd F.RSRC_LT_CNT_K j = wrapUp F.RSRC_LT_CNT_K j s ∧ t.rd F.RSRC_LT_STAT_FLYWHEEL j = 0 ∧
              t.rd F.RSRC_LT_PER_EST j = trkEst s j (((q - (trkOf s j).qk) :: (trkOf s j).ivs).take (trkN s j)) % 2 ^ 32 ∧
              (trkOf t j).ivs = ((q - (trkOf s j).qk) :: (trkOf s j).ivs).take (trkN s j) ∧ (trkOf t j).misses = 0) ∧
          (q - (trkOf s j).qk < s.rd F.RSRC_LT_PER_EST j →
            s.rd F.RSRC_LT_PER_EST j * s.rd F.RSRC_LT_CTL_WIN j < (s.rd F.RSRC_LT_PER_EST j - (q - (trkOf s j).qk)) * 256 →
            t = s.bump F.RSRC_LT_ERR_REJECTED j))) ∧
      (trkOver s j (4 * s.now + 3) = true → (trkOf s j).evs = [] → s.rd F.RSRC_LT_PER_EST j ≠ 0 →
        ((trkOf s j).misses + 1 ≤ s.rd F.RSRC_LT_CTL_MISS_MAX j →
          actsTo (.flywheelMiss j) s [unitRegs F.RSRC_LT_CTL_EN j]
            [(F.RSRC_LT_CNT_K, j, wrapUp F.RSRC_LT_CNT_K j s), (F.RSRC_LT_ERR_MISSED, j, satUp F.RSRC_LT_ERR_MISSED j s), (F.RSRC_LT_STAT_FLYWHEEL, j, 1),
              (F.RSRC_LT_STAT_LOST, j, s.rd F.RSRC_LT_STAT_LOST j)]
            (fun t => unitTo trkOf s t j { trkOf s j with qk := (trkOf s j).qk + s.rd F.RSRC_LT_PER_EST j, misses := (trkOf s j).misses + 1, real := false, e := 0 })) ∧
        (s.rd F.RSRC_LT_CTL_MISS_MAX j < (trkOf s j).misses + 1 → (∀ p : Fin 64, railSrc s p = 2 → railSel s p = j → s.on F.RSRC_CTL_LOSS_POL p = false) →
          actsTo (.flywheelMiss j) s [unitRegs F.RSRC_LT_CTL_EN j, railRegs]
            [(F.RSRC_LT_ERR_MISSED, j, satUp F.RSRC_LT_ERR_MISSED j s), (F.RSRC_LT_STAT_LOST, j, 1), (F.RSRC_LT_STAT_LOCKED, j, 0),
              (F.RSRC_LT_PER_EST, j, s.rd F.RSRC_LT_NOM_NOM j % 2 ^ F.RSRC_LT_PER_EST.width)]
            (fun t => (trkOf t j).ivs = [] ∧ ∀ i, i ≠ j.val → trkOf t i = trkOf s i))))

/-- While the fabric runs: 1,024 ticks after the end of its step a collecting lane enters UPDATE and its pass begins; a discarded cycle counts; a pass that has run its time writes the lane's word of every frame of the inactive half and no other byte of memory, and the last pass of an UPDATE without a divergence limit ends in SWAP_WAIT, of a CLOSING in OFF. -/
def Obligations.LearningRows : Prop :=
  ∀ (s : State), s.boot.stage = 0 → ∀ l : Fin 8,
    (laneSt s l = lsCollect → ∀ te, laneCloseAt s l = some te → te ≤ s.now →
      ∃ t, exec (.collectionClose l) s = .next t ∧ t.rd F.REF_STAT_STATE l = lsUpdate ∧ t.rd F.REF_STAT_PASS l = 1 ∧
        (laneOf t l).passes.length = 1 ∧ (laneOf t l).pstart = s.now ∧ (∀ k, k ≠ l.val → laneOf t k = laneOf s k) ∧
        regsBut ([reg F.REF_STAT_STATE l, reg F.REF_CNT_DISCARDS l, reg F.REF_ERR_LOST l] ++ records) s t ∧
        (∀ a, memRd t.pans a = memRd s.pans a) ∧
        ((laneOf s l).words = [] → (∀ a, memRd t.carafe a = memRd s.carafe a) ∧
          (((laneOf s l).rng = none ∨ (laneOf s l).tx = none ∨ (laneOf s l).lostSrc = true) →
            t.rd F.REF_CNT_DISCARDS l = satUp F.REF_CNT_DISCARDS l s ∧ ((laneOf s l).freeze = 0 → (laneOf t l).passes = [1])))) ∧
    (∀ k rest, (laneOf s l).passes = k :: rest → (laneOf s l).pstart + passTicks s l ≤ s.now →
      ∃ t, exec (.refinePassComplete l) s = .next t ∧
        (k ≠ 0 ∨ s.rd F.REF_WD_WD_N l = 0 → rest = [] →
          (laneSt s l = lsUpdate → t.rd F.REF_STAT_STATE l = lsSwapWait ∧ t.rd F.REF_STAT_PASS l = 0 ∧ (laneOf t l).donePass.isSome = true) ∧
          (laneSt s l = lsClosing → t.rd F.REF_STAT_STATE l = lsOff ∧ laneOf t l = { Lane.fresh with donePass := (laneOf t l).donePass, lastDone := s.now } ∧ (laneOf t l).donePass.isSome = true)) ∧
        (∀ j, j ≠ l.val → laneOf t j = laneOf s j) ∧ regsBut (unitRegs F.REF_CTL_EN l :: records) s t ∧
        (∀ a, memRd t.pans a = memRd s.pans a ∧
          ((∀ f < laneLen s l, ¬ ((segOf s (laneIdle s l)).base + 4 * (plyW s (lanePly s l) * f + laneW s l) ≤ a ∧
              a < (segOf s (laneIdle s l)).base + 4 * (plyW s (lanePly s l) * f + laneW s l) + 4)) → memRd t.carafe a = memRd s.carafe a)))

/-- A tick raises GLB_TICK by one while the fabric runs; during a start that kept its clock, and in a TRAIN of SERVICE, it raises GLB_TICK and chain time and changes nothing else; without power it changes nothing. -/
def Obligations.FabricTick : Prop :=
  ∀ (s : State),
    (powered s = true → s.boot.stage = 0 → ∃ t, exec .sampleFabricTick s = .next t ∧ t.rd F.GLB_TICK_TICK 0 = wrapUp F.GLB_TICK_TICK 0 s) ∧
    (powered s = true → s.boot.stage ≠ 0 → (s.boot.service = true ∨ s.boot.warm = true) →
      acts .sampleFabricTick s [reg F.GLB_TICK_TICK 0, reg F.GLB_CT_TICKS 0]
        [(F.GLB_TICK_TICK, 0, wrapUp F.GLB_TICK_TICK 0 s), (F.GLB_CT_TICKS, 0, wrapUp F.GLB_CT_TICKS 0 s), (F.GLB_CT_FRAC, 0, s.rd F.GLB_CT_FRAC 0)]) ∧
    ((powered s = false ∨ s.boot.stage ≠ 0 ∧ s.boot.service = false ∧ s.boot.warm = false) → acts .sampleFabricTick s [] [(F.GLB_TICK_TICK, 0, s.now)])

/-- While the fabric runs: an out-lane that is due sends one frame with its sequence number, its pattern, its slots and their CRC, and counts it; TRAIN ends after TRAIN_SF whole superframes, HOLD after one once the section is locked, CLOSING after two; the section's lock shows; an in-lane follows the sync headers, counts a good frame and takes its fields, or counts the bad one; a whole message whose echo is found gives HEAD and the round trip; sixteen round trips end MEASURE; 64 bad frames end RUN in ACQUIRE, or in ISOLATED at the eighth loss within a second. -/
def Obligations.FlumeRows : Prop :=
  ∀ (s : State), s.boot.stage = 0 →
    (∀ n : Fin 16,
      (olSt s n ≠ olOff → olDue s n = true → (olOf s n).lastT ≠ some s.now →
        actsTo (.outLaneFrame n) s [reg F.FLM_OL_EVT_SEQ n, reg F.FLM_OL_FRAMES_COUNT n]
          [(F.FLM_OL_EVT_SEQ, n, (olOf s n).seq % 2 ^ F.FLM_OL_EVT_SEQ.width), (F.FLM_OL_FRAMES_COUNT, n, wrapUp F.FLM_OL_FRAMES_COUNT n s)]
          (fun t => (olOf t n).seq = ((olOf s n).seq + 1) % 65536 ∧ (olOf t n).lastT = some s.now ∧ (∀ k, k ≠ n.val → olOf t k = olOf s k) ∧
            ∃ cmd mark slots, slots = (List.range 16).map (fun m => (tabGet (olOf s n).slots m).getD 0) ∧
              Out.frame n (olOf s n).seq (ctTicks s / pSlot s n % 256) cmd (olOf s n).pat mark slots
                (crc32 (frameBits (olOf s n).seq (ctTicks s / pSlot s n % 256) cmd (olOf s n).pat mark slots) 572) ∈ t.out)) ∧
      (olSt s n = olTrain → s.rd F.FLM_OL_CTL_TRAIN_SF n ≤ (olOf s n).sf →
        actsTo (.olTrainDone n) s [field F.FLM_OL_STAT_STATE n] [(F.FLM_OL_STAT_STATE, n, olRun)]
          (fun t => unitTo olOf s t n { olOf s n with sf := 0, whole := false, holds := 0 })) ∧
      (olSt s n = olHold → s.on F.CLK_STAT_FLUME_LOCK 0 = true → 1 ≤ (olOf s n).sf →
        acts (.olHoldExit n) s [field F.FLM_OL_STAT_STATE n] [(F.FLM_OL_STAT_STATE, n, olRun)]) ∧
      (olSt s n = olClosing → 2 ≤ (olOf s n).sf → acts (.olClosingDone n) s [field F.FLM_OL_STAT_STATE n] [(F.FLM_OL_STAT_STATE, n, olOff)])) ∧
    acts .lanePllLock s [field F.CLK_STAT_FLUME_LOCK 0] [(F.CLK_STAT_FLUME_LOCK, 0, 1)] ∧
    (∀ n : Fin 8,
      (∀ (hs : List (BitVec 2)) (seq : BitVec 16) (ct : BitVec 8) (stat : BitVec 4) (ha hb : BitVec 16) (ws : List Word) (crc : Word),
        let f := inFrame hs seq ct stat ha hb ws crc
        let v := ilOf s n
        let k := ilHeaders f.hdrs v.lock
        ((ilSt s n = ilAcquire ∨ ilSt s n = ilMeasure ∨ ilSt s n = ilRun) → k.had = true → ilSound f v.lock = true →
          (∀ c, v.ctLo = some c → ct.toNat = (c + v.since + 1) % 256) →
          ∃ t, exec (.inLaneFrame n seq ct ha hb ws ⟨hs, stat, crc⟩) s = .next t ∧ t.rd F.FLM_IL_FRAMES_COUNT n = wrapUp F.FLM_IL_FRAMES_COUNT n s ∧
            t.rd F.FLM_IL_HS_HSA n = ha.toNat ∧ (ilOf t n).bad = 0 ∧ (ilOf t n).seq = seq.toNat ∧ (ilOf t n).ctLo = some ct.toNat ∧
            (ilOf t n).words = f.words ∧ (ilOf t n).lock = k) ∧
        ((ilSt s n = ilAcquire ∨ ilSt s n = ilMeasure) →
          (k.had = false → actsTo (.inLaneFrame n seq ct ha hb ws ⟨hs, stat, crc⟩) s [] [] (fun t => unitTo ilOf s t n { v with lock := k })) ∧
          (k.had = true → ilSound f v.lock = true →
            ((∀ c, v.ctLo = some c → ct.toNat = (c + v.since + 1) % 256) →
              actsTo (.inLaneFrame n seq ct ha hb ws ⟨hs, stat, crc⟩) s [reg F.FLM_IL_HS_HSA n, reg F.FLM_IL_FRAMES_COUNT n, reg F.FLM_IL_ERR_SEQGAP n]
                [(F.FLM_IL_HS_HSA, n, ha.toNat), (F.FLM_IL_HS_HSB, n, hb.toNat), (F.FLM_IL_FRAMES_COUNT, n, wrapUp F.FLM_IL_FRAMES_COUNT n s),
                  (F.FLM_IL_ERR_SEQGAP, n, if v.ctLo.isSome ∧ seq.toNat ≠ (v.seq + 1) % 65536 then satUp F.FLM_IL_ERR_SEQGAP n s else s.rd F.FLM_IL_ERR_SEQGAP n)]
                (fun t => (ilOf t n).bad = 0 ∧ (ilOf t n).since = 0 ∧ ∀ k, k ≠ n.val → ilOf t k = ilOf s k)) ∧
            (∀ c, v.ctLo = some c → ct.toNat ≠ (c + v.since + 1) % 256 →
              actsTo (.inLaneFrame n seq ct ha hb ws ⟨hs, stat, crc⟩) s [reg F.FLM_IL_ERR_CTMIS n] [(F.FLM_IL_ERR_CTMIS, n, satUp F.FLM_IL_ERR_CTMIS n s)]
                (fun t => (ilOf t n).bad = v.bad + 1))) ∧
          (k.had = true → ilSound f v.lock = false →
            actsTo (.inLaneFrame n seq ct ha hb ws ⟨hs, stat, crc⟩) s [reg F.FLM_IL_ERR_CRC n] [(F.FLM_IL_ERR_CRC, n, satUp F.FLM_IL_ERR_CRC n s)]
              (fun t => (ilOf t n).bad = v.bad + 1 ∧ (ilOf t n).since = v.since + 1 ∧ (ilOf t n).sfOk = false ∧ (ilOf t n).lock = k ∧
                ∀ k, k ≠ n.val → ilOf t k = ilOf s k)))) ∧
      ((∀ d : Fin 16, ¬ (s.on F.DMD_CTL_EN d = true ∧ s.rd F.DMD_CTL_IN_KIND d = 1 ∧ s.rd F.DMD_CTL_IN_UNIT d / 16 = n.val)) →
        (∀ msg arr e, (ilSt s n = ilAcquire ∨ ilSt s n = ilMeasure ∨ ilSt s n = ilRun) → (ilOf s n).lock.sf = true → (ilOf s n).msg = some msg →
          ((olOf s (ilComp s n)).sent.find? (fun x => x.1 == bitsOf msg 71 8) = none →
            actsTo (.inLaneMessage n msg arr) s [field F.FLM_IL_ERR2_ECHO n] [(F.FLM_IL_ERR2_ECHO, n, satUp F.FLM_IL_ERR2_ECHO n s)]
              (fun t => unitTo ilOf s t n { ilOf s n with msg := none })) ∧
          ((olOf s (ilComp s n)).sent.find? (fun x => x.1 == bitsOf msg 71 8) = some e →
            actsTo (.inLaneMessage n msg arr) s [unitRegs F.FLM_IL_CTL_EN n]
              [(F.FLM_IL_HEAD_TURN, n, bitsOf msg 87 72), (F.FLM_IL_HEAD_SAMP, n, bitsOf msg 103 88), (F.FLM_IL_HEADID_OUTLAT, n, bitsOf msg 119 104),
                (F.FLM_IL_HEADID_HEAD_ID, n, bitsOf msg 135 120), (F.FLM_IL_HDEF_HDEF, n, bitsOf msg 191 136), (F.FLM_IL_RT_RT, n, (arr - e.2) % 65536),
                (F.FLM_IL_STAT_STATE, n, if ilSt s n = ilAcquire then ilMeasure else ilSt s n)]
              (fun t => (ilOf t n).msg = none ∧ (ilOf t n).seen = true))) ∧
        (∀ msg arr, (ilOf s n).msg ≠ some msg → actsTo (.inLaneMessage n msg arr) s [] [] (unitsKept ilOf s)) ∧
        (ilSt s n = ilMeasure → (ilOf s n).rts.length = 16 → cupInLane s n = false →
          actsTo (.ilMeasureDone n) s [field F.FLM_IL_STAT_STATE n, field F.FLM_IL_STAT_DRIFT n, reg F.FLM_IL_LAT_LAMBDA n, reg F.FLM_IL_RT_PROP n]
            [(F.FLM_IL_STAT_STATE, n, ilRun), (F.FLM_IL_STAT_DRIFT, n, 0), (F.FLM_IL_RT_PROP, n, uns 16 (ilProp s n ((ilOf s n).rts.foldl (· + ·) 0)))]
            (fun t => unitTo ilOf s t n { ilOf s n with drift := 0, bad := 0, relock := false })) ∧
        (ilSt s n = ilRun → 64 ≤ (ilOf s n).bad → ∀ r, r = (s.now :: (ilOf s n).losses).filter (fun x => decide (s.now < x + secTicks 1)) →
          actsTo (.ilLoss n) s [field F.FLM_IL_STAT_STATE n, reg F.FLM_IL_ERR2_LOSSES n]
            [(F.FLM_IL_ERR2_LOSSES, n, satUp F.FLM_IL_ERR2_LOSSES n s), (F.FLM_IL_STAT_STATE, n, if 8 ≤ r.length then ilIsolated else ilAcquire),
              (F.FLM_IL_ERR2_ISOLATIONS, n, if 8 ≤ r.length then satUp F.FLM_IL_ERR2_ISOLATIONS n s else s.rd F.FLM_IL_ERR2_ISOLATIONS n)]
            (fun t => (ilOf t n).losses = r ∧ (ilOf t n).rts = [] ∧ ∀ k, k ≠ n.val → ilOf t k = ilOf s k))))

/-- While the fabric runs: a rail's update that is due is applied where the rail is known, and removes its loss; a rail without an update for too long is LOST and its followers with it; due events reach the trigger matrix in order; the root raises its periodic pulse; at a superframe start PUBLISHING follows the enables; a fence that waits takes effect at its superframe; CT_LOAD sets chain time; STEER_HOLD ends after its time. -/
def Obligations.TreeClockRows : Prop :=
  ∀ (s : State), s.boot.stage = 0 →
    (∀ i : Fin 16,
      (∀ u ct, ct = s.ctOf s.eff / 256 → s.rake.updates.filter (fun x => x.id == i.val && decide (x.t + fenceAt s x.t ≤ ct)) = [u] → u.v < 2 ^ 32 →
        (∀ h ∈ s.rake.highs, h.id ≠ i.val) →
        ((chRailOf s i).seen = true → s.on F.RAKE_RSTAT_LOST i = false →
          actsTo (.chainRailApply i) s [field F.RAKE_RSTAT_LOST i, railRegs] [(F.RAKE_RSTAT_LOST, i, 0)]
            (fun t => (chRailOf t i).v % 2 ^ 32 = u.v ∧ (chRailOf t i).r = sgn 32 u.r ∧ (chRailOf t i).ts = u.t ∧ (chRailOf t i).t0 = s.now + 1 ∧
              t.rake.updates = s.rake.updates.filter (fun x => !(x.id == i.val && decide (x.t + fenceAt s x.t ≤ ct))) ∧
              ∀ k, k ≠ i.val → chRailOf t k = chRailOf s k)) ∧
        (((chRailOf s i).seen = false ∨ s.on F.RAKE_RSTAT_LOST i = true) →
          actsTo (.chainRailApply i) s [] [(F.RAKE_RSTAT_LOST, i, s.rd F.RAKE_RSTAT_LOST i)]
            (fun t => unitsKept chRailOf s t ∧
              t.rake.updates = s.rake.updates.filter (fun x => !(x.id == i.val && decide (x.t + fenceAt s x.t ≤ ct)))))) ∧
      (s.on F.RAKE_RSTAT_LOST i = false → (chRailOf s i).seen = true → (chRailOf s i).ts + 160 + fenceAt s (chRailOf s i).ts + 640 ≤ ctNow s →
        (∀ p : Fin 64, railSrc s p = 3 → railSel s p = i → s.on F.RSRC_CTL_LOSS_POL p = false) →
        actsTo (.chainRailLost i) s [field F.RAKE_RSTAT_LOST i, railRegs] [(F.RAKE_RSTAT_LOST, i, 1)]
          (fun t => (chRailOf t i).held = chRailX s i s.now ∧
            ∀ p : Fin 64, railSrc s p = 3 → railSel s p = i → s.on F.RSRC_CTL_EN p = true → t.rd F.RSRC_STAT_LOST p = 1))) ∧
    actsTo .chainEventAct s [] []
      (fun t => t.rake.acts = s.rake.acts.filter (fun e => !decide (e.2.2 ≤ ctNow s)) ∧
        t.trigs = s.trigs ++ (s.rake.acts.filter (fun e => decide (e.2.2 ≤ ctNow s))).map
          (fun e => ⟨if e.1 then 0xF0 else 0x20 + e.2.1, true, 4 * (s.now - (ctNow s - e.2.2)), s.now + 1⟩)) ∧
    ((role s = 1 ∨ role s = 3) → s.rd F.RAKE_PULSE_MODE 0 = 1 → ctNow s % (160 * 2 ^ s.rd F.RAKE_PULSE_PER 0) = 0 → s.on F.RAKE_CTL_EN 0 = true →
      s.rake.known.any (fun e => e == (true, 0, ctNow s)) = false →
      actsTo .periodicPulse s [reg F.RAKE_ERR_EV_DROP 0] []
        (fun t => t.rake.acts = s.rake.acts ++ [(true, 0, max (ctNow s + fenceAt s (ctNow s)) (ctNow s + 1))] ∧ (true, 0, ctNow s) ∈ t.rake.known)) ∧
    (s.on F.RAKE_CTL_EN 0 = true → ctNow s % 160 = 0 →
      actsTo .railPublish s ((List.range 16).map (fun i => reg F.RAKE_RSTAT_LOST i)) []
        (fun t => ∀ i : Fin 16,
          (s.on F.RAKE_RPUB_EN i = false → t.rd F.RAKE_RSTAT_PUBLISHING i = 0 ∧ tabGet t.rake.lastPub i = none) ∧
          (s.on F.RAKE_RPUB_EN i = true → (rkHead s = true ∨ tabGet s.rake.lastPub i = none) → t.rd F.RAKE_RSTAT_PUBLISHING i = 1) ∧
          (s.on F.RAKE_RPUB_EN i = true → (tabGet t.rake.lastPub i).bind List.head? =
            some (ctNow s, s.rd F.RSRC_RAIL_RAIL (s.rd F.RAKE_RPUB_PLAYER i) % 2 ^ 32)))) ∧
    (∀ sf f, s.rake.fencePend = some (sf, f) → sf ≤ sfNow s → f < 64 →
      actsTo .fenceChangeApply s [reg F.RAKE_STAT_FENCE_PEND 0] [(F.RAKE_STAT_FENCE_PEND, 0, 0), (F.RAKE_STAT_FENCE_ACT, 0, f)]
        (fun t => t.rake.fencePend = none ∧ (s.rd F.RAKE_STAT_FENCE_ACT 0 ≠ f → t.rake.fences.head? = some (sf, f)))) ∧
    (s.rake.ctLoad = true → ctNow s % 160 = 0 →
      actsTo .ctLoadApply s [reg F.GLB_CT_TICKS 0, (64 * 0x400000, 64 * 0x400400)]
        [(F.GLB_CT_TICKS, 0, s.rd F.RAKE_CT_LOAD_CT 0 / 256), (F.GLB_CT_FRAC, 0, s.rd F.RAKE_CT_LOAD_CT 0 % 256)]
        (fun t => t.rake.ctLoad = false ∧ t.rake.stepSf = some (sfNow t))) ∧
    (∀ u, s.rake.steerUntil = some u → u ≤ s.now →
      actsTo .steerHoldEnd s [field F.RAKE_STAT_STEER_HOLD 0] [(F.RAKE_STAT_STEER_HOLD, 0, 0)] (fun t => t.rake = { s.rake with steerUntil := none }))

/-- While the fabric runs: a port that is not JOINED sends one cell of 22 bytes with its CRC every 16 ticks; a bad cell counts, a good one counts and ends the run of bad ones, and the third K28.5 ten cells apart ends ALIGN in MEASURE; 64 bad cells end JOINED in ALIGN; a port whose 64 measurements show a delay in range is JOINED, RK_UP as a follower, a downward one with a delay beyond it is ISOLATED; without an upper neighbour for 100 ms AUTO makes the module root. -/
def Obligations.TreePortRows : Prop :=
  ∀ (s : State), s.boot.stage = 0 →
    (∀ n : Fin 4, cupRake s n = false →
      ((rkSt s n = rkAlign ∨ rkSt s n = rkMeasure) → ctNow s % 16 = 0 → (portOf s n).lastTx ≠ some s.now →
        actsTo (.rakeCellTransmit n) s [] [(F.RAKE_P_STAT_STATE, n, rkSt s n)]
          (fun t => (portOf t n).lastTx = some s.now ∧ (∀ k, k ≠ n.val → portOf t k = portOf s k) ∧
            ∃ bs, bs.length = 22 ∧ Out.cell n (ctNow s % 160 / 16) bs (crc16 bs) ∈ t.out)) ∧
      (∀ (k : Byte) (data : List Byte) (crc : BitVec 16) (viol : Bool) (stamp : BitVec 64), data.length = 22 →
        ((rkSt s n = rkAlign ∨ rkSt s n = rkMeasure ∨ rkSt s n = rkJoined) → (viol = true ∨ crc16 (data.map (·.toNat)) ≠ crc.toNat) →
          actsTo (.rakeCellReceive n k data crc viol stamp) s [(64 * 0x500000, 64 * 0x500200)] [(F.RAKE_P_ERR_BAD, n, satUp F.RAKE_P_ERR_BAD n s)]
            (fun t => (portOf t n).badRun = (portOf s n).badRun + 1 ∧ ∀ w, w ≠ n.val → portOf t w = portOf s w)) ∧
        (rkSt s n = rkAlign → (viol = true ∨ crc16 (data.map (·.toNat)) ≠ crc.toNat) →
          actsTo (.rakeCellReceive n k data crc viol stamp) s [field F.RAKE_P_ERR_BAD n] []
            (fun t => unitTo portOf s t n { portOf s n with badRun := (portOf s n).badRun + 1, goods := 0 })) ∧
        (rkSt s n = rkAlign → viol = false → crc16 (data.map (·.toNat)) = crc.toNat →
          (k.toNat = k281 → actsTo (.rakeCellReceive n k data crc viol stamp) s [reg F.RAKE_P_CELLS_COUNT n] [(F.RAKE_P_CELLS_COUNT, n, wrapUp F.RAKE_P_CELLS_COUNT n s)]
            (fun t => unitTo portOf s t n { portOf s n with badRun := 0, cell := (portOf s n).cell + 1 })) ∧
          (k.toNat = k285 → ∀ g, g = (if (portOf s n).goods ≠ 0 ∧ (portOf s n).cell = 9 then (portOf s n).goods + 1 else 1) →
            (g ≠ 3 →
              actsTo (.rakeCellReceive n k data crc viol stamp) s [reg F.RAKE_P_CELLS_COUNT n] [(F.RAKE_P_CELLS_COUNT, n, wrapUp F.RAKE_P_CELLS_COUNT n s)]
                (fun t => unitTo portOf s t n { portOf s n with badRun := 0, cell := 0, goods := g })) ∧
            (g = 3 →
              acts (.rakeCellReceive n k data crc viol stamp) s [reg F.RAKE_P_CELLS_COUNT n, field F.RAKE_P_STAT_STATE n]
                [(F.RAKE_P_CELLS_COUNT, n, wrapUp F.RAKE_P_CELLS_COUNT n s), (F.RAKE_P_STAT_STATE, n, rkMeasure)]))) ∧
        ((rkSt s n = rkMeasure ∨ rkSt s n = rkJoined) → viol = false → crc16 (data.map (·.toNat)) = crc.toNat →
          k.toNat = (if (portOf s n).cell = 0 then k285 else k281) →
          ∃ t, exec (.rakeCellReceive n k data crc viol stamp) s = .next t ∧ t.rd F.RAKE_P_CELLS_COUNT n = wrapUp F.RAKE_P_CELLS_COUNT n s ∧
            (portOf t n).badRun = 0)) ∧
      (n.val = 0 → rkSt s n = rkMeasure → 64 ≤ (portOf s n).meas → meanI (portOf s n).delays ≤ 81920 →
        ∃ t, exec (.rakeJoin n) s = .next t ∧ t.rd F.RAKE_P_STAT_STATE 0 = rkJoined ∧ role t = 2 ∧ t.rd F.CLK_STAT_RKUP_OK 0 = 1 ∧ t.rake.everJoined = true) ∧
      (n.val ≠ 0 → rkSt s n = rkMeasure → 64 ≤ (portOf s n).meas →
        (meanI (portOf s n).delays ≤ 81920 →
          actsTo (.rakeJoin n) s [(64 * 0x500000, 64 * 0x500100), field F.RAKE_P_STAT_STATE n] [(F.RAKE_P_STAT_STATE, n, rkJoined)]
            (fun t => (portOf t n).joinAt = s.now ∧ (portOf t n).badRun = 0 ∧ t.rake.change = some s.now)) ∧
        (81920 < meanI (portOf s n).delays →
          acts (.rakeJoin n) s [reg F.RAKE_P_STAT_STATE n, field F.RAKE_P_ERR_ISOLATIONS n]
            [(F.RAKE_P_STAT_STATE, n, rkIsolated), (F.RAKE_P_STAT_ICAUSE, n, 3), (F.RAKE_P_ERR_ISOLATIONS, n, satUp F.RAKE_P_ERR_ISOLATIONS n s)]))) ∧
    (∀ n : Fin 4, n.val ≠ 0 → rkSt s n = rkJoined → 64 ≤ (portOf s n).badRun →
      ((s.now :: (portOf s n).losses).filter (fun x => decide (s.now < x + secTicks 1))).length < 8 →
      actsTo (.rakePortLoss n) s [(64 * 0x500000, 64 * 0x500100), field F.RAKE_P_STAT_STATE n, field F.RAKE_P_ERR_LOSSES n]
        [(F.RAKE_P_STAT_STATE, n, rkAlign), (F.RAKE_P_ERR_LOSSES, n, satUp F.RAKE_P_ERR_LOSSES n s)]
        (fun t => (portOf t n).badRun = 0 ∧ t.rake.change = some s.now)) ∧
    (s.on F.RAKE_CTL_EN 0 = true → s.rd F.RAKE_CTL_ROLE 0 = 0 → role s = 0 → s.rake.enabledAt + msTicks 100 ≤ s.now → rkSt s 0 ≠ rkJoined →
      ∃ t, exec .roleAutoTimeout s = .next t ∧ t.rd F.RAKE_STAT_ROLE_ACT 0 = 1 ∧ t.rd F.GLB_ADDR_DEPTH 0 = 0 ∧ t.rd F.RAKE_P_STAT_STATE 0 = rkDown ∧
        t.rd F.RAKE_STAT_FENCE_ACT 0 = s.rd F.RAKE_CTL_FENCE 0 % 2 ^ F.RAKE_STAT_FENCE_ACT.width ∧ t.rake.change = some s.now ∧ bytesKept s t)

/-- While the fabric runs: a packet of the side channel that is bad or malformed is dropped and counted, LINK_INFO from above gives the depth; an assignment that ends clears ENUM_BUSY, AUTO_ENUM starts one 100 ms after the last change; no addressed command waits beyond its timeout, and every broadcast beyond its own is summed up. -/
def Obligations.TreeMessageRows : Prop :=
  ∀ (s : State), s.boot.stage = 0 →
    (∀ n : Fin 4,
      (∀ (bad : Bool) (bs : List Byte), (portOf s n).rx.whole.head? ≠ some (bad, bs.map (·.toNat)) → quiet s →
        actsTo (.sidePacketReceive n bad bs) s [] [] (unitsKept portOf s)) ∧
      (∀ (bad : Bool) (bs : List Byte) r, (portOf s n).rx.whole = (bad, bs.map (·.toNat)) :: r → rkSt s n = rkJoined → ∀ ws, ws = bytesWords (bs.map (·.toNat)) →
        ((bad = true ∨ bs.length % 4 ≠ 0 ∨ ws.length < 3 ∨ bitsOf (ws.getD 0 0) 15 0 ≠ ws.length ∨ crc32c ws.dropLast ≠ ws.getLastD 0 ∨
            bitsOf (ws.getD 0 0) 31 24 = 0 ∨ 5 < bitsOf (ws.getD 0 0) 31 24) →
          actsTo (.sidePacketReceive n bad bs) s [field F.RAKE_P_ERR2_SIDE_DROP n] [(F.RAKE_P_ERR2_SIDE_DROP, n, satUp F.RAKE_P_ERR2_SIDE_DROP n s)]
            (fun t => (portOf t n).rx = { (portOf s n).rx with whole := r })) ∧
        (∀ h : List Nat, ws = h ++ [crc32c h] → 3 ≤ h.length → bs.length % 4 = 0 → bitsOf (h.getD 0 0) 15 0 = ws.length → bitsOf (h.getD 0 0) 31 24 = kdLink →
          n.val = 0 → h.getD 2 0 / 2 ^ 16 < 16 → bad = false →
          acts (.sidePacketReceive n bad bs) s [field F.GLB_ADDR_DEPTH 0] [(F.GLB_ADDR_DEPTH, 0, h.getD 2 0 / 2 ^ 16 + 1)]))) ∧
    (s.on F.RAKE_STAT_ENUM_BUSY 0 = true →
      ∃ t, exec .enumComplete s = .next t ∧ t.rd F.RAKE_STAT_ENUM_BUSY 0 = 0 ∧ t.rake.enumJobs = [] ∧ t.rake.enumFull = false ∧
        t.rake.assigned = (assignTree s.rake.enumFull s).1 ∧ bytesKept s t ∧
        regsBut ([hostRegs, reg F.GLB_ADDR_ADDR 0, reg F.RAKE_STAT_ENUM_BUSY 0, reg F.RAKE_ERR_PIN_CONFLICT 0] ++ records) s t) ∧
    (∀ u, s.rake.change = some u → role s = 1 → s.on F.RAKE_CTL_AUTO_ENUM 0 = true → u + msTicks 100 ≤ s.now →
      actsTo .autoEnumDelay s [field F.RAKE_STAT_ENUM_BUSY 0] [(F.RAKE_STAT_ENUM_BUSY, 0, 1)]
        (fun t => t.rake = { s.rake with change := none })) ∧
    actsTo .chainForwardTimeout s [hostRegs] []
      (fun t => ∀ f ∈ t.rake.fwds, f ∈ s.rake.fwds ∧ ¬ (f.bcast = false ∧ f.from_ = [] ∧ f.due ≤ s.now)) ∧
    actsTo .broadcastSummaryTimeout s [hostRegs] []
      (fun t => t.rake.fwds.length = s.rake.fwds.length ∧
        ((s.rake.fwds.map (·.tag)).Nodup → ∀ f ∈ t.rake.fwds, f.bcast = true → f.due ≤ s.now → f.done = true))

/-- While the fabric runs: a request enters the queue in RUN, waits in DRAIN, and starts the exit from self-refresh; a clean read leaves the flight and its latency counts; a corrected unit is written back by a request at port 71; a missed deadline counts once; a refresh that a request of rank 1 or 2 holds back is owed; the activate window ends; automatic self-refresh drains, enters and exits; a patrol starts when its period has passed; a drift moves the lane delays; above 85 °C a DRAM refreshes at the double rate, above 105 °C the device enters SAFE, below 95 °C OVERTEMP ends. -/
def Obligations.CarafeRows : Prop :=
  ∀ (s : State), s.boot.stage = 0 →
    (∀ (p : Fin 72) (wr : Bool) (a : BitVec 34) (n : Nat) (d : Option Nat),
      (carPwr s = pwRun → actsTo (.carafeRequest p wr a n d) s [] []
        (fun t => t.car = { s.car with lastReq := s.now, reqs := s.car.reqs ++ [⟨p, wr, a.toNat, n, s.now, d, false, 0, []⟩] })) ∧
      (carPwr s = pwDrain → portBulk p = true → actsTo (.carafeRequest p wr a n d) s [] []
        (fun t => t.car = { s.car with lastReq := s.now, held := s.car.held ++ [⟨p, wr, a.toNat, n, s.now, d, false, 0, []⟩] })) ∧
      (carPwr s = pwDrain → portBulk p = false →
        actsTo (.carafeRequest p wr a n d) s [field F.CAR_STAT_PWR 0, field F.CAR_PWR_ABORTS 0]
          [(F.CAR_STAT_PWR, 0, pwRun), (F.CAR_PWR_ABORTS, 0, satUp F.CAR_PWR_ABORTS 0 s)] (fun t => t.car.held = [])) ∧
      (carPwr s = pwSr → mode s ≠ mdShelf →
        actsTo (.carafeRequest p wr a n d) s [field F.CAR_STAT_PWR 0] [(F.CAR_STAT_PWR, 0, pwExit)]
          (fun t => t.car.held = s.car.held ++ [⟨p, wr, a.toNat, n, s.now, d, false, 0, []⟩]))) ∧
    (∀ (p : Fin 72) (lat : Nat) (r : CarReq), 64 ≤ p.val → s.car.flight.find? (fun x => x.port == p.val) = some r →
      actsTo (.carafeReadComplete p lat [] []) s [reg F.CAR_PORT_LAT_LAT_MAX p]
        [(F.CAR_PORT_LAT_LAT_MAX, p, max (s.rd F.CAR_PORT_LAT_LAT_MAX p) (min lat 65535) % 2 ^ F.CAR_PORT_LAT_LAT_MAX.width),
          (F.CAR_PORT_LAT_OVER400, p, if 400 < lat then satUp F.CAR_PORT_LAT_OVER400 p s else s.rd F.CAR_PORT_LAT_OVER400 p)]
        (fun t => t.car = { s.car with flight := delReq r s.car.flight })) ∧
    (s.car.wbs = [] → actsTo .eccWriteback s [] [] (fun t => t.car = s.car)) ∧
    (∀ u r, s.car.wbs = u :: r → carPwr s = pwRun →
      actsTo .eccWriteback s [] [] (fun t => t.car = { s.car with
        wbs := r, lastReq := s.now, reqs := s.car.reqs ++ [⟨71, true, 64 * u, 64, s.now, none, false, 200, []⟩] })) ∧
    (∀ p : Fin 72, ∀ l, l = s.car.reqs.filter (fun r => r.port == p.val && !r.missed && (match r.deadline with | some d => decide (d ≤ s.now) | none => false)) →
      s.car.held = [] →
      actsTo (.deadlineMiss p) s [field F.CAR_PORT_EVT_DL_MISS p]
        [(F.CAR_PORT_EVT_DL_MISS, p, min (s.rd F.CAR_PORT_EVT_DL_MISS p + l.length) (2 ^ F.CAR_PORT_EVT_DL_MISS.width - 1))]
        (fun t => ∀ r ∈ t.car.reqs, r.port = p.val → (∃ d, r.deadline = some d ∧ d ≤ s.now) → r.missed = true)) ∧
    (∀ m : Fin 4, 100 * s.now < (tabGet s.car.refAt m).getD 0 → actsTo (.refreshDue m) s [] [] (fun t => t.car = s.car)) ∧
    (∀ m : Fin 4, carServes s = true → (tabGet s.car.refAt m).getD 0 ≤ 100 * s.now →
      (∀ a, (tabGet s.car.ahead m).getD 0 = a + 1 → actsTo (.refreshDue m) s [] [] (fun t => (tabGet t.car.ahead m).getD 0 = a)) ∧
      ((tabGet s.car.ahead m).getD 0 = 0 → refWaits s m = true → owed s m < 8 →
        actsTo (.refreshDue m) s [field F.CAR_REF_STAT_OWED 0] [] (fun t => owed t m = owed s m + 1 ∧ ∀ k : Fin 4, k ≠ m → owed t k = owed s k)) ∧
      ((tabGet s.car.ahead m).getD 0 = 0 → refWaits s m = false → s.on F.CAR_REF_MODE 0 = false →
        actsTo (.refreshDue m) s [] []
          (fun t => (bankOf t (16 * m + (tabGet s.car.nextBank m).getD 0)).row = none ∧
            (tabGet t.car.nextBank m).getD 0 = ((tabGet s.car.nextBank m).getD 0 + 1) % 16))) ∧
    (s.car.rhAt + usTicks 32000 ≤ s.now → actsTo .rowHammerWindowEnd s [] [] (fun t => t.car.rhAt = s.now ∧ t.car.thr = [] ∧ t.car.thrUse = [] ∧ (∀ b ∈ t.car.banks, b.2.trk = []) ∧ t.car.reqs = s.car.reqs)) ∧
    (srAuto s = true → acts .selfRefreshIdle s [field F.CAR_STAT_PWR 0] [(F.CAR_STAT_PWR, 0, pwDrain)]) ∧
    (carPwr s = pwDrain →
      acts .srDrainDone s [field F.CAR_STAT_PWR 0, field F.CAR_REF_STAT_OWED 0, field F.CAR_PWR_BOUNCES 0]
        [(F.CAR_STAT_PWR, 0, if s.car.held = [] then pwSr else pwExit), (F.CAR_REF_STAT_OWED, 0, 0),
          (F.CAR_PWR_BOUNCES, 0, if s.car.held = [] then s.rd F.CAR_PWR_BOUNCES 0 else satUp F.CAR_PWR_BOUNCES 0 s)]) ∧
    (carPwr s = pwExit →
      actsTo .srExitDone s [field F.CAR_STAT_PWR 0] [(F.CAR_STAT_PWR, 0, pwRun)]
        (fun t => t.car = { s.car with lastReq := s.now, reqs := s.car.reqs ++ s.car.held, held := [] })) ∧
    (s.on F.CAR_CTL_SCRUB_EN 0 = true → carServes s = true → s.car.scrubAt + secTicks (60 * s.rd F.CAR_SCRUB_PERIOD 0) ≤ s.now →
      actsTo .patrolScrubStart s [] [] (fun t => t.car = { s.car with scrub := some 0, scrubAt := s.now })) ∧
    (∀ adj : List Int, adj.length = s.car.delays.length → s.car.driftAt + usTicks 100000 ≤ s.now →
      actsTo (.dramDriftTrack adj) s [] [] (fun t => t.car.driftAt = s.now ∧ t.car.delays = (s.car.delays.zip adj).map (fun e => e.1 + e.2))) ∧
    (∀ (m : Fin 4) (x : Int), s.car.temps.length = 4 → (x < 1520 → ∀ y ∈ s.car.temps, y < 1520) → -32768 ≤ x → x < 32768 → (∀ y ∈ s.car.temps, y ≤ 1680) →
      (x ≤ 1680 → acts (.dramTempChange m x) s [reg F.CAR_REF_STAT_RATE2X 0, reg F.CAR_STAT_HOT 0, reg F.PWR_TEMP_DRAM 0]
        [(F.CAR_STAT_OVERTEMP, 0, if x < 1520 then 0 else s.rd F.CAR_STAT_OVERTEMP 0)]) ∧
      (1680 < x → s.on F.CAR_STAT_OVERTEMP 0 = false →
        ∃ t, exec (.dramTempChange m x) s = .next t ∧ t.rd F.CAR_STAT_OVERTEMP 0 = 1 ∧ t.rd F.CAR_STAT_HOT 0 = 1 ∧
          t.rd F.CAR_REF_STAT_RATE2X 0 / 2 ^ m.val % 2 = 1 ∧ t.rd F.PWR_TEMP_DRAM 0 = uns 16 x ∧
          (mode s = mdSetup ∨ mode s = mdArmed ∨ mode s = mdRun ∨ mode s = mdHold → mode t = mdSafe)))

/-- While the fabric runs: the background test visits the next slice when its interval has passed, leaves it 192 ticks later, and a failing word shows; a full test ends with the pan zero; a handover takes effect; a pan that wakes is awake and its SLEEP bit 0; a queue whose pointers differ from their copy is flushed and counts it. -/
def Obligations.PanRows : Prop :=
  ∀ (s : State), s.boot.stage = 0 →
    (∀ (fails : List (Fin 64)) (broken : Bool),
      (s.panX.slice = none → s.on F.PAN_MBIST_EN 0 = true → s.panX.visited + usTicks (s.rd F.PAN_MBIST_INTERVAL 0) ≤ s.now →
        ∀ c, mbistNext s s.panX.cursor 17 = some c → c < 2048 →
        actsTo (.mbistSlice fails broken) s [field F.PAN_STAT_SLICE (c / 128)] [(F.PAN_STAT_SLICE, c / 128, 1)]
          (fun t => t.panX = { s.panX with slice := some (c / 128, c % 128), cursor := c, visited := s.now, found := fails.map (·.val), broken := broken })) ∧
      ((s.panX.slice.isSome = true ∨ s.on F.PAN_MBIST_EN 0 = false ∨ s.now < s.panX.visited + usTicks (s.rd F.PAN_MBIST_INTERVAL 0)) →
        actsTo (.mbistSlice fails broken) s [] [] (fun t => t.panX = s.panX))) ∧
    (∀ k i : Nat, s.panX.slice = some (k, i) → k < 16 → i < 128 →
      (s.now < s.panX.visited + 192 → mbistTick s = s) ∧
      (s.panX.visited + 192 ≤ s.now →
        (s.panX.broken = false → (mbistTick s).rd F.PAN_STAT_SLICE k = 0 ∧
          (mbistTick s).panX = { s.panX with slice := none, found := [], broken := false, cursor := (128 * k + i + 1) % 2048 } ∧
          (s.panX.found = [] → regsBut [field F.PAN_STAT_SLICE k] s (mbistTick s)) ∧
          (∀ w, s.panX.found = [w] → w < 64 → (mbistTick s).rd F.PAN_MBIST_STAT_FAIL 0 = 1 ∧ (mbistTick s).rd F.PAN_MBIST_FAIL_PAN 0 = k ∧
            (mbistTick s).rd F.PAN_MBIST_FAIL_WORD 0 = 64 * i + w)) ∧
        (s.panX.broken = true → (mbistTick s).rd F.PAN_MBIST_STAT_YIELDS 0 = satUp F.PAN_MBIST_STAT_YIELDS 0 s ∧ (mbistTick s).panX.slice = none))) ∧
    (∀ k : Fin 16,
      (s.on F.PAN_STAT_TEST_BUSY k = true →
        ∃ t, exec (.fullMarchDone k []) s = .next t ∧ t.rd F.PAN_STAT_TEST_BUSY k = 0 ∧ regsBut (field F.PAN_STAT_TEST_BUSY k :: records) s t ∧
          ∀ a, memRd t.carafe a = memRd s.carafe a ∧ memRd t.pans a = (if 262144 * k ≤ a ∧ a < 262144 * k + 262144 then 0 else memRd s.pans a)) ∧
      (∀ o, s.panX.hand.filter (fun e => e.1 == k.val) = [(k.val, false, o)] → o ≤ 8 → o ≠ owMbist → o ≠ owRefine →
        panOwner s k ≠ owPlayer → panOwner s k ≠ owMbist → panOwner s k ≠ owRefine → s.panGrants.filter (fun e => e.2 == k.val) = [] →
        actsTo (.panHandoverDone k) s [reg F.PAN_OWN_OWNER k, field F.PAN_STAT_HANDOVER k] [(F.PAN_OWN_OWNER, k, o), (F.PAN_STAT_HANDOVER, k, 0)]
          (fun t => t.panX.hand = s.panX.hand.filter (fun e => e.1 != k.val))) ∧
      (s.on F.PAN_STAT_WAKING k = true → s.hst.heldX = [] → (∀ x : Fin 8, s.on F.HST_XR_CTL_EN x = false) →
        acts (.panWakeDone k) s [field F.PAN_STAT_WAKING k, field F.PAN_STAT_ASLEEP k, reg F.PAN_RET_SLEEP 0]
          [(F.PAN_STAT_WAKING, k, 0), (F.PAN_STAT_ASLEEP, k, 0),
            (F.PAN_RET_SLEEP, 0, s.rd F.PAN_RET_SLEEP 0 - (if bitOf (s.rd F.PAN_RET_SLEEP 0) k then 2 ^ k.val else 0))])) ∧
    (∀ (q : Fin 128) (p : Fin 7) (x y : Word), (quOf s q).held = false → (quOf s q).writer = none →
      actsTo (.queuePointerFault q p x y) s (queueSpan q)
        [(F.BRN_ERR_PTR, q, satUp F.BRN_ERR_PTR q s), (F.BRN_WP_PTR, q, 0), (F.BRN_CP_PTR, q, 0), (F.BRN_RP_PTR, q, 0), (F.BRN_IPTR_ICP, q, 0), (F.BRN_IPTR_IRP, q, 0)]
        (fun t => (quOf t q).opened = false ∧ (quOf t q).words = 0 ∧ ∀ r, r ≠ q.val → quOf t r = quOf s r))

/-- While the fabric runs and outside CUPPING: loss of REFIN shows and, where REFIN is selected, counts as a loss, moves the tick to the standby PLL and takes SETUP, ARMED and RUN to COAST; REFIN present shows; a sample PLL that locks to a present reference shows its lock and, on the standby PLL, measures the offset and walks it or waits, or returns to the sample PLL at once where no relation holds; an unlock shows, the sample PLL's like a loss; the end of the walk counts a return and moves the tick back. -/
def Obligations.ClockRows : Prop :=
  ∀ (s : State), s.boot.stage = 0 → mode s ≠ mdCupping →
    (s.on F.CLK_STAT_REFIN_OK 0 = true →
      (refSel s ≠ 0 → acts .refinLoss s [field F.CLK_STAT_REFIN_OK 0] [(F.CLK_STAT_REFIN_OK, 0, 0)]) ∧
      (refSel s = 0 →
        actsTo .refinLoss s [(64 * 0x10000, 64 * 0x20000), (64 * 0x400000, 64 * 0x400400)]
          [(F.CLK_STAT_REFIN_OK, 0, 0), (F.CLK_EVT_LOSSES, 0, satUp F.CLK_EVT_LOSSES 0 s), (F.CLK_STAT_SPLL_LOCK, 0, 0), (F.CLK_STAT_ON_STANDBY, 0, 1)]
          (fun t => (mode s = mdSetup ∨ mode s = mdArmed ∨ mode s = mdRun → mode t = mdCoast) ∧ t.clk.walk = none ∧ t.clk.wait = none))) ∧
    acts .refinPresent s [field F.CLK_STAT_REFIN_OK 0] [(F.CLK_STAT_REFIN_OK, 0, 1)] ∧
    (∀ x : Int, refPresent s = true →
      (s.on F.CLK_STAT_ON_STANDBY 0 = false →
        acts (.samplePllLock x) s [reg F.CLK_STAT_SPLL_LOCK 0] [(F.CLK_STAT_SPLL_LOCK, 0, 1), (F.CLK_STAT_ACT, 0, refSel s)]) ∧
      (s.on F.CLK_STAT_ON_STANDBY 0 = true → s.clk.walk = none → s.clk.wait = none →
        (s.clk.relation = false →
          acts (.samplePllLock x) s [(64 * 0x10000, 64 * 0x20000), (64 * 0x400000, 64 * 0x400400)]
            [(F.CLK_STAT_SPLL_LOCK, 0, 1), (F.CLK_STAT_ON_STANDBY, 0, 0), (F.CLK_OFFSET_O, 0, 0)]) ∧
        (s.clk.relation = true → s.rake.islandO = none → ∀ o, o = (if refSel s = 0 then reduceO s x else x) →
          actsTo (.samplePllLock x) s [(64 * 0x10000, 64 * 0x20000)]
            [(F.CLK_STAT_SPLL_LOCK, 0, 1), (F.CLK_OFFSET_O, 0, uns 64 o), (F.CLK_REMAIN_REMAIN, 0, uns 64 o),
              (F.CLK_STAT_SLEWING, 0, if s.rd F.CLK_REF_POLICY 0 = 0 ∧ o.natAbs ≤ s.rd F.CLK_SLEW_MAX_MAX 0 * 160 * 256 then 1 else s.rd F.CLK_STAT_SLEWING 0),
              (F.CLK_STAT_STEP_PEND, 0, if s.rd F.CLK_REF_POLICY 0 = 0 ∧ o.natAbs ≤ s.rd F.CLK_SLEW_MAX_MAX 0 * 160 * 256 then 0 else 1)]
            (fun t => t.clk.relation = true ∧
              (if s.rd F.CLK_REF_POLICY 0 = 0 ∧ o.natAbs ≤ s.rd F.CLK_SLEW_MAX_MAX 0 * 160 * 256 then
                t.clk.walk = some (o, s.now, s.rd F.CLK_REF_SLEW_PPM 0) else t.clk.wait = some o))))) ∧
    (s.on F.CLK_STAT_SPLL_LOCK 0 = true →
      acts (.pllUnlock 0) s [(64 * 0x10000, 64 * 0x20000), (64 * 0x400000, 64 * 0x400400)]
        [(F.CLK_STAT_SPLL_LOCK, 0, 0), (F.CLK_STAT_ON_STANDBY, 0, 1), (F.CLK_EVT_UNLOCKS, 0, if refPresent s then satUp F.CLK_EVT_UNLOCKS 0 s else s.rd F.CLK_EVT_UNLOCKS 0)]) ∧
    acts (.pllUnlock 1) s [field F.CLK_STAT_STBY_LOCK 0] [(F.CLK_STAT_STBY_LOCK, 0, 0)] ∧
    acts (.pllUnlock 3) s [field F.CLK_STAT_FLUME_LOCK 0] [(F.CLK_STAT_FLUME_LOCK, 0, 0)] ∧
    acts (.pllUnlock 4) s [field F.CLK_STAT_RAKE_LOCK 0] [(F.CLK_STAT_RAKE_LOCK, 0, 0)] ∧
    (∀ o t0 ppm, s.clk.walk = some (o, t0, ppm) → t0 + walkTicks o ppm ≤ s.now →
      actsTo .slewWalkDone s [(64 * 0x10000, 64 * 0x20000), (64 * 0x400000, 64 * 0x400400)]
        [(F.CLK_EVT_RETURNS, 0, satUp F.CLK_EVT_RETURNS 0 s), (F.CLK_STAT_SLEWING, 0, 0), (F.CLK_REMAIN_REMAIN, 0, 0), (F.CLK_STAT_ON_STANDBY, 0, 0)]
        (fun t => t.clk.walk = none ∧ (s.on F.CLK_STAT_ON_STANDBY 0 = true → mode s = mdCoast → mode t ≠ mdCoast)))

/-- While the fabric runs: a step of a full run that ends applies its results, or leaves its number in FAIL_STEP where it is the first to fail, and the next step begins; the last step, with nothing stored any more, ends the run: BUSY and STEP read 0, CUP_CT holds chain time, and the mode is SERVICE where the run came from there; a partial run ends in one step; the command that asked for it is answered. -/
def Obligations.CuppingRows : Prop :=
  ∀ (s : State), s.boot.stage = 0 → ∀ c, s.cup = some c →
    (c.scope = 0 → ∀ k, k = s.rd F.CUP_STAT_STEP 0 →
      (k < 9 → k ≠ 5 → k ≠ 6 → k ≠ 8 →
        actsTo (.cupStepDone true []) s [field F.CUP_STAT_STEP 0] [(F.CUP_STAT_STEP, 0, k + 1)] (fun t => t.cup = some c ∧ t.cal = s.cal) ∧
        acts (.cupStepDone false []) s [field F.CUP_STAT_STEP 0, field F.CUP_STAT_FAIL_STEP 0]
          [(F.CUP_STAT_STEP, 0, k + 1), (F.CUP_STAT_FAIL_STEP, 0, if s.rd F.CUP_STAT_FAIL_STEP 0 = 0 then k else s.rd F.CUP_STAT_FAIL_STEP 0)]) ∧
      (k = 2 → ∀ v : Int, acts (.cupStepDone true [(1, 0, v)]) s [field F.CUP_STAT_STEP 0, reg F.CUP_TEMP_TEMP 0]
        [(F.CUP_STAT_STEP, 0, 3), (F.CUP_TEMP_TEMP, 0, uns 16 v)]) ∧
      (k = 9 → s.nvm.ops = [] → ∀ b, b.id = c.job → jobWaits b s →
        actsTo (.cupStepDone true []) s [hostRegs, reg F.CUP_STAT_STEP 0, reg F.CUP_CT_CT 0]
          [(F.CUP_STAT_BUSY, 0, 0), (F.CUP_STAT_STEP, 0, 0), (F.CUP_CT_CT, 0, s.ct % 2 ^ 64)]
          (fun t => t.cup = none ∧ jobDone b stOk [] t ∧ (c.back = mdService → mode t = mdService)))) ∧
    (c.scope ≠ 0 → ∀ b, b.id = c.job → jobWaits b s →
      actsTo (.cupPartialDone []) s [hostRegs, reg F.CUP_STAT_STEP 0, reg F.CUP_CT_CT 0]
        [(F.CUP_STAT_BUSY, 0, 0), (F.CUP_STAT_STEP, 0, 0), (F.CUP_CT_CT, 0, s.ct % 2 ^ 64)]
        (fun t => t.cup = none ∧ t.cal = s.cal ∧ jobDone b stOk [] t))

/-- Each row completes: it answers a next state. While the module is powered, whatever operations wait behind the one that ends: SHELF_STORE_DONE leaves the image in the slot that the store targeted, with its generation, and STORING 0, or starts the store of the newest image where one was asked for meanwhile; NVM_STORE_DONE does the same for a calibration and for a boot record, which NVM_BOOT.NEXT then shows, and its command is answered OK; PIN_COPY_DONE makes the segment PINNED and UNPIN_DONE takes that back or ends a cancelled copy, each answered with the descriptor; FW_PROGRAM_DONE ands the words into the slot that did not boot, a sector first erased, and the slot is no longer valid; FW_IMAGE_CHECK_DONE answers BAD_PARAM and counts, or leaves a boot record to be stored; NVM_ERASE_DONE empties the region; AUDIT_PROGRAM keeps the next entry of the mirror; MIRROR_REBUILD_DONE fills the mirror with the entries that it lacks. No register outside those of the stores differs, and no byte of memory. -/
def Obligations.StoreRows : Prop :=
  ∀ (s : State), powered s = true →
    (∀ img rest, s.nvm.ops = .shelf img :: rest →
      actsTo .shelfStoreDone s [(64 * 0x800800, 64 * 0x801000), field F.GLB_BATCH_STORING 0] []
        (fun t => tabGet t.nvm.shelves (nvTarget s 2).1 = some img ∧
          (s.nvm.again = false → t.nvm.ops = rest ∧ t.rd F.GLB_BATCH_STORING 0 = 0 ∧
            (rest = [] → t.rd F.NVM_STAT_BUSY 0 = 0 ∧ (s.nvm.gens.length = 6 → genOf t (2 + (nvTarget s 2).1) = (nvTarget s 2).2))) ∧
          (s.nvm.again = true → ∀ i, s.nvm.staged = some i → t.nvm.ops = rest ++ [.shelf i] ∧ t.nvm.again = false))) ∧
    (∀ j img rest, s.nvm.ops = .cal j img :: rest →
      actsTo .nvmStoreDone s [hostRegs, (64 * 0x800800, 64 * 0x801000)] []
        (fun t => t.nvm.ops = rest ∧ tabGet t.nvm.cals (nvTarget s 0).1 = some img ∧
          (∀ x : Job, j = some x.id → jobWaits x s → jobDone x stOk [(nvTarget s 0).2] t) ∧
          (rest = [] → t.rd F.NVM_STAT_BUSY 0 = 0 ∧ (s.nvm.gens.length = 6 → genOf t (nvTarget s 0).1 = (nvTarget s 0).2)))) ∧
    (∀ j slot bl cl rest, s.nvm.ops = .boot j slot bl cl :: rest → slot < 2 →
      actsTo .nvmStoreDone s [hostRegs, (64 * 0x800800, 64 * 0x801000)] [(F.NVM_BOOT_NEXT, 0, slot)]
        (fun t => t.nvm.ops = rest ∧ tabGet t.nvm.boots (nvTarget s 4).1 = some (slot, bl, cl) ∧
          (∀ x : Job, j = some x.id → jobWaits x s → jobDone x stOk [] t) ∧
          (rest = [] → t.rd F.NVM_STAT_BUSY 0 = 0 ∧ (s.nvm.gens.length = 6 → (nvTarget s 4).2 ≠ 0 → bootRec t = (slot, bl, cl))))) ∧
    (∀ i j rest, s.boot.stage = 0 → s.nvm.ops = .pin i j :: rest →
      actsTo .pinCopyDone s [hostRegs, (64 * 0x800800, 64 * 0x801000)] []
        (fun t => t.nvm.ops = rest ∧ segOf t i = { segOf s i with state := 4, pin := none } ∧ (∃ p ∈ t.nvm.pins, p.seg = i ∧ p.desc = segOf t i) ∧
          (∀ k, k ≠ i → segOf t k = segOf s k) ∧ (∀ b : Job, b.id = j → jobWaits b s → jobDone b stOk (segWords (segOf t i)) t) ∧
          (rest = [] → t.rd F.NVM_STAT_BUSY 0 = 0))) ∧
    (∀ i : Fin 262144, s.boot.stage = 0 →
      (∀ j, (segOf s i).pin = some (j, true) →
        actsTo (.unpinDone i) s [hostRegs] [] (fun t => segOf t i = { segOf s i with pin := none } ∧ (∀ k, k ≠ i.val → segOf t k = segOf s k) ∧
          ∀ b : Job, b.id = j → jobWaits b s → jobDone b stOk (segWords (segOf t i)) t)) ∧
      (∀ j rest, (∀ k, (segOf s i).pin ≠ some (k, true)) → s.nvm.ops = .unpin i j :: rest → (segOf s i).state = 4 →
        actsTo (.unpinDone i) s [hostRegs, (64 * 0x800800, 64 * 0x801000)] []
          (fun t => t.nvm.ops = rest ∧ segOf t i = { segOf s i with state := if 0 < (segOf s i).locks then 3 else 2 } ∧
            (∀ k, k ≠ i.val → segOf t k = segOf s k) ∧ (∀ p ∈ t.nvm.pins, p.seg ≠ i.val) ∧
            (∀ b : Job, b.id = j → jobWaits b s → jobDone b stOk (segWords (segOf t i)) t) ∧ (rest = [] → t.rd F.NVM_STAT_BUSY 0 = 0)))) ∧
    (∀ j off ws rest, s.nvm.ops = .fwWrite j off ws :: rest →
      let o := fwOther s
      actsTo .fwProgramDone s [hostRegs, (64 * 0x800800, 64 * 0x801000)] []
        (fun t => t.nvm.ops = rest ∧ bitOf t.nvm.valid o = false ∧ (∀ b : Job, b.id = j → jobWaits b s → jobDone b stOk [] t) ∧
          (rest = [] → t.rd F.NVM_STAT_BUSY 0 = 0) ∧
          (off % 65536 ≠ 0 → ∀ k < ws.length, tabGet t.nvm.fw (o * 2 ^ 21 + off / 4 + k) =
            some ((tabGet s.nvm.fw (o * 2 ^ 21 + off / 4 + k)).getD (fwWordOf (bitOf s.nvm.fwBlank o) [] (off / 4 + k)) &&& ws.getD k 0)) ∧
          (off % 65536 = 0 → ∀ k < ws.length, k < 16384 → tabGet t.nvm.fw (o * 2 ^ 21 + off / 4 + k) = some (0xFFFFFFFF &&& ws.getD k 0)))) ∧
    (∀ j slot rest, s.nvm.checks = (j, slot) :: rest →
      actsTo (.fwImageCheckDone false) s [hostRegs, (64 * 0x800800, 64 * 0x801000)] [(F.NVM_ERR_CHECKFAIL, 0, satUp F.NVM_ERR_CHECKFAIL 0 s)]
        (fun t => t.nvm.checks = rest ∧ t.nvm.ops = s.nvm.ops ∧ bitOf t.nvm.valid slot = false ∧
          ∀ b : Job, b.id = j → jobWaits b s → jobDone b stBadParam [] t) ∧
      actsTo (.fwImageCheckDone true) s [(64 * 0x800800, 64 * 0x801000)] []
        (fun t => t.nvm.checks = rest ∧ bitOf t.nvm.valid slot = true ∧ t.nvm.ops = s.nvm.ops ++ [.boot (some j) slot (bootRec s).2.1 (bootRec s).2.2] ∧
          (s.nvm.ops = [] → s.on F.PWR_STAT_PF 0 = false → t.rd F.NVM_STAT_BUSY 0 = 1 ∧ t.rd F.NVM_STAT_OP 0 = 5))) ∧
    (∀ r rest, s.nvm.ops = .erase r :: rest →
      actsTo .nvmEraseDone s [(64 * 0x800800, 64 * 0x801000)] []
        (fun t => t.nvm.ops = rest ∧ (rest = [] → t.rd F.NVM_STAT_BUSY 0 = 0) ∧ (r = 1 → t.nvm.audit = []) ∧ (r = 2 → t.nvm.pins = []) ∧
          (r = 3 → bitOf t.nvm.valid (fwOther s) = false ∧ ∀ e ∈ t.nvm.fw, e.1 / 2 ^ 21 ≠ fwOther s))) ∧
    (s.rd F.LOG_AUD_SEQ_AUDSEQ 0 ≠ s.rd F.LOG_AUD_NVM_AUDSEQ 0 → s.on F.PWR_STAT_PF 0 = false →
      (s.on F.LOG_AUD_STAT_FLUSHING 0 = true ∨ s.boot.shut.isSome = true ∨ 160000000 ≤ audBucket s) →
      actsTo .auditProgram s [] [(F.LOG_AUD_NVM_AUDSEQ, 0, wrapUp F.LOG_AUD_NVM_AUDSEQ 0 s),
          (F.LOG_AUD_STAT_BACKLOG, 0, if s.rd F.LOG_AUD_SEQ_AUDSEQ 0 = wrapUp F.LOG_AUD_NVM_AUDSEQ 0 s then 0 else 1)]
        (fun t => tabGet t.nvm.audit (s.rd F.LOG_AUD_NVM_AUDSEQ 0 % 131072) = some ((tabGet s.audMirror (s.rd F.LOG_AUD_NVM_AUDSEQ 0 % 131072)).getD []))) ∧
    (s.on F.LOG_AUD_STAT_REBUILD 0 = true →
      actsTo .mirrorRebuildDone s [] [(F.LOG_AUD_STAT_REBUILD, 0, 0)]
        (fun t => (∀ e ∈ s.nvm.audit, (tabGet t.audMirror e.1).isSome = true) ∧ ∀ k w, tabGet s.audMirror k = some w → tabGet t.audMirror k = some w))

/-- Each row completes: it answers a next state. While the module is powered: PACKET_FENCE_RELEASE leaves nothing held where nothing is, and lets a packet that nothing holds back any more act; FENCE_COMPLETE answers every FENCE with no earlier command of its origin, no earlier load and no held write before it; SEG_LOAD_COMPLETE answers the oldest SEG_LOAD with the descriptor, READY after its last load; STEP_WRITE_COMPLETE answers the oldest STEP_WRITE; SVC_RESET_DELAY clears the module; BATCH_STAGING_DONE makes the oldest batch that is being checked ready, late where its AT_CT has passed; BATCH_COMMIT_TICK applies a due batch whose members all pass, sets LAST_ID, counts and answers it, and of one with a member that fails applies nothing and answers that member's status; BATCH_TIMEOUT aborts batches left open for 60 s; PST_APPLY gives posted fields their word, and GO of NVM_ERASE leaves the erase to the NVM controller. -/
def Obligations.InFlightRows : Prop :=
  ∀ (s : State), powered s = true →
    (s.heldPkts = [] → actsTo .packetFenceRelease s [] [] (fun t => t.heldPkts = [])) ∧
    (∀ p, s.heldPkts = [numbered 0 p] → passes 0 p { s with heldPkts := [] } →
      ∃ t, exec .packetFenceRelease s = .next t ∧ t.heldPkts = [] ∧ replied p stOk [] t ∧ regsBut replies s t ∧ bytesKept s t) ∧
    (∀ b, b.id ∈ s.fences → jobWaits b s → (∀ x ∈ s.jobs, x.org = b.org → b.id ≤ x.id) → (∀ e ∈ s.segLoads, b.id < e.1) → (∀ e ∈ s.stepLoads, b.id < e) →
      s.car.held = [] → actsTo .fenceComplete s [hostRegs] [] (fun t => b.id ∉ t.fences ∧ jobDone b stOk [] t)) ∧
    (∀ b i last rest, s.segLoads = (b.id, i, last) :: rest → jobWaits b s → ∀ d, d = segOf s i →
      actsTo .segLoadComplete s [hostRegs] []
        (fun t => t.segLoads = rest ∧
          segOf t i = (if last = true ∧ d.state ≠ 0 then { d with state := if d.state = 1 then 2 else d.state, loads := (d.loads + 1) % 2 ^ 32 } else d) ∧
          (∀ k, k ≠ i → segOf t k = segOf s k) ∧ jobDone b stOk (segWords (segOf t i)) t)) ∧
    (∀ b rest, s.stepLoads = b.id :: rest → jobWaits b s →
      actsTo .stepWriteComplete s [hostRegs] [] (fun t => t.stepLoads = rest ∧ jobDone b stOk [] t)) ∧
    (∀ u, s.boot.resetAt = some u → u ≤ s.now → ∃ t, exec .svcResetDelay s = .next t ∧ cleared t ∧ mode t = mdTrain ∧
      t.boot.stage = (if s.boot.vin && s.boot.pwrEn && s.boot.resetN then 3 else 2)) ∧
    (∀ g, s.staged.find? (fun x => !x.ready) = some g →
      actsTo .batchStagingDone s [hostRegs] []
        (fun t => t.staged = s.staged.map (fun x => if x.job = g.job then
            { x with ready := true, late := g.atCt != 0 && decide (sgn 56 (g.atCt / 256 + 2 ^ 56 - s.ctOf s.eff / 256) < 0) } else x) ∧
          t.opens = s.opens)) ∧
    (∀ g b r, s.staged = [g] → batchDue s.coming g = true → b.id = g.job → jobWaits b s →
      r = batchRun g.batch.members 1 [] (batchSync { s.coming with staged := [] }) →
      (r.1 = stOk → ∃ t, exec .batchCommitTick s = .next t ∧ t.rd F.GLB_BATCH_LAST_ID 0 = g.batch.id % 2 ^ 16 ∧
        t.rd F.GLB_BATCH_COMMITS 0 = wrapUp F.GLB_BATCH_COMMITS 0 r.2.2.2) ∧
      (r.1 ≠ stOk →
        actsTo .batchCommitTick s [hostRegs, reg F.GLB_BATCH_STAGED 0] [(F.GLB_BATCH_STAGED, 0, 0), (F.GLB_BATCH_COMMITS, 0, s.rd F.GLB_BATCH_COMMITS 0)]
          (fun t => t.staged = [] ∧ jobDone b r.1 [] t))) ∧
    (∀ l, l = s.opens.filter (fun b => !decide (b.lastTick + secTicks 60 ≤ s.now)) →
      actsTo .batchTimeout s [reg F.GLB_BATCH_OPEN 0] [(F.GLB_BATCH_OPEN, 0, l.length % 16), (F.GLB_BATCH_COMMITS, 0, s.rd F.GLB_BATCH_COMMITS 0)]
        (fun t => t.opens = l ∧ t.staged = s.staged)) ∧
    (∀ (x : Bool) (a w : Nat) (b : Blk) (u : Nat) (r : Row), s.nvm.posted = [(a, w)] → wordAt a = some (b, u, r, false) →
      b.grp = (if x then 18 else 15) → (a = F.NVM_ERASE_GO.addr 0 → bitOf w 8 = false) →
      ∃ t, exec (.pstApply x) s = .next t ∧ t.nvm.posted = [] ∧ (∀ f ∈ r.flds, f.cls = .pst → t.rd f u = f.part w) ∧
        regsBut ([(64 * a, 64 * a + 64), field (pbusy b) 0] ++ records) s t ∧ t.rd (pbusy b) 0 = 0) ∧
    (∀ w, s.nvm.posted = [(F.NVM_ERASE_GO.addr 0, w)] → bitOf w 8 = true →
      actsTo (.pstApply false) s [(64 * 0x800800, 64 * 0x801000)] [(F.NVM_ERASE_REGION, 0, w % 4), (F.NVM_PBUSY_BUSY, 0, 0)]
        (fun t => t.nvm.posted = [] ∧ t.nvm.ops = s.nvm.ops ++ [.erase (w % 4)] ∧
          (s.nvm.ops = [] → s.on F.PWR_STAT_PF 0 = false → t.rd F.NVM_STAT_BUSY 0 = 1 ∧ t.rd F.NVM_STAT_OP 0 = 6)))

/-- Each row completes, as follows. While the module is powered: a memory error at an enabled ring stops it in ERROR with cause 4 and counts; a waiting head shadow is written with the ring's head; a vector whose holdoff has passed sends its message and waits no more; a loss without a loss policy counts, disables every ring of the host and shows in HST_LINK; a link that returns shows. -/
def Obligations.HostLinkRows : Prop :=
  ∀ (s : State), powered s = true →
    (∀ i : Fin 32,
      (s.on F.HST_SQ_CTL_EN i = true →
        acts (.hostDmaError 0 i) s [unitRegs F.HST_SQ_CTL_EN i, reg F.HST_ERR2_DMA 0]
          [(F.HST_SQ_CTL_EN, i, 0), (F.HST_SQ_STAT_STATE, i, 3), (F.HST_SQ_STAT_ECAUSE, i, 4), (F.HST_ERR2_DMA, 0, satUp F.HST_ERR2_DMA 0 s)]) ∧
      (s.on F.HST_RQ_CTL_EN i = true →
        acts (.hostDmaError 1 i) s (unitRegs F.HST_RQ_CTL_EN i :: reg F.HST_ERR2_DMA 0 :: (List.range 32).map (fun q => reg F.HST_SQ_STAT_STATE q))
          [(F.HST_RQ_STAT_STATE, i, 3), (F.HST_RQ_STAT_ECAUSE, i, 4), (F.HST_ERR2_DMA, 0, satUp F.HST_ERR2_DMA 0 s)]) ∧
      (i.val < 8 → s.on F.HST_XR_CTL_EN i = true → (∀ q : Fin 128, (quOf s q).opened = false) →
        acts (.hostDmaError 2 i) s [unitRegs F.HST_XR_CTL_EN i, reg F.HST_ERR2_DMA 0]
          [(F.HST_XR_CTL_EN, i, 0), (F.HST_XR_STAT_STATE, i, 3), (F.HST_XR_STAT_ECAUSE, i, 4), (F.HST_ERR2_DMA, 0, satUp F.HST_ERR2_DMA 0 s)]) ∧
      ((tabGet s.hst.shadow i).isSome = true →
        actsTo (.sqHeadShadowWrite i) s [] [] (fun t => tabGet t.hst.shadow i = none ∧ Out.hostWrite i 0 (s.rd F.HST_SQ_HEAD_V i) ∈ t.out))) ∧
    (∀ v : Fin 64, memN s.msixWait v = true → (∀ t0, tabGet s.hst.msixLast v = some t0 → t0 + holdoff s v ≤ s.now) →
      actsTo (.msixMessageSend v) s [] []
        (fun t => (summed s → t.msixWait = delN s.msixWait v) ∧ tabGet t.hst.msixLast v = some s.now ∧
          (s.rd F.HST_LINK_STATE 0 ≠ 3 → s.rd F.HST_LINK_STATE 0 ≠ 4 → Out.msix v ∈ t.out) ∧
          (s.rd F.HST_LINK_STATE 0 = 3 ∨ s.rd F.HST_LINK_STATE 0 = 4 → Out.notice v s.ctEv ∈ t.out))) ∧
    (∀ k : Fin 6, s.rd F.HST_CTL_LOSS_POL 0 = 0 → (∀ q : Fin 128, (quOf s q).opened = false) →
      (k.val < 5 →
        actsTo (.linkLoss k) s [hostRegs, reg F.GLB_BATCH_OPEN 0]
          [(F.HST_ERR_LOSSES, 0, satUp F.HST_ERR_LOSSES 0 s),
            (F.HST_LINK_STATE, 0, if k.val = 0 then 0 else if k.val = 1 then 1 else if k.val = 4 then (if s.rd F.HST_LINK_STATE 0 = 4 then 0 else 1) else s.rd F.HST_LINK_STATE 0)]
          (fun t => (∀ i : Fin 32, t.rd F.HST_SQ_CTL_EN i = 0 ∧ t.rd F.HST_RQ_CTL_EN i = 0) ∧ (∀ x : Fin 8, t.rd F.HST_XR_CTL_EN x = 0) ∧
            t.opens = s.opens.filter (fun b => !(b.org == 0 || b.org == 1 || b.org == 2 || b.org == 3)))) ∧
      (k.val = 5 →
        actsTo (.linkLoss k) s [reg F.HST_LINK_STATE 0, reg F.HST_ERR_LOSSES 0, reg F.GLB_BATCH_OPEN 0]
          [(F.HST_ERR_LOSSES, 0, satUp F.HST_ERR_LOSSES 0 s), (F.HST_LINK_SVC, 0, 0), (F.HST_LINK_STATE, 0, s.rd F.HST_LINK_STATE 0)]
          (fun t => t.opens = s.opens.filter (fun b => b.org != 4)))) ∧
    (∀ k : Fin 6, (∀ q : Fin 128, (quOf s q).opened = false) → permCmd s 6 0 = true →
      (s.rd F.HST_CTL_LOSS_POL 0 = 1 → mode s ≠ mdHold → requestResult s mdHold 0 = 0 → s.cmd = false →
        ∃ t, exec (.linkLoss k) s = .next t ∧ t.rd F.HST_ERR_LOSSES 0 = satUp F.HST_ERR_LOSSES 0 s ∧ mode t = mdHold) ∧
      (s.rd F.HST_CTL_LOSS_POL 0 = 2 → requestResult s mdSafe 0 = 0 →
        ∃ t, exec (.linkLoss k) s = .next t ∧ t.rd F.HST_ERR_LOSSES 0 = satUp F.HST_ERR_LOSSES 0 s ∧ mode t = mdSafe)) ∧
    (∀ (st : Fin 5) (g : Fin 4) (n : Fin 3) (v : Bool),
      acts (.hostLinkReturn st g n v) s [reg F.HST_LINK_STATE 0]
        [(F.HST_LINK_STATE, 0, st), (F.HST_LINK_GEN, 0, if st.val = 0 then 0 else g.val), (F.HST_LINK_LANES, 0, if st.val = 0 then 0 else n.val),
          (F.HST_LINK_SVC, 0, if v && s.on F.HST_CTL_SVC_EN 0 then 1 else 0)])

/-- Each row completes, as follows. A transfer of one whole NOP packet over a pair of the USB device, or over the service link, acts as the packet, and bytes behind the words count as a bad frame; bytes written through BAR2 outside the barred ranges are stored, words read through it answer Carafe; a WRITE with END into an enabled, unopened shallow queue with room for it appends its words, commits and completes with status 0 and their number; a READ of a queue without a visible packet completes with status 1, of one with a packet with its words. -/
def Obligations.HostDataRows : Prop :=
  ∀ (s : State),
    (∀ (k : Fin 4) (ws : List Word) (e : Nat × List Nat), fetching s = true →
      ((k.val = 0 ∨ k.val = 1) → s.rd F.HST_LINK_STATE 0 ≠ 2 → usbPkts (k.val == 1) 0 ws.length (ws.map (·.toNat)) = ([e], false) →
        (pktOfWords e.1 0 .usb3 e.2).opcode = 0 → passes 0 (pktOfWords e.1 0 .usb3 e.2) s →
        ∃ t, exec (.usb3OutTransfer k ws false) s = .next t ∧ replied (pktOfWords e.1 0 .usb3 e.2) stOk [] t ∧ regsBut replies s t ∧ bytesKept s t) ∧
      (s.on F.HST_CTL_SVC_EN 0 = true → usbPkts false 4 ws.length (ws.map (·.toNat)) = ([e], false) →
        (pktOfWords e.1 0 .svc e.2).opcode = 0 → passes 0 (pktOfWords e.1 0 .svc e.2) s →
        ∃ t, exec (.svcOutTransfer ws false) s = .next t ∧ replied (pktOfWords e.1 0 .svc e.2) stOk [] t ∧ regsBut replies s t ∧ bytesKept s t) ∧
      (k.val ≠ 3 → s.rd F.HST_LINK_STATE 0 ≠ 2 → acts (.usb3OutTransfer k [] true) s [reg F.HST_ERR_FRAME 0] [(F.HST_ERR_FRAME, 0, satUp F.HST_ERR_FRAME 0 s)])) ∧
    (s.boot.stage = 0 → ∀ (off : BitVec 28) (a : Nat), a = s.rd F.HST_BAR2_BASE_BASE 0 * 65536 + off.toNat → s.badUnits = [] → s.on F.CAR_STAT_TRAINED 0 = true →
      (∀ bs : List Byte, (∀ i < bs.length, writeBarred s (a + i) = false) →
        ∃ t, exec (.bar2Write off bs) s = .next t ∧ t.rd F.HST_BYTES_COUNT 0 = (s.rd F.HST_BYTES_COUNT 0 + bs.length) % 2 ^ 64 ∧
          regsBut (reg F.HST_BYTES_COUNT 0 :: records) s t ∧
          ∀ x, memRd t.pans x = memRd s.pans x ∧ memRd t.carafe x = (if a ≤ x ∧ x < a + bs.length then keptByte x (bs.getD (x - a) 0) else memRd s.carafe x)) ∧
      (∀ n : Nat, actsTo (.bar2Read off n) s [reg F.HST_BYTES_COUNT 0] [(F.HST_BYTES_COUNT, 0, (s.rd F.HST_BYTES_COUNT 0 + 4 * n) % 2 ^ 64)]
        (fun t => .bar2Data ((List.range n).map (fun i => carWord s (a / 4 * 4 + 4 * i))) ∈ t.out))) ∧
    (s.boot.stage = 0 → ∀ d : List Word,
      (∀ e : Xfer, e = ⟨8, (((d.map (·.toNat)).headD 0 % 2 ^ 28 + 2 ^ 28) :: (d.map (·.toNat)).drop 1), e.data⟩ → ∀ q, q = xfQ e → xfWhy s e = 0 → xfEnd e = true →
        qDeep s q = false → xfForeign s q = false → (quOf s q).opened = false → qIdxFull s q = false → (tabGet s.hst.rewoundX (1024 + q)).getD false = false →
        (∀ k ∈ xfPans s q, s.on F.PAN_STAT_WAKING k = false ∧ s.on F.PAN_STAT_ASLEEP k = false ∧ ∀ x, s.panX.slice = some x → x.1 ≠ k) →
        e.data.length = xfLen e → qUsed s q + xfLen e ≤ qWords s q → s.rd F.BRN_WP_PTR q < qMod s q → s.rd F.BRN_RP_PTR q < qMod s q → qMod s q ≤ 2 ^ F.BRN_WP_PTR.width → (∀ x ∈ e.data, x < 2 ^ 32) →
        ∃ t, exec (.xferWrite 8 d (e.data.map (BitVec.ofNat 32)) []) s = .next t ∧ Out.xferDone 8 0 (xfLen e) (xfW e 4) [] ∈ t.out ∧
          t.rd F.BRN_WP_PTR q = (s.rd F.BRN_WP_PTR q + xfLen e) % qMod s q % 2 ^ F.BRN_WP_PTR.width ∧
          t.rd F.BRN_CP_PTR q = t.rd F.BRN_WP_PTR q ∧ (quOf t q).opened = false ∧
          regsBut (hostRegs :: queueSpan q ++ records) s t ∧ ∀ x, memRd t.carafe x = memRd s.carafe x) ∧
      (∀ e : Xfer, e = ⟨8, (((d.map (·.toNat)).headD 0 % 2 ^ 28 + 2 * 2 ^ 28) :: (d.map (·.toNat)).drop 1), []⟩ → ∀ q, q = xfQ e → xfWhy s e = 0 →
        (∀ k ∈ xfPans s q, s.on F.PAN_STAT_WAKING k = false ∧ s.on F.PAN_STAT_ASLEEP k = false ∧ ∀ x, s.panX.slice = some x → x.1 ≠ k) →
        (qVisible s q = [] →
          actsTo (.xferRead 8 d) s (hostRegs :: queueSpan q) [(F.BRN_EVT_EMPTY_RD, q, satUp F.BRN_EVT_EMPTY_RD q s)]
            (fun t => Out.xferDone 8 1 0 (xfW e 4) [] ∈ t.out ∧ quOf t q = quOf s q)) ∧
        (∀ i l, qVisible s q = i :: l → qDeep s q = false → xfForeign s q = false → qLen s q i ≤ xfLen e →
          actsTo (.xferRead 8 d) s (hostRegs :: queueSpan q) []
            (fun t => Out.xferDone 8 0 (2 ^ 31 + qLen s q i % 2 ^ 29) (xfW e 4)
              ((List.range (qLen s q i)).map (fun k => qMemRd s q (qWordAddr s q (qStart s q i + k)))) ∈ t.out))))

/-- Each row completes, as follows. VIN above its start threshold, RESET_N high and PWR_EN high begin a power-on once the others allow it; a power-on, a brown-out, RESET_N low and a stop of the converter clear the module; VIN below PF_N shows, counts and takes an operating mode to SAFE; PWR_EN low asks for SAFE and a flush of the audit log, the shutdown ends unpowered once it is drained or after two seconds; WAKE_N leaves SHELF; 125 °C enters SAFE, below 115 °C THERM ends, 135 °C stops the converter until the die has cooled; VBAK and VIO show. -/
def Obligations.PowerRows : Prop :=
  ∀ (s : State),
    (∀ mv : BitVec 16,
      ((s.boot.stage = 1 ∨ s.boot.stage = 2) → s.boot.pwrEn = true → s.boot.resetN = true →
        ∃ t, exec (.vinStart mv) s = .next t ∧ cleared t ∧ t.boot.stage = 3 ∧ t.boot.vin = true ∧ mode t = mdTrain) ∧
      (s.boot.stage = 0 → s.on F.PWR_STAT_PF 0 = false →
        actsTo (.vinStart mv) s [field F.PWR_STAT_PF 0, field F.PWR_VIN_VIN 0] [(F.PWR_STAT_PF, 0, 0), (F.PWR_VIN_VIN, 0, mv.toNat)] (fun t => t.boot.vin = true)) ∧
      (s.boot.stage = 0 → s.boot.vin = true → s.on F.PWR_STAT_PF 0 = false → (mode s = mdSetup ∨ mode s = mdArmed ∨ mode s = mdRun ∨ mode s = mdHold) →
        ∃ t, exec (.vinPf mv) s = .next t ∧ t.rd F.PWR_STAT_PF 0 = 1 ∧ t.rd F.PWR_VIN_VIN 0 = mv.toNat ∧ t.rd F.PWR_EVT_PF 0 = satUp F.PWR_EVT_PF 0 s ∧ mode t = mdSafe) ∧
      (∀ b : Bool, b = decide (2700 ≤ mv.toNat) →
        (¬ (s.boot.stage = 12 ∧ s.boot.warm = false ∧ b = false) →
          acts (.vbakChange mv) s [field F.PWR_VIN_VBAK 0, field F.PWR_STAT_VBAK_OK 0] [(F.PWR_VIN_VBAK, 0, mv.toNat), (F.PWR_STAT_VBAK_OK, 0, if b then 1 else 0)]) ∧
        (s.boot.stage = 12 → s.boot.warm = false → b = false →
          ∃ t, exec (.vbakChange mv) s = .next t ∧ (∀ a, memRd t.pans a = 0 ∧ memRd t.carafe a = memRd s.carafe a) ∧ t.boot.vbakFell = true ∧
            regsBut ([field F.PWR_VIN_VBAK 0, field F.PWR_STAT_VBAK_OK 0] ++ records) s t)) ∧
      (powered s = true →
        (s.on F.PWR_STAT_THERM 0 = false → (mode s = mdSetup ∨ mode s = mdArmed ∨ mode s = mdRun ∨ mode s = mdHold) →
          ∃ t, exec (.dieTempHigh mv) s = .next t ∧ t.rd F.PWR_TEMP_DIE 0 = mv.toNat ∧ t.rd F.PWR_STAT_THERM 0 = 1 ∧
            t.rd F.PWR_EVT_THERM 0 = satUp F.PWR_EVT_THERM 0 s ∧ mode t = mdSafe) ∧
        (s.on F.PWR_STAT_THERM 0 = true → acts (.dieTempHigh mv) s [field F.PWR_TEMP_DIE 0] [(F.PWR_TEMP_DIE, 0, mv.toNat), (F.PWR_STAT_THERM, 0, 1)]) ∧
        acts (.dieTempNormal mv) s [field F.PWR_TEMP_DIE 0, field F.PWR_STAT_THERM 0] [(F.PWR_TEMP_DIE, 0, mv.toNat), (F.PWR_STAT_THERM, 0, 0)] ∧
        (∃ t, exec (.thermalTrip mv) s = .next t ∧ t.boot.stage = 1 ∧ t.rd F.PWR_TEMP_DIE 0 = mv.toNat ∧ t.boot.notes = s.boot.notes ++ [(0x08, mv.toNat)] ∧
          cleared t)) ∧
      (s.boot.stage = 1 → (∃ e ∈ s.boot.notes, e.1 = 0x08) → s.boot.vin = true → s.boot.pwrEn = true → s.boot.resetN = true →
        ∃ t, exec (.tripCooled mv) s = .next t ∧ t.boot.stage = 3 ∧ cleared t ∧ t.rd F.PWR_TEMP_DIE 0 = mv.toNat)) ∧
    (s.boot.stage ≠ 1 → s.boot.stage ≠ 2 → s.boot.stage ≠ 12 →
      (∃ t, exec .vinBrownOut s = .next t ∧ cleared t ∧ t.boot.stage = 2 ∧ t.boot.vin = false ∧ t.boot.notes = s.boot.notes ++ [(0x0A, 0)]) ∧
      (∃ t, exec .resetNLow s = .next t ∧ cleared t ∧ t.boot.stage = 2 ∧ t.boot.resetN = false)) ∧
    (s.boot.stage = 2 → s.boot.vin = true → s.boot.pwrEn = true →
      ∃ t, exec .resetNHigh s = .next t ∧ cleared t ∧ t.boot.stage = 3 ∧ t.boot.resetN = true ∧ mode t = mdTrain) ∧
    (s.boot.stage = 1 → s.boot.vin = true → s.boot.resetN = true → ∃ t, exec .pwrEnRise s = .next t ∧ cleared t ∧ t.boot.stage = 3 ∧ t.boot.pwrEn = true) ∧
    (s.boot.stage = 0 → s.boot.shut = none → (mode s = mdSetup ∨ mode s = mdArmed ∨ mode s = mdRun) → requestResult s mdSafe 0 = 0 →
      ∃ t, exec .pwrEnFall s = .next t ∧ t.boot.pwrEn = false ∧ t.boot.shut = some s.now ∧ mode t = mdSafe) ∧
    (s.boot.shut.isSome = true →
      (s.boot.shutReq = false → rampsDone s = true → s.on F.GLB_BATCH_STORING 0 = false → s.on F.LOG_AUD_STAT_BACKLOG 0 = false →
        ∃ t, exec .shutdownDrained s = .next t ∧ cleared t ∧ t.boot.stage = 1) ∧
      ((∀ u, s.boot.shut = some u → u + secTicks 2 ≤ s.now) → ∃ t, exec .shutdownTimeout s = .next t ∧ cleared t ∧ t.boot.stage = 1)) ∧
    (∀ n : Nat,
      (s.boot.shelf.isSome = true → actsTo (.wakeNFall n) s [] [] (fun t => t.boot = { s.boot with wakeReq := true })) ∧
      (s.boot.shelf = none → s.boot.stage = 12 →
        (s.boot.warm = true → ∃ t, exec (.wakeNFall n) s = .next t ∧ t.boot.stage = 3 ∧ t.boot.warm = true ∧ bytesKept s t ∧
          t.rd F.GLB_TICK_TICK 0 = (s.rd F.GLB_TICK_TICK 0 + n) % 2 ^ 64) ∧
        (s.boot.warm = false → s.boot.vin = true → ∃ t, exec (.wakeNFall n) s = .next t ∧ t.boot.stage = 3 ∧
          (∀ a, memRd t.pans a = memRd s.pans a ∧ memRd t.carafe a = 0)))) ∧
    (∀ v : Fin 3, (s.rd F.PWR_STAT_VIO 0 = 0 ∨ v.val = 0) →
      acts (.vioChange v) s [field F.PWR_STAT_VIO 0, reg F.TRG_GP_STAT_LEVEL 0]
        [(F.PWR_STAT_VIO, 0, v), (F.TRG_GP_STAT_LEVEL, 0, if v.val = 0 then 0 else s.rd F.TRG_GP_STAT_LEVEL 0)])

/-- Each row completes, as follows. With no packet held and nothing waiting at the host's transports: the rails that are up begin TRAIN; the image check selects a firmware slot; training that succeeds goes on, quick training that fails is followed by a full one; the ECC fill leaves Carafe empty; the test makes Carafe TRAINED in RUN; the copied firmware, the restored pins and the woken pans follow in order; the end of WAKE leaves the mode of the activity, COAST on the standby PLL; a SHELF entry ends in SHELF; the watchdog enters RECOVER, the reloaded firmware begins its second stage and RECOVER ends with LAST_ID of the image. -/
def Obligations.StartUpRows : Prop :=
  ∀ (s : State), s.heldPkts = [] → s.hst.usbWait = [] → (∀ i : Fin 32, s.on F.HST_SQ_CTL_EN i = false) →
    (s.boot.stage = 3 →
      actsTo .internalRailsUp s [field F.PWR_STAT_CONV_OK 0, field F.CLK_STAT_STBY_LOCK 0] [(F.PWR_STAT_CONV_OK, 0, 1), (F.CLK_STAT_STBY_LOCK, 0, 1)]
        (fun t => t.boot = { s.boot with stage := 4 })) ∧
    (s.boot.stage = 4 → ∀ ok : BitVec 2, bitOf ok.toNat (bootRec s).1 = true →
      ∃ t, exec (.bootCheckDone ok) s = .next t ∧ t.boot.stage = 5 ∧ t.rd F.NVM_BOOT_ACTIVE 0 = (bootRec s).1 % 2 ∧ t.rd F.NVM_BOOT_FALLBACK 0 = 0 ∧
        t.rd F.NVM_BOOT_LOCK_LOCK 0 = b2n (bootRec s).2.1 ∧ t.rd F.NVM_CAL_LOCK_LOCK 0 = b2n (bootRec s).2.2 ∧ bytesKept s t) ∧
    (s.boot.stage = 5 → ∀ (st : BitVec 4) (ms : BitVec 16) (ds : List Int) (lanes : BitVec 8),
      (lanes.toNat = 255 → s.boot.warm = false → (trainVal s F.CAR_TRAIN_FORCE_FULL ≠ 0 ∨ nvNewer s 0 = none ∨ s.boot.quickBad = true) →
        actsTo (.carafeTrainingDone false lanes st ms ds) s [reg F.CAR_TRAIN_STAT_LANE_OK 0]
          [(F.CAR_TRAIN_STAT_LANE_OK, 0, 255), (F.CAR_TRAIN_STAT_QUICK, 0, 0), (F.CAR_TRAIN_STAT_DURATION, 0, ms.toNat), (F.CAR_TRAIN_STAT_FAIL_STEP, 0, 0)]
          (fun t => t.boot.stage = 6 ∧ t.car.delays = ds)) ∧
      (lanes.toNat ≠ 255 → trainVal s F.CAR_TRAIN_FORCE_FULL = 0 → (nvNewer s 0).isSome = true → s.boot.quickBad = false →
        actsTo (.carafeTrainingDone true lanes st ms ds) s [reg F.CAR_TRAIN_STAT_LANE_OK 0]
          [(F.CAR_TRAIN_STAT_LANE_OK, 0, lanes.toNat), (F.CAR_TRAIN_STAT_QUICK, 0, 1), (F.CAR_TRAIN_STAT_FAIL_STEP, 0, st.toNat)]
          (fun t => t.boot.stage = 5 ∧ t.boot.quickBad = true ∧ t.car.delays = s.car.delays))) ∧
    (s.boot.stage = 6 → ∃ t, exec .eccFillDone s = .next t ∧ t.boot.stage = 7 ∧ t.segs = [] ∧ t.badUnits = [] ∧
      ∀ a, memRd t.carafe a = 0 ∧ memRd t.pans a = memRd s.pans a) ∧
    (s.boot.stage = 7 → s.boot.service = false →
      actsTo (.carafeTestDone 255) s [reg F.CAR_STAT_TRAINED 0] [(F.CAR_STAT_TRAINED, 0, 1), (F.CAR_STAT_PWR, 0, pwRun), (F.GLB_MODE_MODE, 0, mdWake)]
        (fun t => t.boot.stage = 8)) ∧
    (s.boot.stage = 8 → ∀ ok : BitVec 2, bitOf ok.toNat (s.rd F.NVM_BOOT_ACTIVE 0) = true →
      actsTo (.fwImageCopyDone ok) s [(64 * 0x800800, 64 * 0x801000)] []
        (fun t => t.boot.stage = (if s.boot.warm then 10 else 9) ∧ t.boot.notes = [] ∧ bitOf t.nvm.valid (s.rd F.NVM_BOOT_ACTIVE 0) = true)) ∧
    (s.boot.stage = 9 → s.boot.service = false →
      ∃ t, exec .pinnedRestoreDone s = .next t ∧ t.boot.stage = 10 ∧ regsBut records s t ∧ (∀ a, memRd t.pans a = memRd s.pans a) ∧
        ((s.nvm.pins.map (·.seg)).Nodup → ∀ p ∈ s.nvm.pins, segOf t p.seg = { p.desc with state := 4, locks := 0, pin := none })) ∧
    (s.boot.stage = 10 →
      actsTo .panWakeFillDone s ((List.range 16).map (fun k => reg F.PAN_STAT_ASLEEP k)) []
        (fun t => t.boot.stage = 11 ∧ ∀ k : Fin 16, t.rd F.PAN_STAT_ASLEEP k = 0 ∧ t.rd F.PAN_STAT_WAKING k = 0)) ∧
    (s.boot.stage = 11 → shelfLast s = none → s.boot.warm = false → safePersists s = false → s.boot.shutReq = false →
      ∃ t, exec .shelfImageApply s = .next t ∧ t.boot.stage = 0 ∧ t.rd F.GLB_MODE_TRANSIT 0 = 0 ∧ bytesKept s t ∧
        t.rd F.CLK_STAT_ON_STANDBY 0 = b2n (!refPresent s) ∧ (refPresent s = false → mode t = mdCoast)) ∧
    (∀ d, s.boot.shelf = some (d, 2) → d < 2 → s.boot.stage = 0 → s.boot.wakeReq = false → (∀ n : Fin 16, olSt s n = olOff) →
      ∃ t, exec .shelfEntryDone s = .next t ∧ t.boot.stage = 12 ∧ t.boot.warm = (d == 0) ∧ mode t = mdShelf ∧ t.rd F.GLB_MODE_DEPTH 0 = d ∧ t.gpDrive = 0 ∧
        (d = 0 → bytesKept s t ∧ carPwr t = pwDrain) ∧
        (d = 1 → ∀ a, memRd t.carafe a = 0 ∧ memRd t.pans a = (if bitOf (s.rd F.PAN_RET_RET 0) (a / 262144) then memRd s.pans a else 0))) ∧
    (powered s = true → mode s ≠ mdShelf → mode s ≠ mdRecover →
      ∃ t, exec .cpWatchdogExpiry s = .next t ∧ mode t = mdRecover ∧ t.recov.stage = 1 ∧ t.recov.cause = 4 ∧ t.recov.jobs = s.jobs.map (·.id)) ∧
    (mode s = mdRecover → s.recov.stage = 1 → s.boot.stage = 0 → s.hst.heldX = [] →
      actsTo .fwReloadDone s [] [] (fun t => t.recov = { s.recov with stage := 2 })) ∧
    (mode s = mdRecover → s.recov.stage = 2 → rampsDone s = true → s.boot.stage = 0 → s.recov.service = true → s.recov.jobs = [] → s.nvm.staged = none →
      shelfLast s = none → s.boot.shutReq = false →
      ∃ t, exec (.recoverApply true) s = .next t ∧ t.recov.stage = 0 ∧ t.recov.service = false ∧ mode t = mdService ∧ t.rd F.GLB_BATCH_LAST_ID 0 = 0 ∧
        t.rd F.GLB_MODE_TRANSIT 0 = 0)

/-- The row completes, as follows. While the fabric runs: with no mismatch stored, an upset of one bit of a CFG register that came before the pass is detected and marked, and the stored bit is inverted; one that comes after it stays undetected until the next pass; a pass without upsets changes nothing. A pan word that reads corrected or uncorrectable is counted, and an uncorrectable word of firmware data takes the device to RECOVER. -/
def Obligations.ScrubRows : Prop :=
  ∀ (s : State), s.boot.stage = 0 → s.parOdd = [] →
    actsTo (.cfgScrub [] []) s [] [] (fun t => t.parBad = s.parBad ∧ t.parOdd = []) ∧
    (∀ (a : Word) (b : Blk) (u : Nat) (r : Row), wordAt a.toNat = some (b, u, r, false) → rowCfg r = true → r.pair = false → ∀ f ∈ r.flds, ∀ k : Fin 33,
      f.lo ≤ k.val → k.val < f.lo + f.width → k.val < 32 → memN s.parBad a.toNat = false →
      (actsTo (.cfgScrub [] [.reg a k]) s [(64 * a.toNat, 64 * a.toNat + 64)] [(f, u, s.rd f u ^^^ 2 ^ (k.val - f.lo))]
          (fun t => t.parOdd = [a.toNat] ∧ t.parBad = s.parBad)) ∧
      (∃ t, exec (.cfgScrub [.reg a k] []) s = .next t ∧ memN t.parBad a.toNat = true ∧ t.parOdd = [])) ∧
    (∀ e : PanErr,
      (e.ue = false → acts (.cfgScrub [] [.pan e]) s [reg F.PAN_ERR_CE e.pan] [(F.PAN_ERR_CE, e.pan, satUp F.PAN_ERR_CE e.pan s)]) ∧
      (e.ue = true →
        (∃ t, exec (.cfgScrub [] [.pan e]) s = .next t ∧ t.rd F.PAN_ERR_UE e.pan = satUp F.PAN_ERR_UE e.pan s ∧ bytesKept s t) ∧
        (panOwner s e.pan = owHost ∨ panOwner s e.pan = owCapture ∨ panOwner s e.pan = owRefine →
          acts (.cfgScrub [] [.pan e]) s [reg F.PAN_ERR_CE e.pan] [(F.PAN_ERR_UE, e.pan, satUp F.PAN_ERR_UE e.pan s)]) ∧
        (panOwner s e.pan = owFw → powered s = true → mode s ≠ mdShelf → ∃ t, exec (.cfgScrub [] [.pan e]) s = .next t ∧ mode t = mdRecover)))

/-- With a command at the front of the queue a step is that command on the state with the queue's rest; with an empty queue it answers the same state (the model's choice, log entry 1). -/
def Obligations.StepRunsFront : Prop :=
  (∀ (c : Instr) (s : State), step { s with pending := c :: s.pending } = exec c s) ∧
    (∀ (c : Instr) (rest : List Instr) (s : State), s.pending = c :: rest → step s = exec c { s with pending := rest }) ∧
    (∀ s : State, s.pending = [] → step s = .next s)

/-- No command stops the machine: from every state whose fault summary is that of its causes and in which no reply waits to leave by the side channel, a step answers a next state of which both hold again; with a command in the queue both hold of the next state whatever held before. -/
def Obligations.StepKeepsSettled : Prop :=
  ∀ s : State,
    (summed s → quiet s → ∃ t, step s = .next t ∧ summed t ∧ quiet t) ∧
    (s.pending ≠ [] → ∃ t, step s = .next t ∧ summed t ∧ quiet t)

/-- At reset the queue is empty, the mode is SETUP, the fault summary is that of its causes (0), no reply waits, both memories are in canonical form and list nothing, no register holds a parity mismatch, and every register field but ten fields of CLK_STAT, CAR_STAT, CAR_TRAIN_STAT and PWR_STAT reads its reset value. -/
def Obligations.ResetState : Prop :=
  State.reset.pending = [] ∧ mode State.reset = mdSetup ∧ summed State.reset ∧ State.reset.faultSum = 0 ∧ quiet State.reset ∧ sound State.reset ∧
    memWf State.reset.carafe = true ∧ memWf State.reset.pans = true ∧ (∀ a, memRd State.reset.carafe a = 0 ∧ memRd State.reset.pans a = 0) ∧
    powered State.reset = true ∧ fetching State.reset = true ∧ State.reset.on F.CAR_STAT_TRAINED 0 = true ∧
    (∀ (f : Fld) (u : Nat), (∀ g ∈ [F.CLK_STAT_ACT, F.CLK_STAT_REFIN_OK, F.CLK_STAT_SPLL_LOCK, F.CLK_STAT_STBY_LOCK, F.CLK_STAT_FLUME_LOCK,
        F.CLK_STAT_RAKE_LOCK, F.CAR_STAT_TRAINED, F.CAR_TRAIN_STAT_LANE_OK, F.CAR_TRAIN_STAT_QUICK, F.PWR_STAT_CONV_OK], g.key 0 ≠ f.key u) →
      State.reset.rd f u = f.rst u % 2 ^ f.width)

/-- Words stored from an address upward read back there, least significant byte first, and no byte outside them differs; a range set to zero reads zero and no byte outside it differs; both keep the canonical form of a memory, in which equal contents are equal data. -/
def Obligations.MemoryWords : Prop :=
  (∀ (m : List Host.Cell) (a : Nat) (l : List Nat), memWf m = true →
      memWf (memWrWs m a l) = true ∧
      (∀ i < l.length, memRdW (memWrWs m a l) (a + 4 * i) = l.getD i 0 % 2 ^ 32) ∧
      memRdWs (memWrWs m a l) a l.length = l.map (· % 2 ^ 32) ∧
      (∀ x, x < a ∨ a + 4 * l.length ≤ x → memRd (memWrWs m a l) x = memRd m x)) ∧
    (∀ (m : List Host.Cell) (a n : Nat), memWf m = true →
      memWf (memZero m a n) = true ∧ ∀ x, memRd (memZero m a n) x = if a ≤ x ∧ x < a + n then 0 else memRd m x) ∧
    (∀ m k : List Host.Cell, memWf m = true → memWf k = true → (∀ x, memRd m x = memRd k x) → m = k)

/-- For every run of units of the register map, every unit and every row, the address base + unit × stride + offset names that unit's row; two listed registers with one address are the same unit of the same run and the same row; and a written field leaves every field with another place as it is. -/
def Obligations.RegisterMap : Prop :=
  (∀ b ∈ blks, ∀ u < b.count, ∀ r ∈ b.rows, regAt (b.base + b.stride * u + r.off) = some (b, u, r)) ∧
    (∀ b ∈ blks, ∀ u < b.count, ∀ r ∈ b.rows, ∀ c ∈ blks, ∀ v < c.count, ∀ q ∈ c.rows,
      b.base + b.stride * u + r.off = c.base + c.stride * v + q.off → b = c ∧ u = v ∧ r = q) ∧
    (∀ b ∈ blks, ∀ u < b.count, ∀ r ∈ b.rows, r.pair = true → regAt (b.base + b.stride * u + r.off + 4) = none) ∧
    (∀ (s : State) (f g : Fld) (u w v : Nat), f.key u ≠ g.key w → (s.wr f u v).rd g w = s.rd g w ∧ (s.wr f u v).rd f u = v % 2 ^ f.width)

/-- For the row of every opcode: a packet that arrives whole, new and for this module and fails one of steps 6 to 11 has a final reply with the failing step's status and no data; no register outside the host link and the records and no byte of memory differs. -/
def Obligations.PacketsRefused : Prop :=
  ∀ (p : Pkt) (s : State), fetching s = true → (∀ x, p.path ≠ .side x) → (p.crc = true → p.crcOk = true) → p.hdrOk = true → p.batch = false →
    newTag s p → p.target ≠ 0xFFF → jobOf s s.nextJob = none → memN s.recov.jobs s.nextJob = false → p.org < 7 → p.org ≠ 5 →
    (∀ c ∈ packetRows, pktHeld s s.heldPkts (numbered c.2 p) = false → isLocal s (numbered c.2 p) = true → (pktWhy s (numbered c.2 p)).1 ≠ stOk →
      ∃ t, exec (c.1 p) s = .next t ∧ replied p (pktWhy s (numbered c.2 p)).1 [] t ∧ regsBut replies s t ∧ bytesKept s t ∧
        t.segs = s.segs ∧ t.opens = s.opens ∧ t.staged = s.staged ∧ t.plys = s.plys)

/-- For the row of every opcode, but for a HELLO with RESYNC: a packet whose tag stands in the window of its origin changes no window, no command in progress, no segment, no register outside the host link and the records and no byte of memory; with REPLY set over a USB device it is answered PENDING while the command runs, DUPLICATE where the tag was another opcode's, and with the final reply kept for it, marked as repeated. -/
def Obligations.PacketsRepeated : Prop :=
  ∀ (p : Pkt) (s : State) (e : TagEnt) (c : (Pkt → Instr) × Nat), c ∈ packetRows → fetching s = true →
    pktHeld s s.heldPkts (numbered c.2 p) = false → (∀ x, p.path ≠ .side x) → (p.crc = true → p.crcOk = true) → p.hdrOk = true → p.batch = false →
    ¬ (c.2 = 1 ∧ p.w 0 % 2 = 1) → (winOf s (winKey p.org p.src)).seen = true → winEnt (winOf s (winKey p.org p.src)) p.tag = some e →
    -255 ≤ serial 32 p.tag (winOf s (winKey p.org p.src)).h → serial 32 p.tag (winOf s (winKey p.org p.src)).h ≤ 0 →
    ∃ t, exec (c.1 p) s = .next t ∧ t.wins = s.wins ∧ t.jobs = s.jobs ∧ t.segs = s.segs ∧ t.plys = s.plys ∧ regsBut replies s t ∧ bytesKept s t ∧
      (p.reply = true → (p.path = .usb3 ∨ p.path = .svc) → ∃ r, Out.reply p.path p.org r ∈ t.out ∧ r.tag = (if e.done = true ∧ e.opcode = c.2 then (e.reply.map (·.tag)).getD p.tag else p.tag) ∧
        (e.done = false → r.status = stPending ∧ r.final = false ∧ r.data = []) ∧
        (e.done = true → e.opcode ≠ c.2 → r.status = stDuplicate ∧ r.data = []) ∧
        (e.done = true → e.opcode = c.2 → ∀ r0, e.reply = some r0 → r = { r0 with dup := true }))

/-- While the logic die is without power, in reset or in SHELF, no packet of any opcode, no register write and no read changes the state. -/
def Obligations.UnpoweredModule : Prop :=
  ∀ s : State, powered s = false → summed s → quiet s →
    (∀ c ∈ packetRows, ∀ p : Pkt, exec (c.1 p) s = .next s) ∧ (∀ p : Pkt, exec (.resultGet p) s = .next s ∧ exec (.unlistedOpcode p) s = .next s) ∧
    (∀ (o : Fin 7) (bar0 : Bool) (a : Word) (m : BitVec 4) (ws : List Word), exec (.registerWrite o bar0 a m ws) s = .next s)

/-- A write of 0 to CNV_DAC_CTL(i).EN while a channel that is ON or ramping has DAC i as its destination changes no register and is flagged with cause CFG_ENABLED; a channel's enable is refused while its DAC is disabled, with cause 9 where nothing else stands against it. -/
def Obligations.DacInUse : Prop :=
  ∀ (s : State), powered s = true → ∀ (o : Fin 7),
    (mayWrite s o 8 → ∀ (i : Fin 8) (w : Word), F.CNV_DAC_CTL_EN.part w.toNat = 0 →
      (∃ c : Fin 256, chnHolds s c = true ∧ dKind (chnOf s c).dest = 2 ∧ dUnit (chnOf s c).dest = i.val) →
      flaggedOnly (.cnvDacCtlEnWrite o i w) s cCfgEnabled o (F.CNV_DAC_CTL_EN.addr i)) ∧
    (mayWrite s o 6 → ∀ (c : Fin 256) (w : Word),
      turnsOn F.CHN_CTL_EN [F.CHN_CTL_BQ_EN, F.CHN_CTL_LIM_POL, F.CHN_CTL_TYPE, F.CHN_CTL_INTERP] w.toNat c s →
      dKind (chnDestWord s c) = 2 → s.on F.CNV_DAC_CTL_EN (dUnit (chnDestWord s c)) = false →
      actsTo (.chnCtlEnWrite o c w) s [reg F.CHN_CTL_EN c, reg F.CHN_STAT_STATE c] [(F.CHN_CTL_EN, c, 0), (F.CHN_STAT_CFG_BAD, c, 1)]
        (fun t => 1 ≤ t.rd F.CHN_STAT_ENCAUSE c ∧ t.rd F.CHN_STAT_ENCAUSE c ≤ 9 ∧ unitsKept chnOf s t ∧
          (dUnit (chnDestWord s c) < 8 → chnEnableCause false c (s.wr F.CNV_DAC_CTL_EN (dUnit (chnDestWord s c)) 1) = 0 → t.rd F.CHN_STAT_ENCAUSE c = 9)))

/-- While player p is enabled, a write of a register of its row of TRG_EVSEL leaves every field as it is: it is flagged with CFG_ENABLED where a field would change, and accepted without effect where none would; while the player is disabled the fields take the word. -/
def Obligations.EventSelectGuard : Prop :=
  ∀ (s : State), powered s = true → ∀ (o : Fin 7), mayWrite s o 17 → ∀ (p : Fin 64) (m : Fin 8) (w a : Word), a.toNat = (F.TRG_EVSEL_SRC_H m).addr p →
    srcListed ((F.TRG_EVSEL_SRC_H m).part w.toNat) = true → srcListed ((F.TRG_EVSEL_SRC_L m).part w.toNat) = true →
    let fs := [F.TRG_EVSEL_SRC_H m, F.TRG_EVSEL_EDGE_H m, F.TRG_EVSEL_SRC_L m, F.TRG_EVSEL_EDGE_L m]
    (s.on F.PLY_CTL_EN p = true → ¬ asIs fs w.toNat p s → flaggedOnly (.registerWrite o false a 15 [w]) s cCfgEnabled o a.toNat) ∧
    (s.on F.PLY_CTL_EN p = true → asIs fs w.toNat p s → actsTo (.registerWrite o false a 15 [w]) s [] [] (fun t => kept fs p s t ∧ t.rd F.GLB_REG_ERR_COUNT 0 = s.rd F.GLB_REG_ERR_COUNT 0)) ∧
    (s.on F.PLY_CTL_EN p = false → actsTo (.registerWrite o false a 15 [w]) s [reg (F.TRG_EVSEL_SRC_H m) p] []
      (fun t => (∀ f ∈ fs, t.rd f p = f.part w.toNat) ∧ t.rd F.GLB_REG_ERR_COUNT 0 = s.rd F.GLB_REG_ERR_COUNT 0))

/-- When the position falls below 0 in an iteration other than the first, and no swap of learned halves has put the words behind the position in doubt (R191, log entry 81), the step stays, PLY_ITER decreases by 1, and the origin O falls by L × 2^24, whatever REVERSIBLE says; the position is s + L × 2^24, the clamp shows no more, no other register differs and no other player's record. -/
def Obligations.ReverseIteration : Prop :=
  ∀ (s : State) (p : Fin 64) (v : Int), v < 0 → 2 ≤ curIter s p → (plyOf s p).stale = false → s.rd F.PLY_ORIGIN_O p = uns 64 ((railVal s p : Int) - v) →
    curIter (reverseCross p v s) p = curIter s p - 1 ∧ curStep (reverseCross p v s) p = curStep s p ∧
      (reverseCross p v s).rd F.PLY_ORIGIN_O p = uns 64 ((s.rd F.PLY_ORIGIN_O p : Int) - (curLen s p : Int) * 2 ^ 24) ∧
      (reverseCross p v s).rd F.PLY_POS_S p = uns F.PLY_POS_S.width (v + (curLen s p : Int) * 2 ^ 24) ∧
      (reverseCross p v s).rd F.PLY_SEQ_STAT_CLAMPED p = 0 ∧
      regsBut [field F.PLY_ITER_ITER p, field F.PLY_SEQ_STAT_CLAMPED p, field F.PLY_ORIGIN_O p, field F.PLY_POS_S p] s (reverseCross p v s) ∧
      (∀ q, q ≠ p.val → plyOf (reverseCross p v s) q = plyOf s q) ∧ (plyOf (reverseCross p v s) p).hist = (plyOf s p).hist

/-- A REG_RD of a register that a member of a staged batch writes is answered with the register's present value, and no register outside the host link and the records differs. -/
def Obligations.StagedNotRead : Prop :=
  ∀ (p : Pkt) (s : State), passes 0x10 p s → p.w 1 % 512 = 1 → p.w 1 / 65536 % 16 ≠ 0 → p.w 0 % 4 = 0 → (readReg s (p.w 0)).isSome = true →
    ∀ b ∈ s.staged, ∀ q ∈ b.batch.members, q.opcode = 0x11 → q.w 0 ≤ p.w 0 → p.w 0 < q.w 0 + 4 * (q.w 1 % 512) →
      answers (.regRd p) p s [readReg0 (counted (numbered 0x10 p) s.coming) (p.w 0)] [] [] (fun t => t.staged = s.staged ∧ bytesKept s t) ∧
      ((p.w 0 < 0x600000 ∨ 0x700000 ≤ p.w 0) → readReg0 (counted (numbered 0x10 p) s.coming) (p.w 0) = readReg0 s (p.w 0))

/-- For every command of the table, of every family, and for every state and all operands, executing it answers a next state in which the fault summary is the one its causes give and no reply waits to leave by the side channel; no command faults and none is refused by the model. -/
def Obligations.EveryCommandCompletes : Prop :=
  ∀ (c : Instr) (s : State), ∃ t, exec c s = .next t ∧ summed t ∧ quiet t
end

