-- ==== Sys2Proof/Laws/Tables.lean ====
section
/-! SUPPORT. Sparse tables and the register store: a write is read back, and changes nothing else (R33); Carafe's bytes keep
their canonical form. -/

namespace Sys2Proof.Machine

variable {α : Type}

/-! ### Tables -/

@[simp] theorem tabGet_put_same (t : Tab α) (k : Nat) (v : α) : tabGet (tabPut t k v) k = some v := by
  induction t with
  | nil => simp [tabPut, tabGet]
  | cons e r ih =>
    obtain ⟨j, w⟩ := e
    simp only [tabPut]
    split
    · simp [tabGet]
    · split
      · simp [tabGet]
      · rename_i h; simpa [tabGet, h] using ih

theorem tabGet_put_other (t : Tab α) (k i : Nat) (v : α) (h : k ≠ i) : tabGet (tabPut t k v) i = tabGet t i := by
  induction t with
  | nil => simp [tabPut, tabGet, h]
  | cons e r ih =>
    obtain ⟨j, w⟩ := e
    simp only [tabPut]
    split
    · simp [tabGet, h]
    · split
      · rename_i hj
        have hj : j = k := by simpa using hj
        simp [tabGet, h, hj]
      · simp only [tabGet, ih]

@[simp] theorem tabGet_del_same (t : Tab α) (k : Nat) : tabGet (tabDel t k) k = none := by
  induction t with
  | nil => rfl
  | cons e r ih =>
    obtain ⟨j, w⟩ := e
    simp only [tabDel]
    split
    · exact ih
    · rename_i h; simpa [tabGet, h] using ih

theorem tabGet_del_other (t : Tab α) (k i : Nat) (h : k ≠ i) : tabGet (tabDel t k) i = tabGet t i := by
  induction t with
  | nil => rfl
  | cons e r ih =>
    obtain ⟨j, w⟩ := e
    simp only [tabDel]
    split
    · rename_i hj
      have hj : j = k := by simpa using hj
      simp [tabGet, ih, hj, h]
    · simp only [tabGet, ih]

theorem tabGet_set_same [DecidableEq α] (d : α) (t : Tab α) (k : Nat) (v : α) : (tabGet (tabSet d t k v) k).getD d = v := by
  unfold tabSet
  split
  · simp_all
  · simp

theorem tabGet_set_other [DecidableEq α] (d : α) (t : Tab α) (k i : Nat) (v : α) (h : k ≠ i) :
    tabGet (tabSet d t k v) i = tabGet t i := by
  unfold tabSet
  split
  · exact tabGet_del_other t k i h
  · exact tabGet_put_other t k i v h

/-! ### Ascending keys -/

/-- Every key of a table lies above a bound. -/
def tabAbove (k : Nat) (t : Tab α) : Bool := t.all (fun e => decide (k < e.1))

theorem tabSorted_cons (j : Nat) (w : α) (r : Tab α) : tabSorted ((j, w) :: r) = (tabAbove j r && tabSorted r) := by
  induction r generalizing j w with
  | nil => rfl
  | cons e q ih =>
    obtain ⟨i, x⟩ := e
    have h1 := ih i x
    simp only [tabSorted] at h1 ⊢
    rw [Bool.eq_iff_iff]
    constructor
    · intro h
      simp only [Bool.and_eq_true, decide_eq_true_eq] at h
      have h2 := h.2
      rw [h1] at h2
      simp only [Bool.and_eq_true] at h2
      simp only [tabAbove, List.all_cons, Bool.and_eq_true, decide_eq_true_eq, List.all_eq_true]
      refine ⟨⟨h.1, fun e he => ?_⟩, h.2⟩
      have := h2.1
      simp only [tabAbove, List.all_eq_true, decide_eq_true_eq] at this
      have := this e he
      omega
    · intro h
      simp only [tabAbove, List.all_cons, Bool.and_eq_true, decide_eq_true_eq] at h ⊢
      exact ⟨h.1.1, h.2⟩

theorem tabAbove_put (b k : Nat) (v : α) (t : Tab α) (hb : b < k) (h : tabAbove b t = true) : tabAbove b (tabPut t k v) = true := by
  induction t with
  | nil => simp [tabPut, tabAbove, hb]
  | cons e r ih =>
    obtain ⟨j, w⟩ := e
    simp only [tabAbove, List.all_cons, Bool.and_eq_true, decide_eq_true_eq] at h ih ⊢
    simp only [tabPut]
    split
    · simp only [List.all_cons, Bool.and_eq_true, decide_eq_true_eq]; exact ⟨hb, h.1, h.2⟩
    · split
      · simp only [List.all_cons, Bool.and_eq_true, decide_eq_true_eq]; exact ⟨hb, h.2⟩
      · simp only [List.all_cons, Bool.and_eq_true, decide_eq_true_eq]; exact ⟨h.1, ih h.2⟩

theorem tabSorted_put (k : Nat) (v : α) (t : Tab α) (h : tabSorted t = true) : tabSorted (tabPut t k v) = true := by
  induction t with
  | nil => rfl
  | cons e r ih =>
    obtain ⟨j, w⟩ := e
    have h0 := h
    rw [tabSorted_cons] at h
    simp only [Bool.and_eq_true] at h
    simp only [tabPut]
    split
    · rename_i hk
      rw [tabSorted_cons, h0, Bool.and_true]
      simp only [tabAbove, List.all_cons, Bool.and_eq_true, decide_eq_true_eq, List.all_eq_true]
      refine ⟨hk, fun e he => ?_⟩
      have := h.1
      simp only [tabAbove, List.all_eq_true, decide_eq_true_eq] at this
      have := this e he
      omega
    · split
      · rename_i hj
        have hj : j = k := by simpa using hj
        rw [tabSorted_cons, ← hj, h.1, h.2]; rfl
      · rename_i h1 h2
        have h2 : j ≠ k := by simpa using h2
        rw [tabSorted_cons, ih h.2, Bool.and_true]
        exact tabAbove_put j k v r (by omega) h.1

theorem tabAbove_del (b k : Nat) (t : Tab α) (h : tabAbove b t = true) : tabAbove b (tabDel t k) = true := by
  induction t with
  | nil => rfl
  | cons e r ih =>
    obtain ⟨j, w⟩ := e
    simp only [tabAbove, List.all_cons, Bool.and_eq_true, decide_eq_true_eq] at h ih ⊢
    simp only [tabDel]
    split
    · exact ih h.2
    · simp only [List.all_cons, Bool.and_eq_true, decide_eq_true_eq]; exact ⟨h.1, ih h.2⟩

theorem tabSorted_del (k : Nat) (t : Tab α) (h : tabSorted t = true) : tabSorted (tabDel t k) = true := by
  induction t with
  | nil => rfl
  | cons e r ih =>
    obtain ⟨j, w⟩ := e
    rw [tabSorted_cons] at h
    simp only [Bool.and_eq_true] at h
    simp only [tabDel]
    split
    · exact ih h.2
    · rw [tabSorted_cons, ih h.2, Bool.and_true]; exact tabAbove_del j k r h.1

theorem tabSorted_set [DecidableEq α] (d : α) (k : Nat) (v : α) (t : Tab α) (h : tabSorted t = true) :
    tabSorted (tabSet d t k v) = true := by
  unfold tabSet
  split
  · exact tabSorted_del k t h
  · exact tabSorted_put k v t h

/-! ### The register store -/

/-- A written field reads as the value written, narrowed to its width (R9, R33). -/
@[simp] theorem State.rd_wr_same (s : State) (f : Fld) (u v : Nat) : (s.wr f u v).rd f u = v % 2 ^ f.width := by
  simp only [State.rd, State.wr]; rw [tabGet_set_same, Nat.mod_mod]

/-- A field's value lies within its width. -/
theorem State.rd_lt (s : State) (f : Fld) (u : Nat) : s.rd f u < 2 ^ f.width := Nat.mod_lt _ (Nat.two_pow_pos _)

/-- Every other field keeps its value. -/
theorem State.rd_wr_other (s : State) (f g : Fld) (u w v : Nat) (h : f.key u ≠ g.key w) : (s.wr f u v).rd g w = s.rd g w := by
  simp only [State.rd, State.wr]; rw [tabGet_set_other _ _ _ _ _ h]


/-! ### Carafe's bytes -/

@[simp] theorem memRd_wr_same (m : List Host.Cell) (a : Nat) (b : Byte) : memRd (memWr m a b) a = b := by
  simp only [memRd, memWr]; exact tabGet_set_same _ _ _ _

theorem memRd_wr_other (m : List Host.Cell) (a c : Nat) (b : Byte) (h : a ≠ c) : memRd (memWr m a b) c = memRd m c := by
  simp only [memRd, memWr]; rw [tabGet_set_other _ _ _ _ _ h]

/-- No entry of a memory equals what an unlisted address reads as. -/
def memDense (m : List Host.Cell) : Bool := m.all (fun c => c.2 != 0)

theorem memWf_iff (m : List Host.Cell) : memWf m = (tabSorted m && memDense m) := rfl

theorem memDense_put (m : List Host.Cell) (a : Nat) (b : Byte) (hb : b ≠ 0) (h : memDense m = true) : memDense (tabPut m a b) = true := by
  induction m with
  | nil => simpa [tabPut, memDense] using hb
  | cons e r ih =>
    obtain ⟨j, w⟩ := e
    simp only [memDense, List.all_cons, Bool.and_eq_true] at h ih ⊢
    simp only [tabPut]
    split
    · simp only [List.all_cons, Bool.and_eq_true]; exact ⟨by simpa using hb, h.1, h.2⟩
    · split
      · simp only [List.all_cons, Bool.and_eq_true]; exact ⟨by simpa using hb, h.2⟩
      · simp only [List.all_cons, Bool.and_eq_true]; exact ⟨h.1, ih h.2⟩

theorem memDense_del (m : List Host.Cell) (a : Nat) (h : memDense m = true) : memDense (tabDel m a) = true := by
  induction m with
  | nil => rfl
  | cons e r ih =>
    obtain ⟨j, w⟩ := e
    simp only [memDense, List.all_cons, Bool.and_eq_true] at h ih ⊢
    simp only [tabDel]
    split
    · exact ih h.2
    · simp only [List.all_cons, Bool.and_eq_true]; exact ⟨h.1, ih h.2⟩

/-- Every write of a byte keeps the canonical form. -/
theorem memWf_wr (m : List Host.Cell) (a : Nat) (b : Byte) (h : memWf m = true) : memWf (memWr m a b) = true := by
  rw [memWf_iff, Bool.and_eq_true] at h ⊢
  refine ⟨tabSorted_set 0 a b m h.1, ?_⟩
  unfold memWr tabSet
  split
  · exact memDense_del m a h.2
  · rename_i hb; exact memDense_put m a b hb h.2

theorem memWf_wrW (m : List Host.Cell) (a v : Nat) (h : memWf m = true) : memWf (memWrW m a v) = true :=
  memWf_wr _ _ _ (memWf_wr _ _ _ (memWf_wr _ _ _ (memWf_wr _ _ _ h)))

theorem memWf_wrWs (l : List Nat) (m : List Host.Cell) (a : Nat) (h : memWf m = true) : memWf (memWrWs m a l) = true := by
  induction l generalizing m a with
  | nil => exact h
  | cons v r ih => exact ih _ _ (memWf_wrW m a v h)

theorem memWf_wrBs (l : List Byte) (m : List Host.Cell) (a : Nat) (h : memWf m = true) : memWf (memWrBs m a l) = true := by
  induction l generalizing m a with
  | nil => exact h
  | cons v r ih => exact ih _ _ (memWf_wr m a v h)

theorem tabAbove_filter (b : Nat) (p : Nat × α → Bool) (t : Tab α) (h : tabAbove b t = true) : tabAbove b (t.filter p) = true := by
  simp only [tabAbove, List.all_eq_true] at h ⊢
  intro e he
  exact h e (List.mem_filter.mp he).1

theorem tabSorted_filter (p : Nat × α → Bool) (t : Tab α) (h : tabSorted t = true) : tabSorted (t.filter p) = true := by
  induction t with
  | nil => rfl
  | cons e r ih =>
    obtain ⟨j, w⟩ := e
    rw [tabSorted_cons, Bool.and_eq_true] at h
    rw [List.filter_cons]
    split
    · rw [tabSorted_cons, ih h.2, tabAbove_filter j p r h.1]; rfl
    · exact ih h.2

theorem memWf_zero (m : List Host.Cell) (a n : Nat) (h : memWf m = true) : memWf (memZero m a n) = true := by
  rw [memWf_iff, Bool.and_eq_true] at h ⊢
  refine ⟨tabSorted_filter _ m h.1, ?_⟩
  have h2 := h.2
  simp only [memDense, List.all_eq_true] at h2 ⊢
  intro c hc
  exact h2 c (List.mem_filter.mp hc).1

end Sys2Proof.Machine
end

