-- ==== Sys2Proof/Laws/Frame.lean ====
section
/-! SUPPORT. What the operations that every command shares may change: replies, records, the end of a command. -/

namespace Sys2Proof.Machine

/-! ### Registers outside a set of addresses -/

/-- Every register whose address lies outside `P` is the same in two states. -/
def Keeps (P : Nat → Prop) (s t : State) : Prop := ∀ k, ¬ P k → tabGet t.flds k = tabGet s.flds k

theorem Keeps.refl (P : Nat → Prop) (s : State) : Keeps P s s := fun _ _ => rfl

theorem Keeps.of_eq {P : Nat → Prop} {s t : State} (h : t.flds = s.flds) : Keeps P s t := fun k _ => by rw [h]

theorem Keeps.trans {P : Nat → Prop} {s t u : State} (h : Keeps P s t) (g : Keeps P t u) : Keeps P s u :=
  fun k hk => (g k hk).trans (h k hk)

theorem Keeps.mono {P Q : Nat → Prop} {s t : State} (h : Keeps P s t) (pq : ∀ a, P a → Q a) : Keeps Q s t :=
  fun k hk => h k (fun x => hk (pq _ x))

theorem Keeps.wr {P : Nat → Prop} {s t : State} (h : Keeps P s t) (f : Fld) (u v : Nat) (hp : P (f.key u)) :
    Keeps P s (t.wr f u v) := fun k hk => by
  rw [← h k hk]
  exact tabGet_set_other _ _ _ _ _ (fun e => hk (e ▸ hp))

/-- A field outside the set reads the same. -/
theorem Keeps.rd {P : Nat → Prop} {s t : State} (h : Keeps P s t) (f : Fld) (u : Nat) (hp : ¬ P (f.key u)) :
    t.rd f u = s.rd f u := by
  simp only [State.rd, h _ hp]

theorem Keeps.on {P : Nat → Prop} {s t : State} (h : Keeps P s t) (f : Fld) (u : Nat) (hp : ¬ P (f.key u)) :
    t.on f u = s.on f u := by
  simp only [State.on, h.rd f u hp]

/-- A fold of operations that each keep the registers outside a set keeps them. -/
theorem Keeps.foldl {β : Type} {P : Nat → Prop} (op : State → β → State) (l : List β) (s : State)
    (h : ∀ t e, e ∈ l → Keeps P t (op t e)) : Keeps P s (l.foldl op s) := by
  induction l generalizing s with
  | nil => exact Keeps.refl P s
  | cons e r ih =>
    exact (h s e (by simp)).trans (ih (op s e) (fun t x hx => h t x (by simp [hx])))

/-- Registers of the host link, the event and audit logs, the mode and the flagged accesses, the Rake block. -/
def hstA (k : Nat) : Prop := 0x600000 ≤ k / 64 ∧ k / 64 < 0x700000
def logA (k : Nat) : Prop := 0x900000 ≤ k / 64 ∧ k / 64 < 0xA00000
def glbA (k : Nat) : Prop := 0x10 ≤ k / 64 ∧ k / 64 < 0x20
def rakeA (k : Nat) : Prop := 0x500000 ≤ k / 64 ∧ k / 64 < 0x600000

/-- A state without what replies change. -/
def sansReply (s : State) : State := { s with flds := [], out := [], rqWait := [], msixWait := [] }

/-- A state without what records change. -/
def sansLog (s : State) : State :=
  { s with flds := [], carAsks := [], evRing := [], logSeq := [], logLevel := 0, logTick := 0, msixWait := [], rates := [] }

/-- A state without what a final reply changes. -/
def sansDone (s : State) : State := { s with flds := [], out := [], rqWait := [], msixWait := [], jobs := [], wins := [], pool := [] }

/-- A state without what the end of a command changes. -/
def sansEnd (s : State) : State := { s with flds := [], out := [], msixWait := [], rkPorts := [], faultSum := 0 }

/-! ### Replies (R299, R315) -/

theorem sqStall_keeps (r : Nat) (b : Bool) (s : State) : Keeps hstA s (sqStall r b s) := by
  unfold sqStall
  refine Keeps.foldl _ _ _ (fun t e he => ?_)
  have : e < 32 := by simpa using he
  split
  · refine (Keeps.refl _ _).wr _ _ _ ?_
    simp only [hstA, Fld.key, F.HST_SQ_STAT_STATE]; omega
  · exact Keeps.refl _ _

@[simp] theorem sansReply_wr (s : State) (f : Fld) (u v : Nat) : sansReply (s.wr f u v) = sansReply s := rfl
@[simp] theorem sansLog_wr (s : State) (f : Fld) (u v : Nat) : sansLog (s.wr f u v) = sansLog s := rfl
@[simp] theorem sansDone_wr (s : State) (f : Fld) (u v : Nat) : sansDone (s.wr f u v) = sansDone s := rfl
@[simp] theorem sansEnd_wr (s : State) (f : Fld) (u v : Nat) : sansEnd (s.wr f u v) = sansEnd s := rfl

theorem sans_foldl {β γ : Type} (z : State → γ) (op : State → β → State) (l : List β) (s : State)
    (h : ∀ t e, z (op t e) = z t) : z (l.foldl op s) = z s := by
  induction l generalizing s with
  | nil => rfl
  | cons e r ih => exact (ih (op s e)).trans (h s e)

theorem sqStall_sans (r : Nat) (b : Bool) (s : State) : sansReply (sqStall r b s) = sansReply s := by
  unfold sqStall
  refine sans_foldl sansReply _ _ _ (fun t e => ?_)
  split <;> rfl

/-- The reply ring of a submission ring is one of the 32. -/
theorem rqOf_lt (s : State) (sq : Nat) (h : sq < 32) : rqOf s sq < 32 := by
  have := s.rd_lt F.HST_SQ_CTL_RQ sq
  simp only [F.HST_SQ_CTL_RQ] at this
  simp only [rqOf, F.HST_SQ_CTL_RQ]; omega

theorem rqWrite_keeps (r : Nat) (sq : Fin 32) (org : Nat) (rep : Reply) (s : State) (h : r < 32) :
    Keeps hstA s (rqWrite r sq org rep s) := by
  unfold rqWrite msixRaise State.tallyBy
  refine Keeps.trans (t := (s.wr F.HST_RQ_TAIL_V r ((s.rd F.HST_RQ_TAIL_V r + 4 * replyWords rep) % 2 ^ (s.rd F.HST_RQ_CTL_SIZE r + 1)))) ?_ ?_
  · exact (Keeps.refl _ _).wr _ _ _ (by simp only [hstA, Fld.key, F.HST_RQ_TAIL_V]; omega)
  · exact (Keeps.of_eq rfl).wr F.HST_BYTES_COUNT 0 _ (by simp only [hstA, Fld.key, F.HST_BYTES_COUNT]; omega) |>.trans (Keeps.of_eq rfl)

theorem rqDrain_keeps (r : Nat) (l : List (Nat × Reply)) (s : State) (h : r < 32) : Keeps hstA s (rqDrain r l s) := by
  induction l generalizing s with
  | nil =>
    simp only [rqDrain]
    split
    · refine Keeps.trans ?_ (sqStall_keeps _ _ _)
      exact (Keeps.of_eq (s := s) (t := { s with rqWait := tabSet [] s.rqWait r [] }) rfl).wr _ _ _
        (by simp only [hstA, Fld.key, F.HST_RQ_STAT_STATE]; omega)
    · exact Keeps.of_eq rfl
  | cons e rest ih =>
    obtain ⟨k, rep⟩ := e
    simp only [rqDrain]
    split
    · exact (rqWrite_keeps _ _ _ _ _ h).trans (ih _)
    · refine Keeps.trans ?_ (sqStall_keeps _ _ _)
      split
      · exact (Keeps.of_eq (s := s) (t := { s with rqWait := tabSet [] s.rqWait r ((k, rep) :: rest) }) rfl).wr _ _ _
          (by simp only [hstA, Fld.key, F.HST_RQ_STAT_STATE]; omega)
      · exact Keeps.of_eq rfl

theorem rqDrain_sans (r : Nat) (l : List (Nat × Reply)) (s : State) : sansReply (rqDrain r l s) = sansReply s := by
  induction l generalizing s with
  | nil =>
    simp only [rqDrain]
    split
    · rw [sqStall_sans]; rfl
    · rfl
  | cons e rest ih =>
    obtain ⟨k, rep⟩ := e
    simp only [rqDrain]
    split
    · rw [ih]; rfl
    · rw [sqStall_sans]; split <;> rfl

/-- Writing a reply changes the host link's registers and its queues only. -/
theorem send_keeps (path : Path) (org : Nat) (rep : Reply) (s : State) : Keeps hstA s (send path org rep s) := by
  have hb : hstA (F.HST_BYTES_COUNT.key 0) := by simp only [hstA, Fld.key, F.HST_BYTES_COUNT]; omega
  unfold send
  split
  · rename_i sq
    exact rqDrain_keeps _ _ _ (rqOf_lt s sq.val sq.isLt)
  · exact Keeps.refl _ _
  · exact (Keeps.of_eq rfl).wr F.HST_BYTES_COUNT 0 _ hb

theorem send_sans (path : Path) (org : Nat) (rep : Reply) (s : State) : sansReply (send path org rep s) = sansReply s := by
  unfold send
  split
  · exact rqDrain_sans _ _ _
  · rfl
  · rfl

/-! ### Final replies (R311 to R315) -/

theorem poolAdd_flds (k tag : Nat) (s : State) : (poolAdd k tag s).flds = s.flds := by
  unfold poolAdd
  split
  · rfl
  · extract_lets pl
    clear_value pl
    split
    · rfl
    · cases pl <;> rfl

theorem poolAdd_sans (k tag : Nat) (s : State) : sansDone (poolAdd k tag s) = sansDone s := by
  unfold poolAdd
  split
  · rfl
  · extract_lets pl
    clear_value pl
    split
    · rfl
    · cases pl <;> rfl

theorem winDone_flds (k job : Nat) (rep : Reply) (s : State) : (winDone k job rep s).flds = s.flds := by
  unfold winDone
  extract_lets w
  split
  · rw [poolAdd_flds]; rfl
  · rfl

theorem winDone_sans (k job : Nat) (rep : Reply) (s : State) : sansDone (winDone k job rep s) = sansDone s := by
  unfold winDone
  extract_lets w
  split
  · rw [poolAdd_sans]; rfl
  · rfl

theorem sansDone_of_reply {s t : State} (h : sansReply s = sansReply t) : sansDone s = sansDone t := by
  have := congrArg (fun x : State => sansDone x) h
  exact this

/-- A final reply changes the registers of the host link only. -/
theorem completeCt_keeps (ct j status detail : Nat) (data : List Nat) (s : State) :
    Keeps hstA s (completeCt ct j status detail data s) := by
  unfold completeCt
  split
  · exact Keeps.refl _ _
  · split
    · refine Keeps.trans (t := winDone _ _ _ { s with jobs := _ }) (Keeps.of_eq ?_) (send_keeps _ _ _ _)
      rw [winDone_flds]
    · exact Keeps.of_eq (winDone_flds _ _ _ _)

theorem completeCt_sans (ct j status detail : Nat) (data : List Nat) (s : State) :
    sansDone (completeCt ct j status detail data s) = sansDone s := by
  unfold completeCt
  split
  · rfl
  · split
    · rw [sansDone_of_reply (send_sans _ _ _ _), winDone_sans]; rfl
    · rw [winDone_sans]; rfl

theorem complete_keeps (j status detail : Nat) (data : List Nat) (s : State) : Keeps hstA s (complete j status detail data s) :=
  completeCt_keeps _ _ _ _ _ _

theorem complete_sans (j status detail : Nat) (data : List Nat) (s : State) : sansDone (complete j status detail data s) = sansDone s :=
  completeCt_sans _ _ _ _ _ _

theorem completeOpt_keeps (j : Option Nat) (status detail : Nat) (data : List Nat) (s : State) :
    Keeps hstA s (completeOpt j status detail data s) := by
  cases j with
  | none => exact Keeps.refl _ _
  | some i => exact complete_keeps _ _ _ _ _

theorem completeOpt_sans (j : Option Nat) (status detail : Nat) (data : List Nat) (s : State) :
    sansDone (completeOpt j status detail data s) = sansDone s := by
  cases j with
  | none => rfl
  | some i => exact complete_sans _ _ _ _ _

/-! ### Records (R380 to R384, R39) -/

/-- An access of the Carafe that waits for the controller changes no register. -/
theorem ask_flds (port : Nat) (w : Bool) (a n : Nat) (s : State) : (s.ask port w a n).flds = s.flds := by
  unfold State.ask
  split <;> rfl

theorem ask_sans (port : Nat) (w : Bool) (a n : Nat) (s : State) : sansLog (s.ask port w a n) = sansLog s := by
  unfold State.ask
  split <;> rfl

theorem logNotice_keeps (c : Bool) (s : State) : Keeps logA s (logNotice c s) := by
  have hx : logA (F.LOG_EV_NOTE_XCNT.key 0) := by simp only [logA, Fld.key, F.LOG_EV_NOTE_XCNT]; omega
  have ha : logA (F.LOG_EV_STAT_ABOVE.key 0) := by simp only [logA, Fld.key, F.LOG_EV_STAT_ABOVE]; omega
  have hp : logA (F.LOG_EV_STAT_PENDING.key 0) := by simp only [logA, Fld.key, F.LOG_EV_STAT_PENDING]; omega
  unfold logNotice
  extract_lets above s1 s2 pend s3
  have h1 : Keeps logA s s1 := by
    show Keeps logA s (if _ then _ else _)
    split
    · exact ((Keeps.refl logA s).wr _ _ _ hx).trans (Keeps.of_eq rfl)
    · exact Keeps.refl _ _
  have h3 : Keeps logA s s3 := (h1.wr _ _ _ ha).wr _ _ _ hp
  split
  · exact h3.trans (Keeps.of_eq rfl)
  · exact h3

theorem logNotice_sans (c : Bool) (s : State) : sansLog (logNotice c s) = sansLog s := by
  unfold logNotice
  extract_lets above s1 s2 pend s3
  have h1 : sansLog s1 = sansLog s := by
    show sansLog (if _ then _ else _) = _
    split <;> rfl
  have h3 : sansLog s3 = sansLog s := h1
  split
  · exact h3
  · exact h3

theorem logPlace_keeps (w : List Nat) (s : State) : Keeps logA s (logPlace w s) := by
  have h1 : logA (F.LOG_EV_OLD_RECNO.key 0) := by simp only [logA, Fld.key, F.LOG_EV_OLD_RECNO]; omega
  have h2 : logA (F.LOG_EV_OVW_COUNT.key 0) := by simp only [logA, Fld.key, F.LOG_EV_OVW_COUNT]; omega
  have h3 : logA (F.LOG_EV_RD_RECNO.key 0) := by simp only [logA, Fld.key, F.LOG_EV_RD_RECNO]; omega
  have h4 : logA (F.LOG_EV_WR_RECNO.key 0) := by simp only [logA, Fld.key, F.LOG_EV_WR_RECNO]; omega
  have h5 : logA (F.LOG_EV_TOTAL_COUNT.key 0) := by simp only [logA, Fld.key, F.LOG_EV_TOTAL_COUNT]; omega
  unfold logPlace
  extract_lets r slot past old unread s1 s2 s3
  have k1 : Keeps logA s s1 := Keeps.of_eq (ask_flds _ _ _ _ _)
  have k2 : Keeps logA s s2 := by
    show Keeps logA s (if _ then _ else _)
    split
    · exact k1.wr _ _ _ h1
    · exact k1
  have k3 : Keeps logA s s3 := by
    show Keeps logA s (if _ then _ else _)
    split
    · exact (k2.wr _ _ _ h2).wr _ _ _ h3
    · exact k2
  exact (k3.wr _ _ _ h4).wr _ _ _ h5

theorem logPlace_sans (w : List Nat) (s : State) : sansLog (logPlace w s) = sansLog s := by
  unfold logPlace
  extract_lets r slot past old unread s1 s2 s3
  have k1 : sansLog s1 = sansLog s := (ask_sans _ _ _ _ _).trans rfl
  have k2 : sansLog s2 = sansLog s := by
    show sansLog (if _ then _ else _) = _
    split
    · exact k1
    · exact k1
  have k3 : sansLog s3 = sansLog s := by
    show sansLog (if _ then _ else _) = _
    split
    · rw [State.bump, State.bumpBy, sansLog_wr, sansLog_wr]; exact k2
    · exact k2
  rw [State.tally, State.tallyBy, sansLog_wr, sansLog_wr]
  exact k3

theorem logPlaced_keeps (w : List Nat) (s t : State) (h : t.flds = s.flds) : Keeps logA s (logNotice true (logPlace w t)) :=
  (Keeps.of_eq h).trans ((logPlace_keeps _ _).trans (logNotice_keeps _ _))

theorem logDropped_keeps (l n : Nat) (s t : State) (h : Keeps logA s t) : Keeps logA s { t with logLevel := l, logTick := n } := h

theorem logAt_keeps (ct : Nat) (al : Bool) (src kind d0 d1 d2 : Nat) (s : State) : Keeps logA s (logAt ct al src kind d0 d1 d2 s) := by
  have hd : logA (F.LOG_EV_DROP_DROPPED.key 0) := by simp only [logA, Fld.key, F.LOG_EV_DROP_DROPPED]; omega
  unfold logAt
  extract_lets seq s1 lvl a
  split
  · exact logPlaced_keeps _ _ _ rfl
  · refine logDropped_keeps _ _ _ _ ?_
    exact Keeps.wr (Keeps.of_eq (show s1.flds = s.flds from rfl)) F.LOG_EV_DROP_DROPPED 0 _ hd

theorem logAt_sans (ct : Nat) (al : Bool) (src kind d0 d1 d2 : Nat) (s : State) :
    sansLog (logAt ct al src kind d0 d1 d2 s) = sansLog s := by
  unfold logAt
  extract_lets seq s1 lvl a s2 w s3
  split
  · rw [logNotice_sans, logPlace_sans]; rfl
  · rfl

/-- A record changes the registers of the logs only. -/
theorem logEvent_keeps (src kind d0 d1 d2 : Nat) (s : State) : Keeps logA s (logEvent src kind d0 d1 d2 s) :=
  logAt_keeps _ _ _ _ _ _ _ _

theorem logEvent_sans (src kind d0 d1 d2 : Nat) (s : State) : sansLog (logEvent src kind d0 d1 d2 s) = sansLog s :=
  logAt_sans _ _ _ _ _ _ _ _

theorem logLimited_keeps (c src kind d0 d1 d2 : Nat) (s : State) : Keeps logA s (logLimited c src kind d0 d1 d2 s) := by
  have h : (rateOk c s).2.flds = s.flds := by
    unfold rateOk rateOkN
    extract_lets win e n
    split <;> rfl
  unfold logLimited
  extract_lets r
  split
  · exact (Keeps.of_eq h).trans (logEvent_keeps _ _ _ _ _ _)
  · exact Keeps.of_eq h

theorem logLimited_sans (c src kind d0 d1 d2 : Nat) (s : State) : sansLog (logLimited c src kind d0 d1 d2 s) = sansLog s := by
  have h : sansLog (rateOk c s).2 = sansLog s := by
    unfold rateOk rateOkN
    extract_lets win e n
    split <;> rfl
  unfold logLimited
  extract_lets r
  split
  · rw [logEvent_sans]; exact h
  · exact h

/-- Registers of the mode, of the flagged accesses and of the logs. -/
def flagA (a : Nat) : Prop := glbA a ∨ logA a

/-- A flagged access changes its own registers and those of the logs only. -/
theorem flag_keeps (cause o addr word : Nat) (s : State) : Keeps flagA s (flag cause o addr word s) := by
  have h1 : flagA (F.GLB_REG_ERR_COUNT.key 0) := by left; simp only [glbA, Fld.key, F.GLB_REG_ERR_COUNT]; omega
  have h2 : flagA (F.GLB_REG_ERR_CAUSE.key 0) := by left; simp only [glbA, Fld.key, F.GLB_REG_ERR_CAUSE]; omega
  have h3 : flagA (F.GLB_REG_ERR_ORIGIN.key 0) := by left; simp only [glbA, Fld.key, F.GLB_REG_ERR_ORIGIN]; omega
  have h4 : flagA (F.GLB_REG_ERR_ADDR_ADDR.key 0) := by left; simp only [glbA, Fld.key, F.GLB_REG_ERR_ADDR_ADDR]; omega
  unfold flag
  extract_lets s1 d1
  have k : Keeps flagA s s1 := ((((Keeps.refl _ _).wr _ _ _ h1).wr _ _ _ h2).wr _ _ _ h3).wr _ _ _ h4
  split
  · exact k.trans ((logAt_keeps _ _ _ _ _ _ _ _).mono (fun _ h => Or.inr h))
  · exact k.trans ((logLimited_keeps _ _ _ _ _ _ _).mono (fun _ h => Or.inr h))

theorem flag_sans (cause o addr word : Nat) (s : State) : sansLog (flag cause o addr word s) = sansLog s := by
  unfold flag
  extract_lets s1 d1
  split
  · rw [logAt_sans]; rfl
  · rw [logLimited_sans]; rfl

theorem flagAll_keeps (o : Nat) (l : List (Nat × Nat × Nat)) (s : State) : Keeps flagA s (flagAll o l s) :=
  Keeps.foldl _ _ _ (fun _ _ _ => flag_keeps _ _ _ _ _)

theorem flagAll_sans (o : Nat) (l : List (Nat × Nat × Nat)) (s : State) : sansLog (flagAll o l s) = sansLog s :=
  sans_foldl sansLog _ _ _ (fun _ _ => flag_sans _ _ _ _ _)

end Sys2Proof.Machine
end

