-- ==== Sys2Proof/Laws/State.lean ====
section
/-! SUPPORT. Which field of the state an update writes: one law per field per update. -/

namespace Sys2Proof.Machine

@[simp] theorem State.wr_pending (s : State) (f : Fld) (u v : Nat) : (s.wr f u v).pending = s.pending := rfl
@[simp] theorem State.wr_cmd (s : State) (f : Fld) (u v : Nat) : (s.wr f u v).cmd = s.cmd := rfl
@[simp] theorem State.wr_wo1 (s : State) (f : Fld) (u v : Nat) : (s.wr f u v).wo1 = s.wo1 := rfl
@[simp] theorem State.wr_freeN (s : State) (f : Fld) (u v : Nat) : (s.wr f u v).freeN = s.freeN := rfl
@[simp] theorem State.wr_carafe (s : State) (f : Fld) (u v : Nat) : (s.wr f u v).carafe = s.carafe := rfl
@[simp] theorem State.wr_pans (s : State) (f : Fld) (u v : Nat) : (s.wr f u v).pans = s.pans := rfl
@[simp] theorem State.wr_evRing (s : State) (f : Fld) (u v : Nat) : (s.wr f u v).evRing = s.evRing := rfl
@[simp] theorem State.wr_fwImg (s : State) (f : Fld) (u v : Nat) : (s.wr f u v).fwImg = s.fwImg := rfl
@[simp] theorem State.wr_audMirror (s : State) (f : Fld) (u v : Nat) : (s.wr f u v).audMirror = s.audMirror := rfl
@[simp] theorem State.wr_logSeq (s : State) (f : Fld) (u v : Nat) : (s.wr f u v).logSeq = s.logSeq := rfl
@[simp] theorem State.wr_logLevel (s : State) (f : Fld) (u v : Nat) : (s.wr f u v).logLevel = s.logLevel := rfl
@[simp] theorem State.wr_logTick (s : State) (f : Fld) (u v : Nat) : (s.wr f u v).logTick = s.logTick := rfl
@[simp] theorem State.wr_rates (s : State) (f : Fld) (u v : Nat) : (s.wr f u v).rates = s.rates := rfl
@[simp] theorem State.wr_msixWait (s : State) (f : Fld) (u v : Nat) : (s.wr f u v).msixWait = s.msixWait := rfl
@[simp] theorem State.wr_msixTab (s : State) (f : Fld) (u v : Nat) : (s.wr f u v).msixTab = s.msixTab := rfl
@[simp] theorem State.wr_out (s : State) (f : Fld) (u v : Nat) : (s.wr f u v).out = s.out := rfl
@[simp] theorem State.wr_wins (s : State) (f : Fld) (u v : Nat) : (s.wr f u v).wins = s.wins := rfl
@[simp] theorem State.wr_pool (s : State) (f : Fld) (u v : Nat) : (s.wr f u v).pool = s.pool := rfl
@[simp] theorem State.wr_jobs (s : State) (f : Fld) (u v : Nat) : (s.wr f u v).jobs = s.jobs := rfl
@[simp] theorem State.wr_nextJob (s : State) (f : Fld) (u v : Nat) : (s.wr f u v).nextJob = s.nextJob := rfl
@[simp] theorem State.wr_heldPkts (s : State) (f : Fld) (u v : Nat) : (s.wr f u v).heldPkts = s.heldPkts := rfl
@[simp] theorem State.wr_rqHead (s : State) (f : Fld) (u v : Nat) : (s.wr f u v).rqHead = s.rqHead := rfl
@[simp] theorem State.wr_rqWait (s : State) (f : Fld) (u v : Nat) : (s.wr f u v).rqWait = s.rqWait := rfl
@[simp] theorem State.wr_opens (s : State) (f : Fld) (u v : Nat) : (s.wr f u v).opens = s.opens := rfl
@[simp] theorem State.wr_staged (s : State) (f : Fld) (u v : Nat) : (s.wr f u v).staged = s.staged := rfl
@[simp] theorem State.wr_segs (s : State) (f : Fld) (u v : Nat) : (s.wr f u v).segs = s.segs := rfl
@[simp] theorem State.wr_badUnits (s : State) (f : Fld) (u v : Nat) : (s.wr f u v).badUnits = s.badUnits := rfl
@[simp] theorem State.wr_badPans (s : State) (f : Fld) (u v : Nat) : (s.wr f u v).badPans = s.badPans := rfl
@[simp] theorem State.wr_plys (s : State) (f : Fld) (u v : Nat) : (s.wr f u v).plys = s.plys := rfl
@[simp] theorem State.wr_trigs (s : State) (f : Fld) (u v : Nat) : (s.wr f u v).trigs = s.trigs := rfl
@[simp] theorem State.wr_seqEvs (s : State) (f : Fld) (u v : Nat) : (s.wr f u v).seqEvs = s.seqEvs := rfl
@[simp] theorem State.wr_rails (s : State) (f : Fld) (u v : Nat) : (s.wr f u v).rails = s.rails := rfl
@[simp] theorem State.wr_chRails (s : State) (f : Fld) (u v : Nat) : (s.wr f u v).chRails = s.chRails := rfl
@[simp] theorem State.wr_tapBits (s : State) (f : Fld) (u v : Nat) : (s.wr f u v).tapBits = s.tapBits := rfl
@[simp] theorem State.wr_encs (s : State) (f : Fld) (u v : Nat) : (s.wr f u v).encs = s.encs := rfl
@[simp] theorem State.wr_trks (s : State) (f : Fld) (u v : Nat) : (s.wr f u v).trks = s.trks := rfl
@[simp] theorem State.wr_chns (s : State) (f : Fld) (u v : Nat) : (s.wr f u v).chns = s.chns := rfl
@[simp] theorem State.wr_chnOut (s : State) (f : Fld) (u v : Nat) : (s.wr f u v).chnOut = s.chnOut := rfl
@[simp] theorem State.wr_gpDrive (s : State) (f : Fld) (u v : Nat) : (s.wr f u v).gpDrive = s.gpDrive := rfl
@[simp] theorem State.wr_gpValue (s : State) (f : Fld) (u v : Nat) : (s.wr f u v).gpValue = s.gpValue := rfl
@[simp] theorem State.wr_gpQueue (s : State) (f : Fld) (u v : Nat) : (s.wr f u v).gpQueue = s.gpQueue := rfl
@[simp] theorem State.wr_queues (s : State) (f : Fld) (u v : Nat) : (s.wr f u v).queues = s.queues := rfl
@[simp] theorem State.wr_caps (s : State) (f : Fld) (u v : Nat) : (s.wr f u v).caps = s.caps := rfl
@[simp] theorem State.wr_dmds (s : State) (f : Fld) (u v : Nat) : (s.wr f u v).dmds = s.dmds := rfl
@[simp] theorem State.wr_adcOn (s : State) (f : Fld) (u v : Nat) : (s.wr f u v).adcOn = s.adcOn := rfl
@[simp] theorem State.wr_adcQ (s : State) (f : Fld) (u v : Nat) : (s.wr f u v).adcQ = s.adcQ := rfl
@[simp] theorem State.wr_hist (s : State) (f : Fld) (u v : Nat) : (s.wr f u v).hist = s.hist := rfl
@[simp] theorem State.wr_lanes (s : State) (f : Fld) (u v : Nat) : (s.wr f u v).lanes = s.lanes := rfl
@[simp] theorem State.wr_meas (s : State) (f : Fld) (u v : Nat) : (s.wr f u v).meas = s.meas := rfl
@[simp] theorem State.wr_limOut (s : State) (f : Fld) (u v : Nat) : (s.wr f u v).limOut = s.limOut := rfl
@[simp] theorem State.wr_faultSum (s : State) (f : Fld) (u v : Nat) : (s.wr f u v).faultSum = s.faultSum := rfl
@[simp] theorem State.wr_car (s : State) (f : Fld) (u v : Nat) : (s.wr f u v).car = s.car := rfl
@[simp] theorem State.wr_carAsks (s : State) (f : Fld) (u v : Nat) : (s.wr f u v).carAsks = s.carAsks := rfl
@[simp] theorem State.wr_panX (s : State) (f : Fld) (u v : Nat) : (s.wr f u v).panX = s.panX := rfl
@[simp] theorem State.wr_cal (s : State) (f : Fld) (u v : Nat) : (s.wr f u v).cal = s.cal := rfl
@[simp] theorem State.wr_ols (s : State) (f : Fld) (u v : Nat) : (s.wr f u v).ols = s.ols := rfl
@[simp] theorem State.wr_ils (s : State) (f : Fld) (u v : Nat) : (s.wr f u v).ils = s.ils := rfl
@[simp] theorem State.wr_rkPorts (s : State) (f : Fld) (u v : Nat) : (s.wr f u v).rkPorts = s.rkPorts := rfl
@[simp] theorem State.wr_rake (s : State) (f : Fld) (u v : Nat) : (s.wr f u v).rake = s.rake := rfl
@[simp] theorem State.wr_clk (s : State) (f : Fld) (u v : Nat) : (s.wr f u v).clk = s.clk := rfl
@[simp] theorem State.wr_cup (s : State) (f : Fld) (u v : Nat) : (s.wr f u v).cup = s.cup := rfl
@[simp] theorem State.wr_safeAt (s : State) (f : Fld) (u v : Nat) : (s.wr f u v).safeAt = s.safeAt := rfl
@[simp] theorem State.wr_asks (s : State) (f : Fld) (u v : Nat) : (s.wr f u v).asks = s.asks := rfl
@[simp] theorem State.wr_nvm (s : State) (f : Fld) (u v : Nat) : (s.wr f u v).nvm = s.nvm := rfl
@[simp] theorem State.wr_boot (s : State) (f : Fld) (u v : Nat) : (s.wr f u v).boot = s.boot := rfl
@[simp] theorem State.wr_recov (s : State) (f : Fld) (u v : Nat) : (s.wr f u v).recov = s.recov := rfl
@[simp] theorem State.wr_hst (s : State) (f : Fld) (u v : Nat) : (s.wr f u v).hst = s.hst := rfl
@[simp] theorem State.wr_parOdd (s : State) (f : Fld) (u v : Nat) : (s.wr f u v).parOdd = s.parOdd := rfl
@[simp] theorem State.wr_parBad (s : State) (f : Fld) (u v : Nat) : (s.wr f u v).parBad = s.parBad := rfl
@[simp] theorem State.wr_unitSafe (s : State) (f : Fld) (u v : Nat) : (s.wr f u v).unitSafe = s.unitSafe := rfl
@[simp] theorem State.wr_wrote (s : State) (f : Fld) (u v : Nat) : (s.wr f u v).wrote = s.wrote := rfl
@[simp] theorem State.wr_snapReq (s : State) (f : Fld) (u v : Nat) : (s.wr f u v).snapReq = s.snapReq := rfl
@[simp] theorem State.wr_snapJobs (s : State) (f : Fld) (u v : Nat) : (s.wr f u v).snapJobs = s.snapJobs := rfl
@[simp] theorem State.wr_fences (s : State) (f : Fld) (u v : Nat) : (s.wr f u v).fences = s.fences := rfl
@[simp] theorem State.wr_segLoads (s : State) (f : Fld) (u v : Nat) : (s.wr f u v).segLoads = s.segLoads := rfl
@[simp] theorem State.wr_stepLoads (s : State) (f : Fld) (u v : Nat) : (s.wr f u v).stepLoads = s.stepLoads := rfl
@[simp] theorem State.wr_panGrants (s : State) (f : Fld) (u v : Nat) : (s.wr f u v).panGrants = s.panGrants := rfl

@[simp] theorem State.wrI_pending (s : State) (f : Fld) (u : Nat) (i : Int) : (s.wrI f u i).pending = s.pending := rfl
@[simp] theorem State.wrI_cmd (s : State) (f : Fld) (u : Nat) (i : Int) : (s.wrI f u i).cmd = s.cmd := rfl
@[simp] theorem State.wrI_wo1 (s : State) (f : Fld) (u : Nat) (i : Int) : (s.wrI f u i).wo1 = s.wo1 := rfl
@[simp] theorem State.wrI_freeN (s : State) (f : Fld) (u : Nat) (i : Int) : (s.wrI f u i).freeN = s.freeN := rfl
@[simp] theorem State.wrI_carafe (s : State) (f : Fld) (u : Nat) (i : Int) : (s.wrI f u i).carafe = s.carafe := rfl
@[simp] theorem State.wrI_pans (s : State) (f : Fld) (u : Nat) (i : Int) : (s.wrI f u i).pans = s.pans := rfl
@[simp] theorem State.wrI_evRing (s : State) (f : Fld) (u : Nat) (i : Int) : (s.wrI f u i).evRing = s.evRing := rfl
@[simp] theorem State.wrI_fwImg (s : State) (f : Fld) (u : Nat) (i : Int) : (s.wrI f u i).fwImg = s.fwImg := rfl
@[simp] theorem State.wrI_audMirror (s : State) (f : Fld) (u : Nat) (i : Int) : (s.wrI f u i).audMirror = s.audMirror := rfl
@[simp] theorem State.wrI_logSeq (s : State) (f : Fld) (u : Nat) (i : Int) : (s.wrI f u i).logSeq = s.logSeq := rfl
@[simp] theorem State.wrI_logLevel (s : State) (f : Fld) (u : Nat) (i : Int) : (s.wrI f u i).logLevel = s.logLevel := rfl
@[simp] theorem State.wrI_logTick (s : State) (f : Fld) (u : Nat) (i : Int) : (s.wrI f u i).logTick = s.logTick := rfl
@[simp] theorem State.wrI_rates (s : State) (f : Fld) (u : Nat) (i : Int) : (s.wrI f u i).rates = s.rates := rfl
@[simp] theorem State.wrI_msixWait (s : State) (f : Fld) (u : Nat) (i : Int) : (s.wrI f u i).msixWait = s.msixWait := rfl
@[simp] theorem State.wrI_msixTab (s : State) (f : Fld) (u : Nat) (i : Int) : (s.wrI f u i).msixTab = s.msixTab := rfl
@[simp] theorem State.wrI_out (s : State) (f : Fld) (u : Nat) (i : Int) : (s.wrI f u i).out = s.out := rfl
@[simp] theorem State.wrI_wins (s : State) (f : Fld) (u : Nat) (i : Int) : (s.wrI f u i).wins = s.wins := rfl
@[simp] theorem State.wrI_pool (s : State) (f : Fld) (u : Nat) (i : Int) : (s.wrI f u i).pool = s.pool := rfl
@[simp] theorem State.wrI_jobs (s : State) (f : Fld) (u : Nat) (i : Int) : (s.wrI f u i).jobs = s.jobs := rfl
@[simp] theorem State.wrI_nextJob (s : State) (f : Fld) (u : Nat) (i : Int) : (s.wrI f u i).nextJob = s.nextJob := rfl
@[simp] theorem State.wrI_heldPkts (s : State) (f : Fld) (u : Nat) (i : Int) : (s.wrI f u i).heldPkts = s.heldPkts := rfl
@[simp] theorem State.wrI_rqHead (s : State) (f : Fld) (u : Nat) (i : Int) : (s.wrI f u i).rqHead = s.rqHead := rfl
@[simp] theorem State.wrI_rqWait (s : State) (f : Fld) (u : Nat) (i : Int) : (s.wrI f u i).rqWait = s.rqWait := rfl
@[simp] theorem State.wrI_opens (s : State) (f : Fld) (u : Nat) (i : Int) : (s.wrI f u i).opens = s.opens := rfl
@[simp] theorem State.wrI_staged (s : State) (f : Fld) (u : Nat) (i : Int) : (s.wrI f u i).staged = s.staged := rfl
@[simp] theorem State.wrI_segs (s : State) (f : Fld) (u : Nat) (i : Int) : (s.wrI f u i).segs = s.segs := rfl
@[simp] theorem State.wrI_badUnits (s : State) (f : Fld) (u : Nat) (i : Int) : (s.wrI f u i).badUnits = s.badUnits := rfl
@[simp] theorem State.wrI_badPans (s : State) (f : Fld) (u : Nat) (i : Int) : (s.wrI f u i).badPans = s.badPans := rfl
@[simp] theorem State.wrI_plys (s : State) (f : Fld) (u : Nat) (i : Int) : (s.wrI f u i).plys = s.plys := rfl
@[simp] theorem State.wrI_trigs (s : State) (f : Fld) (u : Nat) (i : Int) : (s.wrI f u i).trigs = s.trigs := rfl
@[simp] theorem State.wrI_seqEvs (s : State) (f : Fld) (u : Nat) (i : Int) : (s.wrI f u i).seqEvs = s.seqEvs := rfl
@[simp] theorem State.wrI_rails (s : State) (f : Fld) (u : Nat) (i : Int) : (s.wrI f u i).rails = s.rails := rfl
@[simp] theorem State.wrI_chRails (s : State) (f : Fld) (u : Nat) (i : Int) : (s.wrI f u i).chRails = s.chRails := rfl
@[simp] theorem State.wrI_tapBits (s : State) (f : Fld) (u : Nat) (i : Int) : (s.wrI f u i).tapBits = s.tapBits := rfl
@[simp] theorem State.wrI_encs (s : State) (f : Fld) (u : Nat) (i : Int) : (s.wrI f u i).encs = s.encs := rfl
@[simp] theorem State.wrI_trks (s : State) (f : Fld) (u : Nat) (i : Int) : (s.wrI f u i).trks = s.trks := rfl
@[simp] theorem State.wrI_chns (s : State) (f : Fld) (u : Nat) (i : Int) : (s.wrI f u i).chns = s.chns := rfl
@[simp] theorem State.wrI_chnOut (s : State) (f : Fld) (u : Nat) (i : Int) : (s.wrI f u i).chnOut = s.chnOut := rfl
@[simp] theorem State.wrI_gpDrive (s : State) (f : Fld) (u : Nat) (i : Int) : (s.wrI f u i).gpDrive = s.gpDrive := rfl
@[simp] theorem State.wrI_gpValue (s : State) (f : Fld) (u : Nat) (i : Int) : (s.wrI f u i).gpValue = s.gpValue := rfl
@[simp] theorem State.wrI_gpQueue (s : State) (f : Fld) (u : Nat) (i : Int) : (s.wrI f u i).gpQueue = s.gpQueue := rfl
@[simp] theorem State.wrI_queues (s : State) (f : Fld) (u : Nat) (i : Int) : (s.wrI f u i).queues = s.queues := rfl
@[simp] theorem State.wrI_caps (s : State) (f : Fld) (u : Nat) (i : Int) : (s.wrI f u i).caps = s.caps := rfl
@[simp] theorem State.wrI_dmds (s : State) (f : Fld) (u : Nat) (i : Int) : (s.wrI f u i).dmds = s.dmds := rfl
@[simp] theorem State.wrI_adcOn (s : State) (f : Fld) (u : Nat) (i : Int) : (s.wrI f u i).adcOn = s.adcOn := rfl
@[simp] theorem State.wrI_adcQ (s : State) (f : Fld) (u : Nat) (i : Int) : (s.wrI f u i).adcQ = s.adcQ := rfl
@[simp] theorem State.wrI_hist (s : State) (f : Fld) (u : Nat) (i : Int) : (s.wrI f u i).hist = s.hist := rfl
@[simp] theorem State.wrI_lanes (s : State) (f : Fld) (u : Nat) (i : Int) : (s.wrI f u i).lanes = s.lanes := rfl
@[simp] theorem State.wrI_meas (s : State) (f : Fld) (u : Nat) (i : Int) : (s.wrI f u i).meas = s.meas := rfl
@[simp] theorem State.wrI_limOut (s : State) (f : Fld) (u : Nat) (i : Int) : (s.wrI f u i).limOut = s.limOut := rfl
@[simp] theorem State.wrI_faultSum (s : State) (f : Fld) (u : Nat) (i : Int) : (s.wrI f u i).faultSum = s.faultSum := rfl
@[simp] theorem State.wrI_car (s : State) (f : Fld) (u : Nat) (i : Int) : (s.wrI f u i).car = s.car := rfl
@[simp] theorem State.wrI_carAsks (s : State) (f : Fld) (u : Nat) (i : Int) : (s.wrI f u i).carAsks = s.carAsks := rfl
@[simp] theorem State.wrI_panX (s : State) (f : Fld) (u : Nat) (i : Int) : (s.wrI f u i).panX = s.panX := rfl
@[simp] theorem State.wrI_cal (s : State) (f : Fld) (u : Nat) (i : Int) : (s.wrI f u i).cal = s.cal := rfl
@[simp] theorem State.wrI_ols (s : State) (f : Fld) (u : Nat) (i : Int) : (s.wrI f u i).ols = s.ols := rfl
@[simp] theorem State.wrI_ils (s : State) (f : Fld) (u : Nat) (i : Int) : (s.wrI f u i).ils = s.ils := rfl
@[simp] theorem State.wrI_rkPorts (s : State) (f : Fld) (u : Nat) (i : Int) : (s.wrI f u i).rkPorts = s.rkPorts := rfl
@[simp] theorem State.wrI_rake (s : State) (f : Fld) (u : Nat) (i : Int) : (s.wrI f u i).rake = s.rake := rfl
@[simp] theorem State.wrI_clk (s : State) (f : Fld) (u : Nat) (i : Int) : (s.wrI f u i).clk = s.clk := rfl
@[simp] theorem State.wrI_cup (s : State) (f : Fld) (u : Nat) (i : Int) : (s.wrI f u i).cup = s.cup := rfl
@[simp] theorem State.wrI_safeAt (s : State) (f : Fld) (u : Nat) (i : Int) : (s.wrI f u i).safeAt = s.safeAt := rfl
@[simp] theorem State.wrI_asks (s : State) (f : Fld) (u : Nat) (i : Int) : (s.wrI f u i).asks = s.asks := rfl
@[simp] theorem State.wrI_nvm (s : State) (f : Fld) (u : Nat) (i : Int) : (s.wrI f u i).nvm = s.nvm := rfl
@[simp] theorem State.wrI_boot (s : State) (f : Fld) (u : Nat) (i : Int) : (s.wrI f u i).boot = s.boot := rfl
@[simp] theorem State.wrI_recov (s : State) (f : Fld) (u : Nat) (i : Int) : (s.wrI f u i).recov = s.recov := rfl
@[simp] theorem State.wrI_hst (s : State) (f : Fld) (u : Nat) (i : Int) : (s.wrI f u i).hst = s.hst := rfl
@[simp] theorem State.wrI_parOdd (s : State) (f : Fld) (u : Nat) (i : Int) : (s.wrI f u i).parOdd = s.parOdd := rfl
@[simp] theorem State.wrI_parBad (s : State) (f : Fld) (u : Nat) (i : Int) : (s.wrI f u i).parBad = s.parBad := rfl
@[simp] theorem State.wrI_unitSafe (s : State) (f : Fld) (u : Nat) (i : Int) : (s.wrI f u i).unitSafe = s.unitSafe := rfl
@[simp] theorem State.wrI_wrote (s : State) (f : Fld) (u : Nat) (i : Int) : (s.wrI f u i).wrote = s.wrote := rfl
@[simp] theorem State.wrI_snapReq (s : State) (f : Fld) (u : Nat) (i : Int) : (s.wrI f u i).snapReq = s.snapReq := rfl
@[simp] theorem State.wrI_snapJobs (s : State) (f : Fld) (u : Nat) (i : Int) : (s.wrI f u i).snapJobs = s.snapJobs := rfl
@[simp] theorem State.wrI_fences (s : State) (f : Fld) (u : Nat) (i : Int) : (s.wrI f u i).fences = s.fences := rfl
@[simp] theorem State.wrI_segLoads (s : State) (f : Fld) (u : Nat) (i : Int) : (s.wrI f u i).segLoads = s.segLoads := rfl
@[simp] theorem State.wrI_stepLoads (s : State) (f : Fld) (u : Nat) (i : Int) : (s.wrI f u i).stepLoads = s.stepLoads := rfl
@[simp] theorem State.wrI_panGrants (s : State) (f : Fld) (u : Nat) (i : Int) : (s.wrI f u i).panGrants = s.panGrants := rfl

@[simp] theorem State.wrB_pending (s : State) (f : Fld) (u : Nat) (b : Bool) : (s.wrB f u b).pending = s.pending := rfl
@[simp] theorem State.wrB_cmd (s : State) (f : Fld) (u : Nat) (b : Bool) : (s.wrB f u b).cmd = s.cmd := rfl
@[simp] theorem State.wrB_wo1 (s : State) (f : Fld) (u : Nat) (b : Bool) : (s.wrB f u b).wo1 = s.wo1 := rfl
@[simp] theorem State.wrB_freeN (s : State) (f : Fld) (u : Nat) (b : Bool) : (s.wrB f u b).freeN = s.freeN := rfl
@[simp] theorem State.wrB_carafe (s : State) (f : Fld) (u : Nat) (b : Bool) : (s.wrB f u b).carafe = s.carafe := rfl
@[simp] theorem State.wrB_pans (s : State) (f : Fld) (u : Nat) (b : Bool) : (s.wrB f u b).pans = s.pans := rfl
@[simp] theorem State.wrB_evRing (s : State) (f : Fld) (u : Nat) (b : Bool) : (s.wrB f u b).evRing = s.evRing := rfl
@[simp] theorem State.wrB_fwImg (s : State) (f : Fld) (u : Nat) (b : Bool) : (s.wrB f u b).fwImg = s.fwImg := rfl
@[simp] theorem State.wrB_audMirror (s : State) (f : Fld) (u : Nat) (b : Bool) : (s.wrB f u b).audMirror = s.audMirror := rfl
@[simp] theorem State.wrB_logSeq (s : State) (f : Fld) (u : Nat) (b : Bool) : (s.wrB f u b).logSeq = s.logSeq := rfl
@[simp] theorem State.wrB_logLevel (s : State) (f : Fld) (u : Nat) (b : Bool) : (s.wrB f u b).logLevel = s.logLevel := rfl
@[simp] theorem State.wrB_logTick (s : State) (f : Fld) (u : Nat) (b : Bool) : (s.wrB f u b).logTick = s.logTick := rfl
@[simp] theorem State.wrB_rates (s : State) (f : Fld) (u : Nat) (b : Bool) : (s.wrB f u b).rates = s.rates := rfl
@[simp] theorem State.wrB_msixWait (s : State) (f : Fld) (u : Nat) (b : Bool) : (s.wrB f u b).msixWait = s.msixWait := rfl
@[simp] theorem State.wrB_msixTab (s : State) (f : Fld) (u : Nat) (b : Bool) : (s.wrB f u b).msixTab = s.msixTab := rfl
@[simp] theorem State.wrB_out (s : State) (f : Fld) (u : Nat) (b : Bool) : (s.wrB f u b).out = s.out := rfl
@[simp] theorem State.wrB_wins (s : State) (f : Fld) (u : Nat) (b : Bool) : (s.wrB f u b).wins = s.wins := rfl
@[simp] theorem State.wrB_pool (s : State) (f : Fld) (u : Nat) (b : Bool) : (s.wrB f u b).pool = s.pool := rfl
@[simp] theorem State.wrB_jobs (s : State) (f : Fld) (u : Nat) (b : Bool) : (s.wrB f u b).jobs = s.jobs := rfl
@[simp] theorem State.wrB_nextJob (s : State) (f : Fld) (u : Nat) (b : Bool) : (s.wrB f u b).nextJob = s.nextJob := rfl
@[simp] theorem State.wrB_heldPkts (s : State) (f : Fld) (u : Nat) (b : Bool) : (s.wrB f u b).heldPkts = s.heldPkts := rfl
@[simp] theorem State.wrB_rqHead (s : State) (f : Fld) (u : Nat) (b : Bool) : (s.wrB f u b).rqHead = s.rqHead := rfl
@[simp] theorem State.wrB_rqWait (s : State) (f : Fld) (u : Nat) (b : Bool) : (s.wrB f u b).rqWait = s.rqWait := rfl
@[simp] theorem State.wrB_opens (s : State) (f : Fld) (u : Nat) (b : Bool) : (s.wrB f u b).opens = s.opens := rfl
@[simp] theorem State.wrB_staged (s : State) (f : Fld) (u : Nat) (b : Bool) : (s.wrB f u b).staged = s.staged := rfl
@[simp] theorem State.wrB_segs (s : State) (f : Fld) (u : Nat) (b : Bool) : (s.wrB f u b).segs = s.segs := rfl
@[simp] theorem State.wrB_badUnits (s : State) (f : Fld) (u : Nat) (b : Bool) : (s.wrB f u b).badUnits = s.badUnits := rfl
@[simp] theorem State.wrB_badPans (s : State) (f : Fld) (u : Nat) (b : Bool) : (s.wrB f u b).badPans = s.badPans := rfl
@[simp] theorem State.wrB_plys (s : State) (f : Fld) (u : Nat) (b : Bool) : (s.wrB f u b).plys = s.plys := rfl
@[simp] theorem State.wrB_trigs (s : State) (f : Fld) (u : Nat) (b : Bool) : (s.wrB f u b).trigs = s.trigs := rfl
@[simp] theorem State.wrB_seqEvs (s : State) (f : Fld) (u : Nat) (b : Bool) : (s.wrB f u b).seqEvs = s.seqEvs := rfl
@[simp] theorem State.wrB_rails (s : State) (f : Fld) (u : Nat) (b : Bool) : (s.wrB f u b).rails = s.rails := rfl
@[simp] theorem State.wrB_chRails (s : State) (f : Fld) (u : Nat) (b : Bool) : (s.wrB f u b).chRails = s.chRails := rfl
@[simp] theorem State.wrB_tapBits (s : State) (f : Fld) (u : Nat) (b : Bool) : (s.wrB f u b).tapBits = s.tapBits := rfl
@[simp] theorem State.wrB_encs (s : State) (f : Fld) (u : Nat) (b : Bool) : (s.wrB f u b).encs = s.encs := rfl
@[simp] theorem State.wrB_trks (s : State) (f : Fld) (u : Nat) (b : Bool) : (s.wrB f u b).trks = s.trks := rfl
@[simp] theorem State.wrB_chns (s : State) (f : Fld) (u : Nat) (b : Bool) : (s.wrB f u b).chns = s.chns := rfl
@[simp] theorem State.wrB_chnOut (s : State) (f : Fld) (u : Nat) (b : Bool) : (s.wrB f u b).chnOut = s.chnOut := rfl
@[simp] theorem State.wrB_gpDrive (s : State) (f : Fld) (u : Nat) (b : Bool) : (s.wrB f u b).gpDrive = s.gpDrive := rfl
@[simp] theorem State.wrB_gpValue (s : State) (f : Fld) (u : Nat) (b : Bool) : (s.wrB f u b).gpValue = s.gpValue := rfl
@[simp] theorem State.wrB_gpQueue (s : State) (f : Fld) (u : Nat) (b : Bool) : (s.wrB f u b).gpQueue = s.gpQueue := rfl
@[simp] theorem State.wrB_queues (s : State) (f : Fld) (u : Nat) (b : Bool) : (s.wrB f u b).queues = s.queues := rfl
@[simp] theorem State.wrB_caps (s : State) (f : Fld) (u : Nat) (b : Bool) : (s.wrB f u b).caps = s.caps := rfl
@[simp] theorem State.wrB_dmds (s : State) (f : Fld) (u : Nat) (b : Bool) : (s.wrB f u b).dmds = s.dmds := rfl
@[simp] theorem State.wrB_adcOn (s : State) (f : Fld) (u : Nat) (b : Bool) : (s.wrB f u b).adcOn = s.adcOn := rfl
@[simp] theorem State.wrB_adcQ (s : State) (f : Fld) (u : Nat) (b : Bool) : (s.wrB f u b).adcQ = s.adcQ := rfl
@[simp] theorem State.wrB_hist (s : State) (f : Fld) (u : Nat) (b : Bool) : (s.wrB f u b).hist = s.hist := rfl
@[simp] theorem State.wrB_lanes (s : State) (f : Fld) (u : Nat) (b : Bool) : (s.wrB f u b).lanes = s.lanes := rfl
@[simp] theorem State.wrB_meas (s : State) (f : Fld) (u : Nat) (b : Bool) : (s.wrB f u b).meas = s.meas := rfl
@[simp] theorem State.wrB_limOut (s : State) (f : Fld) (u : Nat) (b : Bool) : (s.wrB f u b).limOut = s.limOut := rfl
@[simp] theorem State.wrB_faultSum (s : State) (f : Fld) (u : Nat) (b : Bool) : (s.wrB f u b).faultSum = s.faultSum := rfl
@[simp] theorem State.wrB_car (s : State) (f : Fld) (u : Nat) (b : Bool) : (s.wrB f u b).car = s.car := rfl
@[simp] theorem State.wrB_carAsks (s : State) (f : Fld) (u : Nat) (b : Bool) : (s.wrB f u b).carAsks = s.carAsks := rfl
@[simp] theorem State.wrB_panX (s : State) (f : Fld) (u : Nat) (b : Bool) : (s.wrB f u b).panX = s.panX := rfl
@[simp] theorem State.wrB_cal (s : State) (f : Fld) (u : Nat) (b : Bool) : (s.wrB f u b).cal = s.cal := rfl
@[simp] theorem State.wrB_ols (s : State) (f : Fld) (u : Nat) (b : Bool) : (s.wrB f u b).ols = s.ols := rfl
@[simp] theorem State.wrB_ils (s : State) (f : Fld) (u : Nat) (b : Bool) : (s.wrB f u b).ils = s.ils := rfl
@[simp] theorem State.wrB_rkPorts (s : State) (f : Fld) (u : Nat) (b : Bool) : (s.wrB f u b).rkPorts = s.rkPorts := rfl
@[simp] theorem State.wrB_rake (s : State) (f : Fld) (u : Nat) (b : Bool) : (s.wrB f u b).rake = s.rake := rfl
@[simp] theorem State.wrB_clk (s : State) (f : Fld) (u : Nat) (b : Bool) : (s.wrB f u b).clk = s.clk := rfl
@[simp] theorem State.wrB_cup (s : State) (f : Fld) (u : Nat) (b : Bool) : (s.wrB f u b).cup = s.cup := rfl
@[simp] theorem State.wrB_safeAt (s : State) (f : Fld) (u : Nat) (b : Bool) : (s.wrB f u b).safeAt = s.safeAt := rfl
@[simp] theorem State.wrB_asks (s : State) (f : Fld) (u : Nat) (b : Bool) : (s.wrB f u b).asks = s.asks := rfl
@[simp] theorem State.wrB_nvm (s : State) (f : Fld) (u : Nat) (b : Bool) : (s.wrB f u b).nvm = s.nvm := rfl
@[simp] theorem State.wrB_boot (s : State) (f : Fld) (u : Nat) (b : Bool) : (s.wrB f u b).boot = s.boot := rfl
@[simp] theorem State.wrB_recov (s : State) (f : Fld) (u : Nat) (b : Bool) : (s.wrB f u b).recov = s.recov := rfl
@[simp] theorem State.wrB_hst (s : State) (f : Fld) (u : Nat) (b : Bool) : (s.wrB f u b).hst = s.hst := rfl
@[simp] theorem State.wrB_parOdd (s : State) (f : Fld) (u : Nat) (b : Bool) : (s.wrB f u b).parOdd = s.parOdd := rfl
@[simp] theorem State.wrB_parBad (s : State) (f : Fld) (u : Nat) (b : Bool) : (s.wrB f u b).parBad = s.parBad := rfl
@[simp] theorem State.wrB_unitSafe (s : State) (f : Fld) (u : Nat) (b : Bool) : (s.wrB f u b).unitSafe = s.unitSafe := rfl
@[simp] theorem State.wrB_wrote (s : State) (f : Fld) (u : Nat) (b : Bool) : (s.wrB f u b).wrote = s.wrote := rfl
@[simp] theorem State.wrB_snapReq (s : State) (f : Fld) (u : Nat) (b : Bool) : (s.wrB f u b).snapReq = s.snapReq := rfl
@[simp] theorem State.wrB_snapJobs (s : State) (f : Fld) (u : Nat) (b : Bool) : (s.wrB f u b).snapJobs = s.snapJobs := rfl
@[simp] theorem State.wrB_fences (s : State) (f : Fld) (u : Nat) (b : Bool) : (s.wrB f u b).fences = s.fences := rfl
@[simp] theorem State.wrB_segLoads (s : State) (f : Fld) (u : Nat) (b : Bool) : (s.wrB f u b).segLoads = s.segLoads := rfl
@[simp] theorem State.wrB_stepLoads (s : State) (f : Fld) (u : Nat) (b : Bool) : (s.wrB f u b).stepLoads = s.stepLoads := rfl
@[simp] theorem State.wrB_panGrants (s : State) (f : Fld) (u : Nat) (b : Bool) : (s.wrB f u b).panGrants = s.panGrants := rfl

@[simp] theorem State.bump_pending (s : State) (f : Fld) (u : Nat) : (s.bump f u).pending = s.pending := rfl
@[simp] theorem State.bump_cmd (s : State) (f : Fld) (u : Nat) : (s.bump f u).cmd = s.cmd := rfl
@[simp] theorem State.bump_wo1 (s : State) (f : Fld) (u : Nat) : (s.bump f u).wo1 = s.wo1 := rfl
@[simp] theorem State.bump_freeN (s : State) (f : Fld) (u : Nat) : (s.bump f u).freeN = s.freeN := rfl
@[simp] theorem State.bump_carafe (s : State) (f : Fld) (u : Nat) : (s.bump f u).carafe = s.carafe := rfl
@[simp] theorem State.bump_pans (s : State) (f : Fld) (u : Nat) : (s.bump f u).pans = s.pans := rfl
@[simp] theorem State.bump_evRing (s : State) (f : Fld) (u : Nat) : (s.bump f u).evRing = s.evRing := rfl
@[simp] theorem State.bump_fwImg (s : State) (f : Fld) (u : Nat) : (s.bump f u).fwImg = s.fwImg := rfl
@[simp] theorem State.bump_audMirror (s : State) (f : Fld) (u : Nat) : (s.bump f u).audMirror = s.audMirror := rfl
@[simp] theorem State.bump_logSeq (s : State) (f : Fld) (u : Nat) : (s.bump f u).logSeq = s.logSeq := rfl
@[simp] theorem State.bump_logLevel (s : State) (f : Fld) (u : Nat) : (s.bump f u).logLevel = s.logLevel := rfl
@[simp] theorem State.bump_logTick (s : State) (f : Fld) (u : Nat) : (s.bump f u).logTick = s.logTick := rfl
@[simp] theorem State.bump_rates (s : State) (f : Fld) (u : Nat) : (s.bump f u).rates = s.rates := rfl
@[simp] theorem State.bump_msixWait (s : State) (f : Fld) (u : Nat) : (s.bump f u).msixWait = s.msixWait := rfl
@[simp] theorem State.bump_msixTab (s : State) (f : Fld) (u : Nat) : (s.bump f u).msixTab = s.msixTab := rfl
@[simp] theorem State.bump_out (s : State) (f : Fld) (u : Nat) : (s.bump f u).out = s.out := rfl
@[simp] theorem State.bump_wins (s : State) (f : Fld) (u : Nat) : (s.bump f u).wins = s.wins := rfl
@[simp] theorem State.bump_pool (s : State) (f : Fld) (u : Nat) : (s.bump f u).pool = s.pool := rfl
@[simp] theorem State.bump_jobs (s : State) (f : Fld) (u : Nat) : (s.bump f u).jobs = s.jobs := rfl
@[simp] theorem State.bump_nextJob (s : State) (f : Fld) (u : Nat) : (s.bump f u).nextJob = s.nextJob := rfl
@[simp] theorem State.bump_heldPkts (s : State) (f : Fld) (u : Nat) : (s.bump f u).heldPkts = s.heldPkts := rfl
@[simp] theorem State.bump_rqHead (s : State) (f : Fld) (u : Nat) : (s.bump f u).rqHead = s.rqHead := rfl
@[simp] theorem State.bump_rqWait (s : State) (f : Fld) (u : Nat) : (s.bump f u).rqWait = s.rqWait := rfl
@[simp] theorem State.bump_opens (s : State) (f : Fld) (u : Nat) : (s.bump f u).opens = s.opens := rfl
@[simp] theorem State.bump_staged (s : State) (f : Fld) (u : Nat) : (s.bump f u).staged = s.staged := rfl
@[simp] theorem State.bump_segs (s : State) (f : Fld) (u : Nat) : (s.bump f u).segs = s.segs := rfl
@[simp] theorem State.bump_badUnits (s : State) (f : Fld) (u : Nat) : (s.bump f u).badUnits = s.badUnits := rfl
@[simp] theorem State.bump_badPans (s : State) (f : Fld) (u : Nat) : (s.bump f u).badPans = s.badPans := rfl
@[simp] theorem State.bump_plys (s : State) (f : Fld) (u : Nat) : (s.bump f u).plys = s.plys := rfl
@[simp] theorem State.bump_trigs (s : State) (f : Fld) (u : Nat) : (s.bump f u).trigs = s.trigs := rfl
@[simp] theorem State.bump_seqEvs (s : State) (f : Fld) (u : Nat) : (s.bump f u).seqEvs = s.seqEvs := rfl
@[simp] theorem State.bump_rails (s : State) (f : Fld) (u : Nat) : (s.bump f u).rails = s.rails := rfl
@[simp] theorem State.bump_chRails (s : State) (f : Fld) (u : Nat) : (s.bump f u).chRails = s.chRails := rfl
@[simp] theorem State.bump_tapBits (s : State) (f : Fld) (u : Nat) : (s.bump f u).tapBits = s.tapBits := rfl
@[simp] theorem State.bump_encs (s : State) (f : Fld) (u : Nat) : (s.bump f u).encs = s.encs := rfl
@[simp] theorem State.bump_trks (s : State) (f : Fld) (u : Nat) : (s.bump f u).trks = s.trks := rfl
@[simp] theorem State.bump_chns (s : State) (f : Fld) (u : Nat) : (s.bump f u).chns = s.chns := rfl
@[simp] theorem State.bump_chnOut (s : State) (f : Fld) (u : Nat) : (s.bump f u).chnOut = s.chnOut := rfl
@[simp] theorem State.bump_gpDrive (s : State) (f : Fld) (u : Nat) : (s.bump f u).gpDrive = s.gpDrive := rfl
@[simp] theorem State.bump_gpValue (s : State) (f : Fld) (u : Nat) : (s.bump f u).gpValue = s.gpValue := rfl
@[simp] theorem State.bump_gpQueue (s : State) (f : Fld) (u : Nat) : (s.bump f u).gpQueue = s.gpQueue := rfl
@[simp] theorem State.bump_queues (s : State) (f : Fld) (u : Nat) : (s.bump f u).queues = s.queues := rfl
@[simp] theorem State.bump_caps (s : State) (f : Fld) (u : Nat) : (s.bump f u).caps = s.caps := rfl
@[simp] theorem State.bump_dmds (s : State) (f : Fld) (u : Nat) : (s.bump f u).dmds = s.dmds := rfl
@[simp] theorem State.bump_adcOn (s : State) (f : Fld) (u : Nat) : (s.bump f u).adcOn = s.adcOn := rfl
@[simp] theorem State.bump_adcQ (s : State) (f : Fld) (u : Nat) : (s.bump f u).adcQ = s.adcQ := rfl
@[simp] theorem State.bump_hist (s : State) (f : Fld) (u : Nat) : (s.bump f u).hist = s.hist := rfl
@[simp] theorem State.bump_lanes (s : State) (f : Fld) (u : Nat) : (s.bump f u).lanes = s.lanes := rfl
@[simp] theorem State.bump_meas (s : State) (f : Fld) (u : Nat) : (s.bump f u).meas = s.meas := rfl
@[simp] theorem State.bump_limOut (s : State) (f : Fld) (u : Nat) : (s.bump f u).limOut = s.limOut := rfl
@[simp] theorem State.bump_faultSum (s : State) (f : Fld) (u : Nat) : (s.bump f u).faultSum = s.faultSum := rfl
@[simp] theorem State.bump_car (s : State) (f : Fld) (u : Nat) : (s.bump f u).car = s.car := rfl
@[simp] theorem State.bump_carAsks (s : State) (f : Fld) (u : Nat) : (s.bump f u).carAsks = s.carAsks := rfl
@[simp] theorem State.bump_panX (s : State) (f : Fld) (u : Nat) : (s.bump f u).panX = s.panX := rfl
@[simp] theorem State.bump_cal (s : State) (f : Fld) (u : Nat) : (s.bump f u).cal = s.cal := rfl
@[simp] theorem State.bump_ols (s : State) (f : Fld) (u : Nat) : (s.bump f u).ols = s.ols := rfl
@[simp] theorem State.bump_ils (s : State) (f : Fld) (u : Nat) : (s.bump f u).ils = s.ils := rfl
@[simp] theorem State.bump_rkPorts (s : State) (f : Fld) (u : Nat) : (s.bump f u).rkPorts = s.rkPorts := rfl
@[simp] theorem State.bump_rake (s : State) (f : Fld) (u : Nat) : (s.bump f u).rake = s.rake := rfl
@[simp] theorem State.bump_clk (s : State) (f : Fld) (u : Nat) : (s.bump f u).clk = s.clk := rfl
@[simp] theorem State.bump_cup (s : State) (f : Fld) (u : Nat) : (s.bump f u).cup = s.cup := rfl
@[simp] theorem State.bump_safeAt (s : State) (f : Fld) (u : Nat) : (s.bump f u).safeAt = s.safeAt := rfl
@[simp] theorem State.bump_asks (s : State) (f : Fld) (u : Nat) : (s.bump f u).asks = s.asks := rfl
@[simp] theorem State.bump_nvm (s : State) (f : Fld) (u : Nat) : (s.bump f u).nvm = s.nvm := rfl
@[simp] theorem State.bump_boot (s : State) (f : Fld) (u : Nat) : (s.bump f u).boot = s.boot := rfl
@[simp] theorem State.bump_recov (s : State) (f : Fld) (u : Nat) : (s.bump f u).recov = s.recov := rfl
@[simp] theorem State.bump_hst (s : State) (f : Fld) (u : Nat) : (s.bump f u).hst = s.hst := rfl
@[simp] theorem State.bump_parOdd (s : State) (f : Fld) (u : Nat) : (s.bump f u).parOdd = s.parOdd := rfl
@[simp] theorem State.bump_parBad (s : State) (f : Fld) (u : Nat) : (s.bump f u).parBad = s.parBad := rfl
@[simp] theorem State.bump_unitSafe (s : State) (f : Fld) (u : Nat) : (s.bump f u).unitSafe = s.unitSafe := rfl
@[simp] theorem State.bump_wrote (s : State) (f : Fld) (u : Nat) : (s.bump f u).wrote = s.wrote := rfl
@[simp] theorem State.bump_snapReq (s : State) (f : Fld) (u : Nat) : (s.bump f u).snapReq = s.snapReq := rfl
@[simp] theorem State.bump_snapJobs (s : State) (f : Fld) (u : Nat) : (s.bump f u).snapJobs = s.snapJobs := rfl
@[simp] theorem State.bump_fences (s : State) (f : Fld) (u : Nat) : (s.bump f u).fences = s.fences := rfl
@[simp] theorem State.bump_segLoads (s : State) (f : Fld) (u : Nat) : (s.bump f u).segLoads = s.segLoads := rfl
@[simp] theorem State.bump_stepLoads (s : State) (f : Fld) (u : Nat) : (s.bump f u).stepLoads = s.stepLoads := rfl
@[simp] theorem State.bump_panGrants (s : State) (f : Fld) (u : Nat) : (s.bump f u).panGrants = s.panGrants := rfl

@[simp] theorem State.tally_pending (s : State) (f : Fld) (u : Nat) : (s.tally f u).pending = s.pending := rfl
@[simp] theorem State.tally_cmd (s : State) (f : Fld) (u : Nat) : (s.tally f u).cmd = s.cmd := rfl
@[simp] theorem State.tally_wo1 (s : State) (f : Fld) (u : Nat) : (s.tally f u).wo1 = s.wo1 := rfl
@[simp] theorem State.tally_freeN (s : State) (f : Fld) (u : Nat) : (s.tally f u).freeN = s.freeN := rfl
@[simp] theorem State.tally_carafe (s : State) (f : Fld) (u : Nat) : (s.tally f u).carafe = s.carafe := rfl
@[simp] theorem State.tally_pans (s : State) (f : Fld) (u : Nat) : (s.tally f u).pans = s.pans := rfl
@[simp] theorem State.tally_evRing (s : State) (f : Fld) (u : Nat) : (s.tally f u).evRing = s.evRing := rfl
@[simp] theorem State.tally_fwImg (s : State) (f : Fld) (u : Nat) : (s.tally f u).fwImg = s.fwImg := rfl
@[simp] theorem State.tally_audMirror (s : State) (f : Fld) (u : Nat) : (s.tally f u).audMirror = s.audMirror := rfl
@[simp] theorem State.tally_logSeq (s : State) (f : Fld) (u : Nat) : (s.tally f u).logSeq = s.logSeq := rfl
@[simp] theorem State.tally_logLevel (s : State) (f : Fld) (u : Nat) : (s.tally f u).logLevel = s.logLevel := rfl
@[simp] theorem State.tally_logTick (s : State) (f : Fld) (u : Nat) : (s.tally f u).logTick = s.logTick := rfl
@[simp] theorem State.tally_rates (s : State) (f : Fld) (u : Nat) : (s.tally f u).rates = s.rates := rfl
@[simp] theorem State.tally_msixWait (s : State) (f : Fld) (u : Nat) : (s.tally f u).msixWait = s.msixWait := rfl
@[simp] theorem State.tally_msixTab (s : State) (f : Fld) (u : Nat) : (s.tally f u).msixTab = s.msixTab := rfl
@[simp] theorem State.tally_out (s : State) (f : Fld) (u : Nat) : (s.tally f u).out = s.out := rfl
@[simp] theorem State.tally_wins (s : State) (f : Fld) (u : Nat) : (s.tally f u).wins = s.wins := rfl
@[simp] theorem State.tally_pool (s : State) (f : Fld) (u : Nat) : (s.tally f u).pool = s.pool := rfl
@[simp] theorem State.tally_jobs (s : State) (f : Fld) (u : Nat) : (s.tally f u).jobs = s.jobs := rfl
@[simp] theorem State.tally_nextJob (s : State) (f : Fld) (u : Nat) : (s.tally f u).nextJob = s.nextJob := rfl
@[simp] theorem State.tally_heldPkts (s : State) (f : Fld) (u : Nat) : (s.tally f u).heldPkts = s.heldPkts := rfl
@[simp] theorem State.tally_rqHead (s : State) (f : Fld) (u : Nat) : (s.tally f u).rqHead = s.rqHead := rfl
@[simp] theorem State.tally_rqWait (s : State) (f : Fld) (u : Nat) : (s.tally f u).rqWait = s.rqWait := rfl
@[simp] theorem State.tally_opens (s : State) (f : Fld) (u : Nat) : (s.tally f u).opens = s.opens := rfl
@[simp] theorem State.tally_staged (s : State) (f : Fld) (u : Nat) : (s.tally f u).staged = s.staged := rfl
@[simp] theorem State.tally_segs (s : State) (f : Fld) (u : Nat) : (s.tally f u).segs = s.segs := rfl
@[simp] theorem State.tally_badUnits (s : State) (f : Fld) (u : Nat) : (s.tally f u).badUnits = s.badUnits := rfl
@[simp] theorem State.tally_badPans (s : State) (f : Fld) (u : Nat) : (s.tally f u).badPans = s.badPans := rfl
@[simp] theorem State.tally_plys (s : State) (f : Fld) (u : Nat) : (s.tally f u).plys = s.plys := rfl
@[simp] theorem State.tally_trigs (s : State) (f : Fld) (u : Nat) : (s.tally f u).trigs = s.trigs := rfl
@[simp] theorem State.tally_seqEvs (s : State) (f : Fld) (u : Nat) : (s.tally f u).seqEvs = s.seqEvs := rfl
@[simp] theorem State.tally_rails (s : State) (f : Fld) (u : Nat) : (s.tally f u).rails = s.rails := rfl
@[simp] theorem State.tally_chRails (s : State) (f : Fld) (u : Nat) : (s.tally f u).chRails = s.chRails := rfl
@[simp] theorem State.tally_tapBits (s : State) (f : Fld) (u : Nat) : (s.tally f u).tapBits = s.tapBits := rfl
@[simp] theorem State.tally_encs (s : State) (f : Fld) (u : Nat) : (s.tally f u).encs = s.encs := rfl
@[simp] theorem State.tally_trks (s : State) (f : Fld) (u : Nat) : (s.tally f u).trks = s.trks := rfl
@[simp] theorem State.tally_chns (s : State) (f : Fld) (u : Nat) : (s.tally f u).chns = s.chns := rfl
@[simp] theorem State.tally_chnOut (s : State) (f : Fld) (u : Nat) : (s.tally f u).chnOut = s.chnOut := rfl
@[simp] theorem State.tally_gpDrive (s : State) (f : Fld) (u : Nat) : (s.tally f u).gpDrive = s.gpDrive := rfl
@[simp] theorem State.tally_gpValue (s : State) (f : Fld) (u : Nat) : (s.tally f u).gpValue = s.gpValue := rfl
@[simp] theorem State.tally_gpQueue (s : State) (f : Fld) (u : Nat) : (s.tally f u).gpQueue = s.gpQueue := rfl
@[simp] theorem State.tally_queues (s : State) (f : Fld) (u : Nat) : (s.tally f u).queues = s.queues := rfl
@[simp] theorem State.tally_caps (s : State) (f : Fld) (u : Nat) : (s.tally f u).caps = s.caps := rfl
@[simp] theorem State.tally_dmds (s : State) (f : Fld) (u : Nat) : (s.tally f u).dmds = s.dmds := rfl
@[simp] theorem State.tally_adcOn (s : State) (f : Fld) (u : Nat) : (s.tally f u).adcOn = s.adcOn := rfl
@[simp] theorem State.tally_adcQ (s : State) (f : Fld) (u : Nat) : (s.tally f u).adcQ = s.adcQ := rfl
@[simp] theorem State.tally_hist (s : State) (f : Fld) (u : Nat) : (s.tally f u).hist = s.hist := rfl
@[simp] theorem State.tally_lanes (s : State) (f : Fld) (u : Nat) : (s.tally f u).lanes = s.lanes := rfl
@[simp] theorem State.tally_meas (s : State) (f : Fld) (u : Nat) : (s.tally f u).meas = s.meas := rfl
@[simp] theorem State.tally_limOut (s : State) (f : Fld) (u : Nat) : (s.tally f u).limOut = s.limOut := rfl
@[simp] theorem State.tally_faultSum (s : State) (f : Fld) (u : Nat) : (s.tally f u).faultSum = s.faultSum := rfl
@[simp] theorem State.tally_car (s : State) (f : Fld) (u : Nat) : (s.tally f u).car = s.car := rfl
@[simp] theorem State.tally_carAsks (s : State) (f : Fld) (u : Nat) : (s.tally f u).carAsks = s.carAsks := rfl
@[simp] theorem State.tally_panX (s : State) (f : Fld) (u : Nat) : (s.tally f u).panX = s.panX := rfl
@[simp] theorem State.tally_cal (s : State) (f : Fld) (u : Nat) : (s.tally f u).cal = s.cal := rfl
@[simp] theorem State.tally_ols (s : State) (f : Fld) (u : Nat) : (s.tally f u).ols = s.ols := rfl
@[simp] theorem State.tally_ils (s : State) (f : Fld) (u : Nat) : (s.tally f u).ils = s.ils := rfl
@[simp] theorem State.tally_rkPorts (s : State) (f : Fld) (u : Nat) : (s.tally f u).rkPorts = s.rkPorts := rfl
@[simp] theorem State.tally_rake (s : State) (f : Fld) (u : Nat) : (s.tally f u).rake = s.rake := rfl
@[simp] theorem State.tally_clk (s : State) (f : Fld) (u : Nat) : (s.tally f u).clk = s.clk := rfl
@[simp] theorem State.tally_cup (s : State) (f : Fld) (u : Nat) : (s.tally f u).cup = s.cup := rfl
@[simp] theorem State.tally_safeAt (s : State) (f : Fld) (u : Nat) : (s.tally f u).safeAt = s.safeAt := rfl
@[simp] theorem State.tally_asks (s : State) (f : Fld) (u : Nat) : (s.tally f u).asks = s.asks := rfl
@[simp] theorem State.tally_nvm (s : State) (f : Fld) (u : Nat) : (s.tally f u).nvm = s.nvm := rfl
@[simp] theorem State.tally_boot (s : State) (f : Fld) (u : Nat) : (s.tally f u).boot = s.boot := rfl
@[simp] theorem State.tally_recov (s : State) (f : Fld) (u : Nat) : (s.tally f u).recov = s.recov := rfl
@[simp] theorem State.tally_hst (s : State) (f : Fld) (u : Nat) : (s.tally f u).hst = s.hst := rfl
@[simp] theorem State.tally_parOdd (s : State) (f : Fld) (u : Nat) : (s.tally f u).parOdd = s.parOdd := rfl
@[simp] theorem State.tally_parBad (s : State) (f : Fld) (u : Nat) : (s.tally f u).parBad = s.parBad := rfl
@[simp] theorem State.tally_unitSafe (s : State) (f : Fld) (u : Nat) : (s.tally f u).unitSafe = s.unitSafe := rfl
@[simp] theorem State.tally_wrote (s : State) (f : Fld) (u : Nat) : (s.tally f u).wrote = s.wrote := rfl
@[simp] theorem State.tally_snapReq (s : State) (f : Fld) (u : Nat) : (s.tally f u).snapReq = s.snapReq := rfl
@[simp] theorem State.tally_snapJobs (s : State) (f : Fld) (u : Nat) : (s.tally f u).snapJobs = s.snapJobs := rfl
@[simp] theorem State.tally_fences (s : State) (f : Fld) (u : Nat) : (s.tally f u).fences = s.fences := rfl
@[simp] theorem State.tally_segLoads (s : State) (f : Fld) (u : Nat) : (s.tally f u).segLoads = s.segLoads := rfl
@[simp] theorem State.tally_stepLoads (s : State) (f : Fld) (u : Nat) : (s.tally f u).stepLoads = s.stepLoads := rfl
@[simp] theorem State.tally_panGrants (s : State) (f : Fld) (u : Nat) : (s.tally f u).panGrants = s.panGrants := rfl

@[simp] theorem setPly_pending (s : State) (p : Nat) (v : Ply) : (setPly p v s).pending = s.pending := rfl
@[simp] theorem setPly_cmd (s : State) (p : Nat) (v : Ply) : (setPly p v s).cmd = s.cmd := rfl
@[simp] theorem setPly_flds (s : State) (p : Nat) (v : Ply) : (setPly p v s).flds = s.flds := rfl
@[simp] theorem setPly_wo1 (s : State) (p : Nat) (v : Ply) : (setPly p v s).wo1 = s.wo1 := rfl
@[simp] theorem setPly_freeN (s : State) (p : Nat) (v : Ply) : (setPly p v s).freeN = s.freeN := rfl
@[simp] theorem setPly_carafe (s : State) (p : Nat) (v : Ply) : (setPly p v s).carafe = s.carafe := rfl
@[simp] theorem setPly_pans (s : State) (p : Nat) (v : Ply) : (setPly p v s).pans = s.pans := rfl
@[simp] theorem setPly_evRing (s : State) (p : Nat) (v : Ply) : (setPly p v s).evRing = s.evRing := rfl
@[simp] theorem setPly_fwImg (s : State) (p : Nat) (v : Ply) : (setPly p v s).fwImg = s.fwImg := rfl
@[simp] theorem setPly_audMirror (s : State) (p : Nat) (v : Ply) : (setPly p v s).audMirror = s.audMirror := rfl
@[simp] theorem setPly_logSeq (s : State) (p : Nat) (v : Ply) : (setPly p v s).logSeq = s.logSeq := rfl
@[simp] theorem setPly_logLevel (s : State) (p : Nat) (v : Ply) : (setPly p v s).logLevel = s.logLevel := rfl
@[simp] theorem setPly_logTick (s : State) (p : Nat) (v : Ply) : (setPly p v s).logTick = s.logTick := rfl
@[simp] theorem setPly_rates (s : State) (p : Nat) (v : Ply) : (setPly p v s).rates = s.rates := rfl
@[simp] theorem setPly_msixWait (s : State) (p : Nat) (v : Ply) : (setPly p v s).msixWait = s.msixWait := rfl
@[simp] theorem setPly_msixTab (s : State) (p : Nat) (v : Ply) : (setPly p v s).msixTab = s.msixTab := rfl
@[simp] theorem setPly_out (s : State) (p : Nat) (v : Ply) : (setPly p v s).out = s.out := rfl
@[simp] theorem setPly_wins (s : State) (p : Nat) (v : Ply) : (setPly p v s).wins = s.wins := rfl
@[simp] theorem setPly_pool (s : State) (p : Nat) (v : Ply) : (setPly p v s).pool = s.pool := rfl
@[simp] theorem setPly_jobs (s : State) (p : Nat) (v : Ply) : (setPly p v s).jobs = s.jobs := rfl
@[simp] theorem setPly_nextJob (s : State) (p : Nat) (v : Ply) : (setPly p v s).nextJob = s.nextJob := rfl
@[simp] theorem setPly_heldPkts (s : State) (p : Nat) (v : Ply) : (setPly p v s).heldPkts = s.heldPkts := rfl
@[simp] theorem setPly_rqHead (s : State) (p : Nat) (v : Ply) : (setPly p v s).rqHead = s.rqHead := rfl
@[simp] theorem setPly_rqWait (s : State) (p : Nat) (v : Ply) : (setPly p v s).rqWait = s.rqWait := rfl
@[simp] theorem setPly_opens (s : State) (p : Nat) (v : Ply) : (setPly p v s).opens = s.opens := rfl
@[simp] theorem setPly_staged (s : State) (p : Nat) (v : Ply) : (setPly p v s).staged = s.staged := rfl
@[simp] theorem setPly_segs (s : State) (p : Nat) (v : Ply) : (setPly p v s).segs = s.segs := rfl
@[simp] theorem setPly_badUnits (s : State) (p : Nat) (v : Ply) : (setPly p v s).badUnits = s.badUnits := rfl
@[simp] theorem setPly_badPans (s : State) (p : Nat) (v : Ply) : (setPly p v s).badPans = s.badPans := rfl
@[simp] theorem setPly_trigs (s : State) (p : Nat) (v : Ply) : (setPly p v s).trigs = s.trigs := rfl
@[simp] theorem setPly_seqEvs (s : State) (p : Nat) (v : Ply) : (setPly p v s).seqEvs = s.seqEvs := rfl
@[simp] theorem setPly_rails (s : State) (p : Nat) (v : Ply) : (setPly p v s).rails = s.rails := rfl
@[simp] theorem setPly_chRails (s : State) (p : Nat) (v : Ply) : (setPly p v s).chRails = s.chRails := rfl
@[simp] theorem setPly_tapBits (s : State) (p : Nat) (v : Ply) : (setPly p v s).tapBits = s.tapBits := rfl
@[simp] theorem setPly_encs (s : State) (p : Nat) (v : Ply) : (setPly p v s).encs = s.encs := rfl
@[simp] theorem setPly_trks (s : State) (p : Nat) (v : Ply) : (setPly p v s).trks = s.trks := rfl
@[simp] theorem setPly_chns (s : State) (p : Nat) (v : Ply) : (setPly p v s).chns = s.chns := rfl
@[simp] theorem setPly_chnOut (s : State) (p : Nat) (v : Ply) : (setPly p v s).chnOut = s.chnOut := rfl
@[simp] theorem setPly_gpDrive (s : State) (p : Nat) (v : Ply) : (setPly p v s).gpDrive = s.gpDrive := rfl
@[simp] theorem setPly_gpValue (s : State) (p : Nat) (v : Ply) : (setPly p v s).gpValue = s.gpValue := rfl
@[simp] theorem setPly_gpQueue (s : State) (p : Nat) (v : Ply) : (setPly p v s).gpQueue = s.gpQueue := rfl
@[simp] theorem setPly_queues (s : State) (p : Nat) (v : Ply) : (setPly p v s).queues = s.queues := rfl
@[simp] theorem setPly_caps (s : State) (p : Nat) (v : Ply) : (setPly p v s).caps = s.caps := rfl
@[simp] theorem setPly_dmds (s : State) (p : Nat) (v : Ply) : (setPly p v s).dmds = s.dmds := rfl
@[simp] theorem setPly_adcOn (s : State) (p : Nat) (v : Ply) : (setPly p v s).adcOn = s.adcOn := rfl
@[simp] theorem setPly_adcQ (s : State) (p : Nat) (v : Ply) : (setPly p v s).adcQ = s.adcQ := rfl
@[simp] theorem setPly_hist (s : State) (p : Nat) (v : Ply) : (setPly p v s).hist = s.hist := rfl
@[simp] theorem setPly_lanes (s : State) (p : Nat) (v : Ply) : (setPly p v s).lanes = s.lanes := rfl
@[simp] theorem setPly_meas (s : State) (p : Nat) (v : Ply) : (setPly p v s).meas = s.meas := rfl
@[simp] theorem setPly_limOut (s : State) (p : Nat) (v : Ply) : (setPly p v s).limOut = s.limOut := rfl
@[simp] theorem setPly_faultSum (s : State) (p : Nat) (v : Ply) : (setPly p v s).faultSum = s.faultSum := rfl
@[simp] theorem setPly_car (s : State) (p : Nat) (v : Ply) : (setPly p v s).car = s.car := rfl
@[simp] theorem setPly_carAsks (s : State) (p : Nat) (v : Ply) : (setPly p v s).carAsks = s.carAsks := rfl
@[simp] theorem setPly_panX (s : State) (p : Nat) (v : Ply) : (setPly p v s).panX = s.panX := rfl
@[simp] theorem setPly_cal (s : State) (p : Nat) (v : Ply) : (setPly p v s).cal = s.cal := rfl
@[simp] theorem setPly_ols (s : State) (p : Nat) (v : Ply) : (setPly p v s).ols = s.ols := rfl
@[simp] theorem setPly_ils (s : State) (p : Nat) (v : Ply) : (setPly p v s).ils = s.ils := rfl
@[simp] theorem setPly_rkPorts (s : State) (p : Nat) (v : Ply) : (setPly p v s).rkPorts = s.rkPorts := rfl
@[simp] theorem setPly_rake (s : State) (p : Nat) (v : Ply) : (setPly p v s).rake = s.rake := rfl
@[simp] theorem setPly_clk (s : State) (p : Nat) (v : Ply) : (setPly p v s).clk = s.clk := rfl
@[simp] theorem setPly_cup (s : State) (p : Nat) (v : Ply) : (setPly p v s).cup = s.cup := rfl
@[simp] theorem setPly_safeAt (s : State) (p : Nat) (v : Ply) : (setPly p v s).safeAt = s.safeAt := rfl
@[simp] theorem setPly_asks (s : State) (p : Nat) (v : Ply) : (setPly p v s).asks = s.asks := rfl
@[simp] theorem setPly_nvm (s : State) (p : Nat) (v : Ply) : (setPly p v s).nvm = s.nvm := rfl
@[simp] theorem setPly_boot (s : State) (p : Nat) (v : Ply) : (setPly p v s).boot = s.boot := rfl
@[simp] theorem setPly_recov (s : State) (p : Nat) (v : Ply) : (setPly p v s).recov = s.recov := rfl
@[simp] theorem setPly_hst (s : State) (p : Nat) (v : Ply) : (setPly p v s).hst = s.hst := rfl
@[simp] theorem setPly_parOdd (s : State) (p : Nat) (v : Ply) : (setPly p v s).parOdd = s.parOdd := rfl
@[simp] theorem setPly_parBad (s : State) (p : Nat) (v : Ply) : (setPly p v s).parBad = s.parBad := rfl
@[simp] theorem setPly_unitSafe (s : State) (p : Nat) (v : Ply) : (setPly p v s).unitSafe = s.unitSafe := rfl
@[simp] theorem setPly_wrote (s : State) (p : Nat) (v : Ply) : (setPly p v s).wrote = s.wrote := rfl
@[simp] theorem setPly_snapReq (s : State) (p : Nat) (v : Ply) : (setPly p v s).snapReq = s.snapReq := rfl
@[simp] theorem setPly_snapJobs (s : State) (p : Nat) (v : Ply) : (setPly p v s).snapJobs = s.snapJobs := rfl
@[simp] theorem setPly_fences (s : State) (p : Nat) (v : Ply) : (setPly p v s).fences = s.fences := rfl
@[simp] theorem setPly_segLoads (s : State) (p : Nat) (v : Ply) : (setPly p v s).segLoads = s.segLoads := rfl
@[simp] theorem setPly_stepLoads (s : State) (p : Nat) (v : Ply) : (setPly p v s).stepLoads = s.stepLoads := rfl
@[simp] theorem setPly_panGrants (s : State) (p : Nat) (v : Ply) : (setPly p v s).panGrants = s.panGrants := rfl
@[simp] theorem setPly_rd (s : State) (p : Nat) (v : Ply) (g : Fld) (w : Nat) : (setPly p v s).rd g w = s.rd g w := rfl
@[simp] theorem setPly_on (s : State) (p : Nat) (v : Ply) (g : Fld) (w : Nat) : (setPly p v s).on g w = s.on g w := rfl

@[simp] theorem setChn_pending (s : State) (p : Nat) (v : Chn) : (setChn p v s).pending = s.pending := rfl
@[simp] theorem setChn_cmd (s : State) (p : Nat) (v : Chn) : (setChn p v s).cmd = s.cmd := rfl
@[simp] theorem setChn_flds (s : State) (p : Nat) (v : Chn) : (setChn p v s).flds = s.flds := rfl
@[simp] theorem setChn_wo1 (s : State) (p : Nat) (v : Chn) : (setChn p v s).wo1 = s.wo1 := rfl
@[simp] theorem setChn_freeN (s : State) (p : Nat) (v : Chn) : (setChn p v s).freeN = s.freeN := rfl
@[simp] theorem setChn_carafe (s : State) (p : Nat) (v : Chn) : (setChn p v s).carafe = s.carafe := rfl
@[simp] theorem setChn_pans (s : State) (p : Nat) (v : Chn) : (setChn p v s).pans = s.pans := rfl
@[simp] theorem setChn_evRing (s : State) (p : Nat) (v : Chn) : (setChn p v s).evRing = s.evRing := rfl
@[simp] theorem setChn_fwImg (s : State) (p : Nat) (v : Chn) : (setChn p v s).fwImg = s.fwImg := rfl
@[simp] theorem setChn_audMirror (s : State) (p : Nat) (v : Chn) : (setChn p v s).audMirror = s.audMirror := rfl
@[simp] theorem setChn_logSeq (s : State) (p : Nat) (v : Chn) : (setChn p v s).logSeq = s.logSeq := rfl
@[simp] theorem setChn_logLevel (s : State) (p : Nat) (v : Chn) : (setChn p v s).logLevel = s.logLevel := rfl
@[simp] theorem setChn_logTick (s : State) (p : Nat) (v : Chn) : (setChn p v s).logTick = s.logTick := rfl
@[simp] theorem setChn_rates (s : State) (p : Nat) (v : Chn) : (setChn p v s).rates = s.rates := rfl
@[simp] theorem setChn_msixWait (s : State) (p : Nat) (v : Chn) : (setChn p v s).msixWait = s.msixWait := rfl
@[simp] theorem setChn_msixTab (s : State) (p : Nat) (v : Chn) : (setChn p v s).msixTab = s.msixTab := rfl
@[simp] theorem setChn_out (s : State) (p : Nat) (v : Chn) : (setChn p v s).out = s.out := rfl
@[simp] theorem setChn_wins (s : State) (p : Nat) (v : Chn) : (setChn p v s).wins = s.wins := rfl
@[simp] theorem setChn_pool (s : State) (p : Nat) (v : Chn) : (setChn p v s).pool = s.pool := rfl
@[simp] theorem setChn_jobs (s : State) (p : Nat) (v : Chn) : (setChn p v s).jobs = s.jobs := rfl
@[simp] theorem setChn_nextJob (s : State) (p : Nat) (v : Chn) : (setChn p v s).nextJob = s.nextJob := rfl
@[simp] theorem setChn_heldPkts (s : State) (p : Nat) (v : Chn) : (setChn p v s).heldPkts = s.heldPkts := rfl
@[simp] theorem setChn_rqHead (s : State) (p : Nat) (v : Chn) : (setChn p v s).rqHead = s.rqHead := rfl
@[simp] theorem setChn_rqWait (s : State) (p : Nat) (v : Chn) : (setChn p v s).rqWait = s.rqWait := rfl
@[simp] theorem setChn_opens (s : State) (p : Nat) (v : Chn) : (setChn p v s).opens = s.opens := rfl
@[simp] theorem setChn_staged (s : State) (p : Nat) (v : Chn) : (setChn p v s).staged = s.staged := rfl
@[simp] theorem setChn_segs (s : State) (p : Nat) (v : Chn) : (setChn p v s).segs = s.segs := rfl
@[simp] theorem setChn_badUnits (s : State) (p : Nat) (v : Chn) : (setChn p v s).badUnits = s.badUnits := rfl
@[simp] theorem setChn_badPans (s : State) (p : Nat) (v : Chn) : (setChn p v s).badPans = s.badPans := rfl
@[simp] theorem setChn_plys (s : State) (p : Nat) (v : Chn) : (setChn p v s).plys = s.plys := rfl
@[simp] theorem setChn_trigs (s : State) (p : Nat) (v : Chn) : (setChn p v s).trigs = s.trigs := rfl
@[simp] theorem setChn_seqEvs (s : State) (p : Nat) (v : Chn) : (setChn p v s).seqEvs = s.seqEvs := rfl
@[simp] theorem setChn_rails (s : State) (p : Nat) (v : Chn) : (setChn p v s).rails = s.rails := rfl
@[simp] theorem setChn_chRails (s : State) (p : Nat) (v : Chn) : (setChn p v s).chRails = s.chRails := rfl
@[simp] theorem setChn_tapBits (s : State) (p : Nat) (v : Chn) : (setChn p v s).tapBits = s.tapBits := rfl
@[simp] theorem setChn_encs (s : State) (p : Nat) (v : Chn) : (setChn p v s).encs = s.encs := rfl
@[simp] theorem setChn_trks (s : State) (p : Nat) (v : Chn) : (setChn p v s).trks = s.trks := rfl
@[simp] theorem setChn_chnOut (s : State) (p : Nat) (v : Chn) : (setChn p v s).chnOut = s.chnOut := rfl
@[simp] theorem setChn_gpDrive (s : State) (p : Nat) (v : Chn) : (setChn p v s).gpDrive = s.gpDrive := rfl
@[simp] theorem setChn_gpValue (s : State) (p : Nat) (v : Chn) : (setChn p v s).gpValue = s.gpValue := rfl
@[simp] theorem setChn_gpQueue (s : State) (p : Nat) (v : Chn) : (setChn p v s).gpQueue = s.gpQueue := rfl
@[simp] theorem setChn_queues (s : State) (p : Nat) (v : Chn) : (setChn p v s).queues = s.queues := rfl
@[simp] theorem setChn_caps (s : State) (p : Nat) (v : Chn) : (setChn p v s).caps = s.caps := rfl
@[simp] theorem setChn_dmds (s : State) (p : Nat) (v : Chn) : (setChn p v s).dmds = s.dmds := rfl
@[simp] theorem setChn_adcOn (s : State) (p : Nat) (v : Chn) : (setChn p v s).adcOn = s.adcOn := rfl
@[simp] theorem setChn_adcQ (s : State) (p : Nat) (v : Chn) : (setChn p v s).adcQ = s.adcQ := rfl
@[simp] theorem setChn_hist (s : State) (p : Nat) (v : Chn) : (setChn p v s).hist = s.hist := rfl
@[simp] theorem setChn_lanes (s : State) (p : Nat) (v : Chn) : (setChn p v s).lanes = s.lanes := rfl
@[simp] theorem setChn_meas (s : State) (p : Nat) (v : Chn) : (setChn p v s).meas = s.meas := rfl
@[simp] theorem setChn_limOut (s : State) (p : Nat) (v : Chn) : (setChn p v s).limOut = s.limOut := rfl
@[simp] theorem setChn_faultSum (s : State) (p : Nat) (v : Chn) : (setChn p v s).faultSum = s.faultSum := rfl
@[simp] theorem setChn_car (s : State) (p : Nat) (v : Chn) : (setChn p v s).car = s.car := rfl
@[simp] theorem setChn_carAsks (s : State) (p : Nat) (v : Chn) : (setChn p v s).carAsks = s.carAsks := rfl
@[simp] theorem setChn_panX (s : State) (p : Nat) (v : Chn) : (setChn p v s).panX = s.panX := rfl
@[simp] theorem setChn_cal (s : State) (p : Nat) (v : Chn) : (setChn p v s).cal = s.cal := rfl
@[simp] theorem setChn_ols (s : State) (p : Nat) (v : Chn) : (setChn p v s).ols = s.ols := rfl
@[simp] theorem setChn_ils (s : State) (p : Nat) (v : Chn) : (setChn p v s).ils = s.ils := rfl
@[simp] theorem setChn_rkPorts (s : State) (p : Nat) (v : Chn) : (setChn p v s).rkPorts = s.rkPorts := rfl
@[simp] theorem setChn_rake (s : State) (p : Nat) (v : Chn) : (setChn p v s).rake = s.rake := rfl
@[simp] theorem setChn_clk (s : State) (p : Nat) (v : Chn) : (setChn p v s).clk = s.clk := rfl
@[simp] theorem setChn_cup (s : State) (p : Nat) (v : Chn) : (setChn p v s).cup = s.cup := rfl
@[simp] theorem setChn_safeAt (s : State) (p : Nat) (v : Chn) : (setChn p v s).safeAt = s.safeAt := rfl
@[simp] theorem setChn_asks (s : State) (p : Nat) (v : Chn) : (setChn p v s).asks = s.asks := rfl
@[simp] theorem setChn_nvm (s : State) (p : Nat) (v : Chn) : (setChn p v s).nvm = s.nvm := rfl
@[simp] theorem setChn_boot (s : State) (p : Nat) (v : Chn) : (setChn p v s).boot = s.boot := rfl
@[simp] theorem setChn_recov (s : State) (p : Nat) (v : Chn) : (setChn p v s).recov = s.recov := rfl
@[simp] theorem setChn_hst (s : State) (p : Nat) (v : Chn) : (setChn p v s).hst = s.hst := rfl
@[simp] theorem setChn_parOdd (s : State) (p : Nat) (v : Chn) : (setChn p v s).parOdd = s.parOdd := rfl
@[simp] theorem setChn_parBad (s : State) (p : Nat) (v : Chn) : (setChn p v s).parBad = s.parBad := rfl
@[simp] theorem setChn_unitSafe (s : State) (p : Nat) (v : Chn) : (setChn p v s).unitSafe = s.unitSafe := rfl
@[simp] theorem setChn_wrote (s : State) (p : Nat) (v : Chn) : (setChn p v s).wrote = s.wrote := rfl
@[simp] theorem setChn_snapReq (s : State) (p : Nat) (v : Chn) : (setChn p v s).snapReq = s.snapReq := rfl
@[simp] theorem setChn_snapJobs (s : State) (p : Nat) (v : Chn) : (setChn p v s).snapJobs = s.snapJobs := rfl
@[simp] theorem setChn_fences (s : State) (p : Nat) (v : Chn) : (setChn p v s).fences = s.fences := rfl
@[simp] theorem setChn_segLoads (s : State) (p : Nat) (v : Chn) : (setChn p v s).segLoads = s.segLoads := rfl
@[simp] theorem setChn_stepLoads (s : State) (p : Nat) (v : Chn) : (setChn p v s).stepLoads = s.stepLoads := rfl
@[simp] theorem setChn_panGrants (s : State) (p : Nat) (v : Chn) : (setChn p v s).panGrants = s.panGrants := rfl
@[simp] theorem setChn_rd (s : State) (p : Nat) (v : Chn) (g : Fld) (w : Nat) : (setChn p v s).rd g w = s.rd g w := rfl
@[simp] theorem setChn_on (s : State) (p : Nat) (v : Chn) (g : Fld) (w : Nat) : (setChn p v s).on g w = s.on g w := rfl

@[simp] theorem setQu_pending (s : State) (p : Nat) (v : Queue) : (setQu p v s).pending = s.pending := rfl
@[simp] theorem setQu_cmd (s : State) (p : Nat) (v : Queue) : (setQu p v s).cmd = s.cmd := rfl
@[simp] theorem setQu_flds (s : State) (p : Nat) (v : Queue) : (setQu p v s).flds = s.flds := rfl
@[simp] theorem setQu_wo1 (s : State) (p : Nat) (v : Queue) : (setQu p v s).wo1 = s.wo1 := rfl
@[simp] theorem setQu_freeN (s : State) (p : Nat) (v : Queue) : (setQu p v s).freeN = s.freeN := rfl
@[simp] theorem setQu_carafe (s : State) (p : Nat) (v : Queue) : (setQu p v s).carafe = s.carafe := rfl
@[simp] theorem setQu_pans (s : State) (p : Nat) (v : Queue) : (setQu p v s).pans = s.pans := rfl
@[simp] theorem setQu_evRing (s : State) (p : Nat) (v : Queue) : (setQu p v s).evRing = s.evRing := rfl
@[simp] theorem setQu_fwImg (s : State) (p : Nat) (v : Queue) : (setQu p v s).fwImg = s.fwImg := rfl
@[simp] theorem setQu_audMirror (s : State) (p : Nat) (v : Queue) : (setQu p v s).audMirror = s.audMirror := rfl
@[simp] theorem setQu_logSeq (s : State) (p : Nat) (v : Queue) : (setQu p v s).logSeq = s.logSeq := rfl
@[simp] theorem setQu_logLevel (s : State) (p : Nat) (v : Queue) : (setQu p v s).logLevel = s.logLevel := rfl
@[simp] theorem setQu_logTick (s : State) (p : Nat) (v : Queue) : (setQu p v s).logTick = s.logTick := rfl
@[simp] theorem setQu_rates (s : State) (p : Nat) (v : Queue) : (setQu p v s).rates = s.rates := rfl
@[simp] theorem setQu_msixWait (s : State) (p : Nat) (v : Queue) : (setQu p v s).msixWait = s.msixWait := rfl
@[simp] theorem setQu_msixTab (s : State) (p : Nat) (v : Queue) : (setQu p v s).msixTab = s.msixTab := rfl
@[simp] theorem setQu_out (s : State) (p : Nat) (v : Queue) : (setQu p v s).out = s.out := rfl
@[simp] theorem setQu_wins (s : State) (p : Nat) (v : Queue) : (setQu p v s).wins = s.wins := rfl
@[simp] theorem setQu_pool (s : State) (p : Nat) (v : Queue) : (setQu p v s).pool = s.pool := rfl
@[simp] theorem setQu_jobs (s : State) (p : Nat) (v : Queue) : (setQu p v s).jobs = s.jobs := rfl
@[simp] theorem setQu_nextJob (s : State) (p : Nat) (v : Queue) : (setQu p v s).nextJob = s.nextJob := rfl
@[simp] theorem setQu_heldPkts (s : State) (p : Nat) (v : Queue) : (setQu p v s).heldPkts = s.heldPkts := rfl
@[simp] theorem setQu_rqHead (s : State) (p : Nat) (v : Queue) : (setQu p v s).rqHead = s.rqHead := rfl
@[simp] theorem setQu_rqWait (s : State) (p : Nat) (v : Queue) : (setQu p v s).rqWait = s.rqWait := rfl
@[simp] theorem setQu_opens (s : State) (p : Nat) (v : Queue) : (setQu p v s).opens = s.opens := rfl
@[simp] theorem setQu_staged (s : State) (p : Nat) (v : Queue) : (setQu p v s).staged = s.staged := rfl
@[simp] theorem setQu_segs (s : State) (p : Nat) (v : Queue) : (setQu p v s).segs = s.segs := rfl
@[simp] theorem setQu_badUnits (s : State) (p : Nat) (v : Queue) : (setQu p v s).badUnits = s.badUnits := rfl
@[simp] theorem setQu_badPans (s : State) (p : Nat) (v : Queue) : (setQu p v s).badPans = s.badPans := rfl
@[simp] theorem setQu_plys (s : State) (p : Nat) (v : Queue) : (setQu p v s).plys = s.plys := rfl
@[simp] theorem setQu_trigs (s : State) (p : Nat) (v : Queue) : (setQu p v s).trigs = s.trigs := rfl
@[simp] theorem setQu_seqEvs (s : State) (p : Nat) (v : Queue) : (setQu p v s).seqEvs = s.seqEvs := rfl
@[simp] theorem setQu_rails (s : State) (p : Nat) (v : Queue) : (setQu p v s).rails = s.rails := rfl
@[simp] theorem setQu_chRails (s : State) (p : Nat) (v : Queue) : (setQu p v s).chRails = s.chRails := rfl
@[simp] theorem setQu_tapBits (s : State) (p : Nat) (v : Queue) : (setQu p v s).tapBits = s.tapBits := rfl
@[simp] theorem setQu_encs (s : State) (p : Nat) (v : Queue) : (setQu p v s).encs = s.encs := rfl
@[simp] theorem setQu_trks (s : State) (p : Nat) (v : Queue) : (setQu p v s).trks = s.trks := rfl
@[simp] theorem setQu_chns (s : State) (p : Nat) (v : Queue) : (setQu p v s).chns = s.chns := rfl
@[simp] theorem setQu_chnOut (s : State) (p : Nat) (v : Queue) : (setQu p v s).chnOut = s.chnOut := rfl
@[simp] theorem setQu_gpDrive (s : State) (p : Nat) (v : Queue) : (setQu p v s).gpDrive = s.gpDrive := rfl
@[simp] theorem setQu_gpValue (s : State) (p : Nat) (v : Queue) : (setQu p v s).gpValue = s.gpValue := rfl
@[simp] theorem setQu_gpQueue (s : State) (p : Nat) (v : Queue) : (setQu p v s).gpQueue = s.gpQueue := rfl
@[simp] theorem setQu_caps (s : State) (p : Nat) (v : Queue) : (setQu p v s).caps = s.caps := rfl
@[simp] theorem setQu_dmds (s : State) (p : Nat) (v : Queue) : (setQu p v s).dmds = s.dmds := rfl
@[simp] theorem setQu_adcOn (s : State) (p : Nat) (v : Queue) : (setQu p v s).adcOn = s.adcOn := rfl
@[simp] theorem setQu_adcQ (s : State) (p : Nat) (v : Queue) : (setQu p v s).adcQ = s.adcQ := rfl
@[simp] theorem setQu_hist (s : State) (p : Nat) (v : Queue) : (setQu p v s).hist = s.hist := rfl
@[simp] theorem setQu_lanes (s : State) (p : Nat) (v : Queue) : (setQu p v s).lanes = s.lanes := rfl
@[simp] theorem setQu_meas (s : State) (p : Nat) (v : Queue) : (setQu p v s).meas = s.meas := rfl
@[simp] theorem setQu_limOut (s : State) (p : Nat) (v : Queue) : (setQu p v s).limOut = s.limOut := rfl
@[simp] theorem setQu_faultSum (s : State) (p : Nat) (v : Queue) : (setQu p v s).faultSum = s.faultSum := rfl
@[simp] theorem setQu_car (s : State) (p : Nat) (v : Queue) : (setQu p v s).car = s.car := rfl
@[simp] theorem setQu_carAsks (s : State) (p : Nat) (v : Queue) : (setQu p v s).carAsks = s.carAsks := rfl
@[simp] theorem setQu_panX (s : State) (p : Nat) (v : Queue) : (setQu p v s).panX = s.panX := rfl
@[simp] theorem setQu_cal (s : State) (p : Nat) (v : Queue) : (setQu p v s).cal = s.cal := rfl
@[simp] theorem setQu_ols (s : State) (p : Nat) (v : Queue) : (setQu p v s).ols = s.ols := rfl
@[simp] theorem setQu_ils (s : State) (p : Nat) (v : Queue) : (setQu p v s).ils = s.ils := rfl
@[simp] theorem setQu_rkPorts (s : State) (p : Nat) (v : Queue) : (setQu p v s).rkPorts = s.rkPorts := rfl
@[simp] theorem setQu_rake (s : State) (p : Nat) (v : Queue) : (setQu p v s).rake = s.rake := rfl
@[simp] theorem setQu_clk (s : State) (p : Nat) (v : Queue) : (setQu p v s).clk = s.clk := rfl
@[simp] theorem setQu_cup (s : State) (p : Nat) (v : Queue) : (setQu p v s).cup = s.cup := rfl
@[simp] theorem setQu_safeAt (s : State) (p : Nat) (v : Queue) : (setQu p v s).safeAt = s.safeAt := rfl
@[simp] theorem setQu_asks (s : State) (p : Nat) (v : Queue) : (setQu p v s).asks = s.asks := rfl
@[simp] theorem setQu_nvm (s : State) (p : Nat) (v : Queue) : (setQu p v s).nvm = s.nvm := rfl
@[simp] theorem setQu_boot (s : State) (p : Nat) (v : Queue) : (setQu p v s).boot = s.boot := rfl
@[simp] theorem setQu_recov (s : State) (p : Nat) (v : Queue) : (setQu p v s).recov = s.recov := rfl
@[simp] theorem setQu_hst (s : State) (p : Nat) (v : Queue) : (setQu p v s).hst = s.hst := rfl
@[simp] theorem setQu_parOdd (s : State) (p : Nat) (v : Queue) : (setQu p v s).parOdd = s.parOdd := rfl
@[simp] theorem setQu_parBad (s : State) (p : Nat) (v : Queue) : (setQu p v s).parBad = s.parBad := rfl
@[simp] theorem setQu_unitSafe (s : State) (p : Nat) (v : Queue) : (setQu p v s).unitSafe = s.unitSafe := rfl
@[simp] theorem setQu_wrote (s : State) (p : Nat) (v : Queue) : (setQu p v s).wrote = s.wrote := rfl
@[simp] theorem setQu_snapReq (s : State) (p : Nat) (v : Queue) : (setQu p v s).snapReq = s.snapReq := rfl
@[simp] theorem setQu_snapJobs (s : State) (p : Nat) (v : Queue) : (setQu p v s).snapJobs = s.snapJobs := rfl
@[simp] theorem setQu_fences (s : State) (p : Nat) (v : Queue) : (setQu p v s).fences = s.fences := rfl
@[simp] theorem setQu_segLoads (s : State) (p : Nat) (v : Queue) : (setQu p v s).segLoads = s.segLoads := rfl
@[simp] theorem setQu_stepLoads (s : State) (p : Nat) (v : Queue) : (setQu p v s).stepLoads = s.stepLoads := rfl
@[simp] theorem setQu_panGrants (s : State) (p : Nat) (v : Queue) : (setQu p v s).panGrants = s.panGrants := rfl
@[simp] theorem setQu_rd (s : State) (p : Nat) (v : Queue) (g : Fld) (w : Nat) : (setQu p v s).rd g w = s.rd g w := rfl
@[simp] theorem setQu_on (s : State) (p : Nat) (v : Queue) (g : Fld) (w : Nat) : (setQu p v s).on g w = s.on g w := rfl

@[simp] theorem setCap_pending (s : State) (p : Nat) (v : Cap) : (setCap p v s).pending = s.pending := rfl
@[simp] theorem setCap_cmd (s : State) (p : Nat) (v : Cap) : (setCap p v s).cmd = s.cmd := rfl
@[simp] theorem setCap_flds (s : State) (p : Nat) (v : Cap) : (setCap p v s).flds = s.flds := rfl
@[simp] theorem setCap_wo1 (s : State) (p : Nat) (v : Cap) : (setCap p v s).wo1 = s.wo1 := rfl
@[simp] theorem setCap_freeN (s : State) (p : Nat) (v : Cap) : (setCap p v s).freeN = s.freeN := rfl
@[simp] theorem setCap_carafe (s : State) (p : Nat) (v : Cap) : (setCap p v s).carafe = s.carafe := rfl
@[simp] theorem setCap_pans (s : State) (p : Nat) (v : Cap) : (setCap p v s).pans = s.pans := rfl
@[simp] theorem setCap_evRing (s : State) (p : Nat) (v : Cap) : (setCap p v s).evRing = s.evRing := rfl
@[simp] theorem setCap_fwImg (s : State) (p : Nat) (v : Cap) : (setCap p v s).fwImg = s.fwImg := rfl
@[simp] theorem setCap_audMirror (s : State) (p : Nat) (v : Cap) : (setCap p v s).audMirror = s.audMirror := rfl
@[simp] theorem setCap_logSeq (s : State) (p : Nat) (v : Cap) : (setCap p v s).logSeq = s.logSeq := rfl
@[simp] theorem setCap_logLevel (s : State) (p : Nat) (v : Cap) : (setCap p v s).logLevel = s.logLevel := rfl
@[simp] theorem setCap_logTick (s : State) (p : Nat) (v : Cap) : (setCap p v s).logTick = s.logTick := rfl
@[simp] theorem setCap_rates (s : State) (p : Nat) (v : Cap) : (setCap p v s).rates = s.rates := rfl
@[simp] theorem setCap_msixWait (s : State) (p : Nat) (v : Cap) : (setCap p v s).msixWait = s.msixWait := rfl
@[simp] theorem setCap_msixTab (s : State) (p : Nat) (v : Cap) : (setCap p v s).msixTab = s.msixTab := rfl
@[simp] theorem setCap_out (s : State) (p : Nat) (v : Cap) : (setCap p v s).out = s.out := rfl
@[simp] theorem setCap_wins (s : State) (p : Nat) (v : Cap) : (setCap p v s).wins = s.wins := rfl
@[simp] theorem setCap_pool (s : State) (p : Nat) (v : Cap) : (setCap p v s).pool = s.pool := rfl
@[simp] theorem setCap_jobs (s : State) (p : Nat) (v : Cap) : (setCap p v s).jobs = s.jobs := rfl
@[simp] theorem setCap_nextJob (s : State) (p : Nat) (v : Cap) : (setCap p v s).nextJob = s.nextJob := rfl
@[simp] theorem setCap_heldPkts (s : State) (p : Nat) (v : Cap) : (setCap p v s).heldPkts = s.heldPkts := rfl
@[simp] theorem setCap_rqHead (s : State) (p : Nat) (v : Cap) : (setCap p v s).rqHead = s.rqHead := rfl
@[simp] theorem setCap_rqWait (s : State) (p : Nat) (v : Cap) : (setCap p v s).rqWait = s.rqWait := rfl
@[simp] theorem setCap_opens (s : State) (p : Nat) (v : Cap) : (setCap p v s).opens = s.opens := rfl
@[simp] theorem setCap_staged (s : State) (p : Nat) (v : Cap) : (setCap p v s).staged = s.staged := rfl
@[simp] theorem setCap_segs (s : State) (p : Nat) (v : Cap) : (setCap p v s).segs = s.segs := rfl
@[simp] theorem setCap_badUnits (s : State) (p : Nat) (v : Cap) : (setCap p v s).badUnits = s.badUnits := rfl
@[simp] theorem setCap_badPans (s : State) (p : Nat) (v : Cap) : (setCap p v s).badPans = s.badPans := rfl
@[simp] theorem setCap_plys (s : State) (p : Nat) (v : Cap) : (setCap p v s).plys = s.plys := rfl
@[simp] theorem setCap_trigs (s : State) (p : Nat) (v : Cap) : (setCap p v s).trigs = s.trigs := rfl
@[simp] theorem setCap_seqEvs (s : State) (p : Nat) (v : Cap) : (setCap p v s).seqEvs = s.seqEvs := rfl
@[simp] theorem setCap_rails (s : State) (p : Nat) (v : Cap) : (setCap p v s).rails = s.rails := rfl
@[simp] theorem setCap_chRails (s : State) (p : Nat) (v : Cap) : (setCap p v s).chRails = s.chRails := rfl
@[simp] theorem setCap_tapBits (s : State) (p : Nat) (v : Cap) : (setCap p v s).tapBits = s.tapBits := rfl
@[simp] theorem setCap_encs (s : State) (p : Nat) (v : Cap) : (setCap p v s).encs = s.encs := rfl
@[simp] theorem setCap_trks (s : State) (p : Nat) (v : Cap) : (setCap p v s).trks = s.trks := rfl
@[simp] theorem setCap_chns (s : State) (p : Nat) (v : Cap) : (setCap p v s).chns = s.chns := rfl
@[simp] theorem setCap_chnOut (s : State) (p : Nat) (v : Cap) : (setCap p v s).chnOut = s.chnOut := rfl
@[simp] theorem setCap_gpDrive (s : State) (p : Nat) (v : Cap) : (setCap p v s).gpDrive = s.gpDrive := rfl
@[simp] theorem setCap_gpValue (s : State) (p : Nat) (v : Cap) : (setCap p v s).gpValue = s.gpValue := rfl
@[simp] theorem setCap_gpQueue (s : State) (p : Nat) (v : Cap) : (setCap p v s).gpQueue = s.gpQueue := rfl
@[simp] theorem setCap_queues (s : State) (p : Nat) (v : Cap) : (setCap p v s).queues = s.queues := rfl
@[simp] theorem setCap_dmds (s : State) (p : Nat) (v : Cap) : (setCap p v s).dmds = s.dmds := rfl
@[simp] theorem setCap_adcOn (s : State) (p : Nat) (v : Cap) : (setCap p v s).adcOn = s.adcOn := rfl
@[simp] theorem setCap_adcQ (s : State) (p : Nat) (v : Cap) : (setCap p v s).adcQ = s.adcQ := rfl
@[simp] theorem setCap_hist (s : State) (p : Nat) (v : Cap) : (setCap p v s).hist = s.hist := rfl
@[simp] theorem setCap_lanes (s : State) (p : Nat) (v : Cap) : (setCap p v s).lanes = s.lanes := rfl
@[simp] theorem setCap_meas (s : State) (p : Nat) (v : Cap) : (setCap p v s).meas = s.meas := rfl
@[simp] theorem setCap_limOut (s : State) (p : Nat) (v : Cap) : (setCap p v s).limOut = s.limOut := rfl
@[simp] theorem setCap_faultSum (s : State) (p : Nat) (v : Cap) : (setCap p v s).faultSum = s.faultSum := rfl
@[simp] theorem setCap_car (s : State) (p : Nat) (v : Cap) : (setCap p v s).car = s.car := rfl
@[simp] theorem setCap_carAsks (s : State) (p : Nat) (v : Cap) : (setCap p v s).carAsks = s.carAsks := rfl
@[simp] theorem setCap_panX (s : State) (p : Nat) (v : Cap) : (setCap p v s).panX = s.panX := rfl
@[simp] theorem setCap_cal (s : State) (p : Nat) (v : Cap) : (setCap p v s).cal = s.cal := rfl
@[simp] theorem setCap_ols (s : State) (p : Nat) (v : Cap) : (setCap p v s).ols = s.ols := rfl
@[simp] theorem setCap_ils (s : State) (p : Nat) (v : Cap) : (setCap p v s).ils = s.ils := rfl
@[simp] theorem setCap_rkPorts (s : State) (p : Nat) (v : Cap) : (setCap p v s).rkPorts = s.rkPorts := rfl
@[simp] theorem setCap_rake (s : State) (p : Nat) (v : Cap) : (setCap p v s).rake = s.rake := rfl
@[simp] theorem setCap_clk (s : State) (p : Nat) (v : Cap) : (setCap p v s).clk = s.clk := rfl
@[simp] theorem setCap_cup (s : State) (p : Nat) (v : Cap) : (setCap p v s).cup = s.cup := rfl
@[simp] theorem setCap_safeAt (s : State) (p : Nat) (v : Cap) : (setCap p v s).safeAt = s.safeAt := rfl
@[simp] theorem setCap_asks (s : State) (p : Nat) (v : Cap) : (setCap p v s).asks = s.asks := rfl
@[simp] theorem setCap_nvm (s : State) (p : Nat) (v : Cap) : (setCap p v s).nvm = s.nvm := rfl
@[simp] theorem setCap_boot (s : State) (p : Nat) (v : Cap) : (setCap p v s).boot = s.boot := rfl
@[simp] theorem setCap_recov (s : State) (p : Nat) (v : Cap) : (setCap p v s).recov = s.recov := rfl
@[simp] theorem setCap_hst (s : State) (p : Nat) (v : Cap) : (setCap p v s).hst = s.hst := rfl
@[simp] theorem setCap_parOdd (s : State) (p : Nat) (v : Cap) : (setCap p v s).parOdd = s.parOdd := rfl
@[simp] theorem setCap_parBad (s : State) (p : Nat) (v : Cap) : (setCap p v s).parBad = s.parBad := rfl
@[simp] theorem setCap_unitSafe (s : State) (p : Nat) (v : Cap) : (setCap p v s).unitSafe = s.unitSafe := rfl
@[simp] theorem setCap_wrote (s : State) (p : Nat) (v : Cap) : (setCap p v s).wrote = s.wrote := rfl
@[simp] theorem setCap_snapReq (s : State) (p : Nat) (v : Cap) : (setCap p v s).snapReq = s.snapReq := rfl
@[simp] theorem setCap_snapJobs (s : State) (p : Nat) (v : Cap) : (setCap p v s).snapJobs = s.snapJobs := rfl
@[simp] theorem setCap_fences (s : State) (p : Nat) (v : Cap) : (setCap p v s).fences = s.fences := rfl
@[simp] theorem setCap_segLoads (s : State) (p : Nat) (v : Cap) : (setCap p v s).segLoads = s.segLoads := rfl
@[simp] theorem setCap_stepLoads (s : State) (p : Nat) (v : Cap) : (setCap p v s).stepLoads = s.stepLoads := rfl
@[simp] theorem setCap_panGrants (s : State) (p : Nat) (v : Cap) : (setCap p v s).panGrants = s.panGrants := rfl
@[simp] theorem setCap_rd (s : State) (p : Nat) (v : Cap) (g : Fld) (w : Nat) : (setCap p v s).rd g w = s.rd g w := rfl
@[simp] theorem setCap_on (s : State) (p : Nat) (v : Cap) (g : Fld) (w : Nat) : (setCap p v s).on g w = s.on g w := rfl

@[simp] theorem setLane_pending (s : State) (p : Nat) (v : Lane) : (setLane p v s).pending = s.pending := rfl
@[simp] theorem setLane_cmd (s : State) (p : Nat) (v : Lane) : (setLane p v s).cmd = s.cmd := rfl
@[simp] theorem setLane_flds (s : State) (p : Nat) (v : Lane) : (setLane p v s).flds = s.flds := rfl
@[simp] theorem setLane_wo1 (s : State) (p : Nat) (v : Lane) : (setLane p v s).wo1 = s.wo1 := rfl
@[simp] theorem setLane_freeN (s : State) (p : Nat) (v : Lane) : (setLane p v s).freeN = s.freeN := rfl
@[simp] theorem setLane_carafe (s : State) (p : Nat) (v : Lane) : (setLane p v s).carafe = s.carafe := rfl
@[simp] theorem setLane_pans (s : State) (p : Nat) (v : Lane) : (setLane p v s).pans = s.pans := rfl
@[simp] theorem setLane_evRing (s : State) (p : Nat) (v : Lane) : (setLane p v s).evRing = s.evRing := rfl
@[simp] theorem setLane_fwImg (s : State) (p : Nat) (v : Lane) : (setLane p v s).fwImg = s.fwImg := rfl
@[simp] theorem setLane_audMirror (s : State) (p : Nat) (v : Lane) : (setLane p v s).audMirror = s.audMirror := rfl
@[simp] theorem setLane_logSeq (s : State) (p : Nat) (v : Lane) : (setLane p v s).logSeq = s.logSeq := rfl
@[simp] theorem setLane_logLevel (s : State) (p : Nat) (v : Lane) : (setLane p v s).logLevel = s.logLevel := rfl
@[simp] theorem setLane_logTick (s : State) (p : Nat) (v : Lane) : (setLane p v s).logTick = s.logTick := rfl
@[simp] theorem setLane_rates (s : State) (p : Nat) (v : Lane) : (setLane p v s).rates = s.rates := rfl
@[simp] theorem setLane_msixWait (s : State) (p : Nat) (v : Lane) : (setLane p v s).msixWait = s.msixWait := rfl
@[simp] theorem setLane_msixTab (s : State) (p : Nat) (v : Lane) : (setLane p v s).msixTab = s.msixTab := rfl
@[simp] theorem setLane_out (s : State) (p : Nat) (v : Lane) : (setLane p v s).out = s.out := rfl
@[simp] theorem setLane_wins (s : State) (p : Nat) (v : Lane) : (setLane p v s).wins = s.wins := rfl
@[simp] theorem setLane_pool (s : State) (p : Nat) (v : Lane) : (setLane p v s).pool = s.pool := rfl
@[simp] theorem setLane_jobs (s : State) (p : Nat) (v : Lane) : (setLane p v s).jobs = s.jobs := rfl
@[simp] theorem setLane_nextJob (s : State) (p : Nat) (v : Lane) : (setLane p v s).nextJob = s.nextJob := rfl
@[simp] theorem setLane_heldPkts (s : State) (p : Nat) (v : Lane) : (setLane p v s).heldPkts = s.heldPkts := rfl
@[simp] theorem setLane_rqHead (s : State) (p : Nat) (v : Lane) : (setLane p v s).rqHead = s.rqHead := rfl
@[simp] theorem setLane_rqWait (s : State) (p : Nat) (v : Lane) : (setLane p v s).rqWait = s.rqWait := rfl
@[simp] theorem setLane_opens (s : State) (p : Nat) (v : Lane) : (setLane p v s).opens = s.opens := rfl
@[simp] theorem setLane_staged (s : State) (p : Nat) (v : Lane) : (setLane p v s).staged = s.staged := rfl
@[simp] theorem setLane_segs (s : State) (p : Nat) (v : Lane) : (setLane p v s).segs = s.segs := rfl
@[simp] theorem setLane_badUnits (s : State) (p : Nat) (v : Lane) : (setLane p v s).badUnits = s.badUnits := rfl
@[simp] theorem setLane_badPans (s : State) (p : Nat) (v : Lane) : (setLane p v s).badPans = s.badPans := rfl
@[simp] theorem setLane_plys (s : State) (p : Nat) (v : Lane) : (setLane p v s).plys = s.plys := rfl
@[simp] theorem setLane_trigs (s : State) (p : Nat) (v : Lane) : (setLane p v s).trigs = s.trigs := rfl
@[simp] theorem setLane_seqEvs (s : State) (p : Nat) (v : Lane) : (setLane p v s).seqEvs = s.seqEvs := rfl
@[simp] theorem setLane_rails (s : State) (p : Nat) (v : Lane) : (setLane p v s).rails = s.rails := rfl
@[simp] theorem setLane_chRails (s : State) (p : Nat) (v : Lane) : (setLane p v s).chRails = s.chRails := rfl
@[simp] theorem setLane_tapBits (s : State) (p : Nat) (v : Lane) : (setLane p v s).tapBits = s.tapBits := rfl
@[simp] theorem setLane_encs (s : State) (p : Nat) (v : Lane) : (setLane p v s).encs = s.encs := rfl
@[simp] theorem setLane_trks (s : State) (p : Nat) (v : Lane) : (setLane p v s).trks = s.trks := rfl
@[simp] theorem setLane_chns (s : State) (p : Nat) (v : Lane) : (setLane p v s).chns = s.chns := rfl
@[simp] theorem setLane_chnOut (s : State) (p : Nat) (v : Lane) : (setLane p v s).chnOut = s.chnOut := rfl
@[simp] theorem setLane_gpDrive (s : State) (p : Nat) (v : Lane) : (setLane p v s).gpDrive = s.gpDrive := rfl
@[simp] theorem setLane_gpValue (s : State) (p : Nat) (v : Lane) : (setLane p v s).gpValue = s.gpValue := rfl
@[simp] theorem setLane_gpQueue (s : State) (p : Nat) (v : Lane) : (setLane p v s).gpQueue = s.gpQueue := rfl
@[simp] theorem setLane_queues (s : State) (p : Nat) (v : Lane) : (setLane p v s).queues = s.queues := rfl
@[simp] theorem setLane_caps (s : State) (p : Nat) (v : Lane) : (setLane p v s).caps = s.caps := rfl
@[simp] theorem setLane_dmds (s : State) (p : Nat) (v : Lane) : (setLane p v s).dmds = s.dmds := rfl
@[simp] theorem setLane_adcOn (s : State) (p : Nat) (v : Lane) : (setLane p v s).adcOn = s.adcOn := rfl
@[simp] theorem setLane_adcQ (s : State) (p : Nat) (v : Lane) : (setLane p v s).adcQ = s.adcQ := rfl
@[simp] theorem setLane_hist (s : State) (p : Nat) (v : Lane) : (setLane p v s).hist = s.hist := rfl
@[simp] theorem setLane_meas (s : State) (p : Nat) (v : Lane) : (setLane p v s).meas = s.meas := rfl
@[simp] theorem setLane_limOut (s : State) (p : Nat) (v : Lane) : (setLane p v s).limOut = s.limOut := rfl
@[simp] theorem setLane_faultSum (s : State) (p : Nat) (v : Lane) : (setLane p v s).faultSum = s.faultSum := rfl
@[simp] theorem setLane_car (s : State) (p : Nat) (v : Lane) : (setLane p v s).car = s.car := rfl
@[simp] theorem setLane_carAsks (s : State) (p : Nat) (v : Lane) : (setLane p v s).carAsks = s.carAsks := rfl
@[simp] theorem setLane_panX (s : State) (p : Nat) (v : Lane) : (setLane p v s).panX = s.panX := rfl
@[simp] theorem setLane_cal (s : State) (p : Nat) (v : Lane) : (setLane p v s).cal = s.cal := rfl
@[simp] theorem setLane_ols (s : State) (p : Nat) (v : Lane) : (setLane p v s).ols = s.ols := rfl
@[simp] theorem setLane_ils (s : State) (p : Nat) (v : Lane) : (setLane p v s).ils = s.ils := rfl
@[simp] theorem setLane_rkPorts (s : State) (p : Nat) (v : Lane) : (setLane p v s).rkPorts = s.rkPorts := rfl
@[simp] theorem setLane_rake (s : State) (p : Nat) (v : Lane) : (setLane p v s).rake = s.rake := rfl
@[simp] theorem setLane_clk (s : State) (p : Nat) (v : Lane) : (setLane p v s).clk = s.clk := rfl
@[simp] theorem setLane_cup (s : State) (p : Nat) (v : Lane) : (setLane p v s).cup = s.cup := rfl
@[simp] theorem setLane_safeAt (s : State) (p : Nat) (v : Lane) : (setLane p v s).safeAt = s.safeAt := rfl
@[simp] theorem setLane_asks (s : State) (p : Nat) (v : Lane) : (setLane p v s).asks = s.asks := rfl
@[simp] theorem setLane_nvm (s : State) (p : Nat) (v : Lane) : (setLane p v s).nvm = s.nvm := rfl
@[simp] theorem setLane_boot (s : State) (p : Nat) (v : Lane) : (setLane p v s).boot = s.boot := rfl
@[simp] theorem setLane_recov (s : State) (p : Nat) (v : Lane) : (setLane p v s).recov = s.recov := rfl
@[simp] theorem setLane_hst (s : State) (p : Nat) (v : Lane) : (setLane p v s).hst = s.hst := rfl
@[simp] theorem setLane_parOdd (s : State) (p : Nat) (v : Lane) : (setLane p v s).parOdd = s.parOdd := rfl
@[simp] theorem setLane_parBad (s : State) (p : Nat) (v : Lane) : (setLane p v s).parBad = s.parBad := rfl
@[simp] theorem setLane_unitSafe (s : State) (p : Nat) (v : Lane) : (setLane p v s).unitSafe = s.unitSafe := rfl
@[simp] theorem setLane_wrote (s : State) (p : Nat) (v : Lane) : (setLane p v s).wrote = s.wrote := rfl
@[simp] theorem setLane_snapReq (s : State) (p : Nat) (v : Lane) : (setLane p v s).snapReq = s.snapReq := rfl
@[simp] theorem setLane_snapJobs (s : State) (p : Nat) (v : Lane) : (setLane p v s).snapJobs = s.snapJobs := rfl
@[simp] theorem setLane_fences (s : State) (p : Nat) (v : Lane) : (setLane p v s).fences = s.fences := rfl
@[simp] theorem setLane_segLoads (s : State) (p : Nat) (v : Lane) : (setLane p v s).segLoads = s.segLoads := rfl
@[simp] theorem setLane_stepLoads (s : State) (p : Nat) (v : Lane) : (setLane p v s).stepLoads = s.stepLoads := rfl
@[simp] theorem setLane_panGrants (s : State) (p : Nat) (v : Lane) : (setLane p v s).panGrants = s.panGrants := rfl
@[simp] theorem setLane_rd (s : State) (p : Nat) (v : Lane) (g : Fld) (w : Nat) : (setLane p v s).rd g w = s.rd g w := rfl
@[simp] theorem setLane_on (s : State) (p : Nat) (v : Lane) (g : Fld) (w : Nat) : (setLane p v s).on g w = s.on g w := rfl

@[simp] theorem setRail_pending (s : State) (p : Nat) (v : Rail) : (setRail p v s).pending = s.pending := rfl
@[simp] theorem setRail_cmd (s : State) (p : Nat) (v : Rail) : (setRail p v s).cmd = s.cmd := rfl
@[simp] theorem setRail_flds (s : State) (p : Nat) (v : Rail) : (setRail p v s).flds = s.flds := rfl
@[simp] theorem setRail_wo1 (s : State) (p : Nat) (v : Rail) : (setRail p v s).wo1 = s.wo1 := rfl
@[simp] theorem setRail_freeN (s : State) (p : Nat) (v : Rail) : (setRail p v s).freeN = s.freeN := rfl
@[simp] theorem setRail_carafe (s : State) (p : Nat) (v : Rail) : (setRail p v s).carafe = s.carafe := rfl
@[simp] theorem setRail_pans (s : State) (p : Nat) (v : Rail) : (setRail p v s).pans = s.pans := rfl
@[simp] theorem setRail_evRing (s : State) (p : Nat) (v : Rail) : (setRail p v s).evRing = s.evRing := rfl
@[simp] theorem setRail_fwImg (s : State) (p : Nat) (v : Rail) : (setRail p v s).fwImg = s.fwImg := rfl
@[simp] theorem setRail_audMirror (s : State) (p : Nat) (v : Rail) : (setRail p v s).audMirror = s.audMirror := rfl
@[simp] theorem setRail_logSeq (s : State) (p : Nat) (v : Rail) : (setRail p v s).logSeq = s.logSeq := rfl
@[simp] theorem setRail_logLevel (s : State) (p : Nat) (v : Rail) : (setRail p v s).logLevel = s.logLevel := rfl
@[simp] theorem setRail_logTick (s : State) (p : Nat) (v : Rail) : (setRail p v s).logTick = s.logTick := rfl
@[simp] theorem setRail_rates (s : State) (p : Nat) (v : Rail) : (setRail p v s).rates = s.rates := rfl
@[simp] theorem setRail_msixWait (s : State) (p : Nat) (v : Rail) : (setRail p v s).msixWait = s.msixWait := rfl
@[simp] theorem setRail_msixTab (s : State) (p : Nat) (v : Rail) : (setRail p v s).msixTab = s.msixTab := rfl
@[simp] theorem setRail_out (s : State) (p : Nat) (v : Rail) : (setRail p v s).out = s.out := rfl
@[simp] theorem setRail_wins (s : State) (p : Nat) (v : Rail) : (setRail p v s).wins = s.wins := rfl
@[simp] theorem setRail_pool (s : State) (p : Nat) (v : Rail) : (setRail p v s).pool = s.pool := rfl
@[simp] theorem setRail_jobs (s : State) (p : Nat) (v : Rail) : (setRail p v s).jobs = s.jobs := rfl
@[simp] theorem setRail_nextJob (s : State) (p : Nat) (v : Rail) : (setRail p v s).nextJob = s.nextJob := rfl
@[simp] theorem setRail_heldPkts (s : State) (p : Nat) (v : Rail) : (setRail p v s).heldPkts = s.heldPkts := rfl
@[simp] theorem setRail_rqHead (s : State) (p : Nat) (v : Rail) : (setRail p v s).rqHead = s.rqHead := rfl
@[simp] theorem setRail_rqWait (s : State) (p : Nat) (v : Rail) : (setRail p v s).rqWait = s.rqWait := rfl
@[simp] theorem setRail_opens (s : State) (p : Nat) (v : Rail) : (setRail p v s).opens = s.opens := rfl
@[simp] theorem setRail_staged (s : State) (p : Nat) (v : Rail) : (setRail p v s).staged = s.staged := rfl
@[simp] theorem setRail_segs (s : State) (p : Nat) (v : Rail) : (setRail p v s).segs = s.segs := rfl
@[simp] theorem setRail_badUnits (s : State) (p : Nat) (v : Rail) : (setRail p v s).badUnits = s.badUnits := rfl
@[simp] theorem setRail_badPans (s : State) (p : Nat) (v : Rail) : (setRail p v s).badPans = s.badPans := rfl
@[simp] theorem setRail_plys (s : State) (p : Nat) (v : Rail) : (setRail p v s).plys = s.plys := rfl
@[simp] theorem setRail_trigs (s : State) (p : Nat) (v : Rail) : (setRail p v s).trigs = s.trigs := rfl
@[simp] theorem setRail_seqEvs (s : State) (p : Nat) (v : Rail) : (setRail p v s).seqEvs = s.seqEvs := rfl
@[simp] theorem setRail_chRails (s : State) (p : Nat) (v : Rail) : (setRail p v s).chRails = s.chRails := rfl
@[simp] theorem setRail_tapBits (s : State) (p : Nat) (v : Rail) : (setRail p v s).tapBits = s.tapBits := rfl
@[simp] theorem setRail_encs (s : State) (p : Nat) (v : Rail) : (setRail p v s).encs = s.encs := rfl
@[simp] theorem setRail_trks (s : State) (p : Nat) (v : Rail) : (setRail p v s).trks = s.trks := rfl
@[simp] theorem setRail_chns (s : State) (p : Nat) (v : Rail) : (setRail p v s).chns = s.chns := rfl
@[simp] theorem setRail_chnOut (s : State) (p : Nat) (v : Rail) : (setRail p v s).chnOut = s.chnOut := rfl
@[simp] theorem setRail_gpDrive (s : State) (p : Nat) (v : Rail) : (setRail p v s).gpDrive = s.gpDrive := rfl
@[simp] theorem setRail_gpValue (s : State) (p : Nat) (v : Rail) : (setRail p v s).gpValue = s.gpValue := rfl
@[simp] theorem setRail_gpQueue (s : State) (p : Nat) (v : Rail) : (setRail p v s).gpQueue = s.gpQueue := rfl
@[simp] theorem setRail_queues (s : State) (p : Nat) (v : Rail) : (setRail p v s).queues = s.queues := rfl
@[simp] theorem setRail_caps (s : State) (p : Nat) (v : Rail) : (setRail p v s).caps = s.caps := rfl
@[simp] theorem setRail_dmds (s : State) (p : Nat) (v : Rail) : (setRail p v s).dmds = s.dmds := rfl
@[simp] theorem setRail_adcOn (s : State) (p : Nat) (v : Rail) : (setRail p v s).adcOn = s.adcOn := rfl
@[simp] theorem setRail_adcQ (s : State) (p : Nat) (v : Rail) : (setRail p v s).adcQ = s.adcQ := rfl
@[simp] theorem setRail_hist (s : State) (p : Nat) (v : Rail) : (setRail p v s).hist = s.hist := rfl
@[simp] theorem setRail_lanes (s : State) (p : Nat) (v : Rail) : (setRail p v s).lanes = s.lanes := rfl
@[simp] theorem setRail_meas (s : State) (p : Nat) (v : Rail) : (setRail p v s).meas = s.meas := rfl
@[simp] theorem setRail_limOut (s : State) (p : Nat) (v : Rail) : (setRail p v s).limOut = s.limOut := rfl
@[simp] theorem setRail_faultSum (s : State) (p : Nat) (v : Rail) : (setRail p v s).faultSum = s.faultSum := rfl
@[simp] theorem setRail_car (s : State) (p : Nat) (v : Rail) : (setRail p v s).car = s.car := rfl
@[simp] theorem setRail_carAsks (s : State) (p : Nat) (v : Rail) : (setRail p v s).carAsks = s.carAsks := rfl
@[simp] theorem setRail_panX (s : State) (p : Nat) (v : Rail) : (setRail p v s).panX = s.panX := rfl
@[simp] theorem setRail_cal (s : State) (p : Nat) (v : Rail) : (setRail p v s).cal = s.cal := rfl
@[simp] theorem setRail_ols (s : State) (p : Nat) (v : Rail) : (setRail p v s).ols = s.ols := rfl
@[simp] theorem setRail_ils (s : State) (p : Nat) (v : Rail) : (setRail p v s).ils = s.ils := rfl
@[simp] theorem setRail_rkPorts (s : State) (p : Nat) (v : Rail) : (setRail p v s).rkPorts = s.rkPorts := rfl
@[simp] theorem setRail_rake (s : State) (p : Nat) (v : Rail) : (setRail p v s).rake = s.rake := rfl
@[simp] theorem setRail_clk (s : State) (p : Nat) (v : Rail) : (setRail p v s).clk = s.clk := rfl
@[simp] theorem setRail_cup (s : State) (p : Nat) (v : Rail) : (setRail p v s).cup = s.cup := rfl
@[simp] theorem setRail_safeAt (s : State) (p : Nat) (v : Rail) : (setRail p v s).safeAt = s.safeAt := rfl
@[simp] theorem setRail_asks (s : State) (p : Nat) (v : Rail) : (setRail p v s).asks = s.asks := rfl
@[simp] theorem setRail_nvm (s : State) (p : Nat) (v : Rail) : (setRail p v s).nvm = s.nvm := rfl
@[simp] theorem setRail_boot (s : State) (p : Nat) (v : Rail) : (setRail p v s).boot = s.boot := rfl
@[simp] theorem setRail_recov (s : State) (p : Nat) (v : Rail) : (setRail p v s).recov = s.recov := rfl
@[simp] theorem setRail_hst (s : State) (p : Nat) (v : Rail) : (setRail p v s).hst = s.hst := rfl
@[simp] theorem setRail_parOdd (s : State) (p : Nat) (v : Rail) : (setRail p v s).parOdd = s.parOdd := rfl
@[simp] theorem setRail_parBad (s : State) (p : Nat) (v : Rail) : (setRail p v s).parBad = s.parBad := rfl
@[simp] theorem setRail_unitSafe (s : State) (p : Nat) (v : Rail) : (setRail p v s).unitSafe = s.unitSafe := rfl
@[simp] theorem setRail_wrote (s : State) (p : Nat) (v : Rail) : (setRail p v s).wrote = s.wrote := rfl
@[simp] theorem setRail_snapReq (s : State) (p : Nat) (v : Rail) : (setRail p v s).snapReq = s.snapReq := rfl
@[simp] theorem setRail_snapJobs (s : State) (p : Nat) (v : Rail) : (setRail p v s).snapJobs = s.snapJobs := rfl
@[simp] theorem setRail_fences (s : State) (p : Nat) (v : Rail) : (setRail p v s).fences = s.fences := rfl
@[simp] theorem setRail_segLoads (s : State) (p : Nat) (v : Rail) : (setRail p v s).segLoads = s.segLoads := rfl
@[simp] theorem setRail_stepLoads (s : State) (p : Nat) (v : Rail) : (setRail p v s).stepLoads = s.stepLoads := rfl
@[simp] theorem setRail_panGrants (s : State) (p : Nat) (v : Rail) : (setRail p v s).panGrants = s.panGrants := rfl
@[simp] theorem setRail_rd (s : State) (p : Nat) (v : Rail) (g : Fld) (w : Nat) : (setRail p v s).rd g w = s.rd g w := rfl
@[simp] theorem setRail_on (s : State) (p : Nat) (v : Rail) (g : Fld) (w : Nat) : (setRail p v s).on g w = s.on g w := rfl

@[simp] theorem setEnc_pending (s : State) (p : Nat) (v : Enc) : (setEnc p v s).pending = s.pending := rfl
@[simp] theorem setEnc_cmd (s : State) (p : Nat) (v : Enc) : (setEnc p v s).cmd = s.cmd := rfl
@[simp] theorem setEnc_flds (s : State) (p : Nat) (v : Enc) : (setEnc p v s).flds = s.flds := rfl
@[simp] theorem setEnc_wo1 (s : State) (p : Nat) (v : Enc) : (setEnc p v s).wo1 = s.wo1 := rfl
@[simp] theorem setEnc_freeN (s : State) (p : Nat) (v : Enc) : (setEnc p v s).freeN = s.freeN := rfl
@[simp] theorem setEnc_carafe (s : State) (p : Nat) (v : Enc) : (setEnc p v s).carafe = s.carafe := rfl
@[simp] theorem setEnc_pans (s : State) (p : Nat) (v : Enc) : (setEnc p v s).pans = s.pans := rfl
@[simp] theorem setEnc_evRing (s : State) (p : Nat) (v : Enc) : (setEnc p v s).evRing = s.evRing := rfl
@[simp] theorem setEnc_fwImg (s : State) (p : Nat) (v : Enc) : (setEnc p v s).fwImg = s.fwImg := rfl
@[simp] theorem setEnc_audMirror (s : State) (p : Nat) (v : Enc) : (setEnc p v s).audMirror = s.audMirror := rfl
@[simp] theorem setEnc_logSeq (s : State) (p : Nat) (v : Enc) : (setEnc p v s).logSeq = s.logSeq := rfl
@[simp] theorem setEnc_logLevel (s : State) (p : Nat) (v : Enc) : (setEnc p v s).logLevel = s.logLevel := rfl
@[simp] theorem setEnc_logTick (s : State) (p : Nat) (v : Enc) : (setEnc p v s).logTick = s.logTick := rfl
@[simp] theorem setEnc_rates (s : State) (p : Nat) (v : Enc) : (setEnc p v s).rates = s.rates := rfl
@[simp] theorem setEnc_msixWait (s : State) (p : Nat) (v : Enc) : (setEnc p v s).msixWait = s.msixWait := rfl
@[simp] theorem setEnc_msixTab (s : State) (p : Nat) (v : Enc) : (setEnc p v s).msixTab = s.msixTab := rfl
@[simp] theorem setEnc_out (s : State) (p : Nat) (v : Enc) : (setEnc p v s).out = s.out := rfl
@[simp] theorem setEnc_wins (s : State) (p : Nat) (v : Enc) : (setEnc p v s).wins = s.wins := rfl
@[simp] theorem setEnc_pool (s : State) (p : Nat) (v : Enc) : (setEnc p v s).pool = s.pool := rfl
@[simp] theorem setEnc_jobs (s : State) (p : Nat) (v : Enc) : (setEnc p v s).jobs = s.jobs := rfl
@[simp] theorem setEnc_nextJob (s : State) (p : Nat) (v : Enc) : (setEnc p v s).nextJob = s.nextJob := rfl
@[simp] theorem setEnc_heldPkts (s : State) (p : Nat) (v : Enc) : (setEnc p v s).heldPkts = s.heldPkts := rfl
@[simp] theorem setEnc_rqHead (s : State) (p : Nat) (v : Enc) : (setEnc p v s).rqHead = s.rqHead := rfl
@[simp] theorem setEnc_rqWait (s : State) (p : Nat) (v : Enc) : (setEnc p v s).rqWait = s.rqWait := rfl
@[simp] theorem setEnc_opens (s : State) (p : Nat) (v : Enc) : (setEnc p v s).opens = s.opens := rfl
@[simp] theorem setEnc_staged (s : State) (p : Nat) (v : Enc) : (setEnc p v s).staged = s.staged := rfl
@[simp] theorem setEnc_segs (s : State) (p : Nat) (v : Enc) : (setEnc p v s).segs = s.segs := rfl
@[simp] theorem setEnc_badUnits (s : State) (p : Nat) (v : Enc) : (setEnc p v s).badUnits = s.badUnits := rfl
@[simp] theorem setEnc_badPans (s : State) (p : Nat) (v : Enc) : (setEnc p v s).badPans = s.badPans := rfl
@[simp] theorem setEnc_plys (s : State) (p : Nat) (v : Enc) : (setEnc p v s).plys = s.plys := rfl
@[simp] theorem setEnc_trigs (s : State) (p : Nat) (v : Enc) : (setEnc p v s).trigs = s.trigs := rfl
@[simp] theorem setEnc_seqEvs (s : State) (p : Nat) (v : Enc) : (setEnc p v s).seqEvs = s.seqEvs := rfl
@[simp] theorem setEnc_rails (s : State) (p : Nat) (v : Enc) : (setEnc p v s).rails = s.rails := rfl
@[simp] theorem setEnc_chRails (s : State) (p : Nat) (v : Enc) : (setEnc p v s).chRails = s.chRails := rfl
@[simp] theorem setEnc_tapBits (s : State) (p : Nat) (v : Enc) : (setEnc p v s).tapBits = s.tapBits := rfl
@[simp] theorem setEnc_trks (s : State) (p : Nat) (v : Enc) : (setEnc p v s).trks = s.trks := rfl
@[simp] theorem setEnc_chns (s : State) (p : Nat) (v : Enc) : (setEnc p v s).chns = s.chns := rfl
@[simp] theorem setEnc_chnOut (s : State) (p : Nat) (v : Enc) : (setEnc p v s).chnOut = s.chnOut := rfl
@[simp] theorem setEnc_gpDrive (s : State) (p : Nat) (v : Enc) : (setEnc p v s).gpDrive = s.gpDrive := rfl
@[simp] theorem setEnc_gpValue (s : State) (p : Nat) (v : Enc) : (setEnc p v s).gpValue = s.gpValue := rfl
@[simp] theorem setEnc_gpQueue (s : State) (p : Nat) (v : Enc) : (setEnc p v s).gpQueue = s.gpQueue := rfl
@[simp] theorem setEnc_queues (s : State) (p : Nat) (v : Enc) : (setEnc p v s).queues = s.queues := rfl
@[simp] theorem setEnc_caps (s : State) (p : Nat) (v : Enc) : (setEnc p v s).caps = s.caps := rfl
@[simp] theorem setEnc_dmds (s : State) (p : Nat) (v : Enc) : (setEnc p v s).dmds = s.dmds := rfl
@[simp] theorem setEnc_adcOn (s : State) (p : Nat) (v : Enc) : (setEnc p v s).adcOn = s.adcOn := rfl
@[simp] theorem setEnc_adcQ (s : State) (p : Nat) (v : Enc) : (setEnc p v s).adcQ = s.adcQ := rfl
@[simp] theorem setEnc_hist (s : State) (p : Nat) (v : Enc) : (setEnc p v s).hist = s.hist := rfl
@[simp] theorem setEnc_lanes (s : State) (p : Nat) (v : Enc) : (setEnc p v s).lanes = s.lanes := rfl
@[simp] theorem setEnc_meas (s : State) (p : Nat) (v : Enc) : (setEnc p v s).meas = s.meas := rfl
@[simp] theorem setEnc_limOut (s : State) (p : Nat) (v : Enc) : (setEnc p v s).limOut = s.limOut := rfl
@[simp] theorem setEnc_faultSum (s : State) (p : Nat) (v : Enc) : (setEnc p v s).faultSum = s.faultSum := rfl
@[simp] theorem setEnc_car (s : State) (p : Nat) (v : Enc) : (setEnc p v s).car = s.car := rfl
@[simp] theorem setEnc_carAsks (s : State) (p : Nat) (v : Enc) : (setEnc p v s).carAsks = s.carAsks := rfl
@[simp] theorem setEnc_panX (s : State) (p : Nat) (v : Enc) : (setEnc p v s).panX = s.panX := rfl
@[simp] theorem setEnc_cal (s : State) (p : Nat) (v : Enc) : (setEnc p v s).cal = s.cal := rfl
@[simp] theorem setEnc_ols (s : State) (p : Nat) (v : Enc) : (setEnc p v s).ols = s.ols := rfl
@[simp] theorem setEnc_ils (s : State) (p : Nat) (v : Enc) : (setEnc p v s).ils = s.ils := rfl
@[simp] theorem setEnc_rkPorts (s : State) (p : Nat) (v : Enc) : (setEnc p v s).rkPorts = s.rkPorts := rfl
@[simp] theorem setEnc_rake (s : State) (p : Nat) (v : Enc) : (setEnc p v s).rake = s.rake := rfl
@[simp] theorem setEnc_clk (s : State) (p : Nat) (v : Enc) : (setEnc p v s).clk = s.clk := rfl
@[simp] theorem setEnc_cup (s : State) (p : Nat) (v : Enc) : (setEnc p v s).cup = s.cup := rfl
@[simp] theorem setEnc_safeAt (s : State) (p : Nat) (v : Enc) : (setEnc p v s).safeAt = s.safeAt := rfl
@[simp] theorem setEnc_asks (s : State) (p : Nat) (v : Enc) : (setEnc p v s).asks = s.asks := rfl
@[simp] theorem setEnc_nvm (s : State) (p : Nat) (v : Enc) : (setEnc p v s).nvm = s.nvm := rfl
@[simp] theorem setEnc_boot (s : State) (p : Nat) (v : Enc) : (setEnc p v s).boot = s.boot := rfl
@[simp] theorem setEnc_recov (s : State) (p : Nat) (v : Enc) : (setEnc p v s).recov = s.recov := rfl
@[simp] theorem setEnc_hst (s : State) (p : Nat) (v : Enc) : (setEnc p v s).hst = s.hst := rfl
@[simp] theorem setEnc_parOdd (s : State) (p : Nat) (v : Enc) : (setEnc p v s).parOdd = s.parOdd := rfl
@[simp] theorem setEnc_parBad (s : State) (p : Nat) (v : Enc) : (setEnc p v s).parBad = s.parBad := rfl
@[simp] theorem setEnc_unitSafe (s : State) (p : Nat) (v : Enc) : (setEnc p v s).unitSafe = s.unitSafe := rfl
@[simp] theorem setEnc_wrote (s : State) (p : Nat) (v : Enc) : (setEnc p v s).wrote = s.wrote := rfl
@[simp] theorem setEnc_snapReq (s : State) (p : Nat) (v : Enc) : (setEnc p v s).snapReq = s.snapReq := rfl
@[simp] theorem setEnc_snapJobs (s : State) (p : Nat) (v : Enc) : (setEnc p v s).snapJobs = s.snapJobs := rfl
@[simp] theorem setEnc_fences (s : State) (p : Nat) (v : Enc) : (setEnc p v s).fences = s.fences := rfl
@[simp] theorem setEnc_segLoads (s : State) (p : Nat) (v : Enc) : (setEnc p v s).segLoads = s.segLoads := rfl
@[simp] theorem setEnc_stepLoads (s : State) (p : Nat) (v : Enc) : (setEnc p v s).stepLoads = s.stepLoads := rfl
@[simp] theorem setEnc_panGrants (s : State) (p : Nat) (v : Enc) : (setEnc p v s).panGrants = s.panGrants := rfl
@[simp] theorem setEnc_rd (s : State) (p : Nat) (v : Enc) (g : Fld) (w : Nat) : (setEnc p v s).rd g w = s.rd g w := rfl
@[simp] theorem setEnc_on (s : State) (p : Nat) (v : Enc) (g : Fld) (w : Nat) : (setEnc p v s).on g w = s.on g w := rfl

@[simp] theorem setTrk_pending (s : State) (p : Nat) (v : Trk) : (setTrk p v s).pending = s.pending := rfl
@[simp] theorem setTrk_cmd (s : State) (p : Nat) (v : Trk) : (setTrk p v s).cmd = s.cmd := rfl
@[simp] theorem setTrk_flds (s : State) (p : Nat) (v : Trk) : (setTrk p v s).flds = s.flds := rfl
@[simp] theorem setTrk_wo1 (s : State) (p : Nat) (v : Trk) : (setTrk p v s).wo1 = s.wo1 := rfl
@[simp] theorem setTrk_freeN (s : State) (p : Nat) (v : Trk) : (setTrk p v s).freeN = s.freeN := rfl
@[simp] theorem setTrk_carafe (s : State) (p : Nat) (v : Trk) : (setTrk p v s).carafe = s.carafe := rfl
@[simp] theorem setTrk_pans (s : State) (p : Nat) (v : Trk) : (setTrk p v s).pans = s.pans := rfl
@[simp] theorem setTrk_evRing (s : State) (p : Nat) (v : Trk) : (setTrk p v s).evRing = s.evRing := rfl
@[simp] theorem setTrk_fwImg (s : State) (p : Nat) (v : Trk) : (setTrk p v s).fwImg = s.fwImg := rfl
@[simp] theorem setTrk_audMirror (s : State) (p : Nat) (v : Trk) : (setTrk p v s).audMirror = s.audMirror := rfl
@[simp] theorem setTrk_logSeq (s : State) (p : Nat) (v : Trk) : (setTrk p v s).logSeq = s.logSeq := rfl
@[simp] theorem setTrk_logLevel (s : State) (p : Nat) (v : Trk) : (setTrk p v s).logLevel = s.logLevel := rfl
@[simp] theorem setTrk_logTick (s : State) (p : Nat) (v : Trk) : (setTrk p v s).logTick = s.logTick := rfl
@[simp] theorem setTrk_rates (s : State) (p : Nat) (v : Trk) : (setTrk p v s).rates = s.rates := rfl
@[simp] theorem setTrk_msixWait (s : State) (p : Nat) (v : Trk) : (setTrk p v s).msixWait = s.msixWait := rfl
@[simp] theorem setTrk_msixTab (s : State) (p : Nat) (v : Trk) : (setTrk p v s).msixTab = s.msixTab := rfl
@[simp] theorem setTrk_out (s : State) (p : Nat) (v : Trk) : (setTrk p v s).out = s.out := rfl
@[simp] theorem setTrk_wins (s : State) (p : Nat) (v : Trk) : (setTrk p v s).wins = s.wins := rfl
@[simp] theorem setTrk_pool (s : State) (p : Nat) (v : Trk) : (setTrk p v s).pool = s.pool := rfl
@[simp] theorem setTrk_jobs (s : State) (p : Nat) (v : Trk) : (setTrk p v s).jobs = s.jobs := rfl
@[simp] theorem setTrk_nextJob (s : State) (p : Nat) (v : Trk) : (setTrk p v s).nextJob = s.nextJob := rfl
@[simp] theorem setTrk_heldPkts (s : State) (p : Nat) (v : Trk) : (setTrk p v s).heldPkts = s.heldPkts := rfl
@[simp] theorem setTrk_rqHead (s : State) (p : Nat) (v : Trk) : (setTrk p v s).rqHead = s.rqHead := rfl
@[simp] theorem setTrk_rqWait (s : State) (p : Nat) (v : Trk) : (setTrk p v s).rqWait = s.rqWait := rfl
@[simp] theorem setTrk_opens (s : State) (p : Nat) (v : Trk) : (setTrk p v s).opens = s.opens := rfl
@[simp] theorem setTrk_staged (s : State) (p : Nat) (v : Trk) : (setTrk p v s).staged = s.staged := rfl
@[simp] theorem setTrk_segs (s : State) (p : Nat) (v : Trk) : (setTrk p v s).segs = s.segs := rfl
@[simp] theorem setTrk_badUnits (s : State) (p : Nat) (v : Trk) : (setTrk p v s).badUnits = s.badUnits := rfl
@[simp] theorem setTrk_badPans (s : State) (p : Nat) (v : Trk) : (setTrk p v s).badPans = s.badPans := rfl
@[simp] theorem setTrk_plys (s : State) (p : Nat) (v : Trk) : (setTrk p v s).plys = s.plys := rfl
@[simp] theorem setTrk_trigs (s : State) (p : Nat) (v : Trk) : (setTrk p v s).trigs = s.trigs := rfl
@[simp] theorem setTrk_seqEvs (s : State) (p : Nat) (v : Trk) : (setTrk p v s).seqEvs = s.seqEvs := rfl
@[simp] theorem setTrk_rails (s : State) (p : Nat) (v : Trk) : (setTrk p v s).rails = s.rails := rfl
@[simp] theorem setTrk_chRails (s : State) (p : Nat) (v : Trk) : (setTrk p v s).chRails = s.chRails := rfl
@[simp] theorem setTrk_tapBits (s : State) (p : Nat) (v : Trk) : (setTrk p v s).tapBits = s.tapBits := rfl
@[simp] theorem setTrk_encs (s : State) (p : Nat) (v : Trk) : (setTrk p v s).encs = s.encs := rfl
@[simp] theorem setTrk_chns (s : State) (p : Nat) (v : Trk) : (setTrk p v s).chns = s.chns := rfl
@[simp] theorem setTrk_chnOut (s : State) (p : Nat) (v : Trk) : (setTrk p v s).chnOut = s.chnOut := rfl
@[simp] theorem setTrk_gpDrive (s : State) (p : Nat) (v : Trk) : (setTrk p v s).gpDrive = s.gpDrive := rfl
@[simp] theorem setTrk_gpValue (s : State) (p : Nat) (v : Trk) : (setTrk p v s).gpValue = s.gpValue := rfl
@[simp] theorem setTrk_gpQueue (s : State) (p : Nat) (v : Trk) : (setTrk p v s).gpQueue = s.gpQueue := rfl
@[simp] theorem setTrk_queues (s : State) (p : Nat) (v : Trk) : (setTrk p v s).queues = s.queues := rfl
@[simp] theorem setTrk_caps (s : State) (p : Nat) (v : Trk) : (setTrk p v s).caps = s.caps := rfl
@[simp] theorem setTrk_dmds (s : State) (p : Nat) (v : Trk) : (setTrk p v s).dmds = s.dmds := rfl
@[simp] theorem setTrk_adcOn (s : State) (p : Nat) (v : Trk) : (setTrk p v s).adcOn = s.adcOn := rfl
@[simp] theorem setTrk_adcQ (s : State) (p : Nat) (v : Trk) : (setTrk p v s).adcQ = s.adcQ := rfl
@[simp] theorem setTrk_hist (s : State) (p : Nat) (v : Trk) : (setTrk p v s).hist = s.hist := rfl
@[simp] theorem setTrk_lanes (s : State) (p : Nat) (v : Trk) : (setTrk p v s).lanes = s.lanes := rfl
@[simp] theorem setTrk_meas (s : State) (p : Nat) (v : Trk) : (setTrk p v s).meas = s.meas := rfl
@[simp] theorem setTrk_limOut (s : State) (p : Nat) (v : Trk) : (setTrk p v s).limOut = s.limOut := rfl
@[simp] theorem setTrk_faultSum (s : State) (p : Nat) (v : Trk) : (setTrk p v s).faultSum = s.faultSum := rfl
@[simp] theorem setTrk_car (s : State) (p : Nat) (v : Trk) : (setTrk p v s).car = s.car := rfl
@[simp] theorem setTrk_carAsks (s : State) (p : Nat) (v : Trk) : (setTrk p v s).carAsks = s.carAsks := rfl
@[simp] theorem setTrk_panX (s : State) (p : Nat) (v : Trk) : (setTrk p v s).panX = s.panX := rfl
@[simp] theorem setTrk_cal (s : State) (p : Nat) (v : Trk) : (setTrk p v s).cal = s.cal := rfl
@[simp] theorem setTrk_ols (s : State) (p : Nat) (v : Trk) : (setTrk p v s).ols = s.ols := rfl
@[simp] theorem setTrk_ils (s : State) (p : Nat) (v : Trk) : (setTrk p v s).ils = s.ils := rfl
@[simp] theorem setTrk_rkPorts (s : State) (p : Nat) (v : Trk) : (setTrk p v s).rkPorts = s.rkPorts := rfl
@[simp] theorem setTrk_rake (s : State) (p : Nat) (v : Trk) : (setTrk p v s).rake = s.rake := rfl
@[simp] theorem setTrk_clk (s : State) (p : Nat) (v : Trk) : (setTrk p v s).clk = s.clk := rfl
@[simp] theorem setTrk_cup (s : State) (p : Nat) (v : Trk) : (setTrk p v s).cup = s.cup := rfl
@[simp] theorem setTrk_safeAt (s : State) (p : Nat) (v : Trk) : (setTrk p v s).safeAt = s.safeAt := rfl
@[simp] theorem setTrk_asks (s : State) (p : Nat) (v : Trk) : (setTrk p v s).asks = s.asks := rfl
@[simp] theorem setTrk_nvm (s : State) (p : Nat) (v : Trk) : (setTrk p v s).nvm = s.nvm := rfl
@[simp] theorem setTrk_boot (s : State) (p : Nat) (v : Trk) : (setTrk p v s).boot = s.boot := rfl
@[simp] theorem setTrk_recov (s : State) (p : Nat) (v : Trk) : (setTrk p v s).recov = s.recov := rfl
@[simp] theorem setTrk_hst (s : State) (p : Nat) (v : Trk) : (setTrk p v s).hst = s.hst := rfl
@[simp] theorem setTrk_parOdd (s : State) (p : Nat) (v : Trk) : (setTrk p v s).parOdd = s.parOdd := rfl
@[simp] theorem setTrk_parBad (s : State) (p : Nat) (v : Trk) : (setTrk p v s).parBad = s.parBad := rfl
@[simp] theorem setTrk_unitSafe (s : State) (p : Nat) (v : Trk) : (setTrk p v s).unitSafe = s.unitSafe := rfl
@[simp] theorem setTrk_wrote (s : State) (p : Nat) (v : Trk) : (setTrk p v s).wrote = s.wrote := rfl
@[simp] theorem setTrk_snapReq (s : State) (p : Nat) (v : Trk) : (setTrk p v s).snapReq = s.snapReq := rfl
@[simp] theorem setTrk_snapJobs (s : State) (p : Nat) (v : Trk) : (setTrk p v s).snapJobs = s.snapJobs := rfl
@[simp] theorem setTrk_fences (s : State) (p : Nat) (v : Trk) : (setTrk p v s).fences = s.fences := rfl
@[simp] theorem setTrk_segLoads (s : State) (p : Nat) (v : Trk) : (setTrk p v s).segLoads = s.segLoads := rfl
@[simp] theorem setTrk_stepLoads (s : State) (p : Nat) (v : Trk) : (setTrk p v s).stepLoads = s.stepLoads := rfl
@[simp] theorem setTrk_panGrants (s : State) (p : Nat) (v : Trk) : (setTrk p v s).panGrants = s.panGrants := rfl
@[simp] theorem setTrk_rd (s : State) (p : Nat) (v : Trk) (g : Fld) (w : Nat) : (setTrk p v s).rd g w = s.rd g w := rfl
@[simp] theorem setTrk_on (s : State) (p : Nat) (v : Trk) (g : Fld) (w : Nat) : (setTrk p v s).on g w = s.on g w := rfl

@[simp] theorem setOl_pending (s : State) (p : Nat) (v : OLane) : (setOl p v s).pending = s.pending := rfl
@[simp] theorem setOl_cmd (s : State) (p : Nat) (v : OLane) : (setOl p v s).cmd = s.cmd := rfl
@[simp] theorem setOl_flds (s : State) (p : Nat) (v : OLane) : (setOl p v s).flds = s.flds := rfl
@[simp] theorem setOl_wo1 (s : State) (p : Nat) (v : OLane) : (setOl p v s).wo1 = s.wo1 := rfl
@[simp] theorem setOl_freeN (s : State) (p : Nat) (v : OLane) : (setOl p v s).freeN = s.freeN := rfl
@[simp] theorem setOl_carafe (s : State) (p : Nat) (v : OLane) : (setOl p v s).carafe = s.carafe := rfl
@[simp] theorem setOl_pans (s : State) (p : Nat) (v : OLane) : (setOl p v s).pans = s.pans := rfl
@[simp] theorem setOl_evRing (s : State) (p : Nat) (v : OLane) : (setOl p v s).evRing = s.evRing := rfl
@[simp] theorem setOl_fwImg (s : State) (p : Nat) (v : OLane) : (setOl p v s).fwImg = s.fwImg := rfl
@[simp] theorem setOl_audMirror (s : State) (p : Nat) (v : OLane) : (setOl p v s).audMirror = s.audMirror := rfl
@[simp] theorem setOl_logSeq (s : State) (p : Nat) (v : OLane) : (setOl p v s).logSeq = s.logSeq := rfl
@[simp] theorem setOl_logLevel (s : State) (p : Nat) (v : OLane) : (setOl p v s).logLevel = s.logLevel := rfl
@[simp] theorem setOl_logTick (s : State) (p : Nat) (v : OLane) : (setOl p v s).logTick = s.logTick := rfl
@[simp] theorem setOl_rates (s : State) (p : Nat) (v : OLane) : (setOl p v s).rates = s.rates := rfl
@[simp] theorem setOl_msixWait (s : State) (p : Nat) (v : OLane) : (setOl p v s).msixWait = s.msixWait := rfl
@[simp] theorem setOl_msixTab (s : State) (p : Nat) (v : OLane) : (setOl p v s).msixTab = s.msixTab := rfl
@[simp] theorem setOl_out (s : State) (p : Nat) (v : OLane) : (setOl p v s).out = s.out := rfl
@[simp] theorem setOl_wins (s : State) (p : Nat) (v : OLane) : (setOl p v s).wins = s.wins := rfl
@[simp] theorem setOl_pool (s : State) (p : Nat) (v : OLane) : (setOl p v s).pool = s.pool := rfl
@[simp] theorem setOl_jobs (s : State) (p : Nat) (v : OLane) : (setOl p v s).jobs = s.jobs := rfl
@[simp] theorem setOl_nextJob (s : State) (p : Nat) (v : OLane) : (setOl p v s).nextJob = s.nextJob := rfl
@[simp] theorem setOl_heldPkts (s : State) (p : Nat) (v : OLane) : (setOl p v s).heldPkts = s.heldPkts := rfl
@[simp] theorem setOl_rqHead (s : State) (p : Nat) (v : OLane) : (setOl p v s).rqHead = s.rqHead := rfl
@[simp] theorem setOl_rqWait (s : State) (p : Nat) (v : OLane) : (setOl p v s).rqWait = s.rqWait := rfl
@[simp] theorem setOl_opens (s : State) (p : Nat) (v : OLane) : (setOl p v s).opens = s.opens := rfl
@[simp] theorem setOl_staged (s : State) (p : Nat) (v : OLane) : (setOl p v s).staged = s.staged := rfl
@[simp] theorem setOl_segs (s : State) (p : Nat) (v : OLane) : (setOl p v s).segs = s.segs := rfl
@[simp] theorem setOl_badUnits (s : State) (p : Nat) (v : OLane) : (setOl p v s).badUnits = s.badUnits := rfl
@[simp] theorem setOl_badPans (s : State) (p : Nat) (v : OLane) : (setOl p v s).badPans = s.badPans := rfl
@[simp] theorem setOl_plys (s : State) (p : Nat) (v : OLane) : (setOl p v s).plys = s.plys := rfl
@[simp] theorem setOl_trigs (s : State) (p : Nat) (v : OLane) : (setOl p v s).trigs = s.trigs := rfl
@[simp] theorem setOl_seqEvs (s : State) (p : Nat) (v : OLane) : (setOl p v s).seqEvs = s.seqEvs := rfl
@[simp] theorem setOl_rails (s : State) (p : Nat) (v : OLane) : (setOl p v s).rails = s.rails := rfl
@[simp] theorem setOl_chRails (s : State) (p : Nat) (v : OLane) : (setOl p v s).chRails = s.chRails := rfl
@[simp] theorem setOl_tapBits (s : State) (p : Nat) (v : OLane) : (setOl p v s).tapBits = s.tapBits := rfl
@[simp] theorem setOl_encs (s : State) (p : Nat) (v : OLane) : (setOl p v s).encs = s.encs := rfl
@[simp] theorem setOl_trks (s : State) (p : Nat) (v : OLane) : (setOl p v s).trks = s.trks := rfl
@[simp] theorem setOl_chns (s : State) (p : Nat) (v : OLane) : (setOl p v s).chns = s.chns := rfl
@[simp] theorem setOl_chnOut (s : State) (p : Nat) (v : OLane) : (setOl p v s).chnOut = s.chnOut := rfl
@[simp] theorem setOl_gpDrive (s : State) (p : Nat) (v : OLane) : (setOl p v s).gpDrive = s.gpDrive := rfl
@[simp] theorem setOl_gpValue (s : State) (p : Nat) (v : OLane) : (setOl p v s).gpValue = s.gpValue := rfl
@[simp] theorem setOl_gpQueue (s : State) (p : Nat) (v : OLane) : (setOl p v s).gpQueue = s.gpQueue := rfl
@[simp] theorem setOl_queues (s : State) (p : Nat) (v : OLane) : (setOl p v s).queues = s.queues := rfl
@[simp] theorem setOl_caps (s : State) (p : Nat) (v : OLane) : (setOl p v s).caps = s.caps := rfl
@[simp] theorem setOl_dmds (s : State) (p : Nat) (v : OLane) : (setOl p v s).dmds = s.dmds := rfl
@[simp] theorem setOl_adcOn (s : State) (p : Nat) (v : OLane) : (setOl p v s).adcOn = s.adcOn := rfl
@[simp] theorem setOl_adcQ (s : State) (p : Nat) (v : OLane) : (setOl p v s).adcQ = s.adcQ := rfl
@[simp] theorem setOl_hist (s : State) (p : Nat) (v : OLane) : (setOl p v s).hist = s.hist := rfl
@[simp] theorem setOl_lanes (s : State) (p : Nat) (v : OLane) : (setOl p v s).lanes = s.lanes := rfl
@[simp] theorem setOl_meas (s : State) (p : Nat) (v : OLane) : (setOl p v s).meas = s.meas := rfl
@[simp] theorem setOl_limOut (s : State) (p : Nat) (v : OLane) : (setOl p v s).limOut = s.limOut := rfl
@[simp] theorem setOl_faultSum (s : State) (p : Nat) (v : OLane) : (setOl p v s).faultSum = s.faultSum := rfl
@[simp] theorem setOl_car (s : State) (p : Nat) (v : OLane) : (setOl p v s).car = s.car := rfl
@[simp] theorem setOl_carAsks (s : State) (p : Nat) (v : OLane) : (setOl p v s).carAsks = s.carAsks := rfl
@[simp] theorem setOl_panX (s : State) (p : Nat) (v : OLane) : (setOl p v s).panX = s.panX := rfl
@[simp] theorem setOl_cal (s : State) (p : Nat) (v : OLane) : (setOl p v s).cal = s.cal := rfl
@[simp] theorem setOl_ils (s : State) (p : Nat) (v : OLane) : (setOl p v s).ils = s.ils := rfl
@[simp] theorem setOl_rkPorts (s : State) (p : Nat) (v : OLane) : (setOl p v s).rkPorts = s.rkPorts := rfl
@[simp] theorem setOl_rake (s : State) (p : Nat) (v : OLane) : (setOl p v s).rake = s.rake := rfl
@[simp] theorem setOl_clk (s : State) (p : Nat) (v : OLane) : (setOl p v s).clk = s.clk := rfl
@[simp] theorem setOl_cup (s : State) (p : Nat) (v : OLane) : (setOl p v s).cup = s.cup := rfl
@[simp] theorem setOl_safeAt (s : State) (p : Nat) (v : OLane) : (setOl p v s).safeAt = s.safeAt := rfl
@[simp] theorem setOl_asks (s : State) (p : Nat) (v : OLane) : (setOl p v s).asks = s.asks := rfl
@[simp] theorem setOl_nvm (s : State) (p : Nat) (v : OLane) : (setOl p v s).nvm = s.nvm := rfl
@[simp] theorem setOl_boot (s : State) (p : Nat) (v : OLane) : (setOl p v s).boot = s.boot := rfl
@[simp] theorem setOl_recov (s : State) (p : Nat) (v : OLane) : (setOl p v s).recov = s.recov := rfl
@[simp] theorem setOl_hst (s : State) (p : Nat) (v : OLane) : (setOl p v s).hst = s.hst := rfl
@[simp] theorem setOl_parOdd (s : State) (p : Nat) (v : OLane) : (setOl p v s).parOdd = s.parOdd := rfl
@[simp] theorem setOl_parBad (s : State) (p : Nat) (v : OLane) : (setOl p v s).parBad = s.parBad := rfl
@[simp] theorem setOl_unitSafe (s : State) (p : Nat) (v : OLane) : (setOl p v s).unitSafe = s.unitSafe := rfl
@[simp] theorem setOl_wrote (s : State) (p : Nat) (v : OLane) : (setOl p v s).wrote = s.wrote := rfl
@[simp] theorem setOl_snapReq (s : State) (p : Nat) (v : OLane) : (setOl p v s).snapReq = s.snapReq := rfl
@[simp] theorem setOl_snapJobs (s : State) (p : Nat) (v : OLane) : (setOl p v s).snapJobs = s.snapJobs := rfl
@[simp] theorem setOl_fences (s : State) (p : Nat) (v : OLane) : (setOl p v s).fences = s.fences := rfl
@[simp] theorem setOl_segLoads (s : State) (p : Nat) (v : OLane) : (setOl p v s).segLoads = s.segLoads := rfl
@[simp] theorem setOl_stepLoads (s : State) (p : Nat) (v : OLane) : (setOl p v s).stepLoads = s.stepLoads := rfl
@[simp] theorem setOl_panGrants (s : State) (p : Nat) (v : OLane) : (setOl p v s).panGrants = s.panGrants := rfl
@[simp] theorem setOl_rd (s : State) (p : Nat) (v : OLane) (g : Fld) (w : Nat) : (setOl p v s).rd g w = s.rd g w := rfl
@[simp] theorem setOl_on (s : State) (p : Nat) (v : OLane) (g : Fld) (w : Nat) : (setOl p v s).on g w = s.on g w := rfl

@[simp] theorem setIl_pending (s : State) (p : Nat) (v : ILane) : (setIl p v s).pending = s.pending := rfl
@[simp] theorem setIl_cmd (s : State) (p : Nat) (v : ILane) : (setIl p v s).cmd = s.cmd := rfl
@[simp] theorem setIl_flds (s : State) (p : Nat) (v : ILane) : (setIl p v s).flds = s.flds := rfl
@[simp] theorem setIl_wo1 (s : State) (p : Nat) (v : ILane) : (setIl p v s).wo1 = s.wo1 := rfl
@[simp] theorem setIl_freeN (s : State) (p : Nat) (v : ILane) : (setIl p v s).freeN = s.freeN := rfl
@[simp] theorem setIl_carafe (s : State) (p : Nat) (v : ILane) : (setIl p v s).carafe = s.carafe := rfl
@[simp] theorem setIl_pans (s : State) (p : Nat) (v : ILane) : (setIl p v s).pans = s.pans := rfl
@[simp] theorem setIl_evRing (s : State) (p : Nat) (v : ILane) : (setIl p v s).evRing = s.evRing := rfl
@[simp] theorem setIl_fwImg (s : State) (p : Nat) (v : ILane) : (setIl p v s).fwImg = s.fwImg := rfl
@[simp] theorem setIl_audMirror (s : State) (p : Nat) (v : ILane) : (setIl p v s).audMirror = s.audMirror := rfl
@[simp] theorem setIl_logSeq (s : State) (p : Nat) (v : ILane) : (setIl p v s).logSeq = s.logSeq := rfl
@[simp] theorem setIl_logLevel (s : State) (p : Nat) (v : ILane) : (setIl p v s).logLevel = s.logLevel := rfl
@[simp] theorem setIl_logTick (s : State) (p : Nat) (v : ILane) : (setIl p v s).logTick = s.logTick := rfl
@[simp] theorem setIl_rates (s : State) (p : Nat) (v : ILane) : (setIl p v s).rates = s.rates := rfl
@[simp] theorem setIl_msixWait (s : State) (p : Nat) (v : ILane) : (setIl p v s).msixWait = s.msixWait := rfl
@[simp] theorem setIl_msixTab (s : State) (p : Nat) (v : ILane) : (setIl p v s).msixTab = s.msixTab := rfl
@[simp] theorem setIl_out (s : State) (p : Nat) (v : ILane) : (setIl p v s).out = s.out := rfl
@[simp] theorem setIl_wins (s : State) (p : Nat) (v : ILane) : (setIl p v s).wins = s.wins := rfl
@[simp] theorem setIl_pool (s : State) (p : Nat) (v : ILane) : (setIl p v s).pool = s.pool := rfl
@[simp] theorem setIl_jobs (s : State) (p : Nat) (v : ILane) : (setIl p v s).jobs = s.jobs := rfl
@[simp] theorem setIl_nextJob (s : State) (p : Nat) (v : ILane) : (setIl p v s).nextJob = s.nextJob := rfl
@[simp] theorem setIl_heldPkts (s : State) (p : Nat) (v : ILane) : (setIl p v s).heldPkts = s.heldPkts := rfl
@[simp] theorem setIl_rqHead (s : State) (p : Nat) (v : ILane) : (setIl p v s).rqHead = s.rqHead := rfl
@[simp] theorem setIl_rqWait (s : State) (p : Nat) (v : ILane) : (setIl p v s).rqWait = s.rqWait := rfl
@[simp] theorem setIl_opens (s : State) (p : Nat) (v : ILane) : (setIl p v s).opens = s.opens := rfl
@[simp] theorem setIl_staged (s : State) (p : Nat) (v : ILane) : (setIl p v s).staged = s.staged := rfl
@[simp] theorem setIl_segs (s : State) (p : Nat) (v : ILane) : (setIl p v s).segs = s.segs := rfl
@[simp] theorem setIl_badUnits (s : State) (p : Nat) (v : ILane) : (setIl p v s).badUnits = s.badUnits := rfl
@[simp] theorem setIl_badPans (s : State) (p : Nat) (v : ILane) : (setIl p v s).badPans = s.badPans := rfl
@[simp] theorem setIl_plys (s : State) (p : Nat) (v : ILane) : (setIl p v s).plys = s.plys := rfl
@[simp] theorem setIl_trigs (s : State) (p : Nat) (v : ILane) : (setIl p v s).trigs = s.trigs := rfl
@[simp] theorem setIl_seqEvs (s : State) (p : Nat) (v : ILane) : (setIl p v s).seqEvs = s.seqEvs := rfl
@[simp] theorem setIl_rails (s : State) (p : Nat) (v : ILane) : (setIl p v s).rails = s.rails := rfl
@[simp] theorem setIl_chRails (s : State) (p : Nat) (v : ILane) : (setIl p v s).chRails = s.chRails := rfl
@[simp] theorem setIl_tapBits (s : State) (p : Nat) (v : ILane) : (setIl p v s).tapBits = s.tapBits := rfl
@[simp] theorem setIl_encs (s : State) (p : Nat) (v : ILane) : (setIl p v s).encs = s.encs := rfl
@[simp] theorem setIl_trks (s : State) (p : Nat) (v : ILane) : (setIl p v s).trks = s.trks := rfl
@[simp] theorem setIl_chns (s : State) (p : Nat) (v : ILane) : (setIl p v s).chns = s.chns := rfl
@[simp] theorem setIl_chnOut (s : State) (p : Nat) (v : ILane) : (setIl p v s).chnOut = s.chnOut := rfl
@[simp] theorem setIl_gpDrive (s : State) (p : Nat) (v : ILane) : (setIl p v s).gpDrive = s.gpDrive := rfl
@[simp] theorem setIl_gpValue (s : State) (p : Nat) (v : ILane) : (setIl p v s).gpValue = s.gpValue := rfl
@[simp] theorem setIl_gpQueue (s : State) (p : Nat) (v : ILane) : (setIl p v s).gpQueue = s.gpQueue := rfl
@[simp] theorem setIl_queues (s : State) (p : Nat) (v : ILane) : (setIl p v s).queues = s.queues := rfl
@[simp] theorem setIl_caps (s : State) (p : Nat) (v : ILane) : (setIl p v s).caps = s.caps := rfl
@[simp] theorem setIl_dmds (s : State) (p : Nat) (v : ILane) : (setIl p v s).dmds = s.dmds := rfl
@[simp] theorem setIl_adcOn (s : State) (p : Nat) (v : ILane) : (setIl p v s).adcOn = s.adcOn := rfl
@[simp] theorem setIl_adcQ (s : State) (p : Nat) (v : ILane) : (setIl p v s).adcQ = s.adcQ := rfl
@[simp] theorem setIl_hist (s : State) (p : Nat) (v : ILane) : (setIl p v s).hist = s.hist := rfl
@[simp] theorem setIl_lanes (s : State) (p : Nat) (v : ILane) : (setIl p v s).lanes = s.lanes := rfl
@[simp] theorem setIl_meas (s : State) (p : Nat) (v : ILane) : (setIl p v s).meas = s.meas := rfl
@[simp] theorem setIl_limOut (s : State) (p : Nat) (v : ILane) : (setIl p v s).limOut = s.limOut := rfl
@[simp] theorem setIl_faultSum (s : State) (p : Nat) (v : ILane) : (setIl p v s).faultSum = s.faultSum := rfl
@[simp] theorem setIl_car (s : State) (p : Nat) (v : ILane) : (setIl p v s).car = s.car := rfl
@[simp] theorem setIl_carAsks (s : State) (p : Nat) (v : ILane) : (setIl p v s).carAsks = s.carAsks := rfl
@[simp] theorem setIl_panX (s : State) (p : Nat) (v : ILane) : (setIl p v s).panX = s.panX := rfl
@[simp] theorem setIl_cal (s : State) (p : Nat) (v : ILane) : (setIl p v s).cal = s.cal := rfl
@[simp] theorem setIl_ols (s : State) (p : Nat) (v : ILane) : (setIl p v s).ols = s.ols := rfl
@[simp] theorem setIl_rkPorts (s : State) (p : Nat) (v : ILane) : (setIl p v s).rkPorts = s.rkPorts := rfl
@[simp] theorem setIl_rake (s : State) (p : Nat) (v : ILane) : (setIl p v s).rake = s.rake := rfl
@[simp] theorem setIl_clk (s : State) (p : Nat) (v : ILane) : (setIl p v s).clk = s.clk := rfl
@[simp] theorem setIl_cup (s : State) (p : Nat) (v : ILane) : (setIl p v s).cup = s.cup := rfl
@[simp] theorem setIl_safeAt (s : State) (p : Nat) (v : ILane) : (setIl p v s).safeAt = s.safeAt := rfl
@[simp] theorem setIl_asks (s : State) (p : Nat) (v : ILane) : (setIl p v s).asks = s.asks := rfl
@[simp] theorem setIl_nvm (s : State) (p : Nat) (v : ILane) : (setIl p v s).nvm = s.nvm := rfl
@[simp] theorem setIl_boot (s : State) (p : Nat) (v : ILane) : (setIl p v s).boot = s.boot := rfl
@[simp] theorem setIl_recov (s : State) (p : Nat) (v : ILane) : (setIl p v s).recov = s.recov := rfl
@[simp] theorem setIl_hst (s : State) (p : Nat) (v : ILane) : (setIl p v s).hst = s.hst := rfl
@[simp] theorem setIl_parOdd (s : State) (p : Nat) (v : ILane) : (setIl p v s).parOdd = s.parOdd := rfl
@[simp] theorem setIl_parBad (s : State) (p : Nat) (v : ILane) : (setIl p v s).parBad = s.parBad := rfl
@[simp] theorem setIl_unitSafe (s : State) (p : Nat) (v : ILane) : (setIl p v s).unitSafe = s.unitSafe := rfl
@[simp] theorem setIl_wrote (s : State) (p : Nat) (v : ILane) : (setIl p v s).wrote = s.wrote := rfl
@[simp] theorem setIl_snapReq (s : State) (p : Nat) (v : ILane) : (setIl p v s).snapReq = s.snapReq := rfl
@[simp] theorem setIl_snapJobs (s : State) (p : Nat) (v : ILane) : (setIl p v s).snapJobs = s.snapJobs := rfl
@[simp] theorem setIl_fences (s : State) (p : Nat) (v : ILane) : (setIl p v s).fences = s.fences := rfl
@[simp] theorem setIl_segLoads (s : State) (p : Nat) (v : ILane) : (setIl p v s).segLoads = s.segLoads := rfl
@[simp] theorem setIl_stepLoads (s : State) (p : Nat) (v : ILane) : (setIl p v s).stepLoads = s.stepLoads := rfl
@[simp] theorem setIl_panGrants (s : State) (p : Nat) (v : ILane) : (setIl p v s).panGrants = s.panGrants := rfl
@[simp] theorem setIl_rd (s : State) (p : Nat) (v : ILane) (g : Fld) (w : Nat) : (setIl p v s).rd g w = s.rd g w := rfl
@[simp] theorem setIl_on (s : State) (p : Nat) (v : ILane) (g : Fld) (w : Nat) : (setIl p v s).on g w = s.on g w := rfl

@[simp] theorem setPort_pending (s : State) (p : Nat) (v : RkPort) : (setPort p v s).pending = s.pending := rfl
@[simp] theorem setPort_cmd (s : State) (p : Nat) (v : RkPort) : (setPort p v s).cmd = s.cmd := rfl
@[simp] theorem setPort_flds (s : State) (p : Nat) (v : RkPort) : (setPort p v s).flds = s.flds := rfl
@[simp] theorem setPort_wo1 (s : State) (p : Nat) (v : RkPort) : (setPort p v s).wo1 = s.wo1 := rfl
@[simp] theorem setPort_freeN (s : State) (p : Nat) (v : RkPort) : (setPort p v s).freeN = s.freeN := rfl
@[simp] theorem setPort_carafe (s : State) (p : Nat) (v : RkPort) : (setPort p v s).carafe = s.carafe := rfl
@[simp] theorem setPort_pans (s : State) (p : Nat) (v : RkPort) : (setPort p v s).pans = s.pans := rfl
@[simp] theorem setPort_evRing (s : State) (p : Nat) (v : RkPort) : (setPort p v s).evRing = s.evRing := rfl
@[simp] theorem setPort_fwImg (s : State) (p : Nat) (v : RkPort) : (setPort p v s).fwImg = s.fwImg := rfl
@[simp] theorem setPort_audMirror (s : State) (p : Nat) (v : RkPort) : (setPort p v s).audMirror = s.audMirror := rfl
@[simp] theorem setPort_logSeq (s : State) (p : Nat) (v : RkPort) : (setPort p v s).logSeq = s.logSeq := rfl
@[simp] theorem setPort_logLevel (s : State) (p : Nat) (v : RkPort) : (setPort p v s).logLevel = s.logLevel := rfl
@[simp] theorem setPort_logTick (s : State) (p : Nat) (v : RkPort) : (setPort p v s).logTick = s.logTick := rfl
@[simp] theorem setPort_rates (s : State) (p : Nat) (v : RkPort) : (setPort p v s).rates = s.rates := rfl
@[simp] theorem setPort_msixWait (s : State) (p : Nat) (v : RkPort) : (setPort p v s).msixWait = s.msixWait := rfl
@[simp] theorem setPort_msixTab (s : State) (p : Nat) (v : RkPort) : (setPort p v s).msixTab = s.msixTab := rfl
@[simp] theorem setPort_out (s : State) (p : Nat) (v : RkPort) : (setPort p v s).out = s.out := rfl
@[simp] theorem setPort_wins (s : State) (p : Nat) (v : RkPort) : (setPort p v s).wins = s.wins := rfl
@[simp] theorem setPort_pool (s : State) (p : Nat) (v : RkPort) : (setPort p v s).pool = s.pool := rfl
@[simp] theorem setPort_jobs (s : State) (p : Nat) (v : RkPort) : (setPort p v s).jobs = s.jobs := rfl
@[simp] theorem setPort_nextJob (s : State) (p : Nat) (v : RkPort) : (setPort p v s).nextJob = s.nextJob := rfl
@[simp] theorem setPort_heldPkts (s : State) (p : Nat) (v : RkPort) : (setPort p v s).heldPkts = s.heldPkts := rfl
@[simp] theorem setPort_rqHead (s : State) (p : Nat) (v : RkPort) : (setPort p v s).rqHead = s.rqHead := rfl
@[simp] theorem setPort_rqWait (s : State) (p : Nat) (v : RkPort) : (setPort p v s).rqWait = s.rqWait := rfl
@[simp] theorem setPort_opens (s : State) (p : Nat) (v : RkPort) : (setPort p v s).opens = s.opens := rfl
@[simp] theorem setPort_staged (s : State) (p : Nat) (v : RkPort) : (setPort p v s).staged = s.staged := rfl
@[simp] theorem setPort_segs (s : State) (p : Nat) (v : RkPort) : (setPort p v s).segs = s.segs := rfl
@[simp] theorem setPort_badUnits (s : State) (p : Nat) (v : RkPort) : (setPort p v s).badUnits = s.badUnits := rfl
@[simp] theorem setPort_badPans (s : State) (p : Nat) (v : RkPort) : (setPort p v s).badPans = s.badPans := rfl
@[simp] theorem setPort_plys (s : State) (p : Nat) (v : RkPort) : (setPort p v s).plys = s.plys := rfl
@[simp] theorem setPort_trigs (s : State) (p : Nat) (v : RkPort) : (setPort p v s).trigs = s.trigs := rfl
@[simp] theorem setPort_seqEvs (s : State) (p : Nat) (v : RkPort) : (setPort p v s).seqEvs = s.seqEvs := rfl
@[simp] theorem setPort_rails (s : State) (p : Nat) (v : RkPort) : (setPort p v s).rails = s.rails := rfl
@[simp] theorem setPort_chRails (s : State) (p : Nat) (v : RkPort) : (setPort p v s).chRails = s.chRails := rfl
@[simp] theorem setPort_tapBits (s : State) (p : Nat) (v : RkPort) : (setPort p v s).tapBits = s.tapBits := rfl
@[simp] theorem setPort_encs (s : State) (p : Nat) (v : RkPort) : (setPort p v s).encs = s.encs := rfl
@[simp] theorem setPort_trks (s : State) (p : Nat) (v : RkPort) : (setPort p v s).trks = s.trks := rfl
@[simp] theorem setPort_chns (s : State) (p : Nat) (v : RkPort) : (setPort p v s).chns = s.chns := rfl
@[simp] theorem setPort_chnOut (s : State) (p : Nat) (v : RkPort) : (setPort p v s).chnOut = s.chnOut := rfl
@[simp] theorem setPort_gpDrive (s : State) (p : Nat) (v : RkPort) : (setPort p v s).gpDrive = s.gpDrive := rfl
@[simp] theorem setPort_gpValue (s : State) (p : Nat) (v : RkPort) : (setPort p v s).gpValue = s.gpValue := rfl
@[simp] theorem setPort_gpQueue (s : State) (p : Nat) (v : RkPort) : (setPort p v s).gpQueue = s.gpQueue := rfl
@[simp] theorem setPort_queues (s : State) (p : Nat) (v : RkPort) : (setPort p v s).queues = s.queues := rfl
@[simp] theorem setPort_caps (s : State) (p : Nat) (v : RkPort) : (setPort p v s).caps = s.caps := rfl
@[simp] theorem setPort_dmds (s : State) (p : Nat) (v : RkPort) : (setPort p v s).dmds = s.dmds := rfl
@[simp] theorem setPort_adcOn (s : State) (p : Nat) (v : RkPort) : (setPort p v s).adcOn = s.adcOn := rfl
@[simp] theorem setPort_adcQ (s : State) (p : Nat) (v : RkPort) : (setPort p v s).adcQ = s.adcQ := rfl
@[simp] theorem setPort_hist (s : State) (p : Nat) (v : RkPort) : (setPort p v s).hist = s.hist := rfl
@[simp] theorem setPort_lanes (s : State) (p : Nat) (v : RkPort) : (setPort p v s).lanes = s.lanes := rfl
@[simp] theorem setPort_meas (s : State) (p : Nat) (v : RkPort) : (setPort p v s).meas = s.meas := rfl
@[simp] theorem setPort_limOut (s : State) (p : Nat) (v : RkPort) : (setPort p v s).limOut = s.limOut := rfl
@[simp] theorem setPort_faultSum (s : State) (p : Nat) (v : RkPort) : (setPort p v s).faultSum = s.faultSum := rfl
@[simp] theorem setPort_car (s : State) (p : Nat) (v : RkPort) : (setPort p v s).car = s.car := rfl
@[simp] theorem setPort_carAsks (s : State) (p : Nat) (v : RkPort) : (setPort p v s).carAsks = s.carAsks := rfl
@[simp] theorem setPort_panX (s : State) (p : Nat) (v : RkPort) : (setPort p v s).panX = s.panX := rfl
@[simp] theorem setPort_cal (s : State) (p : Nat) (v : RkPort) : (setPort p v s).cal = s.cal := rfl
@[simp] theorem setPort_ols (s : State) (p : Nat) (v : RkPort) : (setPort p v s).ols = s.ols := rfl
@[simp] theorem setPort_ils (s : State) (p : Nat) (v : RkPort) : (setPort p v s).ils = s.ils := rfl
@[simp] theorem setPort_rake (s : State) (p : Nat) (v : RkPort) : (setPort p v s).rake = s.rake := rfl
@[simp] theorem setPort_clk (s : State) (p : Nat) (v : RkPort) : (setPort p v s).clk = s.clk := rfl
@[simp] theorem setPort_cup (s : State) (p : Nat) (v : RkPort) : (setPort p v s).cup = s.cup := rfl
@[simp] theorem setPort_safeAt (s : State) (p : Nat) (v : RkPort) : (setPort p v s).safeAt = s.safeAt := rfl
@[simp] theorem setPort_asks (s : State) (p : Nat) (v : RkPort) : (setPort p v s).asks = s.asks := rfl
@[simp] theorem setPort_nvm (s : State) (p : Nat) (v : RkPort) : (setPort p v s).nvm = s.nvm := rfl
@[simp] theorem setPort_boot (s : State) (p : Nat) (v : RkPort) : (setPort p v s).boot = s.boot := rfl
@[simp] theorem setPort_recov (s : State) (p : Nat) (v : RkPort) : (setPort p v s).recov = s.recov := rfl
@[simp] theorem setPort_hst (s : State) (p : Nat) (v : RkPort) : (setPort p v s).hst = s.hst := rfl
@[simp] theorem setPort_parOdd (s : State) (p : Nat) (v : RkPort) : (setPort p v s).parOdd = s.parOdd := rfl
@[simp] theorem setPort_parBad (s : State) (p : Nat) (v : RkPort) : (setPort p v s).parBad = s.parBad := rfl
@[simp] theorem setPort_unitSafe (s : State) (p : Nat) (v : RkPort) : (setPort p v s).unitSafe = s.unitSafe := rfl
@[simp] theorem setPort_wrote (s : State) (p : Nat) (v : RkPort) : (setPort p v s).wrote = s.wrote := rfl
@[simp] theorem setPort_snapReq (s : State) (p : Nat) (v : RkPort) : (setPort p v s).snapReq = s.snapReq := rfl
@[simp] theorem setPort_snapJobs (s : State) (p : Nat) (v : RkPort) : (setPort p v s).snapJobs = s.snapJobs := rfl
@[simp] theorem setPort_fences (s : State) (p : Nat) (v : RkPort) : (setPort p v s).fences = s.fences := rfl
@[simp] theorem setPort_segLoads (s : State) (p : Nat) (v : RkPort) : (setPort p v s).segLoads = s.segLoads := rfl
@[simp] theorem setPort_stepLoads (s : State) (p : Nat) (v : RkPort) : (setPort p v s).stepLoads = s.stepLoads := rfl
@[simp] theorem setPort_panGrants (s : State) (p : Nat) (v : RkPort) : (setPort p v s).panGrants = s.panGrants := rfl
@[simp] theorem setPort_rd (s : State) (p : Nat) (v : RkPort) (g : Fld) (w : Nat) : (setPort p v s).rd g w = s.rd g w := rfl
@[simp] theorem setPort_on (s : State) (p : Nat) (v : RkPort) (g : Fld) (w : Nat) : (setPort p v s).on g w = s.on g w := rfl

@[simp] theorem setRake_pending (s : State) (k : Rake → Rake) : (setRake k s).pending = s.pending := rfl
@[simp] theorem setRake_cmd (s : State) (k : Rake → Rake) : (setRake k s).cmd = s.cmd := rfl
@[simp] theorem setRake_flds (s : State) (k : Rake → Rake) : (setRake k s).flds = s.flds := rfl
@[simp] theorem setRake_wo1 (s : State) (k : Rake → Rake) : (setRake k s).wo1 = s.wo1 := rfl
@[simp] theorem setRake_freeN (s : State) (k : Rake → Rake) : (setRake k s).freeN = s.freeN := rfl
@[simp] theorem setRake_carafe (s : State) (k : Rake → Rake) : (setRake k s).carafe = s.carafe := rfl
@[simp] theorem setRake_pans (s : State) (k : Rake → Rake) : (setRake k s).pans = s.pans := rfl
@[simp] theorem setRake_evRing (s : State) (k : Rake → Rake) : (setRake k s).evRing = s.evRing := rfl
@[simp] theorem setRake_fwImg (s : State) (k : Rake → Rake) : (setRake k s).fwImg = s.fwImg := rfl
@[simp] theorem setRake_audMirror (s : State) (k : Rake → Rake) : (setRake k s).audMirror = s.audMirror := rfl
@[simp] theorem setRake_logSeq (s : State) (k : Rake → Rake) : (setRake k s).logSeq = s.logSeq := rfl
@[simp] theorem setRake_logLevel (s : State) (k : Rake → Rake) : (setRake k s).logLevel = s.logLevel := rfl
@[simp] theorem setRake_logTick (s : State) (k : Rake → Rake) : (setRake k s).logTick = s.logTick := rfl
@[simp] theorem setRake_rates (s : State) (k : Rake → Rake) : (setRake k s).rates = s.rates := rfl
@[simp] theorem setRake_msixWait (s : State) (k : Rake → Rake) : (setRake k s).msixWait = s.msixWait := rfl
@[simp] theorem setRake_msixTab (s : State) (k : Rake → Rake) : (setRake k s).msixTab = s.msixTab := rfl
@[simp] theorem setRake_out (s : State) (k : Rake → Rake) : (setRake k s).out = s.out := rfl
@[simp] theorem setRake_wins (s : State) (k : Rake → Rake) : (setRake k s).wins = s.wins := rfl
@[simp] theorem setRake_pool (s : State) (k : Rake → Rake) : (setRake k s).pool = s.pool := rfl
@[simp] theorem setRake_jobs (s : State) (k : Rake → Rake) : (setRake k s).jobs = s.jobs := rfl
@[simp] theorem setRake_nextJob (s : State) (k : Rake → Rake) : (setRake k s).nextJob = s.nextJob := rfl
@[simp] theorem setRake_heldPkts (s : State) (k : Rake → Rake) : (setRake k s).heldPkts = s.heldPkts := rfl
@[simp] theorem setRake_rqHead (s : State) (k : Rake → Rake) : (setRake k s).rqHead = s.rqHead := rfl
@[simp] theorem setRake_rqWait (s : State) (k : Rake → Rake) : (setRake k s).rqWait = s.rqWait := rfl
@[simp] theorem setRake_opens (s : State) (k : Rake → Rake) : (setRake k s).opens = s.opens := rfl
@[simp] theorem setRake_staged (s : State) (k : Rake → Rake) : (setRake k s).staged = s.staged := rfl
@[simp] theorem setRake_segs (s : State) (k : Rake → Rake) : (setRake k s).segs = s.segs := rfl
@[simp] theorem setRake_badUnits (s : State) (k : Rake → Rake) : (setRake k s).badUnits = s.badUnits := rfl
@[simp] theorem setRake_badPans (s : State) (k : Rake → Rake) : (setRake k s).badPans = s.badPans := rfl
@[simp] theorem setRake_plys (s : State) (k : Rake → Rake) : (setRake k s).plys = s.plys := rfl
@[simp] theorem setRake_trigs (s : State) (k : Rake → Rake) : (setRake k s).trigs = s.trigs := rfl
@[simp] theorem setRake_seqEvs (s : State) (k : Rake → Rake) : (setRake k s).seqEvs = s.seqEvs := rfl
@[simp] theorem setRake_rails (s : State) (k : Rake → Rake) : (setRake k s).rails = s.rails := rfl
@[simp] theorem setRake_chRails (s : State) (k : Rake → Rake) : (setRake k s).chRails = s.chRails := rfl
@[simp] theorem setRake_tapBits (s : State) (k : Rake → Rake) : (setRake k s).tapBits = s.tapBits := rfl
@[simp] theorem setRake_encs (s : State) (k : Rake → Rake) : (setRake k s).encs = s.encs := rfl
@[simp] theorem setRake_trks (s : State) (k : Rake → Rake) : (setRake k s).trks = s.trks := rfl
@[simp] theorem setRake_chns (s : State) (k : Rake → Rake) : (setRake k s).chns = s.chns := rfl
@[simp] theorem setRake_chnOut (s : State) (k : Rake → Rake) : (setRake k s).chnOut = s.chnOut := rfl
@[simp] theorem setRake_gpDrive (s : State) (k : Rake → Rake) : (setRake k s).gpDrive = s.gpDrive := rfl
@[simp] theorem setRake_gpValue (s : State) (k : Rake → Rake) : (setRake k s).gpValue = s.gpValue := rfl
@[simp] theorem setRake_gpQueue (s : State) (k : Rake → Rake) : (setRake k s).gpQueue = s.gpQueue := rfl
@[simp] theorem setRake_queues (s : State) (k : Rake → Rake) : (setRake k s).queues = s.queues := rfl
@[simp] theorem setRake_caps (s : State) (k : Rake → Rake) : (setRake k s).caps = s.caps := rfl
@[simp] theorem setRake_dmds (s : State) (k : Rake → Rake) : (setRake k s).dmds = s.dmds := rfl
@[simp] theorem setRake_adcOn (s : State) (k : Rake → Rake) : (setRake k s).adcOn = s.adcOn := rfl
@[simp] theorem setRake_adcQ (s : State) (k : Rake → Rake) : (setRake k s).adcQ = s.adcQ := rfl
@[simp] theorem setRake_hist (s : State) (k : Rake → Rake) : (setRake k s).hist = s.hist := rfl
@[simp] theorem setRake_lanes (s : State) (k : Rake → Rake) : (setRake k s).lanes = s.lanes := rfl
@[simp] theorem setRake_meas (s : State) (k : Rake → Rake) : (setRake k s).meas = s.meas := rfl
@[simp] theorem setRake_limOut (s : State) (k : Rake → Rake) : (setRake k s).limOut = s.limOut := rfl
@[simp] theorem setRake_faultSum (s : State) (k : Rake → Rake) : (setRake k s).faultSum = s.faultSum := rfl
@[simp] theorem setRake_car (s : State) (k : Rake → Rake) : (setRake k s).car = s.car := rfl
@[simp] theorem setRake_carAsks (s : State) (k : Rake → Rake) : (setRake k s).carAsks = s.carAsks := rfl
@[simp] theorem setRake_panX (s : State) (k : Rake → Rake) : (setRake k s).panX = s.panX := rfl
@[simp] theorem setRake_cal (s : State) (k : Rake → Rake) : (setRake k s).cal = s.cal := rfl
@[simp] theorem setRake_ols (s : State) (k : Rake → Rake) : (setRake k s).ols = s.ols := rfl
@[simp] theorem setRake_ils (s : State) (k : Rake → Rake) : (setRake k s).ils = s.ils := rfl
@[simp] theorem setRake_rkPorts (s : State) (k : Rake → Rake) : (setRake k s).rkPorts = s.rkPorts := rfl
@[simp] theorem setRake_clk (s : State) (k : Rake → Rake) : (setRake k s).clk = s.clk := rfl
@[simp] theorem setRake_cup (s : State) (k : Rake → Rake) : (setRake k s).cup = s.cup := rfl
@[simp] theorem setRake_safeAt (s : State) (k : Rake → Rake) : (setRake k s).safeAt = s.safeAt := rfl
@[simp] theorem setRake_asks (s : State) (k : Rake → Rake) : (setRake k s).asks = s.asks := rfl
@[simp] theorem setRake_nvm (s : State) (k : Rake → Rake) : (setRake k s).nvm = s.nvm := rfl
@[simp] theorem setRake_boot (s : State) (k : Rake → Rake) : (setRake k s).boot = s.boot := rfl
@[simp] theorem setRake_recov (s : State) (k : Rake → Rake) : (setRake k s).recov = s.recov := rfl
@[simp] theorem setRake_hst (s : State) (k : Rake → Rake) : (setRake k s).hst = s.hst := rfl
@[simp] theorem setRake_parOdd (s : State) (k : Rake → Rake) : (setRake k s).parOdd = s.parOdd := rfl
@[simp] theorem setRake_parBad (s : State) (k : Rake → Rake) : (setRake k s).parBad = s.parBad := rfl
@[simp] theorem setRake_unitSafe (s : State) (k : Rake → Rake) : (setRake k s).unitSafe = s.unitSafe := rfl
@[simp] theorem setRake_wrote (s : State) (k : Rake → Rake) : (setRake k s).wrote = s.wrote := rfl
@[simp] theorem setRake_snapReq (s : State) (k : Rake → Rake) : (setRake k s).snapReq = s.snapReq := rfl
@[simp] theorem setRake_snapJobs (s : State) (k : Rake → Rake) : (setRake k s).snapJobs = s.snapJobs := rfl
@[simp] theorem setRake_fences (s : State) (k : Rake → Rake) : (setRake k s).fences = s.fences := rfl
@[simp] theorem setRake_segLoads (s : State) (k : Rake → Rake) : (setRake k s).segLoads = s.segLoads := rfl
@[simp] theorem setRake_stepLoads (s : State) (k : Rake → Rake) : (setRake k s).stepLoads = s.stepLoads := rfl
@[simp] theorem setRake_panGrants (s : State) (k : Rake → Rake) : (setRake k s).panGrants = s.panGrants := rfl
@[simp] theorem setRake_rd (s : State) (k : Rake → Rake) (g : Fld) (w : Nat) : (setRake k s).rd g w = s.rd g w := rfl
@[simp] theorem setRake_on (s : State) (k : Rake → Rake) (g : Fld) (w : Nat) : (setRake k s).on g w = s.on g w := rfl

@[simp] theorem setHst_pending (s : State) (k : Hst → Hst) : (setHst k s).pending = s.pending := rfl
@[simp] theorem setHst_cmd (s : State) (k : Hst → Hst) : (setHst k s).cmd = s.cmd := rfl
@[simp] theorem setHst_flds (s : State) (k : Hst → Hst) : (setHst k s).flds = s.flds := rfl
@[simp] theorem setHst_wo1 (s : State) (k : Hst → Hst) : (setHst k s).wo1 = s.wo1 := rfl
@[simp] theorem setHst_freeN (s : State) (k : Hst → Hst) : (setHst k s).freeN = s.freeN := rfl
@[simp] theorem setHst_carafe (s : State) (k : Hst → Hst) : (setHst k s).carafe = s.carafe := rfl
@[simp] theorem setHst_pans (s : State) (k : Hst → Hst) : (setHst k s).pans = s.pans := rfl
@[simp] theorem setHst_evRing (s : State) (k : Hst → Hst) : (setHst k s).evRing = s.evRing := rfl
@[simp] theorem setHst_fwImg (s : State) (k : Hst → Hst) : (setHst k s).fwImg = s.fwImg := rfl
@[simp] theorem setHst_audMirror (s : State) (k : Hst → Hst) : (setHst k s).audMirror = s.audMirror := rfl
@[simp] theorem setHst_logSeq (s : State) (k : Hst → Hst) : (setHst k s).logSeq = s.logSeq := rfl
@[simp] theorem setHst_logLevel (s : State) (k : Hst → Hst) : (setHst k s).logLevel = s.logLevel := rfl
@[simp] theorem setHst_logTick (s : State) (k : Hst → Hst) : (setHst k s).logTick = s.logTick := rfl
@[simp] theorem setHst_rates (s : State) (k : Hst → Hst) : (setHst k s).rates = s.rates := rfl
@[simp] theorem setHst_msixWait (s : State) (k : Hst → Hst) : (setHst k s).msixWait = s.msixWait := rfl
@[simp] theorem setHst_msixTab (s : State) (k : Hst → Hst) : (setHst k s).msixTab = s.msixTab := rfl
@[simp] theorem setHst_out (s : State) (k : Hst → Hst) : (setHst k s).out = s.out := rfl
@[simp] theorem setHst_wins (s : State) (k : Hst → Hst) : (setHst k s).wins = s.wins := rfl
@[simp] theorem setHst_pool (s : State) (k : Hst → Hst) : (setHst k s).pool = s.pool := rfl
@[simp] theorem setHst_jobs (s : State) (k : Hst → Hst) : (setHst k s).jobs = s.jobs := rfl
@[simp] theorem setHst_nextJob (s : State) (k : Hst → Hst) : (setHst k s).nextJob = s.nextJob := rfl
@[simp] theorem setHst_heldPkts (s : State) (k : Hst → Hst) : (setHst k s).heldPkts = s.heldPkts := rfl
@[simp] theorem setHst_rqHead (s : State) (k : Hst → Hst) : (setHst k s).rqHead = s.rqHead := rfl
@[simp] theorem setHst_rqWait (s : State) (k : Hst → Hst) : (setHst k s).rqWait = s.rqWait := rfl
@[simp] theorem setHst_opens (s : State) (k : Hst → Hst) : (setHst k s).opens = s.opens := rfl
@[simp] theorem setHst_staged (s : State) (k : Hst → Hst) : (setHst k s).staged = s.staged := rfl
@[simp] theorem setHst_segs (s : State) (k : Hst → Hst) : (setHst k s).segs = s.segs := rfl
@[simp] theorem setHst_badUnits (s : State) (k : Hst → Hst) : (setHst k s).badUnits = s.badUnits := rfl
@[simp] theorem setHst_badPans (s : State) (k : Hst → Hst) : (setHst k s).badPans = s.badPans := rfl
@[simp] theorem setHst_plys (s : State) (k : Hst → Hst) : (setHst k s).plys = s.plys := rfl
@[simp] theorem setHst_trigs (s : State) (k : Hst → Hst) : (setHst k s).trigs = s.trigs := rfl
@[simp] theorem setHst_seqEvs (s : State) (k : Hst → Hst) : (setHst k s).seqEvs = s.seqEvs := rfl
@[simp] theorem setHst_rails (s : State) (k : Hst → Hst) : (setHst k s).rails = s.rails := rfl
@[simp] theorem setHst_chRails (s : State) (k : Hst → Hst) : (setHst k s).chRails = s.chRails := rfl
@[simp] theorem setHst_tapBits (s : State) (k : Hst → Hst) : (setHst k s).tapBits = s.tapBits := rfl
@[simp] theorem setHst_encs (s : State) (k : Hst → Hst) : (setHst k s).encs = s.encs := rfl
@[simp] theorem setHst_trks (s : State) (k : Hst → Hst) : (setHst k s).trks = s.trks := rfl
@[simp] theorem setHst_chns (s : State) (k : Hst → Hst) : (setHst k s).chns = s.chns := rfl
@[simp] theorem setHst_chnOut (s : State) (k : Hst → Hst) : (setHst k s).chnOut = s.chnOut := rfl
@[simp] theorem setHst_gpDrive (s : State) (k : Hst → Hst) : (setHst k s).gpDrive = s.gpDrive := rfl
@[simp] theorem setHst_gpValue (s : State) (k : Hst → Hst) : (setHst k s).gpValue = s.gpValue := rfl
@[simp] theorem setHst_gpQueue (s : State) (k : Hst → Hst) : (setHst k s).gpQueue = s.gpQueue := rfl
@[simp] theorem setHst_queues (s : State) (k : Hst → Hst) : (setHst k s).queues = s.queues := rfl
@[simp] theorem setHst_caps (s : State) (k : Hst → Hst) : (setHst k s).caps = s.caps := rfl
@[simp] theorem setHst_dmds (s : State) (k : Hst → Hst) : (setHst k s).dmds = s.dmds := rfl
@[simp] theorem setHst_adcOn (s : State) (k : Hst → Hst) : (setHst k s).adcOn = s.adcOn := rfl
@[simp] theorem setHst_adcQ (s : State) (k : Hst → Hst) : (setHst k s).adcQ = s.adcQ := rfl
@[simp] theorem setHst_hist (s : State) (k : Hst → Hst) : (setHst k s).hist = s.hist := rfl
@[simp] theorem setHst_lanes (s : State) (k : Hst → Hst) : (setHst k s).lanes = s.lanes := rfl
@[simp] theorem setHst_meas (s : State) (k : Hst → Hst) : (setHst k s).meas = s.meas := rfl
@[simp] theorem setHst_limOut (s : State) (k : Hst → Hst) : (setHst k s).limOut = s.limOut := rfl
@[simp] theorem setHst_faultSum (s : State) (k : Hst → Hst) : (setHst k s).faultSum = s.faultSum := rfl
@[simp] theorem setHst_car (s : State) (k : Hst → Hst) : (setHst k s).car = s.car := rfl
@[simp] theorem setHst_carAsks (s : State) (k : Hst → Hst) : (setHst k s).carAsks = s.carAsks := rfl
@[simp] theorem setHst_panX (s : State) (k : Hst → Hst) : (setHst k s).panX = s.panX := rfl
@[simp] theorem setHst_cal (s : State) (k : Hst → Hst) : (setHst k s).cal = s.cal := rfl
@[simp] theorem setHst_ols (s : State) (k : Hst → Hst) : (setHst k s).ols = s.ols := rfl
@[simp] theorem setHst_ils (s : State) (k : Hst → Hst) : (setHst k s).ils = s.ils := rfl
@[simp] theorem setHst_rkPorts (s : State) (k : Hst → Hst) : (setHst k s).rkPorts = s.rkPorts := rfl
@[simp] theorem setHst_rake (s : State) (k : Hst → Hst) : (setHst k s).rake = s.rake := rfl
@[simp] theorem setHst_clk (s : State) (k : Hst → Hst) : (setHst k s).clk = s.clk := rfl
@[simp] theorem setHst_cup (s : State) (k : Hst → Hst) : (setHst k s).cup = s.cup := rfl
@[simp] theorem setHst_safeAt (s : State) (k : Hst → Hst) : (setHst k s).safeAt = s.safeAt := rfl
@[simp] theorem setHst_asks (s : State) (k : Hst → Hst) : (setHst k s).asks = s.asks := rfl
@[simp] theorem setHst_nvm (s : State) (k : Hst → Hst) : (setHst k s).nvm = s.nvm := rfl
@[simp] theorem setHst_boot (s : State) (k : Hst → Hst) : (setHst k s).boot = s.boot := rfl
@[simp] theorem setHst_recov (s : State) (k : Hst → Hst) : (setHst k s).recov = s.recov := rfl
@[simp] theorem setHst_parOdd (s : State) (k : Hst → Hst) : (setHst k s).parOdd = s.parOdd := rfl
@[simp] theorem setHst_parBad (s : State) (k : Hst → Hst) : (setHst k s).parBad = s.parBad := rfl
@[simp] theorem setHst_unitSafe (s : State) (k : Hst → Hst) : (setHst k s).unitSafe = s.unitSafe := rfl
@[simp] theorem setHst_wrote (s : State) (k : Hst → Hst) : (setHst k s).wrote = s.wrote := rfl
@[simp] theorem setHst_snapReq (s : State) (k : Hst → Hst) : (setHst k s).snapReq = s.snapReq := rfl
@[simp] theorem setHst_snapJobs (s : State) (k : Hst → Hst) : (setHst k s).snapJobs = s.snapJobs := rfl
@[simp] theorem setHst_fences (s : State) (k : Hst → Hst) : (setHst k s).fences = s.fences := rfl
@[simp] theorem setHst_segLoads (s : State) (k : Hst → Hst) : (setHst k s).segLoads = s.segLoads := rfl
@[simp] theorem setHst_stepLoads (s : State) (k : Hst → Hst) : (setHst k s).stepLoads = s.stepLoads := rfl
@[simp] theorem setHst_panGrants (s : State) (k : Hst → Hst) : (setHst k s).panGrants = s.panGrants := rfl
@[simp] theorem setHst_rd (s : State) (k : Hst → Hst) (g : Fld) (w : Nat) : (setHst k s).rd g w = s.rd g w := rfl
@[simp] theorem setHst_on (s : State) (k : Hst → Hst) (g : Fld) (w : Nat) : (setHst k s).on g w = s.on g w := rfl

@[simp] theorem setNvm_pending (s : State) (k : Nvm → Nvm) : (setNvm k s).pending = s.pending := rfl
@[simp] theorem setNvm_cmd (s : State) (k : Nvm → Nvm) : (setNvm k s).cmd = s.cmd := rfl
@[simp] theorem setNvm_flds (s : State) (k : Nvm → Nvm) : (setNvm k s).flds = s.flds := rfl
@[simp] theorem setNvm_wo1 (s : State) (k : Nvm → Nvm) : (setNvm k s).wo1 = s.wo1 := rfl
@[simp] theorem setNvm_freeN (s : State) (k : Nvm → Nvm) : (setNvm k s).freeN = s.freeN := rfl
@[simp] theorem setNvm_carafe (s : State) (k : Nvm → Nvm) : (setNvm k s).carafe = s.carafe := rfl
@[simp] theorem setNvm_pans (s : State) (k : Nvm → Nvm) : (setNvm k s).pans = s.pans := rfl
@[simp] theorem setNvm_evRing (s : State) (k : Nvm → Nvm) : (setNvm k s).evRing = s.evRing := rfl
@[simp] theorem setNvm_fwImg (s : State) (k : Nvm → Nvm) : (setNvm k s).fwImg = s.fwImg := rfl
@[simp] theorem setNvm_audMirror (s : State) (k : Nvm → Nvm) : (setNvm k s).audMirror = s.audMirror := rfl
@[simp] theorem setNvm_logSeq (s : State) (k : Nvm → Nvm) : (setNvm k s).logSeq = s.logSeq := rfl
@[simp] theorem setNvm_logLevel (s : State) (k : Nvm → Nvm) : (setNvm k s).logLevel = s.logLevel := rfl
@[simp] theorem setNvm_logTick (s : State) (k : Nvm → Nvm) : (setNvm k s).logTick = s.logTick := rfl
@[simp] theorem setNvm_rates (s : State) (k : Nvm → Nvm) : (setNvm k s).rates = s.rates := rfl
@[simp] theorem setNvm_msixWait (s : State) (k : Nvm → Nvm) : (setNvm k s).msixWait = s.msixWait := rfl
@[simp] theorem setNvm_msixTab (s : State) (k : Nvm → Nvm) : (setNvm k s).msixTab = s.msixTab := rfl
@[simp] theorem setNvm_out (s : State) (k : Nvm → Nvm) : (setNvm k s).out = s.out := rfl
@[simp] theorem setNvm_wins (s : State) (k : Nvm → Nvm) : (setNvm k s).wins = s.wins := rfl
@[simp] theorem setNvm_pool (s : State) (k : Nvm → Nvm) : (setNvm k s).pool = s.pool := rfl
@[simp] theorem setNvm_jobs (s : State) (k : Nvm → Nvm) : (setNvm k s).jobs = s.jobs := rfl
@[simp] theorem setNvm_nextJob (s : State) (k : Nvm → Nvm) : (setNvm k s).nextJob = s.nextJob := rfl
@[simp] theorem setNvm_heldPkts (s : State) (k : Nvm → Nvm) : (setNvm k s).heldPkts = s.heldPkts := rfl
@[simp] theorem setNvm_rqHead (s : State) (k : Nvm → Nvm) : (setNvm k s).rqHead = s.rqHead := rfl
@[simp] theorem setNvm_rqWait (s : State) (k : Nvm → Nvm) : (setNvm k s).rqWait = s.rqWait := rfl
@[simp] theorem setNvm_opens (s : State) (k : Nvm → Nvm) : (setNvm k s).opens = s.opens := rfl
@[simp] theorem setNvm_staged (s : State) (k : Nvm → Nvm) : (setNvm k s).staged = s.staged := rfl
@[simp] theorem setNvm_segs (s : State) (k : Nvm → Nvm) : (setNvm k s).segs = s.segs := rfl
@[simp] theorem setNvm_badUnits (s : State) (k : Nvm → Nvm) : (setNvm k s).badUnits = s.badUnits := rfl
@[simp] theorem setNvm_badPans (s : State) (k : Nvm → Nvm) : (setNvm k s).badPans = s.badPans := rfl
@[simp] theorem setNvm_plys (s : State) (k : Nvm → Nvm) : (setNvm k s).plys = s.plys := rfl
@[simp] theorem setNvm_trigs (s : State) (k : Nvm → Nvm) : (setNvm k s).trigs = s.trigs := rfl
@[simp] theorem setNvm_seqEvs (s : State) (k : Nvm → Nvm) : (setNvm k s).seqEvs = s.seqEvs := rfl
@[simp] theorem setNvm_rails (s : State) (k : Nvm → Nvm) : (setNvm k s).rails = s.rails := rfl
@[simp] theorem setNvm_chRails (s : State) (k : Nvm → Nvm) : (setNvm k s).chRails = s.chRails := rfl
@[simp] theorem setNvm_tapBits (s : State) (k : Nvm → Nvm) : (setNvm k s).tapBits = s.tapBits := rfl
@[simp] theorem setNvm_encs (s : State) (k : Nvm → Nvm) : (setNvm k s).encs = s.encs := rfl
@[simp] theorem setNvm_trks (s : State) (k : Nvm → Nvm) : (setNvm k s).trks = s.trks := rfl
@[simp] theorem setNvm_chns (s : State) (k : Nvm → Nvm) : (setNvm k s).chns = s.chns := rfl
@[simp] theorem setNvm_chnOut (s : State) (k : Nvm → Nvm) : (setNvm k s).chnOut = s.chnOut := rfl
@[simp] theorem setNvm_gpDrive (s : State) (k : Nvm → Nvm) : (setNvm k s).gpDrive = s.gpDrive := rfl
@[simp] theorem setNvm_gpValue (s : State) (k : Nvm → Nvm) : (setNvm k s).gpValue = s.gpValue := rfl
@[simp] theorem setNvm_gpQueue (s : State) (k : Nvm → Nvm) : (setNvm k s).gpQueue = s.gpQueue := rfl
@[simp] theorem setNvm_queues (s : State) (k : Nvm → Nvm) : (setNvm k s).queues = s.queues := rfl
@[simp] theorem setNvm_caps (s : State) (k : Nvm → Nvm) : (setNvm k s).caps = s.caps := rfl
@[simp] theorem setNvm_dmds (s : State) (k : Nvm → Nvm) : (setNvm k s).dmds = s.dmds := rfl
@[simp] theorem setNvm_adcOn (s : State) (k : Nvm → Nvm) : (setNvm k s).adcOn = s.adcOn := rfl
@[simp] theorem setNvm_adcQ (s : State) (k : Nvm → Nvm) : (setNvm k s).adcQ = s.adcQ := rfl
@[simp] theorem setNvm_hist (s : State) (k : Nvm → Nvm) : (setNvm k s).hist = s.hist := rfl
@[simp] theorem setNvm_lanes (s : State) (k : Nvm → Nvm) : (setNvm k s).lanes = s.lanes := rfl
@[simp] theorem setNvm_meas (s : State) (k : Nvm → Nvm) : (setNvm k s).meas = s.meas := rfl
@[simp] theorem setNvm_limOut (s : State) (k : Nvm → Nvm) : (setNvm k s).limOut = s.limOut := rfl
@[simp] theorem setNvm_faultSum (s : State) (k : Nvm → Nvm) : (setNvm k s).faultSum = s.faultSum := rfl
@[simp] theorem setNvm_car (s : State) (k : Nvm → Nvm) : (setNvm k s).car = s.car := rfl
@[simp] theorem setNvm_carAsks (s : State) (k : Nvm → Nvm) : (setNvm k s).carAsks = s.carAsks := rfl
@[simp] theorem setNvm_panX (s : State) (k : Nvm → Nvm) : (setNvm k s).panX = s.panX := rfl
@[simp] theorem setNvm_cal (s : State) (k : Nvm → Nvm) : (setNvm k s).cal = s.cal := rfl
@[simp] theorem setNvm_ols (s : State) (k : Nvm → Nvm) : (setNvm k s).ols = s.ols := rfl
@[simp] theorem setNvm_ils (s : State) (k : Nvm → Nvm) : (setNvm k s).ils = s.ils := rfl
@[simp] theorem setNvm_rkPorts (s : State) (k : Nvm → Nvm) : (setNvm k s).rkPorts = s.rkPorts := rfl
@[simp] theorem setNvm_rake (s : State) (k : Nvm → Nvm) : (setNvm k s).rake = s.rake := rfl
@[simp] theorem setNvm_clk (s : State) (k : Nvm → Nvm) : (setNvm k s).clk = s.clk := rfl
@[simp] theorem setNvm_cup (s : State) (k : Nvm → Nvm) : (setNvm k s).cup = s.cup := rfl
@[simp] theorem setNvm_safeAt (s : State) (k : Nvm → Nvm) : (setNvm k s).safeAt = s.safeAt := rfl
@[simp] theorem setNvm_asks (s : State) (k : Nvm → Nvm) : (setNvm k s).asks = s.asks := rfl
@[simp] theorem setNvm_boot (s : State) (k : Nvm → Nvm) : (setNvm k s).boot = s.boot := rfl
@[simp] theorem setNvm_recov (s : State) (k : Nvm → Nvm) : (setNvm k s).recov = s.recov := rfl
@[simp] theorem setNvm_hst (s : State) (k : Nvm → Nvm) : (setNvm k s).hst = s.hst := rfl
@[simp] theorem setNvm_parOdd (s : State) (k : Nvm → Nvm) : (setNvm k s).parOdd = s.parOdd := rfl
@[simp] theorem setNvm_parBad (s : State) (k : Nvm → Nvm) : (setNvm k s).parBad = s.parBad := rfl
@[simp] theorem setNvm_unitSafe (s : State) (k : Nvm → Nvm) : (setNvm k s).unitSafe = s.unitSafe := rfl
@[simp] theorem setNvm_wrote (s : State) (k : Nvm → Nvm) : (setNvm k s).wrote = s.wrote := rfl
@[simp] theorem setNvm_snapReq (s : State) (k : Nvm → Nvm) : (setNvm k s).snapReq = s.snapReq := rfl
@[simp] theorem setNvm_snapJobs (s : State) (k : Nvm → Nvm) : (setNvm k s).snapJobs = s.snapJobs := rfl
@[simp] theorem setNvm_fences (s : State) (k : Nvm → Nvm) : (setNvm k s).fences = s.fences := rfl
@[simp] theorem setNvm_segLoads (s : State) (k : Nvm → Nvm) : (setNvm k s).segLoads = s.segLoads := rfl
@[simp] theorem setNvm_stepLoads (s : State) (k : Nvm → Nvm) : (setNvm k s).stepLoads = s.stepLoads := rfl
@[simp] theorem setNvm_panGrants (s : State) (k : Nvm → Nvm) : (setNvm k s).panGrants = s.panGrants := rfl
@[simp] theorem setNvm_rd (s : State) (k : Nvm → Nvm) (g : Fld) (w : Nat) : (setNvm k s).rd g w = s.rd g w := rfl
@[simp] theorem setNvm_on (s : State) (k : Nvm → Nvm) (g : Fld) (w : Nat) : (setNvm k s).on g w = s.on g w := rfl

@[simp] theorem setCar_pending (s : State) (k : Car → Car) : (setCar k s).pending = s.pending := rfl
@[simp] theorem setCar_cmd (s : State) (k : Car → Car) : (setCar k s).cmd = s.cmd := rfl
@[simp] theorem setCar_flds (s : State) (k : Car → Car) : (setCar k s).flds = s.flds := rfl
@[simp] theorem setCar_wo1 (s : State) (k : Car → Car) : (setCar k s).wo1 = s.wo1 := rfl
@[simp] theorem setCar_freeN (s : State) (k : Car → Car) : (setCar k s).freeN = s.freeN := rfl
@[simp] theorem setCar_carafe (s : State) (k : Car → Car) : (setCar k s).carafe = s.carafe := rfl
@[simp] theorem setCar_pans (s : State) (k : Car → Car) : (setCar k s).pans = s.pans := rfl
@[simp] theorem setCar_evRing (s : State) (k : Car → Car) : (setCar k s).evRing = s.evRing := rfl
@[simp] theorem setCar_fwImg (s : State) (k : Car → Car) : (setCar k s).fwImg = s.fwImg := rfl
@[simp] theorem setCar_audMirror (s : State) (k : Car → Car) : (setCar k s).audMirror = s.audMirror := rfl
@[simp] theorem setCar_logSeq (s : State) (k : Car → Car) : (setCar k s).logSeq = s.logSeq := rfl
@[simp] theorem setCar_logLevel (s : State) (k : Car → Car) : (setCar k s).logLevel = s.logLevel := rfl
@[simp] theorem setCar_logTick (s : State) (k : Car → Car) : (setCar k s).logTick = s.logTick := rfl
@[simp] theorem setCar_rates (s : State) (k : Car → Car) : (setCar k s).rates = s.rates := rfl
@[simp] theorem setCar_msixWait (s : State) (k : Car → Car) : (setCar k s).msixWait = s.msixWait := rfl
@[simp] theorem setCar_msixTab (s : State) (k : Car → Car) : (setCar k s).msixTab = s.msixTab := rfl
@[simp] theorem setCar_out (s : State) (k : Car → Car) : (setCar k s).out = s.out := rfl
@[simp] theorem setCar_wins (s : State) (k : Car → Car) : (setCar k s).wins = s.wins := rfl
@[simp] theorem setCar_pool (s : State) (k : Car → Car) : (setCar k s).pool = s.pool := rfl
@[simp] theorem setCar_jobs (s : State) (k : Car → Car) : (setCar k s).jobs = s.jobs := rfl
@[simp] theorem setCar_nextJob (s : State) (k : Car → Car) : (setCar k s).nextJob = s.nextJob := rfl
@[simp] theorem setCar_heldPkts (s : State) (k : Car → Car) : (setCar k s).heldPkts = s.heldPkts := rfl
@[simp] theorem setCar_rqHead (s : State) (k : Car → Car) : (setCar k s).rqHead = s.rqHead := rfl
@[simp] theorem setCar_rqWait (s : State) (k : Car → Car) : (setCar k s).rqWait = s.rqWait := rfl
@[simp] theorem setCar_opens (s : State) (k : Car → Car) : (setCar k s).opens = s.opens := rfl
@[simp] theorem setCar_staged (s : State) (k : Car → Car) : (setCar k s).staged = s.staged := rfl
@[simp] theorem setCar_segs (s : State) (k : Car → Car) : (setCar k s).segs = s.segs := rfl
@[simp] theorem setCar_badUnits (s : State) (k : Car → Car) : (setCar k s).badUnits = s.badUnits := rfl
@[simp] theorem setCar_badPans (s : State) (k : Car → Car) : (setCar k s).badPans = s.badPans := rfl
@[simp] theorem setCar_plys (s : State) (k : Car → Car) : (setCar k s).plys = s.plys := rfl
@[simp] theorem setCar_trigs (s : State) (k : Car → Car) : (setCar k s).trigs = s.trigs := rfl
@[simp] theorem setCar_seqEvs (s : State) (k : Car → Car) : (setCar k s).seqEvs = s.seqEvs := rfl
@[simp] theorem setCar_rails (s : State) (k : Car → Car) : (setCar k s).rails = s.rails := rfl
@[simp] theorem setCar_chRails (s : State) (k : Car → Car) : (setCar k s).chRails = s.chRails := rfl
@[simp] theorem setCar_tapBits (s : State) (k : Car → Car) : (setCar k s).tapBits = s.tapBits := rfl
@[simp] theorem setCar_encs (s : State) (k : Car → Car) : (setCar k s).encs = s.encs := rfl
@[simp] theorem setCar_trks (s : State) (k : Car → Car) : (setCar k s).trks = s.trks := rfl
@[simp] theorem setCar_chns (s : State) (k : Car → Car) : (setCar k s).chns = s.chns := rfl
@[simp] theorem setCar_chnOut (s : State) (k : Car → Car) : (setCar k s).chnOut = s.chnOut := rfl
@[simp] theorem setCar_gpDrive (s : State) (k : Car → Car) : (setCar k s).gpDrive = s.gpDrive := rfl
@[simp] theorem setCar_gpValue (s : State) (k : Car → Car) : (setCar k s).gpValue = s.gpValue := rfl
@[simp] theorem setCar_gpQueue (s : State) (k : Car → Car) : (setCar k s).gpQueue = s.gpQueue := rfl
@[simp] theorem setCar_queues (s : State) (k : Car → Car) : (setCar k s).queues = s.queues := rfl
@[simp] theorem setCar_caps (s : State) (k : Car → Car) : (setCar k s).caps = s.caps := rfl
@[simp] theorem setCar_dmds (s : State) (k : Car → Car) : (setCar k s).dmds = s.dmds := rfl
@[simp] theorem setCar_adcOn (s : State) (k : Car → Car) : (setCar k s).adcOn = s.adcOn := rfl
@[simp] theorem setCar_adcQ (s : State) (k : Car → Car) : (setCar k s).adcQ = s.adcQ := rfl
@[simp] theorem setCar_hist (s : State) (k : Car → Car) : (setCar k s).hist = s.hist := rfl
@[simp] theorem setCar_lanes (s : State) (k : Car → Car) : (setCar k s).lanes = s.lanes := rfl
@[simp] theorem setCar_meas (s : State) (k : Car → Car) : (setCar k s).meas = s.meas := rfl
@[simp] theorem setCar_limOut (s : State) (k : Car → Car) : (setCar k s).limOut = s.limOut := rfl
@[simp] theorem setCar_faultSum (s : State) (k : Car → Car) : (setCar k s).faultSum = s.faultSum := rfl
@[simp] theorem setCar_carAsks (s : State) (k : Car → Car) : (setCar k s).carAsks = s.carAsks := rfl
@[simp] theorem setCar_panX (s : State) (k : Car → Car) : (setCar k s).panX = s.panX := rfl
@[simp] theorem setCar_cal (s : State) (k : Car → Car) : (setCar k s).cal = s.cal := rfl
@[simp] theorem setCar_ols (s : State) (k : Car → Car) : (setCar k s).ols = s.ols := rfl
@[simp] theorem setCar_ils (s : State) (k : Car → Car) : (setCar k s).ils = s.ils := rfl
@[simp] theorem setCar_rkPorts (s : State) (k : Car → Car) : (setCar k s).rkPorts = s.rkPorts := rfl
@[simp] theorem setCar_rake (s : State) (k : Car → Car) : (setCar k s).rake = s.rake := rfl
@[simp] theorem setCar_clk (s : State) (k : Car → Car) : (setCar k s).clk = s.clk := rfl
@[simp] theorem setCar_cup (s : State) (k : Car → Car) : (setCar k s).cup = s.cup := rfl
@[simp] theorem setCar_safeAt (s : State) (k : Car → Car) : (setCar k s).safeAt = s.safeAt := rfl
@[simp] theorem setCar_asks (s : State) (k : Car → Car) : (setCar k s).asks = s.asks := rfl
@[simp] theorem setCar_nvm (s : State) (k : Car → Car) : (setCar k s).nvm = s.nvm := rfl
@[simp] theorem setCar_boot (s : State) (k : Car → Car) : (setCar k s).boot = s.boot := rfl
@[simp] theorem setCar_recov (s : State) (k : Car → Car) : (setCar k s).recov = s.recov := rfl
@[simp] theorem setCar_hst (s : State) (k : Car → Car) : (setCar k s).hst = s.hst := rfl
@[simp] theorem setCar_parOdd (s : State) (k : Car → Car) : (setCar k s).parOdd = s.parOdd := rfl
@[simp] theorem setCar_parBad (s : State) (k : Car → Car) : (setCar k s).parBad = s.parBad := rfl
@[simp] theorem setCar_unitSafe (s : State) (k : Car → Car) : (setCar k s).unitSafe = s.unitSafe := rfl
@[simp] theorem setCar_wrote (s : State) (k : Car → Car) : (setCar k s).wrote = s.wrote := rfl
@[simp] theorem setCar_snapReq (s : State) (k : Car → Car) : (setCar k s).snapReq = s.snapReq := rfl
@[simp] theorem setCar_snapJobs (s : State) (k : Car → Car) : (setCar k s).snapJobs = s.snapJobs := rfl
@[simp] theorem setCar_fences (s : State) (k : Car → Car) : (setCar k s).fences = s.fences := rfl
@[simp] theorem setCar_segLoads (s : State) (k : Car → Car) : (setCar k s).segLoads = s.segLoads := rfl
@[simp] theorem setCar_stepLoads (s : State) (k : Car → Car) : (setCar k s).stepLoads = s.stepLoads := rfl
@[simp] theorem setCar_panGrants (s : State) (k : Car → Car) : (setCar k s).panGrants = s.panGrants := rfl
@[simp] theorem setCar_rd (s : State) (k : Car → Car) (g : Fld) (w : Nat) : (setCar k s).rd g w = s.rd g w := rfl
@[simp] theorem setCar_on (s : State) (k : Car → Car) (g : Fld) (w : Nat) : (setCar k s).on g w = s.on g w := rfl

@[simp] theorem setSeg_pending (s : State) (p : Nat) (v : Seg) : (setSeg p v s).pending = s.pending := rfl
@[simp] theorem setSeg_cmd (s : State) (p : Nat) (v : Seg) : (setSeg p v s).cmd = s.cmd := rfl
@[simp] theorem setSeg_flds (s : State) (p : Nat) (v : Seg) : (setSeg p v s).flds = s.flds := rfl
@[simp] theorem setSeg_wo1 (s : State) (p : Nat) (v : Seg) : (setSeg p v s).wo1 = s.wo1 := rfl
@[simp] theorem setSeg_freeN (s : State) (p : Nat) (v : Seg) : (setSeg p v s).freeN = s.freeN := rfl
@[simp] theorem setSeg_carafe (s : State) (p : Nat) (v : Seg) : (setSeg p v s).carafe = s.carafe := rfl
@[simp] theorem setSeg_pans (s : State) (p : Nat) (v : Seg) : (setSeg p v s).pans = s.pans := rfl
@[simp] theorem setSeg_evRing (s : State) (p : Nat) (v : Seg) : (setSeg p v s).evRing = s.evRing := rfl
@[simp] theorem setSeg_fwImg (s : State) (p : Nat) (v : Seg) : (setSeg p v s).fwImg = s.fwImg := rfl
@[simp] theorem setSeg_audMirror (s : State) (p : Nat) (v : Seg) : (setSeg p v s).audMirror = s.audMirror := rfl
@[simp] theorem setSeg_logSeq (s : State) (p : Nat) (v : Seg) : (setSeg p v s).logSeq = s.logSeq := rfl
@[simp] theorem setSeg_logLevel (s : State) (p : Nat) (v : Seg) : (setSeg p v s).logLevel = s.logLevel := rfl
@[simp] theorem setSeg_logTick (s : State) (p : Nat) (v : Seg) : (setSeg p v s).logTick = s.logTick := rfl
@[simp] theorem setSeg_rates (s : State) (p : Nat) (v : Seg) : (setSeg p v s).rates = s.rates := rfl
@[simp] theorem setSeg_msixWait (s : State) (p : Nat) (v : Seg) : (setSeg p v s).msixWait = s.msixWait := rfl
@[simp] theorem setSeg_msixTab (s : State) (p : Nat) (v : Seg) : (setSeg p v s).msixTab = s.msixTab := rfl
@[simp] theorem setSeg_out (s : State) (p : Nat) (v : Seg) : (setSeg p v s).out = s.out := rfl
@[simp] theorem setSeg_wins (s : State) (p : Nat) (v : Seg) : (setSeg p v s).wins = s.wins := rfl
@[simp] theorem setSeg_pool (s : State) (p : Nat) (v : Seg) : (setSeg p v s).pool = s.pool := rfl
@[simp] theorem setSeg_jobs (s : State) (p : Nat) (v : Seg) : (setSeg p v s).jobs = s.jobs := rfl
@[simp] theorem setSeg_nextJob (s : State) (p : Nat) (v : Seg) : (setSeg p v s).nextJob = s.nextJob := rfl
@[simp] theorem setSeg_heldPkts (s : State) (p : Nat) (v : Seg) : (setSeg p v s).heldPkts = s.heldPkts := rfl
@[simp] theorem setSeg_rqHead (s : State) (p : Nat) (v : Seg) : (setSeg p v s).rqHead = s.rqHead := rfl
@[simp] theorem setSeg_rqWait (s : State) (p : Nat) (v : Seg) : (setSeg p v s).rqWait = s.rqWait := rfl
@[simp] theorem setSeg_opens (s : State) (p : Nat) (v : Seg) : (setSeg p v s).opens = s.opens := rfl
@[simp] theorem setSeg_staged (s : State) (p : Nat) (v : Seg) : (setSeg p v s).staged = s.staged := rfl
@[simp] theorem setSeg_badUnits (s : State) (p : Nat) (v : Seg) : (setSeg p v s).badUnits = s.badUnits := rfl
@[simp] theorem setSeg_badPans (s : State) (p : Nat) (v : Seg) : (setSeg p v s).badPans = s.badPans := rfl
@[simp] theorem setSeg_plys (s : State) (p : Nat) (v : Seg) : (setSeg p v s).plys = s.plys := rfl
@[simp] theorem setSeg_trigs (s : State) (p : Nat) (v : Seg) : (setSeg p v s).trigs = s.trigs := rfl
@[simp] theorem setSeg_seqEvs (s : State) (p : Nat) (v : Seg) : (setSeg p v s).seqEvs = s.seqEvs := rfl
@[simp] theorem setSeg_rails (s : State) (p : Nat) (v : Seg) : (setSeg p v s).rails = s.rails := rfl
@[simp] theorem setSeg_chRails (s : State) (p : Nat) (v : Seg) : (setSeg p v s).chRails = s.chRails := rfl
@[simp] theorem setSeg_tapBits (s : State) (p : Nat) (v : Seg) : (setSeg p v s).tapBits = s.tapBits := rfl
@[simp] theorem setSeg_encs (s : State) (p : Nat) (v : Seg) : (setSeg p v s).encs = s.encs := rfl
@[simp] theorem setSeg_trks (s : State) (p : Nat) (v : Seg) : (setSeg p v s).trks = s.trks := rfl
@[simp] theorem setSeg_chns (s : State) (p : Nat) (v : Seg) : (setSeg p v s).chns = s.chns := rfl
@[simp] theorem setSeg_chnOut (s : State) (p : Nat) (v : Seg) : (setSeg p v s).chnOut = s.chnOut := rfl
@[simp] theorem setSeg_gpDrive (s : State) (p : Nat) (v : Seg) : (setSeg p v s).gpDrive = s.gpDrive := rfl
@[simp] theorem setSeg_gpValue (s : State) (p : Nat) (v : Seg) : (setSeg p v s).gpValue = s.gpValue := rfl
@[simp] theorem setSeg_gpQueue (s : State) (p : Nat) (v : Seg) : (setSeg p v s).gpQueue = s.gpQueue := rfl
@[simp] theorem setSeg_queues (s : State) (p : Nat) (v : Seg) : (setSeg p v s).queues = s.queues := rfl
@[simp] theorem setSeg_caps (s : State) (p : Nat) (v : Seg) : (setSeg p v s).caps = s.caps := rfl
@[simp] theorem setSeg_dmds (s : State) (p : Nat) (v : Seg) : (setSeg p v s).dmds = s.dmds := rfl
@[simp] theorem setSeg_adcOn (s : State) (p : Nat) (v : Seg) : (setSeg p v s).adcOn = s.adcOn := rfl
@[simp] theorem setSeg_adcQ (s : State) (p : Nat) (v : Seg) : (setSeg p v s).adcQ = s.adcQ := rfl
@[simp] theorem setSeg_hist (s : State) (p : Nat) (v : Seg) : (setSeg p v s).hist = s.hist := rfl
@[simp] theorem setSeg_lanes (s : State) (p : Nat) (v : Seg) : (setSeg p v s).lanes = s.lanes := rfl
@[simp] theorem setSeg_meas (s : State) (p : Nat) (v : Seg) : (setSeg p v s).meas = s.meas := rfl
@[simp] theorem setSeg_limOut (s : State) (p : Nat) (v : Seg) : (setSeg p v s).limOut = s.limOut := rfl
@[simp] theorem setSeg_faultSum (s : State) (p : Nat) (v : Seg) : (setSeg p v s).faultSum = s.faultSum := rfl
@[simp] theorem setSeg_car (s : State) (p : Nat) (v : Seg) : (setSeg p v s).car = s.car := rfl
@[simp] theorem setSeg_carAsks (s : State) (p : Nat) (v : Seg) : (setSeg p v s).carAsks = s.carAsks := rfl
@[simp] theorem setSeg_panX (s : State) (p : Nat) (v : Seg) : (setSeg p v s).panX = s.panX := rfl
@[simp] theorem setSeg_cal (s : State) (p : Nat) (v : Seg) : (setSeg p v s).cal = s.cal := rfl
@[simp] theorem setSeg_ols (s : State) (p : Nat) (v : Seg) : (setSeg p v s).ols = s.ols := rfl
@[simp] theorem setSeg_ils (s : State) (p : Nat) (v : Seg) : (setSeg p v s).ils = s.ils := rfl
@[simp] theorem setSeg_rkPorts (s : State) (p : Nat) (v : Seg) : (setSeg p v s).rkPorts = s.rkPorts := rfl
@[simp] theorem setSeg_rake (s : State) (p : Nat) (v : Seg) : (setSeg p v s).rake = s.rake := rfl
@[simp] theorem setSeg_clk (s : State) (p : Nat) (v : Seg) : (setSeg p v s).clk = s.clk := rfl
@[simp] theorem setSeg_cup (s : State) (p : Nat) (v : Seg) : (setSeg p v s).cup = s.cup := rfl
@[simp] theorem setSeg_safeAt (s : State) (p : Nat) (v : Seg) : (setSeg p v s).safeAt = s.safeAt := rfl
@[simp] theorem setSeg_asks (s : State) (p : Nat) (v : Seg) : (setSeg p v s).asks = s.asks := rfl
@[simp] theorem setSeg_nvm (s : State) (p : Nat) (v : Seg) : (setSeg p v s).nvm = s.nvm := rfl
@[simp] theorem setSeg_boot (s : State) (p : Nat) (v : Seg) : (setSeg p v s).boot = s.boot := rfl
@[simp] theorem setSeg_recov (s : State) (p : Nat) (v : Seg) : (setSeg p v s).recov = s.recov := rfl
@[simp] theorem setSeg_hst (s : State) (p : Nat) (v : Seg) : (setSeg p v s).hst = s.hst := rfl
@[simp] theorem setSeg_parOdd (s : State) (p : Nat) (v : Seg) : (setSeg p v s).parOdd = s.parOdd := rfl
@[simp] theorem setSeg_parBad (s : State) (p : Nat) (v : Seg) : (setSeg p v s).parBad = s.parBad := rfl
@[simp] theorem setSeg_unitSafe (s : State) (p : Nat) (v : Seg) : (setSeg p v s).unitSafe = s.unitSafe := rfl
@[simp] theorem setSeg_wrote (s : State) (p : Nat) (v : Seg) : (setSeg p v s).wrote = s.wrote := rfl
@[simp] theorem setSeg_snapReq (s : State) (p : Nat) (v : Seg) : (setSeg p v s).snapReq = s.snapReq := rfl
@[simp] theorem setSeg_snapJobs (s : State) (p : Nat) (v : Seg) : (setSeg p v s).snapJobs = s.snapJobs := rfl
@[simp] theorem setSeg_fences (s : State) (p : Nat) (v : Seg) : (setSeg p v s).fences = s.fences := rfl
@[simp] theorem setSeg_segLoads (s : State) (p : Nat) (v : Seg) : (setSeg p v s).segLoads = s.segLoads := rfl
@[simp] theorem setSeg_stepLoads (s : State) (p : Nat) (v : Seg) : (setSeg p v s).stepLoads = s.stepLoads := rfl
@[simp] theorem setSeg_panGrants (s : State) (p : Nat) (v : Seg) : (setSeg p v s).panGrants = s.panGrants := rfl
@[simp] theorem setSeg_rd (s : State) (p : Nat) (v : Seg) (g : Fld) (w : Nat) : (setSeg p v s).rd g w = s.rd g w := rfl
@[simp] theorem setSeg_on (s : State) (p : Nat) (v : Seg) (g : Fld) (w : Nat) : (setSeg p v s).on g w = s.on g w := rfl

@[simp] theorem setWin_pending (s : State) (p : Nat) (v : Win) : (setWin p v s).pending = s.pending := rfl
@[simp] theorem setWin_cmd (s : State) (p : Nat) (v : Win) : (setWin p v s).cmd = s.cmd := rfl
@[simp] theorem setWin_flds (s : State) (p : Nat) (v : Win) : (setWin p v s).flds = s.flds := rfl
@[simp] theorem setWin_wo1 (s : State) (p : Nat) (v : Win) : (setWin p v s).wo1 = s.wo1 := rfl
@[simp] theorem setWin_freeN (s : State) (p : Nat) (v : Win) : (setWin p v s).freeN = s.freeN := rfl
@[simp] theorem setWin_carafe (s : State) (p : Nat) (v : Win) : (setWin p v s).carafe = s.carafe := rfl
@[simp] theorem setWin_pans (s : State) (p : Nat) (v : Win) : (setWin p v s).pans = s.pans := rfl
@[simp] theorem setWin_evRing (s : State) (p : Nat) (v : Win) : (setWin p v s).evRing = s.evRing := rfl
@[simp] theorem setWin_fwImg (s : State) (p : Nat) (v : Win) : (setWin p v s).fwImg = s.fwImg := rfl
@[simp] theorem setWin_audMirror (s : State) (p : Nat) (v : Win) : (setWin p v s).audMirror = s.audMirror := rfl
@[simp] theorem setWin_logSeq (s : State) (p : Nat) (v : Win) : (setWin p v s).logSeq = s.logSeq := rfl
@[simp] theorem setWin_logLevel (s : State) (p : Nat) (v : Win) : (setWin p v s).logLevel = s.logLevel := rfl
@[simp] theorem setWin_logTick (s : State) (p : Nat) (v : Win) : (setWin p v s).logTick = s.logTick := rfl
@[simp] theorem setWin_rates (s : State) (p : Nat) (v : Win) : (setWin p v s).rates = s.rates := rfl
@[simp] theorem setWin_msixWait (s : State) (p : Nat) (v : Win) : (setWin p v s).msixWait = s.msixWait := rfl
@[simp] theorem setWin_msixTab (s : State) (p : Nat) (v : Win) : (setWin p v s).msixTab = s.msixTab := rfl
@[simp] theorem setWin_out (s : State) (p : Nat) (v : Win) : (setWin p v s).out = s.out := rfl
@[simp] theorem setWin_pool (s : State) (p : Nat) (v : Win) : (setWin p v s).pool = s.pool := rfl
@[simp] theorem setWin_jobs (s : State) (p : Nat) (v : Win) : (setWin p v s).jobs = s.jobs := rfl
@[simp] theorem setWin_nextJob (s : State) (p : Nat) (v : Win) : (setWin p v s).nextJob = s.nextJob := rfl
@[simp] theorem setWin_heldPkts (s : State) (p : Nat) (v : Win) : (setWin p v s).heldPkts = s.heldPkts := rfl
@[simp] theorem setWin_rqHead (s : State) (p : Nat) (v : Win) : (setWin p v s).rqHead = s.rqHead := rfl
@[simp] theorem setWin_rqWait (s : State) (p : Nat) (v : Win) : (setWin p v s).rqWait = s.rqWait := rfl
@[simp] theorem setWin_opens (s : State) (p : Nat) (v : Win) : (setWin p v s).opens = s.opens := rfl
@[simp] theorem setWin_staged (s : State) (p : Nat) (v : Win) : (setWin p v s).staged = s.staged := rfl
@[simp] theorem setWin_segs (s : State) (p : Nat) (v : Win) : (setWin p v s).segs = s.segs := rfl
@[simp] theorem setWin_badUnits (s : State) (p : Nat) (v : Win) : (setWin p v s).badUnits = s.badUnits := rfl
@[simp] theorem setWin_badPans (s : State) (p : Nat) (v : Win) : (setWin p v s).badPans = s.badPans := rfl
@[simp] theorem setWin_plys (s : State) (p : Nat) (v : Win) : (setWin p v s).plys = s.plys := rfl
@[simp] theorem setWin_trigs (s : State) (p : Nat) (v : Win) : (setWin p v s).trigs = s.trigs := rfl
@[simp] theorem setWin_seqEvs (s : State) (p : Nat) (v : Win) : (setWin p v s).seqEvs = s.seqEvs := rfl
@[simp] theorem setWin_rails (s : State) (p : Nat) (v : Win) : (setWin p v s).rails = s.rails := rfl
@[simp] theorem setWin_chRails (s : State) (p : Nat) (v : Win) : (setWin p v s).chRails = s.chRails := rfl
@[simp] theorem setWin_tapBits (s : State) (p : Nat) (v : Win) : (setWin p v s).tapBits = s.tapBits := rfl
@[simp] theorem setWin_encs (s : State) (p : Nat) (v : Win) : (setWin p v s).encs = s.encs := rfl
@[simp] theorem setWin_trks (s : State) (p : Nat) (v : Win) : (setWin p v s).trks = s.trks := rfl
@[simp] theorem setWin_chns (s : State) (p : Nat) (v : Win) : (setWin p v s).chns = s.chns := rfl
@[simp] theorem setWin_chnOut (s : State) (p : Nat) (v : Win) : (setWin p v s).chnOut = s.chnOut := rfl
@[simp] theorem setWin_gpDrive (s : State) (p : Nat) (v : Win) : (setWin p v s).gpDrive = s.gpDrive := rfl
@[simp] theorem setWin_gpValue (s : State) (p : Nat) (v : Win) : (setWin p v s).gpValue = s.gpValue := rfl
@[simp] theorem setWin_gpQueue (s : State) (p : Nat) (v : Win) : (setWin p v s).gpQueue = s.gpQueue := rfl
@[simp] theorem setWin_queues (s : State) (p : Nat) (v : Win) : (setWin p v s).queues = s.queues := rfl
@[simp] theorem setWin_caps (s : State) (p : Nat) (v : Win) : (setWin p v s).caps = s.caps := rfl
@[simp] theorem setWin_dmds (s : State) (p : Nat) (v : Win) : (setWin p v s).dmds = s.dmds := rfl
@[simp] theorem setWin_adcOn (s : State) (p : Nat) (v : Win) : (setWin p v s).adcOn = s.adcOn := rfl
@[simp] theorem setWin_adcQ (s : State) (p : Nat) (v : Win) : (setWin p v s).adcQ = s.adcQ := rfl
@[simp] theorem setWin_hist (s : State) (p : Nat) (v : Win) : (setWin p v s).hist = s.hist := rfl
@[simp] theorem setWin_lanes (s : State) (p : Nat) (v : Win) : (setWin p v s).lanes = s.lanes := rfl
@[simp] theorem setWin_meas (s : State) (p : Nat) (v : Win) : (setWin p v s).meas = s.meas := rfl
@[simp] theorem setWin_limOut (s : State) (p : Nat) (v : Win) : (setWin p v s).limOut = s.limOut := rfl
@[simp] theorem setWin_faultSum (s : State) (p : Nat) (v : Win) : (setWin p v s).faultSum = s.faultSum := rfl
@[simp] theorem setWin_car (s : State) (p : Nat) (v : Win) : (setWin p v s).car = s.car := rfl
@[simp] theorem setWin_carAsks (s : State) (p : Nat) (v : Win) : (setWin p v s).carAsks = s.carAsks := rfl
@[simp] theorem setWin_panX (s : State) (p : Nat) (v : Win) : (setWin p v s).panX = s.panX := rfl
@[simp] theorem setWin_cal (s : State) (p : Nat) (v : Win) : (setWin p v s).cal = s.cal := rfl
@[simp] theorem setWin_ols (s : State) (p : Nat) (v : Win) : (setWin p v s).ols = s.ols := rfl
@[simp] theorem setWin_ils (s : State) (p : Nat) (v : Win) : (setWin p v s).ils = s.ils := rfl
@[simp] theorem setWin_rkPorts (s : State) (p : Nat) (v : Win) : (setWin p v s).rkPorts = s.rkPorts := rfl
@[simp] theorem setWin_rake (s : State) (p : Nat) (v : Win) : (setWin p v s).rake = s.rake := rfl
@[simp] theorem setWin_clk (s : State) (p : Nat) (v : Win) : (setWin p v s).clk = s.clk := rfl
@[simp] theorem setWin_cup (s : State) (p : Nat) (v : Win) : (setWin p v s).cup = s.cup := rfl
@[simp] theorem setWin_safeAt (s : State) (p : Nat) (v : Win) : (setWin p v s).safeAt = s.safeAt := rfl
@[simp] theorem setWin_asks (s : State) (p : Nat) (v : Win) : (setWin p v s).asks = s.asks := rfl
@[simp] theorem setWin_nvm (s : State) (p : Nat) (v : Win) : (setWin p v s).nvm = s.nvm := rfl
@[simp] theorem setWin_boot (s : State) (p : Nat) (v : Win) : (setWin p v s).boot = s.boot := rfl
@[simp] theorem setWin_recov (s : State) (p : Nat) (v : Win) : (setWin p v s).recov = s.recov := rfl
@[simp] theorem setWin_hst (s : State) (p : Nat) (v : Win) : (setWin p v s).hst = s.hst := rfl
@[simp] theorem setWin_parOdd (s : State) (p : Nat) (v : Win) : (setWin p v s).parOdd = s.parOdd := rfl
@[simp] theorem setWin_parBad (s : State) (p : Nat) (v : Win) : (setWin p v s).parBad = s.parBad := rfl
@[simp] theorem setWin_unitSafe (s : State) (p : Nat) (v : Win) : (setWin p v s).unitSafe = s.unitSafe := rfl
@[simp] theorem setWin_wrote (s : State) (p : Nat) (v : Win) : (setWin p v s).wrote = s.wrote := rfl
@[simp] theorem setWin_snapReq (s : State) (p : Nat) (v : Win) : (setWin p v s).snapReq = s.snapReq := rfl
@[simp] theorem setWin_snapJobs (s : State) (p : Nat) (v : Win) : (setWin p v s).snapJobs = s.snapJobs := rfl
@[simp] theorem setWin_fences (s : State) (p : Nat) (v : Win) : (setWin p v s).fences = s.fences := rfl
@[simp] theorem setWin_segLoads (s : State) (p : Nat) (v : Win) : (setWin p v s).segLoads = s.segLoads := rfl
@[simp] theorem setWin_stepLoads (s : State) (p : Nat) (v : Win) : (setWin p v s).stepLoads = s.stepLoads := rfl
@[simp] theorem setWin_panGrants (s : State) (p : Nat) (v : Win) : (setWin p v s).panGrants = s.panGrants := rfl
@[simp] theorem setWin_rd (s : State) (p : Nat) (v : Win) (g : Fld) (w : Nat) : (setWin p v s).rd g w = s.rd g w := rfl
@[simp] theorem setWin_on (s : State) (p : Nat) (v : Win) (g : Fld) (w : Nat) : (setWin p v s).on g w = s.on g w := rfl

@[simp] theorem State.noteWriteAt_pending (s : State) (t o reg mask : Nat) : (s.noteWriteAt t o reg mask).pending = s.pending := rfl
@[simp] theorem State.noteWriteAt_cmd (s : State) (t o reg mask : Nat) : (s.noteWriteAt t o reg mask).cmd = s.cmd := rfl
@[simp] theorem State.noteWriteAt_flds (s : State) (t o reg mask : Nat) : (s.noteWriteAt t o reg mask).flds = s.flds := rfl
@[simp] theorem State.noteWriteAt_wo1 (s : State) (t o reg mask : Nat) : (s.noteWriteAt t o reg mask).wo1 = s.wo1 := rfl
@[simp] theorem State.noteWriteAt_freeN (s : State) (t o reg mask : Nat) : (s.noteWriteAt t o reg mask).freeN = s.freeN := rfl
@[simp] theorem State.noteWriteAt_carafe (s : State) (t o reg mask : Nat) : (s.noteWriteAt t o reg mask).carafe = s.carafe := rfl
@[simp] theorem State.noteWriteAt_pans (s : State) (t o reg mask : Nat) : (s.noteWriteAt t o reg mask).pans = s.pans := rfl
@[simp] theorem State.noteWriteAt_evRing (s : State) (t o reg mask : Nat) : (s.noteWriteAt t o reg mask).evRing = s.evRing := rfl
@[simp] theorem State.noteWriteAt_fwImg (s : State) (t o reg mask : Nat) : (s.noteWriteAt t o reg mask).fwImg = s.fwImg := rfl
@[simp] theorem State.noteWriteAt_audMirror (s : State) (t o reg mask : Nat) : (s.noteWriteAt t o reg mask).audMirror = s.audMirror := rfl
@[simp] theorem State.noteWriteAt_logSeq (s : State) (t o reg mask : Nat) : (s.noteWriteAt t o reg mask).logSeq = s.logSeq := rfl
@[simp] theorem State.noteWriteAt_logLevel (s : State) (t o reg mask : Nat) : (s.noteWriteAt t o reg mask).logLevel = s.logLevel := rfl
@[simp] theorem State.noteWriteAt_logTick (s : State) (t o reg mask : Nat) : (s.noteWriteAt t o reg mask).logTick = s.logTick := rfl
@[simp] theorem State.noteWriteAt_rates (s : State) (t o reg mask : Nat) : (s.noteWriteAt t o reg mask).rates = s.rates := rfl
@[simp] theorem State.noteWriteAt_msixWait (s : State) (t o reg mask : Nat) : (s.noteWriteAt t o reg mask).msixWait = s.msixWait := rfl
@[simp] theorem State.noteWriteAt_msixTab (s : State) (t o reg mask : Nat) : (s.noteWriteAt t o reg mask).msixTab = s.msixTab := rfl
@[simp] theorem State.noteWriteAt_out (s : State) (t o reg mask : Nat) : (s.noteWriteAt t o reg mask).out = s.out := rfl
@[simp] theorem State.noteWriteAt_wins (s : State) (t o reg mask : Nat) : (s.noteWriteAt t o reg mask).wins = s.wins := rfl
@[simp] theorem State.noteWriteAt_pool (s : State) (t o reg mask : Nat) : (s.noteWriteAt t o reg mask).pool = s.pool := rfl
@[simp] theorem State.noteWriteAt_jobs (s : State) (t o reg mask : Nat) : (s.noteWriteAt t o reg mask).jobs = s.jobs := rfl
@[simp] theorem State.noteWriteAt_nextJob (s : State) (t o reg mask : Nat) : (s.noteWriteAt t o reg mask).nextJob = s.nextJob := rfl
@[simp] theorem State.noteWriteAt_heldPkts (s : State) (t o reg mask : Nat) : (s.noteWriteAt t o reg mask).heldPkts = s.heldPkts := rfl
@[simp] theorem State.noteWriteAt_rqHead (s : State) (t o reg mask : Nat) : (s.noteWriteAt t o reg mask).rqHead = s.rqHead := rfl
@[simp] theorem State.noteWriteAt_rqWait (s : State) (t o reg mask : Nat) : (s.noteWriteAt t o reg mask).rqWait = s.rqWait := rfl
@[simp] theorem State.noteWriteAt_opens (s : State) (t o reg mask : Nat) : (s.noteWriteAt t o reg mask).opens = s.opens := rfl
@[simp] theorem State.noteWriteAt_staged (s : State) (t o reg mask : Nat) : (s.noteWriteAt t o reg mask).staged = s.staged := rfl
@[simp] theorem State.noteWriteAt_segs (s : State) (t o reg mask : Nat) : (s.noteWriteAt t o reg mask).segs = s.segs := rfl
@[simp] theorem State.noteWriteAt_badUnits (s : State) (t o reg mask : Nat) : (s.noteWriteAt t o reg mask).badUnits = s.badUnits := rfl
@[simp] theorem State.noteWriteAt_badPans (s : State) (t o reg mask : Nat) : (s.noteWriteAt t o reg mask).badPans = s.badPans := rfl
@[simp] theorem State.noteWriteAt_plys (s : State) (t o reg mask : Nat) : (s.noteWriteAt t o reg mask).plys = s.plys := rfl
@[simp] theorem State.noteWriteAt_trigs (s : State) (t o reg mask : Nat) : (s.noteWriteAt t o reg mask).trigs = s.trigs := rfl
@[simp] theorem State.noteWriteAt_seqEvs (s : State) (t o reg mask : Nat) : (s.noteWriteAt t o reg mask).seqEvs = s.seqEvs := rfl
@[simp] theorem State.noteWriteAt_rails (s : State) (t o reg mask : Nat) : (s.noteWriteAt t o reg mask).rails = s.rails := rfl
@[simp] theorem State.noteWriteAt_chRails (s : State) (t o reg mask : Nat) : (s.noteWriteAt t o reg mask).chRails = s.chRails := rfl
@[simp] theorem State.noteWriteAt_tapBits (s : State) (t o reg mask : Nat) : (s.noteWriteAt t o reg mask).tapBits = s.tapBits := rfl
@[simp] theorem State.noteWriteAt_encs (s : State) (t o reg mask : Nat) : (s.noteWriteAt t o reg mask).encs = s.encs := rfl
@[simp] theorem State.noteWriteAt_trks (s : State) (t o reg mask : Nat) : (s.noteWriteAt t o reg mask).trks = s.trks := rfl
@[simp] theorem State.noteWriteAt_chns (s : State) (t o reg mask : Nat) : (s.noteWriteAt t o reg mask).chns = s.chns := rfl
@[simp] theorem State.noteWriteAt_chnOut (s : State) (t o reg mask : Nat) : (s.noteWriteAt t o reg mask).chnOut = s.chnOut := rfl
@[simp] theorem State.noteWriteAt_gpDrive (s : State) (t o reg mask : Nat) : (s.noteWriteAt t o reg mask).gpDrive = s.gpDrive := rfl
@[simp] theorem State.noteWriteAt_gpValue (s : State) (t o reg mask : Nat) : (s.noteWriteAt t o reg mask).gpValue = s.gpValue := rfl
@[simp] theorem State.noteWriteAt_gpQueue (s : State) (t o reg mask : Nat) : (s.noteWriteAt t o reg mask).gpQueue = s.gpQueue := rfl
@[simp] theorem State.noteWriteAt_queues (s : State) (t o reg mask : Nat) : (s.noteWriteAt t o reg mask).queues = s.queues := rfl
@[simp] theorem State.noteWriteAt_caps (s : State) (t o reg mask : Nat) : (s.noteWriteAt t o reg mask).caps = s.caps := rfl
@[simp] theorem State.noteWriteAt_dmds (s : State) (t o reg mask : Nat) : (s.noteWriteAt t o reg mask).dmds = s.dmds := rfl
@[simp] theorem State.noteWriteAt_adcOn (s : State) (t o reg mask : Nat) : (s.noteWriteAt t o reg mask).adcOn = s.adcOn := rfl
@[simp] theorem State.noteWriteAt_adcQ (s : State) (t o reg mask : Nat) : (s.noteWriteAt t o reg mask).adcQ = s.adcQ := rfl
@[simp] theorem State.noteWriteAt_hist (s : State) (t o reg mask : Nat) : (s.noteWriteAt t o reg mask).hist = s.hist := rfl
@[simp] theorem State.noteWriteAt_lanes (s : State) (t o reg mask : Nat) : (s.noteWriteAt t o reg mask).lanes = s.lanes := rfl
@[simp] theorem State.noteWriteAt_meas (s : State) (t o reg mask : Nat) : (s.noteWriteAt t o reg mask).meas = s.meas := rfl
@[simp] theorem State.noteWriteAt_limOut (s : State) (t o reg mask : Nat) : (s.noteWriteAt t o reg mask).limOut = s.limOut := rfl
@[simp] theorem State.noteWriteAt_faultSum (s : State) (t o reg mask : Nat) : (s.noteWriteAt t o reg mask).faultSum = s.faultSum := rfl
@[simp] theorem State.noteWriteAt_car (s : State) (t o reg mask : Nat) : (s.noteWriteAt t o reg mask).car = s.car := rfl
@[simp] theorem State.noteWriteAt_carAsks (s : State) (t o reg mask : Nat) : (s.noteWriteAt t o reg mask).carAsks = s.carAsks := rfl
@[simp] theorem State.noteWriteAt_panX (s : State) (t o reg mask : Nat) : (s.noteWriteAt t o reg mask).panX = s.panX := rfl
@[simp] theorem State.noteWriteAt_cal (s : State) (t o reg mask : Nat) : (s.noteWriteAt t o reg mask).cal = s.cal := rfl
@[simp] theorem State.noteWriteAt_ols (s : State) (t o reg mask : Nat) : (s.noteWriteAt t o reg mask).ols = s.ols := rfl
@[simp] theorem State.noteWriteAt_ils (s : State) (t o reg mask : Nat) : (s.noteWriteAt t o reg mask).ils = s.ils := rfl
@[simp] theorem State.noteWriteAt_rkPorts (s : State) (t o reg mask : Nat) : (s.noteWriteAt t o reg mask).rkPorts = s.rkPorts := rfl
@[simp] theorem State.noteWriteAt_rake (s : State) (t o reg mask : Nat) : (s.noteWriteAt t o reg mask).rake = s.rake := rfl
@[simp] theorem State.noteWriteAt_clk (s : State) (t o reg mask : Nat) : (s.noteWriteAt t o reg mask).clk = s.clk := rfl
@[simp] theorem State.noteWriteAt_cup (s : State) (t o reg mask : Nat) : (s.noteWriteAt t o reg mask).cup = s.cup := rfl
@[simp] theorem State.noteWriteAt_safeAt (s : State) (t o reg mask : Nat) : (s.noteWriteAt t o reg mask).safeAt = s.safeAt := rfl
@[simp] theorem State.noteWriteAt_asks (s : State) (t o reg mask : Nat) : (s.noteWriteAt t o reg mask).asks = s.asks := rfl
@[simp] theorem State.noteWriteAt_nvm (s : State) (t o reg mask : Nat) : (s.noteWriteAt t o reg mask).nvm = s.nvm := rfl
@[simp] theorem State.noteWriteAt_boot (s : State) (t o reg mask : Nat) : (s.noteWriteAt t o reg mask).boot = s.boot := rfl
@[simp] theorem State.noteWriteAt_recov (s : State) (t o reg mask : Nat) : (s.noteWriteAt t o reg mask).recov = s.recov := rfl
@[simp] theorem State.noteWriteAt_hst (s : State) (t o reg mask : Nat) : (s.noteWriteAt t o reg mask).hst = s.hst := rfl
@[simp] theorem State.noteWriteAt_parOdd (s : State) (t o reg mask : Nat) : (s.noteWriteAt t o reg mask).parOdd = s.parOdd := rfl
@[simp] theorem State.noteWriteAt_parBad (s : State) (t o reg mask : Nat) : (s.noteWriteAt t o reg mask).parBad = s.parBad := rfl
@[simp] theorem State.noteWriteAt_unitSafe (s : State) (t o reg mask : Nat) : (s.noteWriteAt t o reg mask).unitSafe = s.unitSafe := rfl
@[simp] theorem State.noteWriteAt_snapReq (s : State) (t o reg mask : Nat) : (s.noteWriteAt t o reg mask).snapReq = s.snapReq := rfl
@[simp] theorem State.noteWriteAt_snapJobs (s : State) (t o reg mask : Nat) : (s.noteWriteAt t o reg mask).snapJobs = s.snapJobs := rfl
@[simp] theorem State.noteWriteAt_fences (s : State) (t o reg mask : Nat) : (s.noteWriteAt t o reg mask).fences = s.fences := rfl
@[simp] theorem State.noteWriteAt_segLoads (s : State) (t o reg mask : Nat) : (s.noteWriteAt t o reg mask).segLoads = s.segLoads := rfl
@[simp] theorem State.noteWriteAt_stepLoads (s : State) (t o reg mask : Nat) : (s.noteWriteAt t o reg mask).stepLoads = s.stepLoads := rfl
@[simp] theorem State.noteWriteAt_panGrants (s : State) (t o reg mask : Nat) : (s.noteWriteAt t o reg mask).panGrants = s.panGrants := rfl
@[simp] theorem State.noteWriteAt_rd (s : State) (t o reg mask : Nat) (g : Fld) (w : Nat) : (s.noteWriteAt t o reg mask).rd g w = s.rd g w := rfl
@[simp] theorem State.noteWriteAt_on (s : State) (t o reg mask : Nat) (g : Fld) (w : Nat) : (s.noteWriteAt t o reg mask).on g w = s.on g w := rfl

@[simp] theorem State.noteWrite_pending (s : State) (o reg mask : Nat) : (s.noteWrite o reg mask).pending = s.pending := rfl
@[simp] theorem State.noteWrite_cmd (s : State) (o reg mask : Nat) : (s.noteWrite o reg mask).cmd = s.cmd := rfl
@[simp] theorem State.noteWrite_flds (s : State) (o reg mask : Nat) : (s.noteWrite o reg mask).flds = s.flds := rfl
@[simp] theorem State.noteWrite_wo1 (s : State) (o reg mask : Nat) : (s.noteWrite o reg mask).wo1 = s.wo1 := rfl
@[simp] theorem State.noteWrite_freeN (s : State) (o reg mask : Nat) : (s.noteWrite o reg mask).freeN = s.freeN := rfl
@[simp] theorem State.noteWrite_carafe (s : State) (o reg mask : Nat) : (s.noteWrite o reg mask).carafe = s.carafe := rfl
@[simp] theorem State.noteWrite_pans (s : State) (o reg mask : Nat) : (s.noteWrite o reg mask).pans = s.pans := rfl
@[simp] theorem State.noteWrite_evRing (s : State) (o reg mask : Nat) : (s.noteWrite o reg mask).evRing = s.evRing := rfl
@[simp] theorem State.noteWrite_fwImg (s : State) (o reg mask : Nat) : (s.noteWrite o reg mask).fwImg = s.fwImg := rfl
@[simp] theorem State.noteWrite_audMirror (s : State) (o reg mask : Nat) : (s.noteWrite o reg mask).audMirror = s.audMirror := rfl
@[simp] theorem State.noteWrite_logSeq (s : State) (o reg mask : Nat) : (s.noteWrite o reg mask).logSeq = s.logSeq := rfl
@[simp] theorem State.noteWrite_logLevel (s : State) (o reg mask : Nat) : (s.noteWrite o reg mask).logLevel = s.logLevel := rfl
@[simp] theorem State.noteWrite_logTick (s : State) (o reg mask : Nat) : (s.noteWrite o reg mask).logTick = s.logTick := rfl
@[simp] theorem State.noteWrite_rates (s : State) (o reg mask : Nat) : (s.noteWrite o reg mask).rates = s.rates := rfl
@[simp] theorem State.noteWrite_msixWait (s : State) (o reg mask : Nat) : (s.noteWrite o reg mask).msixWait = s.msixWait := rfl
@[simp] theorem State.noteWrite_msixTab (s : State) (o reg mask : Nat) : (s.noteWrite o reg mask).msixTab = s.msixTab := rfl
@[simp] theorem State.noteWrite_out (s : State) (o reg mask : Nat) : (s.noteWrite o reg mask).out = s.out := rfl
@[simp] theorem State.noteWrite_wins (s : State) (o reg mask : Nat) : (s.noteWrite o reg mask).wins = s.wins := rfl
@[simp] theorem State.noteWrite_pool (s : State) (o reg mask : Nat) : (s.noteWrite o reg mask).pool = s.pool := rfl
@[simp] theorem State.noteWrite_jobs (s : State) (o reg mask : Nat) : (s.noteWrite o reg mask).jobs = s.jobs := rfl
@[simp] theorem State.noteWrite_nextJob (s : State) (o reg mask : Nat) : (s.noteWrite o reg mask).nextJob = s.nextJob := rfl
@[simp] theorem State.noteWrite_heldPkts (s : State) (o reg mask : Nat) : (s.noteWrite o reg mask).heldPkts = s.heldPkts := rfl
@[simp] theorem State.noteWrite_rqHead (s : State) (o reg mask : Nat) : (s.noteWrite o reg mask).rqHead = s.rqHead := rfl
@[simp] theorem State.noteWrite_rqWait (s : State) (o reg mask : Nat) : (s.noteWrite o reg mask).rqWait = s.rqWait := rfl
@[simp] theorem State.noteWrite_opens (s : State) (o reg mask : Nat) : (s.noteWrite o reg mask).opens = s.opens := rfl
@[simp] theorem State.noteWrite_staged (s : State) (o reg mask : Nat) : (s.noteWrite o reg mask).staged = s.staged := rfl
@[simp] theorem State.noteWrite_segs (s : State) (o reg mask : Nat) : (s.noteWrite o reg mask).segs = s.segs := rfl
@[simp] theorem State.noteWrite_badUnits (s : State) (o reg mask : Nat) : (s.noteWrite o reg mask).badUnits = s.badUnits := rfl
@[simp] theorem State.noteWrite_badPans (s : State) (o reg mask : Nat) : (s.noteWrite o reg mask).badPans = s.badPans := rfl
@[simp] theorem State.noteWrite_plys (s : State) (o reg mask : Nat) : (s.noteWrite o reg mask).plys = s.plys := rfl
@[simp] theorem State.noteWrite_trigs (s : State) (o reg mask : Nat) : (s.noteWrite o reg mask).trigs = s.trigs := rfl
@[simp] theorem State.noteWrite_seqEvs (s : State) (o reg mask : Nat) : (s.noteWrite o reg mask).seqEvs = s.seqEvs := rfl
@[simp] theorem State.noteWrite_rails (s : State) (o reg mask : Nat) : (s.noteWrite o reg mask).rails = s.rails := rfl
@[simp] theorem State.noteWrite_chRails (s : State) (o reg mask : Nat) : (s.noteWrite o reg mask).chRails = s.chRails := rfl
@[simp] theorem State.noteWrite_tapBits (s : State) (o reg mask : Nat) : (s.noteWrite o reg mask).tapBits = s.tapBits := rfl
@[simp] theorem State.noteWrite_encs (s : State) (o reg mask : Nat) : (s.noteWrite o reg mask).encs = s.encs := rfl
@[simp] theorem State.noteWrite_trks (s : State) (o reg mask : Nat) : (s.noteWrite o reg mask).trks = s.trks := rfl
@[simp] theorem State.noteWrite_chns (s : State) (o reg mask : Nat) : (s.noteWrite o reg mask).chns = s.chns := rfl
@[simp] theorem State.noteWrite_chnOut (s : State) (o reg mask : Nat) : (s.noteWrite o reg mask).chnOut = s.chnOut := rfl
@[simp] theorem State.noteWrite_gpDrive (s : State) (o reg mask : Nat) : (s.noteWrite o reg mask).gpDrive = s.gpDrive := rfl
@[simp] theorem State.noteWrite_gpValue (s : State) (o reg mask : Nat) : (s.noteWrite o reg mask).gpValue = s.gpValue := rfl
@[simp] theorem State.noteWrite_gpQueue (s : State) (o reg mask : Nat) : (s.noteWrite o reg mask).gpQueue = s.gpQueue := rfl
@[simp] theorem State.noteWrite_queues (s : State) (o reg mask : Nat) : (s.noteWrite o reg mask).queues = s.queues := rfl
@[simp] theorem State.noteWrite_caps (s : State) (o reg mask : Nat) : (s.noteWrite o reg mask).caps = s.caps := rfl
@[simp] theorem State.noteWrite_dmds (s : State) (o reg mask : Nat) : (s.noteWrite o reg mask).dmds = s.dmds := rfl
@[simp] theorem State.noteWrite_adcOn (s : State) (o reg mask : Nat) : (s.noteWrite o reg mask).adcOn = s.adcOn := rfl
@[simp] theorem State.noteWrite_adcQ (s : State) (o reg mask : Nat) : (s.noteWrite o reg mask).adcQ = s.adcQ := rfl
@[simp] theorem State.noteWrite_hist (s : State) (o reg mask : Nat) : (s.noteWrite o reg mask).hist = s.hist := rfl
@[simp] theorem State.noteWrite_lanes (s : State) (o reg mask : Nat) : (s.noteWrite o reg mask).lanes = s.lanes := rfl
@[simp] theorem State.noteWrite_meas (s : State) (o reg mask : Nat) : (s.noteWrite o reg mask).meas = s.meas := rfl
@[simp] theorem State.noteWrite_limOut (s : State) (o reg mask : Nat) : (s.noteWrite o reg mask).limOut = s.limOut := rfl
@[simp] theorem State.noteWrite_faultSum (s : State) (o reg mask : Nat) : (s.noteWrite o reg mask).faultSum = s.faultSum := rfl
@[simp] theorem State.noteWrite_car (s : State) (o reg mask : Nat) : (s.noteWrite o reg mask).car = s.car := rfl
@[simp] theorem State.noteWrite_carAsks (s : State) (o reg mask : Nat) : (s.noteWrite o reg mask).carAsks = s.carAsks := rfl
@[simp] theorem State.noteWrite_panX (s : State) (o reg mask : Nat) : (s.noteWrite o reg mask).panX = s.panX := rfl
@[simp] theorem State.noteWrite_cal (s : State) (o reg mask : Nat) : (s.noteWrite o reg mask).cal = s.cal := rfl
@[simp] theorem State.noteWrite_ols (s : State) (o reg mask : Nat) : (s.noteWrite o reg mask).ols = s.ols := rfl
@[simp] theorem State.noteWrite_ils (s : State) (o reg mask : Nat) : (s.noteWrite o reg mask).ils = s.ils := rfl
@[simp] theorem State.noteWrite_rkPorts (s : State) (o reg mask : Nat) : (s.noteWrite o reg mask).rkPorts = s.rkPorts := rfl
@[simp] theorem State.noteWrite_rake (s : State) (o reg mask : Nat) : (s.noteWrite o reg mask).rake = s.rake := rfl
@[simp] theorem State.noteWrite_clk (s : State) (o reg mask : Nat) : (s.noteWrite o reg mask).clk = s.clk := rfl
@[simp] theorem State.noteWrite_cup (s : State) (o reg mask : Nat) : (s.noteWrite o reg mask).cup = s.cup := rfl
@[simp] theorem State.noteWrite_safeAt (s : State) (o reg mask : Nat) : (s.noteWrite o reg mask).safeAt = s.safeAt := rfl
@[simp] theorem State.noteWrite_asks (s : State) (o reg mask : Nat) : (s.noteWrite o reg mask).asks = s.asks := rfl
@[simp] theorem State.noteWrite_nvm (s : State) (o reg mask : Nat) : (s.noteWrite o reg mask).nvm = s.nvm := rfl
@[simp] theorem State.noteWrite_boot (s : State) (o reg mask : Nat) : (s.noteWrite o reg mask).boot = s.boot := rfl
@[simp] theorem State.noteWrite_recov (s : State) (o reg mask : Nat) : (s.noteWrite o reg mask).recov = s.recov := rfl
@[simp] theorem State.noteWrite_hst (s : State) (o reg mask : Nat) : (s.noteWrite o reg mask).hst = s.hst := rfl
@[simp] theorem State.noteWrite_parOdd (s : State) (o reg mask : Nat) : (s.noteWrite o reg mask).parOdd = s.parOdd := rfl
@[simp] theorem State.noteWrite_parBad (s : State) (o reg mask : Nat) : (s.noteWrite o reg mask).parBad = s.parBad := rfl
@[simp] theorem State.noteWrite_unitSafe (s : State) (o reg mask : Nat) : (s.noteWrite o reg mask).unitSafe = s.unitSafe := rfl
@[simp] theorem State.noteWrite_snapReq (s : State) (o reg mask : Nat) : (s.noteWrite o reg mask).snapReq = s.snapReq := rfl
@[simp] theorem State.noteWrite_snapJobs (s : State) (o reg mask : Nat) : (s.noteWrite o reg mask).snapJobs = s.snapJobs := rfl
@[simp] theorem State.noteWrite_fences (s : State) (o reg mask : Nat) : (s.noteWrite o reg mask).fences = s.fences := rfl
@[simp] theorem State.noteWrite_segLoads (s : State) (o reg mask : Nat) : (s.noteWrite o reg mask).segLoads = s.segLoads := rfl
@[simp] theorem State.noteWrite_stepLoads (s : State) (o reg mask : Nat) : (s.noteWrite o reg mask).stepLoads = s.stepLoads := rfl
@[simp] theorem State.noteWrite_panGrants (s : State) (o reg mask : Nat) : (s.noteWrite o reg mask).panGrants = s.panGrants := rfl
@[simp] theorem State.noteWrite_rd (s : State) (o reg mask : Nat) (g : Fld) (w : Nat) : (s.noteWrite o reg mask).rd g w = s.rd g w := rfl
@[simp] theorem State.noteWrite_on (s : State) (o reg mask : Nat) (g : Fld) (w : Nat) : (s.noteWrite o reg mask).on g w = s.on g w := rfl

@[simp] theorem State.ask_pending (s : State) (port : Nat) (wr : Bool) (a n : Nat) : (s.ask port wr a n).pending = s.pending := by unfold State.ask; split <;> rfl
@[simp] theorem State.ask_cmd (s : State) (port : Nat) (wr : Bool) (a n : Nat) : (s.ask port wr a n).cmd = s.cmd := by unfold State.ask; split <;> rfl
@[simp] theorem State.ask_flds (s : State) (port : Nat) (wr : Bool) (a n : Nat) : (s.ask port wr a n).flds = s.flds := by unfold State.ask; split <;> rfl
@[simp] theorem State.ask_wo1 (s : State) (port : Nat) (wr : Bool) (a n : Nat) : (s.ask port wr a n).wo1 = s.wo1 := by unfold State.ask; split <;> rfl
@[simp] theorem State.ask_freeN (s : State) (port : Nat) (wr : Bool) (a n : Nat) : (s.ask port wr a n).freeN = s.freeN := by unfold State.ask; split <;> rfl
@[simp] theorem State.ask_carafe (s : State) (port : Nat) (wr : Bool) (a n : Nat) : (s.ask port wr a n).carafe = s.carafe := by unfold State.ask; split <;> rfl
@[simp] theorem State.ask_pans (s : State) (port : Nat) (wr : Bool) (a n : Nat) : (s.ask port wr a n).pans = s.pans := by unfold State.ask; split <;> rfl
@[simp] theorem State.ask_evRing (s : State) (port : Nat) (wr : Bool) (a n : Nat) : (s.ask port wr a n).evRing = s.evRing := by unfold State.ask; split <;> rfl
@[simp] theorem State.ask_fwImg (s : State) (port : Nat) (wr : Bool) (a n : Nat) : (s.ask port wr a n).fwImg = s.fwImg := by unfold State.ask; split <;> rfl
@[simp] theorem State.ask_audMirror (s : State) (port : Nat) (wr : Bool) (a n : Nat) : (s.ask port wr a n).audMirror = s.audMirror := by unfold State.ask; split <;> rfl
@[simp] theorem State.ask_logSeq (s : State) (port : Nat) (wr : Bool) (a n : Nat) : (s.ask port wr a n).logSeq = s.logSeq := by unfold State.ask; split <;> rfl
@[simp] theorem State.ask_logLevel (s : State) (port : Nat) (wr : Bool) (a n : Nat) : (s.ask port wr a n).logLevel = s.logLevel := by unfold State.ask; split <;> rfl
@[simp] theorem State.ask_logTick (s : State) (port : Nat) (wr : Bool) (a n : Nat) : (s.ask port wr a n).logTick = s.logTick := by unfold State.ask; split <;> rfl
@[simp] theorem State.ask_rates (s : State) (port : Nat) (wr : Bool) (a n : Nat) : (s.ask port wr a n).rates = s.rates := by unfold State.ask; split <;> rfl
@[simp] theorem State.ask_msixWait (s : State) (port : Nat) (wr : Bool) (a n : Nat) : (s.ask port wr a n).msixWait = s.msixWait := by unfold State.ask; split <;> rfl
@[simp] theorem State.ask_msixTab (s : State) (port : Nat) (wr : Bool) (a n : Nat) : (s.ask port wr a n).msixTab = s.msixTab := by unfold State.ask; split <;> rfl
@[simp] theorem State.ask_out (s : State) (port : Nat) (wr : Bool) (a n : Nat) : (s.ask port wr a n).out = s.out := by unfold State.ask; split <;> rfl
@[simp] theorem State.ask_wins (s : State) (port : Nat) (wr : Bool) (a n : Nat) : (s.ask port wr a n).wins = s.wins := by unfold State.ask; split <;> rfl
@[simp] theorem State.ask_pool (s : State) (port : Nat) (wr : Bool) (a n : Nat) : (s.ask port wr a n).pool = s.pool := by unfold State.ask; split <;> rfl
@[simp] theorem State.ask_jobs (s : State) (port : Nat) (wr : Bool) (a n : Nat) : (s.ask port wr a n).jobs = s.jobs := by unfold State.ask; split <;> rfl
@[simp] theorem State.ask_nextJob (s : State) (port : Nat) (wr : Bool) (a n : Nat) : (s.ask port wr a n).nextJob = s.nextJob := by unfold State.ask; split <;> rfl
@[simp] theorem State.ask_heldPkts (s : State) (port : Nat) (wr : Bool) (a n : Nat) : (s.ask port wr a n).heldPkts = s.heldPkts := by unfold State.ask; split <;> rfl
@[simp] theorem State.ask_rqHead (s : State) (port : Nat) (wr : Bool) (a n : Nat) : (s.ask port wr a n).rqHead = s.rqHead := by unfold State.ask; split <;> rfl
@[simp] theorem State.ask_rqWait (s : State) (port : Nat) (wr : Bool) (a n : Nat) : (s.ask port wr a n).rqWait = s.rqWait := by unfold State.ask; split <;> rfl
@[simp] theorem State.ask_opens (s : State) (port : Nat) (wr : Bool) (a n : Nat) : (s.ask port wr a n).opens = s.opens := by unfold State.ask; split <;> rfl
@[simp] theorem State.ask_staged (s : State) (port : Nat) (wr : Bool) (a n : Nat) : (s.ask port wr a n).staged = s.staged := by unfold State.ask; split <;> rfl
@[simp] theorem State.ask_segs (s : State) (port : Nat) (wr : Bool) (a n : Nat) : (s.ask port wr a n).segs = s.segs := by unfold State.ask; split <;> rfl
@[simp] theorem State.ask_badUnits (s : State) (port : Nat) (wr : Bool) (a n : Nat) : (s.ask port wr a n).badUnits = s.badUnits := by unfold State.ask; split <;> rfl
@[simp] theorem State.ask_badPans (s : State) (port : Nat) (wr : Bool) (a n : Nat) : (s.ask port wr a n).badPans = s.badPans := by unfold State.ask; split <;> rfl
@[simp] theorem State.ask_plys (s : State) (port : Nat) (wr : Bool) (a n : Nat) : (s.ask port wr a n).plys = s.plys := by unfold State.ask; split <;> rfl
@[simp] theorem State.ask_trigs (s : State) (port : Nat) (wr : Bool) (a n : Nat) : (s.ask port wr a n).trigs = s.trigs := by unfold State.ask; split <;> rfl
@[simp] theorem State.ask_seqEvs (s : State) (port : Nat) (wr : Bool) (a n : Nat) : (s.ask port wr a n).seqEvs = s.seqEvs := by unfold State.ask; split <;> rfl
@[simp] theorem State.ask_rails (s : State) (port : Nat) (wr : Bool) (a n : Nat) : (s.ask port wr a n).rails = s.rails := by unfold State.ask; split <;> rfl
@[simp] theorem State.ask_chRails (s : State) (port : Nat) (wr : Bool) (a n : Nat) : (s.ask port wr a n).chRails = s.chRails := by unfold State.ask; split <;> rfl
@[simp] theorem State.ask_tapBits (s : State) (port : Nat) (wr : Bool) (a n : Nat) : (s.ask port wr a n).tapBits = s.tapBits := by unfold State.ask; split <;> rfl
@[simp] theorem State.ask_encs (s : State) (port : Nat) (wr : Bool) (a n : Nat) : (s.ask port wr a n).encs = s.encs := by unfold State.ask; split <;> rfl
@[simp] theorem State.ask_trks (s : State) (port : Nat) (wr : Bool) (a n : Nat) : (s.ask port wr a n).trks = s.trks := by unfold State.ask; split <;> rfl
@[simp] theorem State.ask_chns (s : State) (port : Nat) (wr : Bool) (a n : Nat) : (s.ask port wr a n).chns = s.chns := by unfold State.ask; split <;> rfl
@[simp] theorem State.ask_chnOut (s : State) (port : Nat) (wr : Bool) (a n : Nat) : (s.ask port wr a n).chnOut = s.chnOut := by unfold State.ask; split <;> rfl
@[simp] theorem State.ask_gpDrive (s : State) (port : Nat) (wr : Bool) (a n : Nat) : (s.ask port wr a n).gpDrive = s.gpDrive := by unfold State.ask; split <;> rfl
@[simp] theorem State.ask_gpValue (s : State) (port : Nat) (wr : Bool) (a n : Nat) : (s.ask port wr a n).gpValue = s.gpValue := by unfold State.ask; split <;> rfl
@[simp] theorem State.ask_gpQueue (s : State) (port : Nat) (wr : Bool) (a n : Nat) : (s.ask port wr a n).gpQueue = s.gpQueue := by unfold State.ask; split <;> rfl
@[simp] theorem State.ask_queues (s : State) (port : Nat) (wr : Bool) (a n : Nat) : (s.ask port wr a n).queues = s.queues := by unfold State.ask; split <;> rfl
@[simp] theorem State.ask_caps (s : State) (port : Nat) (wr : Bool) (a n : Nat) : (s.ask port wr a n).caps = s.caps := by unfold State.ask; split <;> rfl
@[simp] theorem State.ask_dmds (s : State) (port : Nat) (wr : Bool) (a n : Nat) : (s.ask port wr a n).dmds = s.dmds := by unfold State.ask; split <;> rfl
@[simp] theorem State.ask_adcOn (s : State) (port : Nat) (wr : Bool) (a n : Nat) : (s.ask port wr a n).adcOn = s.adcOn := by unfold State.ask; split <;> rfl
@[simp] theorem State.ask_adcQ (s : State) (port : Nat) (wr : Bool) (a n : Nat) : (s.ask port wr a n).adcQ = s.adcQ := by unfold State.ask; split <;> rfl
@[simp] theorem State.ask_hist (s : State) (port : Nat) (wr : Bool) (a n : Nat) : (s.ask port wr a n).hist = s.hist := by unfold State.ask; split <;> rfl
@[simp] theorem State.ask_lanes (s : State) (port : Nat) (wr : Bool) (a n : Nat) : (s.ask port wr a n).lanes = s.lanes := by unfold State.ask; split <;> rfl
@[simp] theorem State.ask_meas (s : State) (port : Nat) (wr : Bool) (a n : Nat) : (s.ask port wr a n).meas = s.meas := by unfold State.ask; split <;> rfl
@[simp] theorem State.ask_limOut (s : State) (port : Nat) (wr : Bool) (a n : Nat) : (s.ask port wr a n).limOut = s.limOut := by unfold State.ask; split <;> rfl
@[simp] theorem State.ask_faultSum (s : State) (port : Nat) (wr : Bool) (a n : Nat) : (s.ask port wr a n).faultSum = s.faultSum := by unfold State.ask; split <;> rfl
@[simp] theorem State.ask_car (s : State) (port : Nat) (wr : Bool) (a n : Nat) : (s.ask port wr a n).car = s.car := by unfold State.ask; split <;> rfl
@[simp] theorem State.ask_panX (s : State) (port : Nat) (wr : Bool) (a n : Nat) : (s.ask port wr a n).panX = s.panX := by unfold State.ask; split <;> rfl
@[simp] theorem State.ask_cal (s : State) (port : Nat) (wr : Bool) (a n : Nat) : (s.ask port wr a n).cal = s.cal := by unfold State.ask; split <;> rfl
@[simp] theorem State.ask_ols (s : State) (port : Nat) (wr : Bool) (a n : Nat) : (s.ask port wr a n).ols = s.ols := by unfold State.ask; split <;> rfl
@[simp] theorem State.ask_ils (s : State) (port : Nat) (wr : Bool) (a n : Nat) : (s.ask port wr a n).ils = s.ils := by unfold State.ask; split <;> rfl
@[simp] theorem State.ask_rkPorts (s : State) (port : Nat) (wr : Bool) (a n : Nat) : (s.ask port wr a n).rkPorts = s.rkPorts := by unfold State.ask; split <;> rfl
@[simp] theorem State.ask_rake (s : State) (port : Nat) (wr : Bool) (a n : Nat) : (s.ask port wr a n).rake = s.rake := by unfold State.ask; split <;> rfl
@[simp] theorem State.ask_clk (s : State) (port : Nat) (wr : Bool) (a n : Nat) : (s.ask port wr a n).clk = s.clk := by unfold State.ask; split <;> rfl
@[simp] theorem State.ask_cup (s : State) (port : Nat) (wr : Bool) (a n : Nat) : (s.ask port wr a n).cup = s.cup := by unfold State.ask; split <;> rfl
@[simp] theorem State.ask_safeAt (s : State) (port : Nat) (wr : Bool) (a n : Nat) : (s.ask port wr a n).safeAt = s.safeAt := by unfold State.ask; split <;> rfl
@[simp] theorem State.ask_asks (s : State) (port : Nat) (wr : Bool) (a n : Nat) : (s.ask port wr a n).asks = s.asks := by unfold State.ask; split <;> rfl
@[simp] theorem State.ask_nvm (s : State) (port : Nat) (wr : Bool) (a n : Nat) : (s.ask port wr a n).nvm = s.nvm := by unfold State.ask; split <;> rfl
@[simp] theorem State.ask_boot (s : State) (port : Nat) (wr : Bool) (a n : Nat) : (s.ask port wr a n).boot = s.boot := by unfold State.ask; split <;> rfl
@[simp] theorem State.ask_recov (s : State) (port : Nat) (wr : Bool) (a n : Nat) : (s.ask port wr a n).recov = s.recov := by unfold State.ask; split <;> rfl
@[simp] theorem State.ask_hst (s : State) (port : Nat) (wr : Bool) (a n : Nat) : (s.ask port wr a n).hst = s.hst := by unfold State.ask; split <;> rfl
@[simp] theorem State.ask_parOdd (s : State) (port : Nat) (wr : Bool) (a n : Nat) : (s.ask port wr a n).parOdd = s.parOdd := by unfold State.ask; split <;> rfl
@[simp] theorem State.ask_parBad (s : State) (port : Nat) (wr : Bool) (a n : Nat) : (s.ask port wr a n).parBad = s.parBad := by unfold State.ask; split <;> rfl
@[simp] theorem State.ask_unitSafe (s : State) (port : Nat) (wr : Bool) (a n : Nat) : (s.ask port wr a n).unitSafe = s.unitSafe := by unfold State.ask; split <;> rfl
@[simp] theorem State.ask_wrote (s : State) (port : Nat) (wr : Bool) (a n : Nat) : (s.ask port wr a n).wrote = s.wrote := by unfold State.ask; split <;> rfl
@[simp] theorem State.ask_snapReq (s : State) (port : Nat) (wr : Bool) (a n : Nat) : (s.ask port wr a n).snapReq = s.snapReq := by unfold State.ask; split <;> rfl
@[simp] theorem State.ask_snapJobs (s : State) (port : Nat) (wr : Bool) (a n : Nat) : (s.ask port wr a n).snapJobs = s.snapJobs := by unfold State.ask; split <;> rfl
@[simp] theorem State.ask_fences (s : State) (port : Nat) (wr : Bool) (a n : Nat) : (s.ask port wr a n).fences = s.fences := by unfold State.ask; split <;> rfl
@[simp] theorem State.ask_segLoads (s : State) (port : Nat) (wr : Bool) (a n : Nat) : (s.ask port wr a n).segLoads = s.segLoads := by unfold State.ask; split <;> rfl
@[simp] theorem State.ask_stepLoads (s : State) (port : Nat) (wr : Bool) (a n : Nat) : (s.ask port wr a n).stepLoads = s.stepLoads := by unfold State.ask; split <;> rfl
@[simp] theorem State.ask_panGrants (s : State) (port : Nat) (wr : Bool) (a n : Nat) : (s.ask port wr a n).panGrants = s.panGrants := by unfold State.ask; split <;> rfl
@[simp] theorem State.ask_rd (s : State) (port : Nat) (wr : Bool) (a n : Nat) (g : Fld) (w : Nat) : (s.ask port wr a n).rd g w = s.rd g w := by unfold State.ask; split <;> rfl
@[simp] theorem State.ask_on (s : State) (port : Nat) (wr : Bool) (a n : Nat) (g : Fld) (w : Nat) : (s.ask port wr a n).on g w = s.on g w := by unfold State.ask; split <;> rfl

/-! ### A list of writes -/

theorem State.wrs_sans {γ : Type} (z : State → γ) (h : ∀ (s : State) (f : Fld) (u v : Nat), z (s.wr f u v) = z s) (l : List (Fld × Nat × Nat))
    (s : State) : z (s.wrs l) = z s := by
  induction l generalizing s with
  | nil => rfl
  | cons e r ih => exact (ih _).trans (h s _ _ _)

@[simp] theorem State.wrs_pending (s : State) (l : List (Fld × Nat × Nat)) : (s.wrs l).pending = s.pending := State.wrs_sans (·.pending) (fun _ _ _ _ => rfl) l s
@[simp] theorem State.wrs_cmd (s : State) (l : List (Fld × Nat × Nat)) : (s.wrs l).cmd = s.cmd := State.wrs_sans (·.cmd) (fun _ _ _ _ => rfl) l s
@[simp] theorem State.wrs_wo1 (s : State) (l : List (Fld × Nat × Nat)) : (s.wrs l).wo1 = s.wo1 := State.wrs_sans (·.wo1) (fun _ _ _ _ => rfl) l s
@[simp] theorem State.wrs_freeN (s : State) (l : List (Fld × Nat × Nat)) : (s.wrs l).freeN = s.freeN := State.wrs_sans (·.freeN) (fun _ _ _ _ => rfl) l s
@[simp] theorem State.wrs_carafe (s : State) (l : List (Fld × Nat × Nat)) : (s.wrs l).carafe = s.carafe := State.wrs_sans (·.carafe) (fun _ _ _ _ => rfl) l s
@[simp] theorem State.wrs_pans (s : State) (l : List (Fld × Nat × Nat)) : (s.wrs l).pans = s.pans := State.wrs_sans (·.pans) (fun _ _ _ _ => rfl) l s
@[simp] theorem State.wrs_evRing (s : State) (l : List (Fld × Nat × Nat)) : (s.wrs l).evRing = s.evRing := State.wrs_sans (·.evRing) (fun _ _ _ _ => rfl) l s
@[simp] theorem State.wrs_fwImg (s : State) (l : List (Fld × Nat × Nat)) : (s.wrs l).fwImg = s.fwImg := State.wrs_sans (·.fwImg) (fun _ _ _ _ => rfl) l s
@[simp] theorem State.wrs_audMirror (s : State) (l : List (Fld × Nat × Nat)) : (s.wrs l).audMirror = s.audMirror := State.wrs_sans (·.audMirror) (fun _ _ _ _ => rfl) l s
@[simp] theorem State.wrs_logSeq (s : State) (l : List (Fld × Nat × Nat)) : (s.wrs l).logSeq = s.logSeq := State.wrs_sans (·.logSeq) (fun _ _ _ _ => rfl) l s
@[simp] theorem State.wrs_logLevel (s : State) (l : List (Fld × Nat × Nat)) : (s.wrs l).logLevel = s.logLevel := State.wrs_sans (·.logLevel) (fun _ _ _ _ => rfl) l s
@[simp] theorem State.wrs_logTick (s : State) (l : List (Fld × Nat × Nat)) : (s.wrs l).logTick = s.logTick := State.wrs_sans (·.logTick) (fun _ _ _ _ => rfl) l s
@[simp] theorem State.wrs_rates (s : State) (l : List (Fld × Nat × Nat)) : (s.wrs l).rates = s.rates := State.wrs_sans (·.rates) (fun _ _ _ _ => rfl) l s
@[simp] theorem State.wrs_msixWait (s : State) (l : List (Fld × Nat × Nat)) : (s.wrs l).msixWait = s.msixWait := State.wrs_sans (·.msixWait) (fun _ _ _ _ => rfl) l s
@[simp] theorem State.wrs_msixTab (s : State) (l : List (Fld × Nat × Nat)) : (s.wrs l).msixTab = s.msixTab := State.wrs_sans (·.msixTab) (fun _ _ _ _ => rfl) l s
@[simp] theorem State.wrs_out (s : State) (l : List (Fld × Nat × Nat)) : (s.wrs l).out = s.out := State.wrs_sans (·.out) (fun _ _ _ _ => rfl) l s
@[simp] theorem State.wrs_wins (s : State) (l : List (Fld × Nat × Nat)) : (s.wrs l).wins = s.wins := State.wrs_sans (·.wins) (fun _ _ _ _ => rfl) l s
@[simp] theorem State.wrs_pool (s : State) (l : List (Fld × Nat × Nat)) : (s.wrs l).pool = s.pool := State.wrs_sans (·.pool) (fun _ _ _ _ => rfl) l s
@[simp] theorem State.wrs_jobs (s : State) (l : List (Fld × Nat × Nat)) : (s.wrs l).jobs = s.jobs := State.wrs_sans (·.jobs) (fun _ _ _ _ => rfl) l s
@[simp] theorem State.wrs_nextJob (s : State) (l : List (Fld × Nat × Nat)) : (s.wrs l).nextJob = s.nextJob := State.wrs_sans (·.nextJob) (fun _ _ _ _ => rfl) l s
@[simp] theorem State.wrs_heldPkts (s : State) (l : List (Fld × Nat × Nat)) : (s.wrs l).heldPkts = s.heldPkts := State.wrs_sans (·.heldPkts) (fun _ _ _ _ => rfl) l s
@[simp] theorem State.wrs_rqHead (s : State) (l : List (Fld × Nat × Nat)) : (s.wrs l).rqHead = s.rqHead := State.wrs_sans (·.rqHead) (fun _ _ _ _ => rfl) l s
@[simp] theorem State.wrs_rqWait (s : State) (l : List (Fld × Nat × Nat)) : (s.wrs l).rqWait = s.rqWait := State.wrs_sans (·.rqWait) (fun _ _ _ _ => rfl) l s
@[simp] theorem State.wrs_opens (s : State) (l : List (Fld × Nat × Nat)) : (s.wrs l).opens = s.opens := State.wrs_sans (·.opens) (fun _ _ _ _ => rfl) l s
@[simp] theorem State.wrs_staged (s : State) (l : List (Fld × Nat × Nat)) : (s.wrs l).staged = s.staged := State.wrs_sans (·.staged) (fun _ _ _ _ => rfl) l s
@[simp] theorem State.wrs_segs (s : State) (l : List (Fld × Nat × Nat)) : (s.wrs l).segs = s.segs := State.wrs_sans (·.segs) (fun _ _ _ _ => rfl) l s
@[simp] theorem State.wrs_badUnits (s : State) (l : List (Fld × Nat × Nat)) : (s.wrs l).badUnits = s.badUnits := State.wrs_sans (·.badUnits) (fun _ _ _ _ => rfl) l s
@[simp] theorem State.wrs_badPans (s : State) (l : List (Fld × Nat × Nat)) : (s.wrs l).badPans = s.badPans := State.wrs_sans (·.badPans) (fun _ _ _ _ => rfl) l s
@[simp] theorem State.wrs_plys (s : State) (l : List (Fld × Nat × Nat)) : (s.wrs l).plys = s.plys := State.wrs_sans (·.plys) (fun _ _ _ _ => rfl) l s
@[simp] theorem State.wrs_trigs (s : State) (l : List (Fld × Nat × Nat)) : (s.wrs l).trigs = s.trigs := State.wrs_sans (·.trigs) (fun _ _ _ _ => rfl) l s
@[simp] theorem State.wrs_seqEvs (s : State) (l : List (Fld × Nat × Nat)) : (s.wrs l).seqEvs = s.seqEvs := State.wrs_sans (·.seqEvs) (fun _ _ _ _ => rfl) l s
@[simp] theorem State.wrs_rails (s : State) (l : List (Fld × Nat × Nat)) : (s.wrs l).rails = s.rails := State.wrs_sans (·.rails) (fun _ _ _ _ => rfl) l s
@[simp] theorem State.wrs_chRails (s : State) (l : List (Fld × Nat × Nat)) : (s.wrs l).chRails = s.chRails := State.wrs_sans (·.chRails) (fun _ _ _ _ => rfl) l s
@[simp] theorem State.wrs_tapBits (s : State) (l : List (Fld × Nat × Nat)) : (s.wrs l).tapBits = s.tapBits := State.wrs_sans (·.tapBits) (fun _ _ _ _ => rfl) l s
@[simp] theorem State.wrs_encs (s : State) (l : List (Fld × Nat × Nat)) : (s.wrs l).encs = s.encs := State.wrs_sans (·.encs) (fun _ _ _ _ => rfl) l s
@[simp] theorem State.wrs_trks (s : State) (l : List (Fld × Nat × Nat)) : (s.wrs l).trks = s.trks := State.wrs_sans (·.trks) (fun _ _ _ _ => rfl) l s
@[simp] theorem State.wrs_chns (s : State) (l : List (Fld × Nat × Nat)) : (s.wrs l).chns = s.chns := State.wrs_sans (·.chns) (fun _ _ _ _ => rfl) l s
@[simp] theorem State.wrs_chnOut (s : State) (l : List (Fld × Nat × Nat)) : (s.wrs l).chnOut = s.chnOut := State.wrs_sans (·.chnOut) (fun _ _ _ _ => rfl) l s
@[simp] theorem State.wrs_gpDrive (s : State) (l : List (Fld × Nat × Nat)) : (s.wrs l).gpDrive = s.gpDrive := State.wrs_sans (·.gpDrive) (fun _ _ _ _ => rfl) l s
@[simp] theorem State.wrs_gpValue (s : State) (l : List (Fld × Nat × Nat)) : (s.wrs l).gpValue = s.gpValue := State.wrs_sans (·.gpValue) (fun _ _ _ _ => rfl) l s
@[simp] theorem State.wrs_gpQueue (s : State) (l : List (Fld × Nat × Nat)) : (s.wrs l).gpQueue = s.gpQueue := State.wrs_sans (·.gpQueue) (fun _ _ _ _ => rfl) l s
@[simp] theorem State.wrs_queues (s : State) (l : List (Fld × Nat × Nat)) : (s.wrs l).queues = s.queues := State.wrs_sans (·.queues) (fun _ _ _ _ => rfl) l s
@[simp] theorem State.wrs_caps (s : State) (l : List (Fld × Nat × Nat)) : (s.wrs l).caps = s.caps := State.wrs_sans (·.caps) (fun _ _ _ _ => rfl) l s
@[simp] theorem State.wrs_dmds (s : State) (l : List (Fld × Nat × Nat)) : (s.wrs l).dmds = s.dmds := State.wrs_sans (·.dmds) (fun _ _ _ _ => rfl) l s
@[simp] theorem State.wrs_adcOn (s : State) (l : List (Fld × Nat × Nat)) : (s.wrs l).adcOn = s.adcOn := State.wrs_sans (·.adcOn) (fun _ _ _ _ => rfl) l s
@[simp] theorem State.wrs_adcQ (s : State) (l : List (Fld × Nat × Nat)) : (s.wrs l).adcQ = s.adcQ := State.wrs_sans (·.adcQ) (fun _ _ _ _ => rfl) l s
@[simp] theorem State.wrs_hist (s : State) (l : List (Fld × Nat × Nat)) : (s.wrs l).hist = s.hist := State.wrs_sans (·.hist) (fun _ _ _ _ => rfl) l s
@[simp] theorem State.wrs_lanes (s : State) (l : List (Fld × Nat × Nat)) : (s.wrs l).lanes = s.lanes := State.wrs_sans (·.lanes) (fun _ _ _ _ => rfl) l s
@[simp] theorem State.wrs_meas (s : State) (l : List (Fld × Nat × Nat)) : (s.wrs l).meas = s.meas := State.wrs_sans (·.meas) (fun _ _ _ _ => rfl) l s
@[simp] theorem State.wrs_limOut (s : State) (l : List (Fld × Nat × Nat)) : (s.wrs l).limOut = s.limOut := State.wrs_sans (·.limOut) (fun _ _ _ _ => rfl) l s
@[simp] theorem State.wrs_faultSum (s : State) (l : List (Fld × Nat × Nat)) : (s.wrs l).faultSum = s.faultSum := State.wrs_sans (·.faultSum) (fun _ _ _ _ => rfl) l s
@[simp] theorem State.wrs_car (s : State) (l : List (Fld × Nat × Nat)) : (s.wrs l).car = s.car := State.wrs_sans (·.car) (fun _ _ _ _ => rfl) l s
@[simp] theorem State.wrs_carAsks (s : State) (l : List (Fld × Nat × Nat)) : (s.wrs l).carAsks = s.carAsks := State.wrs_sans (·.carAsks) (fun _ _ _ _ => rfl) l s
@[simp] theorem State.wrs_panX (s : State) (l : List (Fld × Nat × Nat)) : (s.wrs l).panX = s.panX := State.wrs_sans (·.panX) (fun _ _ _ _ => rfl) l s
@[simp] theorem State.wrs_cal (s : State) (l : List (Fld × Nat × Nat)) : (s.wrs l).cal = s.cal := State.wrs_sans (·.cal) (fun _ _ _ _ => rfl) l s
@[simp] theorem State.wrs_ols (s : State) (l : List (Fld × Nat × Nat)) : (s.wrs l).ols = s.ols := State.wrs_sans (·.ols) (fun _ _ _ _ => rfl) l s
@[simp] theorem State.wrs_ils (s : State) (l : List (Fld × Nat × Nat)) : (s.wrs l).ils = s.ils := State.wrs_sans (·.ils) (fun _ _ _ _ => rfl) l s
@[simp] theorem State.wrs_rkPorts (s : State) (l : List (Fld × Nat × Nat)) : (s.wrs l).rkPorts = s.rkPorts := State.wrs_sans (·.rkPorts) (fun _ _ _ _ => rfl) l s
@[simp] theorem State.wrs_rake (s : State) (l : List (Fld × Nat × Nat)) : (s.wrs l).rake = s.rake := State.wrs_sans (·.rake) (fun _ _ _ _ => rfl) l s
@[simp] theorem State.wrs_clk (s : State) (l : List (Fld × Nat × Nat)) : (s.wrs l).clk = s.clk := State.wrs_sans (·.clk) (fun _ _ _ _ => rfl) l s
@[simp] theorem State.wrs_cup (s : State) (l : List (Fld × Nat × Nat)) : (s.wrs l).cup = s.cup := State.wrs_sans (·.cup) (fun _ _ _ _ => rfl) l s
@[simp] theorem State.wrs_safeAt (s : State) (l : List (Fld × Nat × Nat)) : (s.wrs l).safeAt = s.safeAt := State.wrs_sans (·.safeAt) (fun _ _ _ _ => rfl) l s
@[simp] theorem State.wrs_asks (s : State) (l : List (Fld × Nat × Nat)) : (s.wrs l).asks = s.asks := State.wrs_sans (·.asks) (fun _ _ _ _ => rfl) l s
@[simp] theorem State.wrs_nvm (s : State) (l : List (Fld × Nat × Nat)) : (s.wrs l).nvm = s.nvm := State.wrs_sans (·.nvm) (fun _ _ _ _ => rfl) l s
@[simp] theorem State.wrs_boot (s : State) (l : List (Fld × Nat × Nat)) : (s.wrs l).boot = s.boot := State.wrs_sans (·.boot) (fun _ _ _ _ => rfl) l s
@[simp] theorem State.wrs_recov (s : State) (l : List (Fld × Nat × Nat)) : (s.wrs l).recov = s.recov := State.wrs_sans (·.recov) (fun _ _ _ _ => rfl) l s
@[simp] theorem State.wrs_hst (s : State) (l : List (Fld × Nat × Nat)) : (s.wrs l).hst = s.hst := State.wrs_sans (·.hst) (fun _ _ _ _ => rfl) l s
@[simp] theorem State.wrs_parOdd (s : State) (l : List (Fld × Nat × Nat)) : (s.wrs l).parOdd = s.parOdd := State.wrs_sans (·.parOdd) (fun _ _ _ _ => rfl) l s
@[simp] theorem State.wrs_parBad (s : State) (l : List (Fld × Nat × Nat)) : (s.wrs l).parBad = s.parBad := State.wrs_sans (·.parBad) (fun _ _ _ _ => rfl) l s
@[simp] theorem State.wrs_unitSafe (s : State) (l : List (Fld × Nat × Nat)) : (s.wrs l).unitSafe = s.unitSafe := State.wrs_sans (·.unitSafe) (fun _ _ _ _ => rfl) l s
@[simp] theorem State.wrs_wrote (s : State) (l : List (Fld × Nat × Nat)) : (s.wrs l).wrote = s.wrote := State.wrs_sans (·.wrote) (fun _ _ _ _ => rfl) l s
@[simp] theorem State.wrs_snapReq (s : State) (l : List (Fld × Nat × Nat)) : (s.wrs l).snapReq = s.snapReq := State.wrs_sans (·.snapReq) (fun _ _ _ _ => rfl) l s
@[simp] theorem State.wrs_snapJobs (s : State) (l : List (Fld × Nat × Nat)) : (s.wrs l).snapJobs = s.snapJobs := State.wrs_sans (·.snapJobs) (fun _ _ _ _ => rfl) l s
@[simp] theorem State.wrs_fences (s : State) (l : List (Fld × Nat × Nat)) : (s.wrs l).fences = s.fences := State.wrs_sans (·.fences) (fun _ _ _ _ => rfl) l s
@[simp] theorem State.wrs_segLoads (s : State) (l : List (Fld × Nat × Nat)) : (s.wrs l).segLoads = s.segLoads := State.wrs_sans (·.segLoads) (fun _ _ _ _ => rfl) l s
@[simp] theorem State.wrs_stepLoads (s : State) (l : List (Fld × Nat × Nat)) : (s.wrs l).stepLoads = s.stepLoads := State.wrs_sans (·.stepLoads) (fun _ _ _ _ => rfl) l s
@[simp] theorem State.wrs_panGrants (s : State) (l : List (Fld × Nat × Nat)) : (s.wrs l).panGrants = s.panGrants := State.wrs_sans (·.panGrants) (fun _ _ _ _ => rfl) l s

@[simp] theorem State.wrs_nil (s : State) : s.wrs [] = s := rfl
@[simp] theorem State.wrs_cons (s : State) (f : Fld) (u v : Nat) (l : List (Fld × Nat × Nat)) : s.wrs ((f, u, v) :: l) = (s.wr f u v).wrs l := rfl

end Sys2Proof.Machine
end

