-- ==== Sys2Proof/Laws/Finish.lean ====
section
/-! SUPPORT. The end of a command, and what records, flags, replies and the activity rule leave alone. -/

namespace Sys2Proof.Machine

/-! ### The end of a command -/

theorem sideTo_sans (n src : Nat) (ws : List Nat) (s : State) : sansEnd (sideTo n src ws s) = sansEnd s := by
  unfold sideTo
  split
  · rfl
  · extract_lets p
    split <;> rfl

theorem sideRoute_sans (src dst : Nat) (ws : List Nat) (s : State) : sansEnd (sideRoute src dst ws s) = sansEnd s := by
  unfold sideRoute
  split
  · split
    · exact sideTo_sans _ _ _ _
    · rfl
  · split
    · exact sideTo_sans _ _ _ _
    · rfl

theorem sideSend_sans (kind dst : Nat) (body : List Nat) (s : State) : sansEnd (sideSend kind dst body s) = sansEnd s := by
  unfold sideSend
  extract_lets ws
  split
  · split
    · exact sideTo_sans _ _ _ _
    · exact sans_foldl sansEnd _ _ _ (fun t n => sideTo_sans n 0 ws t)
  · exact sideRoute_sans _ _ _ _

theorem flushSide_sans (s : State) : sansEnd (flushSide s) = sansEnd s := by
  unfold flushSide
  refine (sans_foldl sansEnd _ _ _ ?_).trans rfl
  intro t o
  split
  · split
    · rfl
    · exact sideSend_sans _ _ _ _
  · rfl

theorem settle_sans (s : State) : sansEnd (settle s) = sansEnd s := by
  unfold settle
  extract_lets v
  split <;> rfl

/-- The end of a command changes the outbound queues, the fault summary and the drop counts of the side channel only. -/
theorem finish_sans (s : State) : sansEnd (finish s) = sansEnd s := (settle_sans _).trans (flushSide_sans _)

theorem flushSide_quiet (s : State) (h : quiet s) : flushSide s = s := by
  have h1 : s.out.filter sideOut = [] := by
    rw [List.filter_eq_nil_iff]; intro o x; simp [h o x]
  have h2 : s.out.filter (fun o => !sideOut o) = s.out := by
    rw [List.filter_eq_self]; intro o x; simp [h o x]
  have e : flushSide s = (s.out.filter sideOut).foldl (fun t o =>
      match o with
      | .reply (.side d) _ r => if d == 0xFFF then t else sideSend kdReply d (replyList { r with crc := true }) t
      | _ => t) { s with out := s.out.filter (fun o => !sideOut o) } := rfl
  rw [e, h1, h2]
  rfl

theorem settle_flds (s : State) : (settle s).flds = s.flds := by
  unfold settle
  extract_lets v
  split <;> rfl

theorem settle_out (s : State) : (settle s).out = s.out := by
  unfold settle
  extract_lets v
  split <;> rfl

theorem finish_flds (s : State) (h : quiet s) : (finish s).flds = s.flds := by
  rw [finish, settle_flds, flushSide_quiet s h]

theorem finish_rd (s : State) (h : quiet s) (f : Fld) (u : Nat) : (finish s).rd f u = s.rd f u := by
  simp only [State.rd, finish_flds s h]

theorem finish_on (s : State) (h : quiet s) (f : Fld) (u : Nat) : (finish s).on f u = s.on f u := by
  simp only [State.on, finish_rd s h]

theorem finish_out (s : State) (h : quiet s) : (finish s).out = s.out := by
  rw [finish, settle_out, flushSide_quiet s h]

/-- Every command ends with the fault summary that its causes give. -/
theorem faultSumOf_congr (s : State) (n : Nat) (l : List Nat) :
    faultSumOf { s with msixWait := l, faultSum := n } = faultSumOf s := rfl

theorem finish_faultSum (s : State) : (finish s).faultSum = faultSumOf (finish s) := by
  unfold finish settle
  extract_lets v
  split
  · rename_i h; exact (beq_iff_eq.mp h).symm
  · exact (faultSumOf_congr (flushSide s) _ _).symm

/-! ### The activity rule (R340) -/

theorem modeTo_keeps (m : Nat) (s : State) : Keeps flagA s (modeTo m s) := by
  have h1 : flagA (F.GLB_MODE_PREV.key 0) := by left; simp only [glbA, Fld.key, F.GLB_MODE_PREV]; omega
  have h2 : flagA (F.GLB_MODE_MODE.key 0) := by left; simp only [glbA, Fld.key, F.GLB_MODE_MODE]; omega
  have h3 : flagA (F.GLB_MODE_CHANGES.key 0) := by left; simp only [glbA, Fld.key, F.GLB_MODE_CHANGES]; omega
  unfold modeTo
  extract_lets p s1
  have k : Keeps flagA s s1 := (((Keeps.refl _ _).wr _ _ _ h1).wr _ _ _ h2).wr _ _ _ h3
  clear_value s1
  split
  · exact Keeps.refl _ _
  · exact (k.trans ((logEvent_keeps _ _ _ _ _ _).mono (fun _ h => Or.inr h))).trans (Keeps.of_eq rfl)

theorem modeTo_sans (m : Nat) (s : State) : sansLog (modeTo m s) = sansLog s := by
  unfold modeTo
  extract_lets p s1
  have k : sansLog s1 = sansLog s := rfl
  clear_value s1
  split
  · rfl
  · exact (show sansLog (msixRaise 49 _) = sansLog _ from rfl).trans ((logEvent_sans _ _ _ _ _ _).trans k)

theorem activityTick_keeps (s : State) : Keeps flagA s (activityTick s) := by
  unfold activityTick
  extract_lets m
  split
  · exact modeTo_keeps _ _
  · exact Keeps.refl _ _

theorem activityTick_sans (s : State) : sansLog (activityTick s) = sansLog s := by
  unfold activityTick
  extract_lets m
  split
  · exact modeTo_sans _ _
  · rfl

/-- A device event while the fabric runs, seen outside the global block and the logs. -/
theorem running_rd (f : State → State) (s : State) (h : s.boot.stage = 0) (g : Fld) (w : Nat) (hp : ¬ flagA (g.key w)) :
    (running f s).rd g w = (f s).rd g w := by
  simp only [running, h, beq_self_eq_true, if_true]
  exact (activityTick_keeps _).rd g w hp

theorem running_sans (f : State → State) (s : State) (h : s.boot.stage = 0) : sansLog (running f s) = sansLog (f s) := by
  simp only [running, h, beq_self_eq_true, if_true]
  exact activityTick_sans _

/-! ### A command from outside -/

theorem hostCmd_eq (f : State → State) (s : State) (h : powered s = true) : hostCmd f s = byHost f s := by simp [hostCmd, h]

theorem devEvent_eq (f : State → State) (s : State) (h : powered s = true) : devEvent f s = f s := by simp [devEvent, h]

theorem byHost_rd (f : State → State) (s : State) (g : Fld) (w : Nat) : (byHost f s).rd g w = (f s.coming).rd g w := rfl

theorem of_sansLog {γ : Type} (g : State → γ) (hg : ∀ s, g (sansLog s) = g s) {s t : State} (h : sansLog s = sansLog t) : g s = g t :=
  (hg s).symm.trans ((congrArg g h).trans (hg t))

theorem of_sansDone {γ : Type} (g : State → γ) (hg : ∀ s, g (sansDone s) = g s) {s t : State} (h : sansDone s = sansDone t) : g s = g t :=
  (hg s).symm.trans ((congrArg g h).trans (hg t))

theorem of_sansReply {γ : Type} (g : State → γ) (hg : ∀ s, g (sansReply s) = g s) {s t : State} (h : sansReply s = sansReply t) : g s = g t :=
  (hg s).symm.trans ((congrArg g h).trans (hg t))

theorem of_sansEnd {γ : Type} (g : State → γ) (hg : ∀ s, g (sansEnd s) = g s) {s t : State} (h : sansEnd s = sansEnd t) : g s = g t :=
  (hg s).symm.trans ((congrArg g h).trans (hg t))


/-! ### Field by field -/

@[simp] theorem logEvent_pending (k d e g h : Nat) (s : State) : (logEvent k d e g h s).pending = s.pending := of_sansLog (·.pending) (fun _ => rfl) (logEvent_sans _ _ _ _ _ _)
@[simp] theorem logEvent_cmd (k d e g h : Nat) (s : State) : (logEvent k d e g h s).cmd = s.cmd := of_sansLog (·.cmd) (fun _ => rfl) (logEvent_sans _ _ _ _ _ _)
@[simp] theorem logEvent_wo1 (k d e g h : Nat) (s : State) : (logEvent k d e g h s).wo1 = s.wo1 := of_sansLog (·.wo1) (fun _ => rfl) (logEvent_sans _ _ _ _ _ _)
@[simp] theorem logEvent_freeN (k d e g h : Nat) (s : State) : (logEvent k d e g h s).freeN = s.freeN := of_sansLog (·.freeN) (fun _ => rfl) (logEvent_sans _ _ _ _ _ _)
@[simp] theorem logEvent_carafe (k d e g h : Nat) (s : State) : (logEvent k d e g h s).carafe = s.carafe := of_sansLog (·.carafe) (fun _ => rfl) (logEvent_sans _ _ _ _ _ _)
@[simp] theorem logEvent_pans (k d e g h : Nat) (s : State) : (logEvent k d e g h s).pans = s.pans := of_sansLog (·.pans) (fun _ => rfl) (logEvent_sans _ _ _ _ _ _)
@[simp] theorem logEvent_fwImg (k d e g h : Nat) (s : State) : (logEvent k d e g h s).fwImg = s.fwImg := of_sansLog (·.fwImg) (fun _ => rfl) (logEvent_sans _ _ _ _ _ _)
@[simp] theorem logEvent_audMirror (k d e g h : Nat) (s : State) : (logEvent k d e g h s).audMirror = s.audMirror := of_sansLog (·.audMirror) (fun _ => rfl) (logEvent_sans _ _ _ _ _ _)
@[simp] theorem logEvent_msixTab (k d e g h : Nat) (s : State) : (logEvent k d e g h s).msixTab = s.msixTab := of_sansLog (·.msixTab) (fun _ => rfl) (logEvent_sans _ _ _ _ _ _)
@[simp] theorem logEvent_out (k d e g h : Nat) (s : State) : (logEvent k d e g h s).out = s.out := of_sansLog (·.out) (fun _ => rfl) (logEvent_sans _ _ _ _ _ _)
@[simp] theorem logEvent_wins (k d e g h : Nat) (s : State) : (logEvent k d e g h s).wins = s.wins := of_sansLog (·.wins) (fun _ => rfl) (logEvent_sans _ _ _ _ _ _)
@[simp] theorem logEvent_pool (k d e g h : Nat) (s : State) : (logEvent k d e g h s).pool = s.pool := of_sansLog (·.pool) (fun _ => rfl) (logEvent_sans _ _ _ _ _ _)
@[simp] theorem logEvent_jobs (k d e g h : Nat) (s : State) : (logEvent k d e g h s).jobs = s.jobs := of_sansLog (·.jobs) (fun _ => rfl) (logEvent_sans _ _ _ _ _ _)
@[simp] theorem logEvent_nextJob (k d e g h : Nat) (s : State) : (logEvent k d e g h s).nextJob = s.nextJob := of_sansLog (·.nextJob) (fun _ => rfl) (logEvent_sans _ _ _ _ _ _)
@[simp] theorem logEvent_heldPkts (k d e g h : Nat) (s : State) : (logEvent k d e g h s).heldPkts = s.heldPkts := of_sansLog (·.heldPkts) (fun _ => rfl) (logEvent_sans _ _ _ _ _ _)
@[simp] theorem logEvent_rqHead (k d e g h : Nat) (s : State) : (logEvent k d e g h s).rqHead = s.rqHead := of_sansLog (·.rqHead) (fun _ => rfl) (logEvent_sans _ _ _ _ _ _)
@[simp] theorem logEvent_rqWait (k d e g h : Nat) (s : State) : (logEvent k d e g h s).rqWait = s.rqWait := of_sansLog (·.rqWait) (fun _ => rfl) (logEvent_sans _ _ _ _ _ _)
@[simp] theorem logEvent_opens (k d e g h : Nat) (s : State) : (logEvent k d e g h s).opens = s.opens := of_sansLog (·.opens) (fun _ => rfl) (logEvent_sans _ _ _ _ _ _)
@[simp] theorem logEvent_staged (k d e g h : Nat) (s : State) : (logEvent k d e g h s).staged = s.staged := of_sansLog (·.staged) (fun _ => rfl) (logEvent_sans _ _ _ _ _ _)
@[simp] theorem logEvent_segs (k d e g h : Nat) (s : State) : (logEvent k d e g h s).segs = s.segs := of_sansLog (·.segs) (fun _ => rfl) (logEvent_sans _ _ _ _ _ _)
@[simp] theorem logEvent_badUnits (k d e g h : Nat) (s : State) : (logEvent k d e g h s).badUnits = s.badUnits := of_sansLog (·.badUnits) (fun _ => rfl) (logEvent_sans _ _ _ _ _ _)
@[simp] theorem logEvent_badPans (k d e g h : Nat) (s : State) : (logEvent k d e g h s).badPans = s.badPans := of_sansLog (·.badPans) (fun _ => rfl) (logEvent_sans _ _ _ _ _ _)
@[simp] theorem logEvent_plys (k d e g h : Nat) (s : State) : (logEvent k d e g h s).plys = s.plys := of_sansLog (·.plys) (fun _ => rfl) (logEvent_sans _ _ _ _ _ _)
@[simp] theorem logEvent_trigs (k d e g h : Nat) (s : State) : (logEvent k d e g h s).trigs = s.trigs := of_sansLog (·.trigs) (fun _ => rfl) (logEvent_sans _ _ _ _ _ _)
@[simp] theorem logEvent_seqEvs (k d e g h : Nat) (s : State) : (logEvent k d e g h s).seqEvs = s.seqEvs := of_sansLog (·.seqEvs) (fun _ => rfl) (logEvent_sans _ _ _ _ _ _)
@[simp] theorem logEvent_rails (k d e g h : Nat) (s : State) : (logEvent k d e g h s).rails = s.rails := of_sansLog (·.rails) (fun _ => rfl) (logEvent_sans _ _ _ _ _ _)
@[simp] theorem logEvent_chRails (k d e g h : Nat) (s : State) : (logEvent k d e g h s).chRails = s.chRails := of_sansLog (·.chRails) (fun _ => rfl) (logEvent_sans _ _ _ _ _ _)
@[simp] theorem logEvent_tapBits (k d e g h : Nat) (s : State) : (logEvent k d e g h s).tapBits = s.tapBits := of_sansLog (·.tapBits) (fun _ => rfl) (logEvent_sans _ _ _ _ _ _)
@[simp] theorem logEvent_encs (k d e g h : Nat) (s : State) : (logEvent k d e g h s).encs = s.encs := of_sansLog (·.encs) (fun _ => rfl) (logEvent_sans _ _ _ _ _ _)
@[simp] theorem logEvent_trks (k d e g h : Nat) (s : State) : (logEvent k d e g h s).trks = s.trks := of_sansLog (·.trks) (fun _ => rfl) (logEvent_sans _ _ _ _ _ _)
@[simp] theorem logEvent_chns (k d e g h : Nat) (s : State) : (logEvent k d e g h s).chns = s.chns := of_sansLog (·.chns) (fun _ => rfl) (logEvent_sans _ _ _ _ _ _)
@[simp] theorem logEvent_chnOut (k d e g h : Nat) (s : State) : (logEvent k d e g h s).chnOut = s.chnOut := of_sansLog (·.chnOut) (fun _ => rfl) (logEvent_sans _ _ _ _ _ _)
@[simp] theorem logEvent_gpDrive (k d e g h : Nat) (s : State) : (logEvent k d e g h s).gpDrive = s.gpDrive := of_sansLog (·.gpDrive) (fun _ => rfl) (logEvent_sans _ _ _ _ _ _)
@[simp] theorem logEvent_gpValue (k d e g h : Nat) (s : State) : (logEvent k d e g h s).gpValue = s.gpValue := of_sansLog (·.gpValue) (fun _ => rfl) (logEvent_sans _ _ _ _ _ _)
@[simp] theorem logEvent_gpQueue (k d e g h : Nat) (s : State) : (logEvent k d e g h s).gpQueue = s.gpQueue := of_sansLog (·.gpQueue) (fun _ => rfl) (logEvent_sans _ _ _ _ _ _)
@[simp] theorem logEvent_queues (k d e g h : Nat) (s : State) : (logEvent k d e g h s).queues = s.queues := of_sansLog (·.queues) (fun _ => rfl) (logEvent_sans _ _ _ _ _ _)
@[simp] theorem logEvent_caps (k d e g h : Nat) (s : State) : (logEvent k d e g h s).caps = s.caps := of_sansLog (·.caps) (fun _ => rfl) (logEvent_sans _ _ _ _ _ _)
@[simp] theorem logEvent_dmds (k d e g h : Nat) (s : State) : (logEvent k d e g h s).dmds = s.dmds := of_sansLog (·.dmds) (fun _ => rfl) (logEvent_sans _ _ _ _ _ _)
@[simp] theorem logEvent_adcOn (k d e g h : Nat) (s : State) : (logEvent k d e g h s).adcOn = s.adcOn := of_sansLog (·.adcOn) (fun _ => rfl) (logEvent_sans _ _ _ _ _ _)
@[simp] theorem logEvent_adcQ (k d e g h : Nat) (s : State) : (logEvent k d e g h s).adcQ = s.adcQ := of_sansLog (·.adcQ) (fun _ => rfl) (logEvent_sans _ _ _ _ _ _)
@[simp] theorem logEvent_hist (k d e g h : Nat) (s : State) : (logEvent k d e g h s).hist = s.hist := of_sansLog (·.hist) (fun _ => rfl) (logEvent_sans _ _ _ _ _ _)
@[simp] theorem logEvent_lanes (k d e g h : Nat) (s : State) : (logEvent k d e g h s).lanes = s.lanes := of_sansLog (·.lanes) (fun _ => rfl) (logEvent_sans _ _ _ _ _ _)
@[simp] theorem logEvent_meas (k d e g h : Nat) (s : State) : (logEvent k d e g h s).meas = s.meas := of_sansLog (·.meas) (fun _ => rfl) (logEvent_sans _ _ _ _ _ _)
@[simp] theorem logEvent_limOut (k d e g h : Nat) (s : State) : (logEvent k d e g h s).limOut = s.limOut := of_sansLog (·.limOut) (fun _ => rfl) (logEvent_sans _ _ _ _ _ _)
@[simp] theorem logEvent_faultSum (k d e g h : Nat) (s : State) : (logEvent k d e g h s).faultSum = s.faultSum := of_sansLog (·.faultSum) (fun _ => rfl) (logEvent_sans _ _ _ _ _ _)
@[simp] theorem logEvent_car (k d e g h : Nat) (s : State) : (logEvent k d e g h s).car = s.car := of_sansLog (·.car) (fun _ => rfl) (logEvent_sans _ _ _ _ _ _)
@[simp] theorem logEvent_panX (k d e g h : Nat) (s : State) : (logEvent k d e g h s).panX = s.panX := of_sansLog (·.panX) (fun _ => rfl) (logEvent_sans _ _ _ _ _ _)
@[simp] theorem logEvent_cal (k d e g h : Nat) (s : State) : (logEvent k d e g h s).cal = s.cal := of_sansLog (·.cal) (fun _ => rfl) (logEvent_sans _ _ _ _ _ _)
@[simp] theorem logEvent_ols (k d e g h : Nat) (s : State) : (logEvent k d e g h s).ols = s.ols := of_sansLog (·.ols) (fun _ => rfl) (logEvent_sans _ _ _ _ _ _)
@[simp] theorem logEvent_ils (k d e g h : Nat) (s : State) : (logEvent k d e g h s).ils = s.ils := of_sansLog (·.ils) (fun _ => rfl) (logEvent_sans _ _ _ _ _ _)
@[simp] theorem logEvent_rkPorts (k d e g h : Nat) (s : State) : (logEvent k d e g h s).rkPorts = s.rkPorts := of_sansLog (·.rkPorts) (fun _ => rfl) (logEvent_sans _ _ _ _ _ _)
@[simp] theorem logEvent_rake (k d e g h : Nat) (s : State) : (logEvent k d e g h s).rake = s.rake := of_sansLog (·.rake) (fun _ => rfl) (logEvent_sans _ _ _ _ _ _)
@[simp] theorem logEvent_clk (k d e g h : Nat) (s : State) : (logEvent k d e g h s).clk = s.clk := of_sansLog (·.clk) (fun _ => rfl) (logEvent_sans _ _ _ _ _ _)
@[simp] theorem logEvent_cup (k d e g h : Nat) (s : State) : (logEvent k d e g h s).cup = s.cup := of_sansLog (·.cup) (fun _ => rfl) (logEvent_sans _ _ _ _ _ _)
@[simp] theorem logEvent_safeAt (k d e g h : Nat) (s : State) : (logEvent k d e g h s).safeAt = s.safeAt := of_sansLog (·.safeAt) (fun _ => rfl) (logEvent_sans _ _ _ _ _ _)
@[simp] theorem logEvent_asks (k d e g h : Nat) (s : State) : (logEvent k d e g h s).asks = s.asks := of_sansLog (·.asks) (fun _ => rfl) (logEvent_sans _ _ _ _ _ _)
@[simp] theorem logEvent_nvm (k d e g h : Nat) (s : State) : (logEvent k d e g h s).nvm = s.nvm := of_sansLog (·.nvm) (fun _ => rfl) (logEvent_sans _ _ _ _ _ _)
@[simp] theorem logEvent_boot (k d e g h : Nat) (s : State) : (logEvent k d e g h s).boot = s.boot := of_sansLog (·.boot) (fun _ => rfl) (logEvent_sans _ _ _ _ _ _)
@[simp] theorem logEvent_recov (k d e g h : Nat) (s : State) : (logEvent k d e g h s).recov = s.recov := of_sansLog (·.recov) (fun _ => rfl) (logEvent_sans _ _ _ _ _ _)
@[simp] theorem logEvent_hst (k d e g h : Nat) (s : State) : (logEvent k d e g h s).hst = s.hst := of_sansLog (·.hst) (fun _ => rfl) (logEvent_sans _ _ _ _ _ _)
@[simp] theorem logEvent_parOdd (k d e g h : Nat) (s : State) : (logEvent k d e g h s).parOdd = s.parOdd := of_sansLog (·.parOdd) (fun _ => rfl) (logEvent_sans _ _ _ _ _ _)
@[simp] theorem logEvent_parBad (k d e g h : Nat) (s : State) : (logEvent k d e g h s).parBad = s.parBad := of_sansLog (·.parBad) (fun _ => rfl) (logEvent_sans _ _ _ _ _ _)
@[simp] theorem logEvent_unitSafe (k d e g h : Nat) (s : State) : (logEvent k d e g h s).unitSafe = s.unitSafe := of_sansLog (·.unitSafe) (fun _ => rfl) (logEvent_sans _ _ _ _ _ _)
@[simp] theorem logEvent_wrote (k d e g h : Nat) (s : State) : (logEvent k d e g h s).wrote = s.wrote := of_sansLog (·.wrote) (fun _ => rfl) (logEvent_sans _ _ _ _ _ _)
@[simp] theorem logEvent_snapReq (k d e g h : Nat) (s : State) : (logEvent k d e g h s).snapReq = s.snapReq := of_sansLog (·.snapReq) (fun _ => rfl) (logEvent_sans _ _ _ _ _ _)
@[simp] theorem logEvent_snapJobs (k d e g h : Nat) (s : State) : (logEvent k d e g h s).snapJobs = s.snapJobs := of_sansLog (·.snapJobs) (fun _ => rfl) (logEvent_sans _ _ _ _ _ _)
@[simp] theorem logEvent_fences (k d e g h : Nat) (s : State) : (logEvent k d e g h s).fences = s.fences := of_sansLog (·.fences) (fun _ => rfl) (logEvent_sans _ _ _ _ _ _)
@[simp] theorem logEvent_segLoads (k d e g h : Nat) (s : State) : (logEvent k d e g h s).segLoads = s.segLoads := of_sansLog (·.segLoads) (fun _ => rfl) (logEvent_sans _ _ _ _ _ _)
@[simp] theorem logEvent_stepLoads (k d e g h : Nat) (s : State) : (logEvent k d e g h s).stepLoads = s.stepLoads := of_sansLog (·.stepLoads) (fun _ => rfl) (logEvent_sans _ _ _ _ _ _)
@[simp] theorem logEvent_panGrants (k d e g h : Nat) (s : State) : (logEvent k d e g h s).panGrants = s.panGrants := of_sansLog (·.panGrants) (fun _ => rfl) (logEvent_sans _ _ _ _ _ _)

@[simp] theorem logLimited_pending (c k d e g h : Nat) (s : State) : (logLimited c k d e g h s).pending = s.pending := of_sansLog (·.pending) (fun _ => rfl) (logLimited_sans _ _ _ _ _ _ _)
@[simp] theorem logLimited_cmd (c k d e g h : Nat) (s : State) : (logLimited c k d e g h s).cmd = s.cmd := of_sansLog (·.cmd) (fun _ => rfl) (logLimited_sans _ _ _ _ _ _ _)
@[simp] theorem logLimited_wo1 (c k d e g h : Nat) (s : State) : (logLimited c k d e g h s).wo1 = s.wo1 := of_sansLog (·.wo1) (fun _ => rfl) (logLimited_sans _ _ _ _ _ _ _)
@[simp] theorem logLimited_freeN (c k d e g h : Nat) (s : State) : (logLimited c k d e g h s).freeN = s.freeN := of_sansLog (·.freeN) (fun _ => rfl) (logLimited_sans _ _ _ _ _ _ _)
@[simp] theorem logLimited_carafe (c k d e g h : Nat) (s : State) : (logLimited c k d e g h s).carafe = s.carafe := of_sansLog (·.carafe) (fun _ => rfl) (logLimited_sans _ _ _ _ _ _ _)
@[simp] theorem logLimited_pans (c k d e g h : Nat) (s : State) : (logLimited c k d e g h s).pans = s.pans := of_sansLog (·.pans) (fun _ => rfl) (logLimited_sans _ _ _ _ _ _ _)
@[simp] theorem logLimited_fwImg (c k d e g h : Nat) (s : State) : (logLimited c k d e g h s).fwImg = s.fwImg := of_sansLog (·.fwImg) (fun _ => rfl) (logLimited_sans _ _ _ _ _ _ _)
@[simp] theorem logLimited_audMirror (c k d e g h : Nat) (s : State) : (logLimited c k d e g h s).audMirror = s.audMirror := of_sansLog (·.audMirror) (fun _ => rfl) (logLimited_sans _ _ _ _ _ _ _)
@[simp] theorem logLimited_msixTab (c k d e g h : Nat) (s : State) : (logLimited c k d e g h s).msixTab = s.msixTab := of_sansLog (·.msixTab) (fun _ => rfl) (logLimited_sans _ _ _ _ _ _ _)
@[simp] theorem logLimited_out (c k d e g h : Nat) (s : State) : (logLimited c k d e g h s).out = s.out := of_sansLog (·.out) (fun _ => rfl) (logLimited_sans _ _ _ _ _ _ _)
@[simp] theorem logLimited_wins (c k d e g h : Nat) (s : State) : (logLimited c k d e g h s).wins = s.wins := of_sansLog (·.wins) (fun _ => rfl) (logLimited_sans _ _ _ _ _ _ _)
@[simp] theorem logLimited_pool (c k d e g h : Nat) (s : State) : (logLimited c k d e g h s).pool = s.pool := of_sansLog (·.pool) (fun _ => rfl) (logLimited_sans _ _ _ _ _ _ _)
@[simp] theorem logLimited_jobs (c k d e g h : Nat) (s : State) : (logLimited c k d e g h s).jobs = s.jobs := of_sansLog (·.jobs) (fun _ => rfl) (logLimited_sans _ _ _ _ _ _ _)
@[simp] theorem logLimited_nextJob (c k d e g h : Nat) (s : State) : (logLimited c k d e g h s).nextJob = s.nextJob := of_sansLog (·.nextJob) (fun _ => rfl) (logLimited_sans _ _ _ _ _ _ _)
@[simp] theorem logLimited_heldPkts (c k d e g h : Nat) (s : State) : (logLimited c k d e g h s).heldPkts = s.heldPkts := of_sansLog (·.heldPkts) (fun _ => rfl) (logLimited_sans _ _ _ _ _ _ _)
@[simp] theorem logLimited_rqHead (c k d e g h : Nat) (s : State) : (logLimited c k d e g h s).rqHead = s.rqHead := of_sansLog (·.rqHead) (fun _ => rfl) (logLimited_sans _ _ _ _ _ _ _)
@[simp] theorem logLimited_rqWait (c k d e g h : Nat) (s : State) : (logLimited c k d e g h s).rqWait = s.rqWait := of_sansLog (·.rqWait) (fun _ => rfl) (logLimited_sans _ _ _ _ _ _ _)
@[simp] theorem logLimited_opens (c k d e g h : Nat) (s : State) : (logLimited c k d e g h s).opens = s.opens := of_sansLog (·.opens) (fun _ => rfl) (logLimited_sans _ _ _ _ _ _ _)
@[simp] theorem logLimited_staged (c k d e g h : Nat) (s : State) : (logLimited c k d e g h s).staged = s.staged := of_sansLog (·.staged) (fun _ => rfl) (logLimited_sans _ _ _ _ _ _ _)
@[simp] theorem logLimited_segs (c k d e g h : Nat) (s : State) : (logLimited c k d e g h s).segs = s.segs := of_sansLog (·.segs) (fun _ => rfl) (logLimited_sans _ _ _ _ _ _ _)
@[simp] theorem logLimited_badUnits (c k d e g h : Nat) (s : State) : (logLimited c k d e g h s).badUnits = s.badUnits := of_sansLog (·.badUnits) (fun _ => rfl) (logLimited_sans _ _ _ _ _ _ _)
@[simp] theorem logLimited_badPans (c k d e g h : Nat) (s : State) : (logLimited c k d e g h s).badPans = s.badPans := of_sansLog (·.badPans) (fun _ => rfl) (logLimited_sans _ _ _ _ _ _ _)
@[simp] theorem logLimited_plys (c k d e g h : Nat) (s : State) : (logLimited c k d e g h s).plys = s.plys := of_sansLog (·.plys) (fun _ => rfl) (logLimited_sans _ _ _ _ _ _ _)
@[simp] theorem logLimited_trigs (c k d e g h : Nat) (s : State) : (logLimited c k d e g h s).trigs = s.trigs := of_sansLog (·.trigs) (fun _ => rfl) (logLimited_sans _ _ _ _ _ _ _)
@[simp] theorem logLimited_seqEvs (c k d e g h : Nat) (s : State) : (logLimited c k d e g h s).seqEvs = s.seqEvs := of_sansLog (·.seqEvs) (fun _ => rfl) (logLimited_sans _ _ _ _ _ _ _)
@[simp] theorem logLimited_rails (c k d e g h : Nat) (s : State) : (logLimited c k d e g h s).rails = s.rails := of_sansLog (·.rails) (fun _ => rfl) (logLimited_sans _ _ _ _ _ _ _)
@[simp] theorem logLimited_chRails (c k d e g h : Nat) (s : State) : (logLimited c k d e g h s).chRails = s.chRails := of_sansLog (·.chRails) (fun _ => rfl) (logLimited_sans _ _ _ _ _ _ _)
@[simp] theorem logLimited_tapBits (c k d e g h : Nat) (s : State) : (logLimited c k d e g h s).tapBits = s.tapBits := of_sansLog (·.tapBits) (fun _ => rfl) (logLimited_sans _ _ _ _ _ _ _)
@[simp] theorem logLimited_encs (c k d e g h : Nat) (s : State) : (logLimited c k d e g h s).encs = s.encs := of_sansLog (·.encs) (fun _ => rfl) (logLimited_sans _ _ _ _ _ _ _)
@[simp] theorem logLimited_trks (c k d e g h : Nat) (s : State) : (logLimited c k d e g h s).trks = s.trks := of_sansLog (·.trks) (fun _ => rfl) (logLimited_sans _ _ _ _ _ _ _)
@[simp] theorem logLimited_chns (c k d e g h : Nat) (s : State) : (logLimited c k d e g h s).chns = s.chns := of_sansLog (·.chns) (fun _ => rfl) (logLimited_sans _ _ _ _ _ _ _)
@[simp] theorem logLimited_chnOut (c k d e g h : Nat) (s : State) : (logLimited c k d e g h s).chnOut = s.chnOut := of_sansLog (·.chnOut) (fun _ => rfl) (logLimited_sans _ _ _ _ _ _ _)
@[simp] theorem logLimited_gpDrive (c k d e g h : Nat) (s : State) : (logLimited c k d e g h s).gpDrive = s.gpDrive := of_sansLog (·.gpDrive) (fun _ => rfl) (logLimited_sans _ _ _ _ _ _ _)
@[simp] theorem logLimited_gpValue (c k d e g h : Nat) (s : State) : (logLimited c k d e g h s).gpValue = s.gpValue := of_sansLog (·.gpValue) (fun _ => rfl) (logLimited_sans _ _ _ _ _ _ _)
@[simp] theorem logLimited_gpQueue (c k d e g h : Nat) (s : State) : (logLimited c k d e g h s).gpQueue = s.gpQueue := of_sansLog (·.gpQueue) (fun _ => rfl) (logLimited_sans _ _ _ _ _ _ _)
@[simp] theorem logLimited_queues (c k d e g h : Nat) (s : State) : (logLimited c k d e g h s).queues = s.queues := of_sansLog (·.queues) (fun _ => rfl) (logLimited_sans _ _ _ _ _ _ _)
@[simp] theorem logLimited_caps (c k d e g h : Nat) (s : State) : (logLimited c k d e g h s).caps = s.caps := of_sansLog (·.caps) (fun _ => rfl) (logLimited_sans _ _ _ _ _ _ _)
@[simp] theorem logLimited_dmds (c k d e g h : Nat) (s : State) : (logLimited c k d e g h s).dmds = s.dmds := of_sansLog (·.dmds) (fun _ => rfl) (logLimited_sans _ _ _ _ _ _ _)
@[simp] theorem logLimited_adcOn (c k d e g h : Nat) (s : State) : (logLimited c k d e g h s).adcOn = s.adcOn := of_sansLog (·.adcOn) (fun _ => rfl) (logLimited_sans _ _ _ _ _ _ _)
@[simp] theorem logLimited_adcQ (c k d e g h : Nat) (s : State) : (logLimited c k d e g h s).adcQ = s.adcQ := of_sansLog (·.adcQ) (fun _ => rfl) (logLimited_sans _ _ _ _ _ _ _)
@[simp] theorem logLimited_hist (c k d e g h : Nat) (s : State) : (logLimited c k d e g h s).hist = s.hist := of_sansLog (·.hist) (fun _ => rfl) (logLimited_sans _ _ _ _ _ _ _)
@[simp] theorem logLimited_lanes (c k d e g h : Nat) (s : State) : (logLimited c k d e g h s).lanes = s.lanes := of_sansLog (·.lanes) (fun _ => rfl) (logLimited_sans _ _ _ _ _ _ _)
@[simp] theorem logLimited_meas (c k d e g h : Nat) (s : State) : (logLimited c k d e g h s).meas = s.meas := of_sansLog (·.meas) (fun _ => rfl) (logLimited_sans _ _ _ _ _ _ _)
@[simp] theorem logLimited_limOut (c k d e g h : Nat) (s : State) : (logLimited c k d e g h s).limOut = s.limOut := of_sansLog (·.limOut) (fun _ => rfl) (logLimited_sans _ _ _ _ _ _ _)
@[simp] theorem logLimited_faultSum (c k d e g h : Nat) (s : State) : (logLimited c k d e g h s).faultSum = s.faultSum := of_sansLog (·.faultSum) (fun _ => rfl) (logLimited_sans _ _ _ _ _ _ _)
@[simp] theorem logLimited_car (c k d e g h : Nat) (s : State) : (logLimited c k d e g h s).car = s.car := of_sansLog (·.car) (fun _ => rfl) (logLimited_sans _ _ _ _ _ _ _)
@[simp] theorem logLimited_panX (c k d e g h : Nat) (s : State) : (logLimited c k d e g h s).panX = s.panX := of_sansLog (·.panX) (fun _ => rfl) (logLimited_sans _ _ _ _ _ _ _)
@[simp] theorem logLimited_cal (c k d e g h : Nat) (s : State) : (logLimited c k d e g h s).cal = s.cal := of_sansLog (·.cal) (fun _ => rfl) (logLimited_sans _ _ _ _ _ _ _)
@[simp] theorem logLimited_ols (c k d e g h : Nat) (s : State) : (logLimited c k d e g h s).ols = s.ols := of_sansLog (·.ols) (fun _ => rfl) (logLimited_sans _ _ _ _ _ _ _)
@[simp] theorem logLimited_ils (c k d e g h : Nat) (s : State) : (logLimited c k d e g h s).ils = s.ils := of_sansLog (·.ils) (fun _ => rfl) (logLimited_sans _ _ _ _ _ _ _)
@[simp] theorem logLimited_rkPorts (c k d e g h : Nat) (s : State) : (logLimited c k d e g h s).rkPorts = s.rkPorts := of_sansLog (·.rkPorts) (fun _ => rfl) (logLimited_sans _ _ _ _ _ _ _)
@[simp] theorem logLimited_rake (c k d e g h : Nat) (s : State) : (logLimited c k d e g h s).rake = s.rake := of_sansLog (·.rake) (fun _ => rfl) (logLimited_sans _ _ _ _ _ _ _)
@[simp] theorem logLimited_clk (c k d e g h : Nat) (s : State) : (logLimited c k d e g h s).clk = s.clk := of_sansLog (·.clk) (fun _ => rfl) (logLimited_sans _ _ _ _ _ _ _)
@[simp] theorem logLimited_cup (c k d e g h : Nat) (s : State) : (logLimited c k d e g h s).cup = s.cup := of_sansLog (·.cup) (fun _ => rfl) (logLimited_sans _ _ _ _ _ _ _)
@[simp] theorem logLimited_safeAt (c k d e g h : Nat) (s : State) : (logLimited c k d e g h s).safeAt = s.safeAt := of_sansLog (·.safeAt) (fun _ => rfl) (logLimited_sans _ _ _ _ _ _ _)
@[simp] theorem logLimited_asks (c k d e g h : Nat) (s : State) : (logLimited c k d e g h s).asks = s.asks := of_sansLog (·.asks) (fun _ => rfl) (logLimited_sans _ _ _ _ _ _ _)
@[simp] theorem logLimited_nvm (c k d e g h : Nat) (s : State) : (logLimited c k d e g h s).nvm = s.nvm := of_sansLog (·.nvm) (fun _ => rfl) (logLimited_sans _ _ _ _ _ _ _)
@[simp] theorem logLimited_boot (c k d e g h : Nat) (s : State) : (logLimited c k d e g h s).boot = s.boot := of_sansLog (·.boot) (fun _ => rfl) (logLimited_sans _ _ _ _ _ _ _)
@[simp] theorem logLimited_recov (c k d e g h : Nat) (s : State) : (logLimited c k d e g h s).recov = s.recov := of_sansLog (·.recov) (fun _ => rfl) (logLimited_sans _ _ _ _ _ _ _)
@[simp] theorem logLimited_hst (c k d e g h : Nat) (s : State) : (logLimited c k d e g h s).hst = s.hst := of_sansLog (·.hst) (fun _ => rfl) (logLimited_sans _ _ _ _ _ _ _)
@[simp] theorem logLimited_parOdd (c k d e g h : Nat) (s : State) : (logLimited c k d e g h s).parOdd = s.parOdd := of_sansLog (·.parOdd) (fun _ => rfl) (logLimited_sans _ _ _ _ _ _ _)
@[simp] theorem logLimited_parBad (c k d e g h : Nat) (s : State) : (logLimited c k d e g h s).parBad = s.parBad := of_sansLog (·.parBad) (fun _ => rfl) (logLimited_sans _ _ _ _ _ _ _)
@[simp] theorem logLimited_unitSafe (c k d e g h : Nat) (s : State) : (logLimited c k d e g h s).unitSafe = s.unitSafe := of_sansLog (·.unitSafe) (fun _ => rfl) (logLimited_sans _ _ _ _ _ _ _)
@[simp] theorem logLimited_wrote (c k d e g h : Nat) (s : State) : (logLimited c k d e g h s).wrote = s.wrote := of_sansLog (·.wrote) (fun _ => rfl) (logLimited_sans _ _ _ _ _ _ _)
@[simp] theorem logLimited_snapReq (c k d e g h : Nat) (s : State) : (logLimited c k d e g h s).snapReq = s.snapReq := of_sansLog (·.snapReq) (fun _ => rfl) (logLimited_sans _ _ _ _ _ _ _)
@[simp] theorem logLimited_snapJobs (c k d e g h : Nat) (s : State) : (logLimited c k d e g h s).snapJobs = s.snapJobs := of_sansLog (·.snapJobs) (fun _ => rfl) (logLimited_sans _ _ _ _ _ _ _)
@[simp] theorem logLimited_fences (c k d e g h : Nat) (s : State) : (logLimited c k d e g h s).fences = s.fences := of_sansLog (·.fences) (fun _ => rfl) (logLimited_sans _ _ _ _ _ _ _)
@[simp] theorem logLimited_segLoads (c k d e g h : Nat) (s : State) : (logLimited c k d e g h s).segLoads = s.segLoads := of_sansLog (·.segLoads) (fun _ => rfl) (logLimited_sans _ _ _ _ _ _ _)
@[simp] theorem logLimited_stepLoads (c k d e g h : Nat) (s : State) : (logLimited c k d e g h s).stepLoads = s.stepLoads := of_sansLog (·.stepLoads) (fun _ => rfl) (logLimited_sans _ _ _ _ _ _ _)
@[simp] theorem logLimited_panGrants (c k d e g h : Nat) (s : State) : (logLimited c k d e g h s).panGrants = s.panGrants := of_sansLog (·.panGrants) (fun _ => rfl) (logLimited_sans _ _ _ _ _ _ _)

@[simp] theorem flagAll_pending (o : Nat) (l : List (Nat × Nat × Nat)) (s : State) : (flagAll o l s).pending = s.pending := of_sansLog (·.pending) (fun _ => rfl) (flagAll_sans _ _ _)
@[simp] theorem flagAll_cmd (o : Nat) (l : List (Nat × Nat × Nat)) (s : State) : (flagAll o l s).cmd = s.cmd := of_sansLog (·.cmd) (fun _ => rfl) (flagAll_sans _ _ _)
@[simp] theorem flagAll_wo1 (o : Nat) (l : List (Nat × Nat × Nat)) (s : State) : (flagAll o l s).wo1 = s.wo1 := of_sansLog (·.wo1) (fun _ => rfl) (flagAll_sans _ _ _)
@[simp] theorem flagAll_freeN (o : Nat) (l : List (Nat × Nat × Nat)) (s : State) : (flagAll o l s).freeN = s.freeN := of_sansLog (·.freeN) (fun _ => rfl) (flagAll_sans _ _ _)
@[simp] theorem flagAll_carafe (o : Nat) (l : List (Nat × Nat × Nat)) (s : State) : (flagAll o l s).carafe = s.carafe := of_sansLog (·.carafe) (fun _ => rfl) (flagAll_sans _ _ _)
@[simp] theorem flagAll_pans (o : Nat) (l : List (Nat × Nat × Nat)) (s : State) : (flagAll o l s).pans = s.pans := of_sansLog (·.pans) (fun _ => rfl) (flagAll_sans _ _ _)
@[simp] theorem flagAll_fwImg (o : Nat) (l : List (Nat × Nat × Nat)) (s : State) : (flagAll o l s).fwImg = s.fwImg := of_sansLog (·.fwImg) (fun _ => rfl) (flagAll_sans _ _ _)
@[simp] theorem flagAll_audMirror (o : Nat) (l : List (Nat × Nat × Nat)) (s : State) : (flagAll o l s).audMirror = s.audMirror := of_sansLog (·.audMirror) (fun _ => rfl) (flagAll_sans _ _ _)
@[simp] theorem flagAll_msixTab (o : Nat) (l : List (Nat × Nat × Nat)) (s : State) : (flagAll o l s).msixTab = s.msixTab := of_sansLog (·.msixTab) (fun _ => rfl) (flagAll_sans _ _ _)
@[simp] theorem flagAll_out (o : Nat) (l : List (Nat × Nat × Nat)) (s : State) : (flagAll o l s).out = s.out := of_sansLog (·.out) (fun _ => rfl) (flagAll_sans _ _ _)
@[simp] theorem flagAll_wins (o : Nat) (l : List (Nat × Nat × Nat)) (s : State) : (flagAll o l s).wins = s.wins := of_sansLog (·.wins) (fun _ => rfl) (flagAll_sans _ _ _)
@[simp] theorem flagAll_pool (o : Nat) (l : List (Nat × Nat × Nat)) (s : State) : (flagAll o l s).pool = s.pool := of_sansLog (·.pool) (fun _ => rfl) (flagAll_sans _ _ _)
@[simp] theorem flagAll_jobs (o : Nat) (l : List (Nat × Nat × Nat)) (s : State) : (flagAll o l s).jobs = s.jobs := of_sansLog (·.jobs) (fun _ => rfl) (flagAll_sans _ _ _)
@[simp] theorem flagAll_nextJob (o : Nat) (l : List (Nat × Nat × Nat)) (s : State) : (flagAll o l s).nextJob = s.nextJob := of_sansLog (·.nextJob) (fun _ => rfl) (flagAll_sans _ _ _)
@[simp] theorem flagAll_heldPkts (o : Nat) (l : List (Nat × Nat × Nat)) (s : State) : (flagAll o l s).heldPkts = s.heldPkts := of_sansLog (·.heldPkts) (fun _ => rfl) (flagAll_sans _ _ _)
@[simp] theorem flagAll_rqHead (o : Nat) (l : List (Nat × Nat × Nat)) (s : State) : (flagAll o l s).rqHead = s.rqHead := of_sansLog (·.rqHead) (fun _ => rfl) (flagAll_sans _ _ _)
@[simp] theorem flagAll_rqWait (o : Nat) (l : List (Nat × Nat × Nat)) (s : State) : (flagAll o l s).rqWait = s.rqWait := of_sansLog (·.rqWait) (fun _ => rfl) (flagAll_sans _ _ _)
@[simp] theorem flagAll_opens (o : Nat) (l : List (Nat × Nat × Nat)) (s : State) : (flagAll o l s).opens = s.opens := of_sansLog (·.opens) (fun _ => rfl) (flagAll_sans _ _ _)
@[simp] theorem flagAll_staged (o : Nat) (l : List (Nat × Nat × Nat)) (s : State) : (flagAll o l s).staged = s.staged := of_sansLog (·.staged) (fun _ => rfl) (flagAll_sans _ _ _)
@[simp] theorem flagAll_segs (o : Nat) (l : List (Nat × Nat × Nat)) (s : State) : (flagAll o l s).segs = s.segs := of_sansLog (·.segs) (fun _ => rfl) (flagAll_sans _ _ _)
@[simp] theorem flagAll_badUnits (o : Nat) (l : List (Nat × Nat × Nat)) (s : State) : (flagAll o l s).badUnits = s.badUnits := of_sansLog (·.badUnits) (fun _ => rfl) (flagAll_sans _ _ _)
@[simp] theorem flagAll_badPans (o : Nat) (l : List (Nat × Nat × Nat)) (s : State) : (flagAll o l s).badPans = s.badPans := of_sansLog (·.badPans) (fun _ => rfl) (flagAll_sans _ _ _)
@[simp] theorem flagAll_plys (o : Nat) (l : List (Nat × Nat × Nat)) (s : State) : (flagAll o l s).plys = s.plys := of_sansLog (·.plys) (fun _ => rfl) (flagAll_sans _ _ _)
@[simp] theorem flagAll_trigs (o : Nat) (l : List (Nat × Nat × Nat)) (s : State) : (flagAll o l s).trigs = s.trigs := of_sansLog (·.trigs) (fun _ => rfl) (flagAll_sans _ _ _)
@[simp] theorem flagAll_seqEvs (o : Nat) (l : List (Nat × Nat × Nat)) (s : State) : (flagAll o l s).seqEvs = s.seqEvs := of_sansLog (·.seqEvs) (fun _ => rfl) (flagAll_sans _ _ _)
@[simp] theorem flagAll_rails (o : Nat) (l : List (Nat × Nat × Nat)) (s : State) : (flagAll o l s).rails = s.rails := of_sansLog (·.rails) (fun _ => rfl) (flagAll_sans _ _ _)
@[simp] theorem flagAll_chRails (o : Nat) (l : List (Nat × Nat × Nat)) (s : State) : (flagAll o l s).chRails = s.chRails := of_sansLog (·.chRails) (fun _ => rfl) (flagAll_sans _ _ _)
@[simp] theorem flagAll_tapBits (o : Nat) (l : List (Nat × Nat × Nat)) (s : State) : (flagAll o l s).tapBits = s.tapBits := of_sansLog (·.tapBits) (fun _ => rfl) (flagAll_sans _ _ _)
@[simp] theorem flagAll_encs (o : Nat) (l : List (Nat × Nat × Nat)) (s : State) : (flagAll o l s).encs = s.encs := of_sansLog (·.encs) (fun _ => rfl) (flagAll_sans _ _ _)
@[simp] theorem flagAll_trks (o : Nat) (l : List (Nat × Nat × Nat)) (s : State) : (flagAll o l s).trks = s.trks := of_sansLog (·.trks) (fun _ => rfl) (flagAll_sans _ _ _)
@[simp] theorem flagAll_chns (o : Nat) (l : List (Nat × Nat × Nat)) (s : State) : (flagAll o l s).chns = s.chns := of_sansLog (·.chns) (fun _ => rfl) (flagAll_sans _ _ _)
@[simp] theorem flagAll_chnOut (o : Nat) (l : List (Nat × Nat × Nat)) (s : State) : (flagAll o l s).chnOut = s.chnOut := of_sansLog (·.chnOut) (fun _ => rfl) (flagAll_sans _ _ _)
@[simp] theorem flagAll_gpDrive (o : Nat) (l : List (Nat × Nat × Nat)) (s : State) : (flagAll o l s).gpDrive = s.gpDrive := of_sansLog (·.gpDrive) (fun _ => rfl) (flagAll_sans _ _ _)
@[simp] theorem flagAll_gpValue (o : Nat) (l : List (Nat × Nat × Nat)) (s : State) : (flagAll o l s).gpValue = s.gpValue := of_sansLog (·.gpValue) (fun _ => rfl) (flagAll_sans _ _ _)
@[simp] theorem flagAll_gpQueue (o : Nat) (l : List (Nat × Nat × Nat)) (s : State) : (flagAll o l s).gpQueue = s.gpQueue := of_sansLog (·.gpQueue) (fun _ => rfl) (flagAll_sans _ _ _)
@[simp] theorem flagAll_queues (o : Nat) (l : List (Nat × Nat × Nat)) (s : State) : (flagAll o l s).queues = s.queues := of_sansLog (·.queues) (fun _ => rfl) (flagAll_sans _ _ _)
@[simp] theorem flagAll_caps (o : Nat) (l : List (Nat × Nat × Nat)) (s : State) : (flagAll o l s).caps = s.caps := of_sansLog (·.caps) (fun _ => rfl) (flagAll_sans _ _ _)
@[simp] theorem flagAll_dmds (o : Nat) (l : List (Nat × Nat × Nat)) (s : State) : (flagAll o l s).dmds = s.dmds := of_sansLog (·.dmds) (fun _ => rfl) (flagAll_sans _ _ _)
@[simp] theorem flagAll_adcOn (o : Nat) (l : List (Nat × Nat × Nat)) (s : State) : (flagAll o l s).adcOn = s.adcOn := of_sansLog (·.adcOn) (fun _ => rfl) (flagAll_sans _ _ _)
@[simp] theorem flagAll_adcQ (o : Nat) (l : List (Nat × Nat × Nat)) (s : State) : (flagAll o l s).adcQ = s.adcQ := of_sansLog (·.adcQ) (fun _ => rfl) (flagAll_sans _ _ _)
@[simp] theorem flagAll_hist (o : Nat) (l : List (Nat × Nat × Nat)) (s : State) : (flagAll o l s).hist = s.hist := of_sansLog (·.hist) (fun _ => rfl) (flagAll_sans _ _ _)
@[simp] theorem flagAll_lanes (o : Nat) (l : List (Nat × Nat × Nat)) (s : State) : (flagAll o l s).lanes = s.lanes := of_sansLog (·.lanes) (fun _ => rfl) (flagAll_sans _ _ _)
@[simp] theorem flagAll_meas (o : Nat) (l : List (Nat × Nat × Nat)) (s : State) : (flagAll o l s).meas = s.meas := of_sansLog (·.meas) (fun _ => rfl) (flagAll_sans _ _ _)
@[simp] theorem flagAll_limOut (o : Nat) (l : List (Nat × Nat × Nat)) (s : State) : (flagAll o l s).limOut = s.limOut := of_sansLog (·.limOut) (fun _ => rfl) (flagAll_sans _ _ _)
@[simp] theorem flagAll_faultSum (o : Nat) (l : List (Nat × Nat × Nat)) (s : State) : (flagAll o l s).faultSum = s.faultSum := of_sansLog (·.faultSum) (fun _ => rfl) (flagAll_sans _ _ _)
@[simp] theorem flagAll_car (o : Nat) (l : List (Nat × Nat × Nat)) (s : State) : (flagAll o l s).car = s.car := of_sansLog (·.car) (fun _ => rfl) (flagAll_sans _ _ _)
@[simp] theorem flagAll_panX (o : Nat) (l : List (Nat × Nat × Nat)) (s : State) : (flagAll o l s).panX = s.panX := of_sansLog (·.panX) (fun _ => rfl) (flagAll_sans _ _ _)
@[simp] theorem flagAll_cal (o : Nat) (l : List (Nat × Nat × Nat)) (s : State) : (flagAll o l s).cal = s.cal := of_sansLog (·.cal) (fun _ => rfl) (flagAll_sans _ _ _)
@[simp] theorem flagAll_ols (o : Nat) (l : List (Nat × Nat × Nat)) (s : State) : (flagAll o l s).ols = s.ols := of_sansLog (·.ols) (fun _ => rfl) (flagAll_sans _ _ _)
@[simp] theorem flagAll_ils (o : Nat) (l : List (Nat × Nat × Nat)) (s : State) : (flagAll o l s).ils = s.ils := of_sansLog (·.ils) (fun _ => rfl) (flagAll_sans _ _ _)
@[simp] theorem flagAll_rkPorts (o : Nat) (l : List (Nat × Nat × Nat)) (s : State) : (flagAll o l s).rkPorts = s.rkPorts := of_sansLog (·.rkPorts) (fun _ => rfl) (flagAll_sans _ _ _)
@[simp] theorem flagAll_rake (o : Nat) (l : List (Nat × Nat × Nat)) (s : State) : (flagAll o l s).rake = s.rake := of_sansLog (·.rake) (fun _ => rfl) (flagAll_sans _ _ _)
@[simp] theorem flagAll_clk (o : Nat) (l : List (Nat × Nat × Nat)) (s : State) : (flagAll o l s).clk = s.clk := of_sansLog (·.clk) (fun _ => rfl) (flagAll_sans _ _ _)
@[simp] theorem flagAll_cup (o : Nat) (l : List (Nat × Nat × Nat)) (s : State) : (flagAll o l s).cup = s.cup := of_sansLog (·.cup) (fun _ => rfl) (flagAll_sans _ _ _)
@[simp] theorem flagAll_safeAt (o : Nat) (l : List (Nat × Nat × Nat)) (s : State) : (flagAll o l s).safeAt = s.safeAt := of_sansLog (·.safeAt) (fun _ => rfl) (flagAll_sans _ _ _)
@[simp] theorem flagAll_asks (o : Nat) (l : List (Nat × Nat × Nat)) (s : State) : (flagAll o l s).asks = s.asks := of_sansLog (·.asks) (fun _ => rfl) (flagAll_sans _ _ _)
@[simp] theorem flagAll_nvm (o : Nat) (l : List (Nat × Nat × Nat)) (s : State) : (flagAll o l s).nvm = s.nvm := of_sansLog (·.nvm) (fun _ => rfl) (flagAll_sans _ _ _)
@[simp] theorem flagAll_boot (o : Nat) (l : List (Nat × Nat × Nat)) (s : State) : (flagAll o l s).boot = s.boot := of_sansLog (·.boot) (fun _ => rfl) (flagAll_sans _ _ _)
@[simp] theorem flagAll_recov (o : Nat) (l : List (Nat × Nat × Nat)) (s : State) : (flagAll o l s).recov = s.recov := of_sansLog (·.recov) (fun _ => rfl) (flagAll_sans _ _ _)
@[simp] theorem flagAll_hst (o : Nat) (l : List (Nat × Nat × Nat)) (s : State) : (flagAll o l s).hst = s.hst := of_sansLog (·.hst) (fun _ => rfl) (flagAll_sans _ _ _)
@[simp] theorem flagAll_parOdd (o : Nat) (l : List (Nat × Nat × Nat)) (s : State) : (flagAll o l s).parOdd = s.parOdd := of_sansLog (·.parOdd) (fun _ => rfl) (flagAll_sans _ _ _)
@[simp] theorem flagAll_parBad (o : Nat) (l : List (Nat × Nat × Nat)) (s : State) : (flagAll o l s).parBad = s.parBad := of_sansLog (·.parBad) (fun _ => rfl) (flagAll_sans _ _ _)
@[simp] theorem flagAll_unitSafe (o : Nat) (l : List (Nat × Nat × Nat)) (s : State) : (flagAll o l s).unitSafe = s.unitSafe := of_sansLog (·.unitSafe) (fun _ => rfl) (flagAll_sans _ _ _)
@[simp] theorem flagAll_wrote (o : Nat) (l : List (Nat × Nat × Nat)) (s : State) : (flagAll o l s).wrote = s.wrote := of_sansLog (·.wrote) (fun _ => rfl) (flagAll_sans _ _ _)
@[simp] theorem flagAll_snapReq (o : Nat) (l : List (Nat × Nat × Nat)) (s : State) : (flagAll o l s).snapReq = s.snapReq := of_sansLog (·.snapReq) (fun _ => rfl) (flagAll_sans _ _ _)
@[simp] theorem flagAll_snapJobs (o : Nat) (l : List (Nat × Nat × Nat)) (s : State) : (flagAll o l s).snapJobs = s.snapJobs := of_sansLog (·.snapJobs) (fun _ => rfl) (flagAll_sans _ _ _)
@[simp] theorem flagAll_fences (o : Nat) (l : List (Nat × Nat × Nat)) (s : State) : (flagAll o l s).fences = s.fences := of_sansLog (·.fences) (fun _ => rfl) (flagAll_sans _ _ _)
@[simp] theorem flagAll_segLoads (o : Nat) (l : List (Nat × Nat × Nat)) (s : State) : (flagAll o l s).segLoads = s.segLoads := of_sansLog (·.segLoads) (fun _ => rfl) (flagAll_sans _ _ _)
@[simp] theorem flagAll_stepLoads (o : Nat) (l : List (Nat × Nat × Nat)) (s : State) : (flagAll o l s).stepLoads = s.stepLoads := of_sansLog (·.stepLoads) (fun _ => rfl) (flagAll_sans _ _ _)
@[simp] theorem flagAll_panGrants (o : Nat) (l : List (Nat × Nat × Nat)) (s : State) : (flagAll o l s).panGrants = s.panGrants := of_sansLog (·.panGrants) (fun _ => rfl) (flagAll_sans _ _ _)

@[simp] theorem activityTick_pending (s : State) : (activityTick s).pending = s.pending := of_sansLog (·.pending) (fun _ => rfl) (activityTick_sans _)
@[simp] theorem activityTick_cmd (s : State) : (activityTick s).cmd = s.cmd := of_sansLog (·.cmd) (fun _ => rfl) (activityTick_sans _)
@[simp] theorem activityTick_wo1 (s : State) : (activityTick s).wo1 = s.wo1 := of_sansLog (·.wo1) (fun _ => rfl) (activityTick_sans _)
@[simp] theorem activityTick_freeN (s : State) : (activityTick s).freeN = s.freeN := of_sansLog (·.freeN) (fun _ => rfl) (activityTick_sans _)
@[simp] theorem activityTick_carafe (s : State) : (activityTick s).carafe = s.carafe := of_sansLog (·.carafe) (fun _ => rfl) (activityTick_sans _)
@[simp] theorem activityTick_pans (s : State) : (activityTick s).pans = s.pans := of_sansLog (·.pans) (fun _ => rfl) (activityTick_sans _)
@[simp] theorem activityTick_fwImg (s : State) : (activityTick s).fwImg = s.fwImg := of_sansLog (·.fwImg) (fun _ => rfl) (activityTick_sans _)
@[simp] theorem activityTick_audMirror (s : State) : (activityTick s).audMirror = s.audMirror := of_sansLog (·.audMirror) (fun _ => rfl) (activityTick_sans _)
@[simp] theorem activityTick_msixTab (s : State) : (activityTick s).msixTab = s.msixTab := of_sansLog (·.msixTab) (fun _ => rfl) (activityTick_sans _)
@[simp] theorem activityTick_out (s : State) : (activityTick s).out = s.out := of_sansLog (·.out) (fun _ => rfl) (activityTick_sans _)
@[simp] theorem activityTick_wins (s : State) : (activityTick s).wins = s.wins := of_sansLog (·.wins) (fun _ => rfl) (activityTick_sans _)
@[simp] theorem activityTick_pool (s : State) : (activityTick s).pool = s.pool := of_sansLog (·.pool) (fun _ => rfl) (activityTick_sans _)
@[simp] theorem activityTick_jobs (s : State) : (activityTick s).jobs = s.jobs := of_sansLog (·.jobs) (fun _ => rfl) (activityTick_sans _)
@[simp] theorem activityTick_nextJob (s : State) : (activityTick s).nextJob = s.nextJob := of_sansLog (·.nextJob) (fun _ => rfl) (activityTick_sans _)
@[simp] theorem activityTick_heldPkts (s : State) : (activityTick s).heldPkts = s.heldPkts := of_sansLog (·.heldPkts) (fun _ => rfl) (activityTick_sans _)
@[simp] theorem activityTick_rqHead (s : State) : (activityTick s).rqHead = s.rqHead := of_sansLog (·.rqHead) (fun _ => rfl) (activityTick_sans _)
@[simp] theorem activityTick_rqWait (s : State) : (activityTick s).rqWait = s.rqWait := of_sansLog (·.rqWait) (fun _ => rfl) (activityTick_sans _)
@[simp] theorem activityTick_opens (s : State) : (activityTick s).opens = s.opens := of_sansLog (·.opens) (fun _ => rfl) (activityTick_sans _)
@[simp] theorem activityTick_staged (s : State) : (activityTick s).staged = s.staged := of_sansLog (·.staged) (fun _ => rfl) (activityTick_sans _)
@[simp] theorem activityTick_segs (s : State) : (activityTick s).segs = s.segs := of_sansLog (·.segs) (fun _ => rfl) (activityTick_sans _)
@[simp] theorem activityTick_badUnits (s : State) : (activityTick s).badUnits = s.badUnits := of_sansLog (·.badUnits) (fun _ => rfl) (activityTick_sans _)
@[simp] theorem activityTick_badPans (s : State) : (activityTick s).badPans = s.badPans := of_sansLog (·.badPans) (fun _ => rfl) (activityTick_sans _)
@[simp] theorem activityTick_plys (s : State) : (activityTick s).plys = s.plys := of_sansLog (·.plys) (fun _ => rfl) (activityTick_sans _)
@[simp] theorem activityTick_trigs (s : State) : (activityTick s).trigs = s.trigs := of_sansLog (·.trigs) (fun _ => rfl) (activityTick_sans _)
@[simp] theorem activityTick_seqEvs (s : State) : (activityTick s).seqEvs = s.seqEvs := of_sansLog (·.seqEvs) (fun _ => rfl) (activityTick_sans _)
@[simp] theorem activityTick_rails (s : State) : (activityTick s).rails = s.rails := of_sansLog (·.rails) (fun _ => rfl) (activityTick_sans _)
@[simp] theorem activityTick_chRails (s : State) : (activityTick s).chRails = s.chRails := of_sansLog (·.chRails) (fun _ => rfl) (activityTick_sans _)
@[simp] theorem activityTick_tapBits (s : State) : (activityTick s).tapBits = s.tapBits := of_sansLog (·.tapBits) (fun _ => rfl) (activityTick_sans _)
@[simp] theorem activityTick_encs (s : State) : (activityTick s).encs = s.encs := of_sansLog (·.encs) (fun _ => rfl) (activityTick_sans _)
@[simp] theorem activityTick_trks (s : State) : (activityTick s).trks = s.trks := of_sansLog (·.trks) (fun _ => rfl) (activityTick_sans _)
@[simp] theorem activityTick_chns (s : State) : (activityTick s).chns = s.chns := of_sansLog (·.chns) (fun _ => rfl) (activityTick_sans _)
@[simp] theorem activityTick_chnOut (s : State) : (activityTick s).chnOut = s.chnOut := of_sansLog (·.chnOut) (fun _ => rfl) (activityTick_sans _)
@[simp] theorem activityTick_gpDrive (s : State) : (activityTick s).gpDrive = s.gpDrive := of_sansLog (·.gpDrive) (fun _ => rfl) (activityTick_sans _)
@[simp] theorem activityTick_gpValue (s : State) : (activityTick s).gpValue = s.gpValue := of_sansLog (·.gpValue) (fun _ => rfl) (activityTick_sans _)
@[simp] theorem activityTick_gpQueue (s : State) : (activityTick s).gpQueue = s.gpQueue := of_sansLog (·.gpQueue) (fun _ => rfl) (activityTick_sans _)
@[simp] theorem activityTick_queues (s : State) : (activityTick s).queues = s.queues := of_sansLog (·.queues) (fun _ => rfl) (activityTick_sans _)
@[simp] theorem activityTick_caps (s : State) : (activityTick s).caps = s.caps := of_sansLog (·.caps) (fun _ => rfl) (activityTick_sans _)
@[simp] theorem activityTick_dmds (s : State) : (activityTick s).dmds = s.dmds := of_sansLog (·.dmds) (fun _ => rfl) (activityTick_sans _)
@[simp] theorem activityTick_adcOn (s : State) : (activityTick s).adcOn = s.adcOn := of_sansLog (·.adcOn) (fun _ => rfl) (activityTick_sans _)
@[simp] theorem activityTick_adcQ (s : State) : (activityTick s).adcQ = s.adcQ := of_sansLog (·.adcQ) (fun _ => rfl) (activityTick_sans _)
@[simp] theorem activityTick_hist (s : State) : (activityTick s).hist = s.hist := of_sansLog (·.hist) (fun _ => rfl) (activityTick_sans _)
@[simp] theorem activityTick_lanes (s : State) : (activityTick s).lanes = s.lanes := of_sansLog (·.lanes) (fun _ => rfl) (activityTick_sans _)
@[simp] theorem activityTick_meas (s : State) : (activityTick s).meas = s.meas := of_sansLog (·.meas) (fun _ => rfl) (activityTick_sans _)
@[simp] theorem activityTick_limOut (s : State) : (activityTick s).limOut = s.limOut := of_sansLog (·.limOut) (fun _ => rfl) (activityTick_sans _)
@[simp] theorem activityTick_faultSum (s : State) : (activityTick s).faultSum = s.faultSum := of_sansLog (·.faultSum) (fun _ => rfl) (activityTick_sans _)
@[simp] theorem activityTick_car (s : State) : (activityTick s).car = s.car := of_sansLog (·.car) (fun _ => rfl) (activityTick_sans _)
@[simp] theorem activityTick_panX (s : State) : (activityTick s).panX = s.panX := of_sansLog (·.panX) (fun _ => rfl) (activityTick_sans _)
@[simp] theorem activityTick_cal (s : State) : (activityTick s).cal = s.cal := of_sansLog (·.cal) (fun _ => rfl) (activityTick_sans _)
@[simp] theorem activityTick_ols (s : State) : (activityTick s).ols = s.ols := of_sansLog (·.ols) (fun _ => rfl) (activityTick_sans _)
@[simp] theorem activityTick_ils (s : State) : (activityTick s).ils = s.ils := of_sansLog (·.ils) (fun _ => rfl) (activityTick_sans _)
@[simp] theorem activityTick_rkPorts (s : State) : (activityTick s).rkPorts = s.rkPorts := of_sansLog (·.rkPorts) (fun _ => rfl) (activityTick_sans _)
@[simp] theorem activityTick_rake (s : State) : (activityTick s).rake = s.rake := of_sansLog (·.rake) (fun _ => rfl) (activityTick_sans _)
@[simp] theorem activityTick_clk (s : State) : (activityTick s).clk = s.clk := of_sansLog (·.clk) (fun _ => rfl) (activityTick_sans _)
@[simp] theorem activityTick_cup (s : State) : (activityTick s).cup = s.cup := of_sansLog (·.cup) (fun _ => rfl) (activityTick_sans _)
@[simp] theorem activityTick_safeAt (s : State) : (activityTick s).safeAt = s.safeAt := of_sansLog (·.safeAt) (fun _ => rfl) (activityTick_sans _)
@[simp] theorem activityTick_asks (s : State) : (activityTick s).asks = s.asks := of_sansLog (·.asks) (fun _ => rfl) (activityTick_sans _)
@[simp] theorem activityTick_nvm (s : State) : (activityTick s).nvm = s.nvm := of_sansLog (·.nvm) (fun _ => rfl) (activityTick_sans _)
@[simp] theorem activityTick_boot (s : State) : (activityTick s).boot = s.boot := of_sansLog (·.boot) (fun _ => rfl) (activityTick_sans _)
@[simp] theorem activityTick_recov (s : State) : (activityTick s).recov = s.recov := of_sansLog (·.recov) (fun _ => rfl) (activityTick_sans _)
@[simp] theorem activityTick_hst (s : State) : (activityTick s).hst = s.hst := of_sansLog (·.hst) (fun _ => rfl) (activityTick_sans _)
@[simp] theorem activityTick_parOdd (s : State) : (activityTick s).parOdd = s.parOdd := of_sansLog (·.parOdd) (fun _ => rfl) (activityTick_sans _)
@[simp] theorem activityTick_parBad (s : State) : (activityTick s).parBad = s.parBad := of_sansLog (·.parBad) (fun _ => rfl) (activityTick_sans _)
@[simp] theorem activityTick_unitSafe (s : State) : (activityTick s).unitSafe = s.unitSafe := of_sansLog (·.unitSafe) (fun _ => rfl) (activityTick_sans _)
@[simp] theorem activityTick_wrote (s : State) : (activityTick s).wrote = s.wrote := of_sansLog (·.wrote) (fun _ => rfl) (activityTick_sans _)
@[simp] theorem activityTick_snapReq (s : State) : (activityTick s).snapReq = s.snapReq := of_sansLog (·.snapReq) (fun _ => rfl) (activityTick_sans _)
@[simp] theorem activityTick_snapJobs (s : State) : (activityTick s).snapJobs = s.snapJobs := of_sansLog (·.snapJobs) (fun _ => rfl) (activityTick_sans _)
@[simp] theorem activityTick_fences (s : State) : (activityTick s).fences = s.fences := of_sansLog (·.fences) (fun _ => rfl) (activityTick_sans _)
@[simp] theorem activityTick_segLoads (s : State) : (activityTick s).segLoads = s.segLoads := of_sansLog (·.segLoads) (fun _ => rfl) (activityTick_sans _)
@[simp] theorem activityTick_stepLoads (s : State) : (activityTick s).stepLoads = s.stepLoads := of_sansLog (·.stepLoads) (fun _ => rfl) (activityTick_sans _)
@[simp] theorem activityTick_panGrants (s : State) : (activityTick s).panGrants = s.panGrants := of_sansLog (·.panGrants) (fun _ => rfl) (activityTick_sans _)

@[simp] theorem modeTo_pending (m : Nat) (s : State) : (modeTo m s).pending = s.pending := of_sansLog (·.pending) (fun _ => rfl) (modeTo_sans _ _)
@[simp] theorem modeTo_cmd (m : Nat) (s : State) : (modeTo m s).cmd = s.cmd := of_sansLog (·.cmd) (fun _ => rfl) (modeTo_sans _ _)
@[simp] theorem modeTo_wo1 (m : Nat) (s : State) : (modeTo m s).wo1 = s.wo1 := of_sansLog (·.wo1) (fun _ => rfl) (modeTo_sans _ _)
@[simp] theorem modeTo_freeN (m : Nat) (s : State) : (modeTo m s).freeN = s.freeN := of_sansLog (·.freeN) (fun _ => rfl) (modeTo_sans _ _)
@[simp] theorem modeTo_carafe (m : Nat) (s : State) : (modeTo m s).carafe = s.carafe := of_sansLog (·.carafe) (fun _ => rfl) (modeTo_sans _ _)
@[simp] theorem modeTo_pans (m : Nat) (s : State) : (modeTo m s).pans = s.pans := of_sansLog (·.pans) (fun _ => rfl) (modeTo_sans _ _)
@[simp] theorem modeTo_fwImg (m : Nat) (s : State) : (modeTo m s).fwImg = s.fwImg := of_sansLog (·.fwImg) (fun _ => rfl) (modeTo_sans _ _)
@[simp] theorem modeTo_audMirror (m : Nat) (s : State) : (modeTo m s).audMirror = s.audMirror := of_sansLog (·.audMirror) (fun _ => rfl) (modeTo_sans _ _)
@[simp] theorem modeTo_msixTab (m : Nat) (s : State) : (modeTo m s).msixTab = s.msixTab := of_sansLog (·.msixTab) (fun _ => rfl) (modeTo_sans _ _)
@[simp] theorem modeTo_out (m : Nat) (s : State) : (modeTo m s).out = s.out := of_sansLog (·.out) (fun _ => rfl) (modeTo_sans _ _)
@[simp] theorem modeTo_wins (m : Nat) (s : State) : (modeTo m s).wins = s.wins := of_sansLog (·.wins) (fun _ => rfl) (modeTo_sans _ _)
@[simp] theorem modeTo_pool (m : Nat) (s : State) : (modeTo m s).pool = s.pool := of_sansLog (·.pool) (fun _ => rfl) (modeTo_sans _ _)
@[simp] theorem modeTo_jobs (m : Nat) (s : State) : (modeTo m s).jobs = s.jobs := of_sansLog (·.jobs) (fun _ => rfl) (modeTo_sans _ _)
@[simp] theorem modeTo_nextJob (m : Nat) (s : State) : (modeTo m s).nextJob = s.nextJob := of_sansLog (·.nextJob) (fun _ => rfl) (modeTo_sans _ _)
@[simp] theorem modeTo_heldPkts (m : Nat) (s : State) : (modeTo m s).heldPkts = s.heldPkts := of_sansLog (·.heldPkts) (fun _ => rfl) (modeTo_sans _ _)
@[simp] theorem modeTo_rqHead (m : Nat) (s : State) : (modeTo m s).rqHead = s.rqHead := of_sansLog (·.rqHead) (fun _ => rfl) (modeTo_sans _ _)
@[simp] theorem modeTo_rqWait (m : Nat) (s : State) : (modeTo m s).rqWait = s.rqWait := of_sansLog (·.rqWait) (fun _ => rfl) (modeTo_sans _ _)
@[simp] theorem modeTo_opens (m : Nat) (s : State) : (modeTo m s).opens = s.opens := of_sansLog (·.opens) (fun _ => rfl) (modeTo_sans _ _)
@[simp] theorem modeTo_staged (m : Nat) (s : State) : (modeTo m s).staged = s.staged := of_sansLog (·.staged) (fun _ => rfl) (modeTo_sans _ _)
@[simp] theorem modeTo_segs (m : Nat) (s : State) : (modeTo m s).segs = s.segs := of_sansLog (·.segs) (fun _ => rfl) (modeTo_sans _ _)
@[simp] theorem modeTo_badUnits (m : Nat) (s : State) : (modeTo m s).badUnits = s.badUnits := of_sansLog (·.badUnits) (fun _ => rfl) (modeTo_sans _ _)
@[simp] theorem modeTo_badPans (m : Nat) (s : State) : (modeTo m s).badPans = s.badPans := of_sansLog (·.badPans) (fun _ => rfl) (modeTo_sans _ _)
@[simp] theorem modeTo_plys (m : Nat) (s : State) : (modeTo m s).plys = s.plys := of_sansLog (·.plys) (fun _ => rfl) (modeTo_sans _ _)
@[simp] theorem modeTo_trigs (m : Nat) (s : State) : (modeTo m s).trigs = s.trigs := of_sansLog (·.trigs) (fun _ => rfl) (modeTo_sans _ _)
@[simp] theorem modeTo_seqEvs (m : Nat) (s : State) : (modeTo m s).seqEvs = s.seqEvs := of_sansLog (·.seqEvs) (fun _ => rfl) (modeTo_sans _ _)
@[simp] theorem modeTo_rails (m : Nat) (s : State) : (modeTo m s).rails = s.rails := of_sansLog (·.rails) (fun _ => rfl) (modeTo_sans _ _)
@[simp] theorem modeTo_chRails (m : Nat) (s : State) : (modeTo m s).chRails = s.chRails := of_sansLog (·.chRails) (fun _ => rfl) (modeTo_sans _ _)
@[simp] theorem modeTo_tapBits (m : Nat) (s : State) : (modeTo m s).tapBits = s.tapBits := of_sansLog (·.tapBits) (fun _ => rfl) (modeTo_sans _ _)
@[simp] theorem modeTo_encs (m : Nat) (s : State) : (modeTo m s).encs = s.encs := of_sansLog (·.encs) (fun _ => rfl) (modeTo_sans _ _)
@[simp] theorem modeTo_trks (m : Nat) (s : State) : (modeTo m s).trks = s.trks := of_sansLog (·.trks) (fun _ => rfl) (modeTo_sans _ _)
@[simp] theorem modeTo_chns (m : Nat) (s : State) : (modeTo m s).chns = s.chns := of_sansLog (·.chns) (fun _ => rfl) (modeTo_sans _ _)
@[simp] theorem modeTo_chnOut (m : Nat) (s : State) : (modeTo m s).chnOut = s.chnOut := of_sansLog (·.chnOut) (fun _ => rfl) (modeTo_sans _ _)
@[simp] theorem modeTo_gpDrive (m : Nat) (s : State) : (modeTo m s).gpDrive = s.gpDrive := of_sansLog (·.gpDrive) (fun _ => rfl) (modeTo_sans _ _)
@[simp] theorem modeTo_gpValue (m : Nat) (s : State) : (modeTo m s).gpValue = s.gpValue := of_sansLog (·.gpValue) (fun _ => rfl) (modeTo_sans _ _)
@[simp] theorem modeTo_gpQueue (m : Nat) (s : State) : (modeTo m s).gpQueue = s.gpQueue := of_sansLog (·.gpQueue) (fun _ => rfl) (modeTo_sans _ _)
@[simp] theorem modeTo_queues (m : Nat) (s : State) : (modeTo m s).queues = s.queues := of_sansLog (·.queues) (fun _ => rfl) (modeTo_sans _ _)
@[simp] theorem modeTo_caps (m : Nat) (s : State) : (modeTo m s).caps = s.caps := of_sansLog (·.caps) (fun _ => rfl) (modeTo_sans _ _)
@[simp] theorem modeTo_dmds (m : Nat) (s : State) : (modeTo m s).dmds = s.dmds := of_sansLog (·.dmds) (fun _ => rfl) (modeTo_sans _ _)
@[simp] theorem modeTo_adcOn (m : Nat) (s : State) : (modeTo m s).adcOn = s.adcOn := of_sansLog (·.adcOn) (fun _ => rfl) (modeTo_sans _ _)
@[simp] theorem modeTo_adcQ (m : Nat) (s : State) : (modeTo m s).adcQ = s.adcQ := of_sansLog (·.adcQ) (fun _ => rfl) (modeTo_sans _ _)
@[simp] theorem modeTo_hist (m : Nat) (s : State) : (modeTo m s).hist = s.hist := of_sansLog (·.hist) (fun _ => rfl) (modeTo_sans _ _)
@[simp] theorem modeTo_lanes (m : Nat) (s : State) : (modeTo m s).lanes = s.lanes := of_sansLog (·.lanes) (fun _ => rfl) (modeTo_sans _ _)
@[simp] theorem modeTo_meas (m : Nat) (s : State) : (modeTo m s).meas = s.meas := of_sansLog (·.meas) (fun _ => rfl) (modeTo_sans _ _)
@[simp] theorem modeTo_limOut (m : Nat) (s : State) : (modeTo m s).limOut = s.limOut := of_sansLog (·.limOut) (fun _ => rfl) (modeTo_sans _ _)
@[simp] theorem modeTo_faultSum (m : Nat) (s : State) : (modeTo m s).faultSum = s.faultSum := of_sansLog (·.faultSum) (fun _ => rfl) (modeTo_sans _ _)
@[simp] theorem modeTo_car (m : Nat) (s : State) : (modeTo m s).car = s.car := of_sansLog (·.car) (fun _ => rfl) (modeTo_sans _ _)
@[simp] theorem modeTo_panX (m : Nat) (s : State) : (modeTo m s).panX = s.panX := of_sansLog (·.panX) (fun _ => rfl) (modeTo_sans _ _)
@[simp] theorem modeTo_cal (m : Nat) (s : State) : (modeTo m s).cal = s.cal := of_sansLog (·.cal) (fun _ => rfl) (modeTo_sans _ _)
@[simp] theorem modeTo_ols (m : Nat) (s : State) : (modeTo m s).ols = s.ols := of_sansLog (·.ols) (fun _ => rfl) (modeTo_sans _ _)
@[simp] theorem modeTo_ils (m : Nat) (s : State) : (modeTo m s).ils = s.ils := of_sansLog (·.ils) (fun _ => rfl) (modeTo_sans _ _)
@[simp] theorem modeTo_rkPorts (m : Nat) (s : State) : (modeTo m s).rkPorts = s.rkPorts := of_sansLog (·.rkPorts) (fun _ => rfl) (modeTo_sans _ _)
@[simp] theorem modeTo_rake (m : Nat) (s : State) : (modeTo m s).rake = s.rake := of_sansLog (·.rake) (fun _ => rfl) (modeTo_sans _ _)
@[simp] theorem modeTo_clk (m : Nat) (s : State) : (modeTo m s).clk = s.clk := of_sansLog (·.clk) (fun _ => rfl) (modeTo_sans _ _)
@[simp] theorem modeTo_cup (m : Nat) (s : State) : (modeTo m s).cup = s.cup := of_sansLog (·.cup) (fun _ => rfl) (modeTo_sans _ _)
@[simp] theorem modeTo_safeAt (m : Nat) (s : State) : (modeTo m s).safeAt = s.safeAt := of_sansLog (·.safeAt) (fun _ => rfl) (modeTo_sans _ _)
@[simp] theorem modeTo_asks (m : Nat) (s : State) : (modeTo m s).asks = s.asks := of_sansLog (·.asks) (fun _ => rfl) (modeTo_sans _ _)
@[simp] theorem modeTo_nvm (m : Nat) (s : State) : (modeTo m s).nvm = s.nvm := of_sansLog (·.nvm) (fun _ => rfl) (modeTo_sans _ _)
@[simp] theorem modeTo_boot (m : Nat) (s : State) : (modeTo m s).boot = s.boot := of_sansLog (·.boot) (fun _ => rfl) (modeTo_sans _ _)
@[simp] theorem modeTo_recov (m : Nat) (s : State) : (modeTo m s).recov = s.recov := of_sansLog (·.recov) (fun _ => rfl) (modeTo_sans _ _)
@[simp] theorem modeTo_hst (m : Nat) (s : State) : (modeTo m s).hst = s.hst := of_sansLog (·.hst) (fun _ => rfl) (modeTo_sans _ _)
@[simp] theorem modeTo_parOdd (m : Nat) (s : State) : (modeTo m s).parOdd = s.parOdd := of_sansLog (·.parOdd) (fun _ => rfl) (modeTo_sans _ _)
@[simp] theorem modeTo_parBad (m : Nat) (s : State) : (modeTo m s).parBad = s.parBad := of_sansLog (·.parBad) (fun _ => rfl) (modeTo_sans _ _)
@[simp] theorem modeTo_unitSafe (m : Nat) (s : State) : (modeTo m s).unitSafe = s.unitSafe := of_sansLog (·.unitSafe) (fun _ => rfl) (modeTo_sans _ _)
@[simp] theorem modeTo_wrote (m : Nat) (s : State) : (modeTo m s).wrote = s.wrote := of_sansLog (·.wrote) (fun _ => rfl) (modeTo_sans _ _)
@[simp] theorem modeTo_snapReq (m : Nat) (s : State) : (modeTo m s).snapReq = s.snapReq := of_sansLog (·.snapReq) (fun _ => rfl) (modeTo_sans _ _)
@[simp] theorem modeTo_snapJobs (m : Nat) (s : State) : (modeTo m s).snapJobs = s.snapJobs := of_sansLog (·.snapJobs) (fun _ => rfl) (modeTo_sans _ _)
@[simp] theorem modeTo_fences (m : Nat) (s : State) : (modeTo m s).fences = s.fences := of_sansLog (·.fences) (fun _ => rfl) (modeTo_sans _ _)
@[simp] theorem modeTo_segLoads (m : Nat) (s : State) : (modeTo m s).segLoads = s.segLoads := of_sansLog (·.segLoads) (fun _ => rfl) (modeTo_sans _ _)
@[simp] theorem modeTo_stepLoads (m : Nat) (s : State) : (modeTo m s).stepLoads = s.stepLoads := of_sansLog (·.stepLoads) (fun _ => rfl) (modeTo_sans _ _)
@[simp] theorem modeTo_panGrants (m : Nat) (s : State) : (modeTo m s).panGrants = s.panGrants := of_sansLog (·.panGrants) (fun _ => rfl) (modeTo_sans _ _)

@[simp] theorem complete_pending (j a b : Nat) (d : List Nat) (s : State) : (complete j a b d s).pending = s.pending := of_sansDone (·.pending) (fun _ => rfl) (complete_sans _ _ _ _ _)
@[simp] theorem complete_cmd (j a b : Nat) (d : List Nat) (s : State) : (complete j a b d s).cmd = s.cmd := of_sansDone (·.cmd) (fun _ => rfl) (complete_sans _ _ _ _ _)
@[simp] theorem complete_wo1 (j a b : Nat) (d : List Nat) (s : State) : (complete j a b d s).wo1 = s.wo1 := of_sansDone (·.wo1) (fun _ => rfl) (complete_sans _ _ _ _ _)
@[simp] theorem complete_freeN (j a b : Nat) (d : List Nat) (s : State) : (complete j a b d s).freeN = s.freeN := of_sansDone (·.freeN) (fun _ => rfl) (complete_sans _ _ _ _ _)
@[simp] theorem complete_carafe (j a b : Nat) (d : List Nat) (s : State) : (complete j a b d s).carafe = s.carafe := of_sansDone (·.carafe) (fun _ => rfl) (complete_sans _ _ _ _ _)
@[simp] theorem complete_pans (j a b : Nat) (d : List Nat) (s : State) : (complete j a b d s).pans = s.pans := of_sansDone (·.pans) (fun _ => rfl) (complete_sans _ _ _ _ _)
@[simp] theorem complete_evRing (j a b : Nat) (d : List Nat) (s : State) : (complete j a b d s).evRing = s.evRing := of_sansDone (·.evRing) (fun _ => rfl) (complete_sans _ _ _ _ _)
@[simp] theorem complete_fwImg (j a b : Nat) (d : List Nat) (s : State) : (complete j a b d s).fwImg = s.fwImg := of_sansDone (·.fwImg) (fun _ => rfl) (complete_sans _ _ _ _ _)
@[simp] theorem complete_audMirror (j a b : Nat) (d : List Nat) (s : State) : (complete j a b d s).audMirror = s.audMirror := of_sansDone (·.audMirror) (fun _ => rfl) (complete_sans _ _ _ _ _)
@[simp] theorem complete_logSeq (j a b : Nat) (d : List Nat) (s : State) : (complete j a b d s).logSeq = s.logSeq := of_sansDone (·.logSeq) (fun _ => rfl) (complete_sans _ _ _ _ _)
@[simp] theorem complete_logLevel (j a b : Nat) (d : List Nat) (s : State) : (complete j a b d s).logLevel = s.logLevel := of_sansDone (·.logLevel) (fun _ => rfl) (complete_sans _ _ _ _ _)
@[simp] theorem complete_logTick (j a b : Nat) (d : List Nat) (s : State) : (complete j a b d s).logTick = s.logTick := of_sansDone (·.logTick) (fun _ => rfl) (complete_sans _ _ _ _ _)
@[simp] theorem complete_rates (j a b : Nat) (d : List Nat) (s : State) : (complete j a b d s).rates = s.rates := of_sansDone (·.rates) (fun _ => rfl) (complete_sans _ _ _ _ _)
@[simp] theorem complete_msixTab (j a b : Nat) (d : List Nat) (s : State) : (complete j a b d s).msixTab = s.msixTab := of_sansDone (·.msixTab) (fun _ => rfl) (complete_sans _ _ _ _ _)
@[simp] theorem complete_nextJob (j a b : Nat) (d : List Nat) (s : State) : (complete j a b d s).nextJob = s.nextJob := of_sansDone (·.nextJob) (fun _ => rfl) (complete_sans _ _ _ _ _)
@[simp] theorem complete_heldPkts (j a b : Nat) (d : List Nat) (s : State) : (complete j a b d s).heldPkts = s.heldPkts := of_sansDone (·.heldPkts) (fun _ => rfl) (complete_sans _ _ _ _ _)
@[simp] theorem complete_rqHead (j a b : Nat) (d : List Nat) (s : State) : (complete j a b d s).rqHead = s.rqHead := of_sansDone (·.rqHead) (fun _ => rfl) (complete_sans _ _ _ _ _)
@[simp] theorem complete_opens (j a b : Nat) (d : List Nat) (s : State) : (complete j a b d s).opens = s.opens := of_sansDone (·.opens) (fun _ => rfl) (complete_sans _ _ _ _ _)
@[simp] theorem complete_staged (j a b : Nat) (d : List Nat) (s : State) : (complete j a b d s).staged = s.staged := of_sansDone (·.staged) (fun _ => rfl) (complete_sans _ _ _ _ _)
@[simp] theorem complete_segs (j a b : Nat) (d : List Nat) (s : State) : (complete j a b d s).segs = s.segs := of_sansDone (·.segs) (fun _ => rfl) (complete_sans _ _ _ _ _)
@[simp] theorem complete_badUnits (j a b : Nat) (d : List Nat) (s : State) : (complete j a b d s).badUnits = s.badUnits := of_sansDone (·.badUnits) (fun _ => rfl) (complete_sans _ _ _ _ _)
@[simp] theorem complete_badPans (j a b : Nat) (d : List Nat) (s : State) : (complete j a b d s).badPans = s.badPans := of_sansDone (·.badPans) (fun _ => rfl) (complete_sans _ _ _ _ _)
@[simp] theorem complete_plys (j a b : Nat) (d : List Nat) (s : State) : (complete j a b d s).plys = s.plys := of_sansDone (·.plys) (fun _ => rfl) (complete_sans _ _ _ _ _)
@[simp] theorem complete_trigs (j a b : Nat) (d : List Nat) (s : State) : (complete j a b d s).trigs = s.trigs := of_sansDone (·.trigs) (fun _ => rfl) (complete_sans _ _ _ _ _)
@[simp] theorem complete_seqEvs (j a b : Nat) (d : List Nat) (s : State) : (complete j a b d s).seqEvs = s.seqEvs := of_sansDone (·.seqEvs) (fun _ => rfl) (complete_sans _ _ _ _ _)
@[simp] theorem complete_rails (j a b : Nat) (d : List Nat) (s : State) : (complete j a b d s).rails = s.rails := of_sansDone (·.rails) (fun _ => rfl) (complete_sans _ _ _ _ _)
@[simp] theorem complete_chRails (j a b : Nat) (d : List Nat) (s : State) : (complete j a b d s).chRails = s.chRails := of_sansDone (·.chRails) (fun _ => rfl) (complete_sans _ _ _ _ _)
@[simp] theorem complete_tapBits (j a b : Nat) (d : List Nat) (s : State) : (complete j a b d s).tapBits = s.tapBits := of_sansDone (·.tapBits) (fun _ => rfl) (complete_sans _ _ _ _ _)
@[simp] theorem complete_encs (j a b : Nat) (d : List Nat) (s : State) : (complete j a b d s).encs = s.encs := of_sansDone (·.encs) (fun _ => rfl) (complete_sans _ _ _ _ _)
@[simp] theorem complete_trks (j a b : Nat) (d : List Nat) (s : State) : (complete j a b d s).trks = s.trks := of_sansDone (·.trks) (fun _ => rfl) (complete_sans _ _ _ _ _)
@[simp] theorem complete_chns (j a b : Nat) (d : List Nat) (s : State) : (complete j a b d s).chns = s.chns := of_sansDone (·.chns) (fun _ => rfl) (complete_sans _ _ _ _ _)
@[simp] theorem complete_chnOut (j a b : Nat) (d : List Nat) (s : State) : (complete j a b d s).chnOut = s.chnOut := of_sansDone (·.chnOut) (fun _ => rfl) (complete_sans _ _ _ _ _)
@[simp] theorem complete_gpDrive (j a b : Nat) (d : List Nat) (s : State) : (complete j a b d s).gpDrive = s.gpDrive := of_sansDone (·.gpDrive) (fun _ => rfl) (complete_sans _ _ _ _ _)
@[simp] theorem complete_gpValue (j a b : Nat) (d : List Nat) (s : State) : (complete j a b d s).gpValue = s.gpValue := of_sansDone (·.gpValue) (fun _ => rfl) (complete_sans _ _ _ _ _)
@[simp] theorem complete_gpQueue (j a b : Nat) (d : List Nat) (s : State) : (complete j a b d s).gpQueue = s.gpQueue := of_sansDone (·.gpQueue) (fun _ => rfl) (complete_sans _ _ _ _ _)
@[simp] theorem complete_queues (j a b : Nat) (d : List Nat) (s : State) : (complete j a b d s).queues = s.queues := of_sansDone (·.queues) (fun _ => rfl) (complete_sans _ _ _ _ _)
@[simp] theorem complete_caps (j a b : Nat) (d : List Nat) (s : State) : (complete j a b d s).caps = s.caps := of_sansDone (·.caps) (fun _ => rfl) (complete_sans _ _ _ _ _)
@[simp] theorem complete_dmds (j a b : Nat) (d : List Nat) (s : State) : (complete j a b d s).dmds = s.dmds := of_sansDone (·.dmds) (fun _ => rfl) (complete_sans _ _ _ _ _)
@[simp] theorem complete_adcOn (j a b : Nat) (d : List Nat) (s : State) : (complete j a b d s).adcOn = s.adcOn := of_sansDone (·.adcOn) (fun _ => rfl) (complete_sans _ _ _ _ _)
@[simp] theorem complete_adcQ (j a b : Nat) (d : List Nat) (s : State) : (complete j a b d s).adcQ = s.adcQ := of_sansDone (·.adcQ) (fun _ => rfl) (complete_sans _ _ _ _ _)
@[simp] theorem complete_hist (j a b : Nat) (d : List Nat) (s : State) : (complete j a b d s).hist = s.hist := of_sansDone (·.hist) (fun _ => rfl) (complete_sans _ _ _ _ _)
@[simp] theorem complete_lanes (j a b : Nat) (d : List Nat) (s : State) : (complete j a b d s).lanes = s.lanes := of_sansDone (·.lanes) (fun _ => rfl) (complete_sans _ _ _ _ _)
@[simp] theorem complete_meas (j a b : Nat) (d : List Nat) (s : State) : (complete j a b d s).meas = s.meas := of_sansDone (·.meas) (fun _ => rfl) (complete_sans _ _ _ _ _)
@[simp] theorem complete_limOut (j a b : Nat) (d : List Nat) (s : State) : (complete j a b d s).limOut = s.limOut := of_sansDone (·.limOut) (fun _ => rfl) (complete_sans _ _ _ _ _)
@[simp] theorem complete_faultSum (j a b : Nat) (d : List Nat) (s : State) : (complete j a b d s).faultSum = s.faultSum := of_sansDone (·.faultSum) (fun _ => rfl) (complete_sans _ _ _ _ _)
@[simp] theorem complete_car (j a b : Nat) (d : List Nat) (s : State) : (complete j a b d s).car = s.car := of_sansDone (·.car) (fun _ => rfl) (complete_sans _ _ _ _ _)
@[simp] theorem complete_carAsks (j a b : Nat) (d : List Nat) (s : State) : (complete j a b d s).carAsks = s.carAsks := of_sansDone (·.carAsks) (fun _ => rfl) (complete_sans _ _ _ _ _)
@[simp] theorem complete_panX (j a b : Nat) (d : List Nat) (s : State) : (complete j a b d s).panX = s.panX := of_sansDone (·.panX) (fun _ => rfl) (complete_sans _ _ _ _ _)
@[simp] theorem complete_cal (j a b : Nat) (d : List Nat) (s : State) : (complete j a b d s).cal = s.cal := of_sansDone (·.cal) (fun _ => rfl) (complete_sans _ _ _ _ _)
@[simp] theorem complete_ols (j a b : Nat) (d : List Nat) (s : State) : (complete j a b d s).ols = s.ols := of_sansDone (·.ols) (fun _ => rfl) (complete_sans _ _ _ _ _)
@[simp] theorem complete_ils (j a b : Nat) (d : List Nat) (s : State) : (complete j a b d s).ils = s.ils := of_sansDone (·.ils) (fun _ => rfl) (complete_sans _ _ _ _ _)
@[simp] theorem complete_rkPorts (j a b : Nat) (d : List Nat) (s : State) : (complete j a b d s).rkPorts = s.rkPorts := of_sansDone (·.rkPorts) (fun _ => rfl) (complete_sans _ _ _ _ _)
@[simp] theorem complete_rake (j a b : Nat) (d : List Nat) (s : State) : (complete j a b d s).rake = s.rake := of_sansDone (·.rake) (fun _ => rfl) (complete_sans _ _ _ _ _)
@[simp] theorem complete_clk (j a b : Nat) (d : List Nat) (s : State) : (complete j a b d s).clk = s.clk := of_sansDone (·.clk) (fun _ => rfl) (complete_sans _ _ _ _ _)
@[simp] theorem complete_cup (j a b : Nat) (d : List Nat) (s : State) : (complete j a b d s).cup = s.cup := of_sansDone (·.cup) (fun _ => rfl) (complete_sans _ _ _ _ _)
@[simp] theorem complete_safeAt (j a b : Nat) (d : List Nat) (s : State) : (complete j a b d s).safeAt = s.safeAt := of_sansDone (·.safeAt) (fun _ => rfl) (complete_sans _ _ _ _ _)
@[simp] theorem complete_asks (j a b : Nat) (d : List Nat) (s : State) : (complete j a b d s).asks = s.asks := of_sansDone (·.asks) (fun _ => rfl) (complete_sans _ _ _ _ _)
@[simp] theorem complete_nvm (j a b : Nat) (d : List Nat) (s : State) : (complete j a b d s).nvm = s.nvm := of_sansDone (·.nvm) (fun _ => rfl) (complete_sans _ _ _ _ _)
@[simp] theorem complete_boot (j a b : Nat) (d : List Nat) (s : State) : (complete j a b d s).boot = s.boot := of_sansDone (·.boot) (fun _ => rfl) (complete_sans _ _ _ _ _)
@[simp] theorem complete_recov (j a b : Nat) (d : List Nat) (s : State) : (complete j a b d s).recov = s.recov := of_sansDone (·.recov) (fun _ => rfl) (complete_sans _ _ _ _ _)
@[simp] theorem complete_hst (j a b : Nat) (d : List Nat) (s : State) : (complete j a b d s).hst = s.hst := of_sansDone (·.hst) (fun _ => rfl) (complete_sans _ _ _ _ _)
@[simp] theorem complete_parOdd (j a b : Nat) (d : List Nat) (s : State) : (complete j a b d s).parOdd = s.parOdd := of_sansDone (·.parOdd) (fun _ => rfl) (complete_sans _ _ _ _ _)
@[simp] theorem complete_parBad (j a b : Nat) (d : List Nat) (s : State) : (complete j a b d s).parBad = s.parBad := of_sansDone (·.parBad) (fun _ => rfl) (complete_sans _ _ _ _ _)
@[simp] theorem complete_unitSafe (j a b : Nat) (d : List Nat) (s : State) : (complete j a b d s).unitSafe = s.unitSafe := of_sansDone (·.unitSafe) (fun _ => rfl) (complete_sans _ _ _ _ _)
@[simp] theorem complete_wrote (j a b : Nat) (d : List Nat) (s : State) : (complete j a b d s).wrote = s.wrote := of_sansDone (·.wrote) (fun _ => rfl) (complete_sans _ _ _ _ _)
@[simp] theorem complete_snapReq (j a b : Nat) (d : List Nat) (s : State) : (complete j a b d s).snapReq = s.snapReq := of_sansDone (·.snapReq) (fun _ => rfl) (complete_sans _ _ _ _ _)
@[simp] theorem complete_snapJobs (j a b : Nat) (d : List Nat) (s : State) : (complete j a b d s).snapJobs = s.snapJobs := of_sansDone (·.snapJobs) (fun _ => rfl) (complete_sans _ _ _ _ _)
@[simp] theorem complete_fences (j a b : Nat) (d : List Nat) (s : State) : (complete j a b d s).fences = s.fences := of_sansDone (·.fences) (fun _ => rfl) (complete_sans _ _ _ _ _)
@[simp] theorem complete_segLoads (j a b : Nat) (d : List Nat) (s : State) : (complete j a b d s).segLoads = s.segLoads := of_sansDone (·.segLoads) (fun _ => rfl) (complete_sans _ _ _ _ _)
@[simp] theorem complete_stepLoads (j a b : Nat) (d : List Nat) (s : State) : (complete j a b d s).stepLoads = s.stepLoads := of_sansDone (·.stepLoads) (fun _ => rfl) (complete_sans _ _ _ _ _)
@[simp] theorem complete_panGrants (j a b : Nat) (d : List Nat) (s : State) : (complete j a b d s).panGrants = s.panGrants := of_sansDone (·.panGrants) (fun _ => rfl) (complete_sans _ _ _ _ _)

@[simp] theorem completeOpt_pending (j : Option Nat) (a b : Nat) (d : List Nat) (s : State) : (completeOpt j a b d s).pending = s.pending := of_sansDone (·.pending) (fun _ => rfl) (completeOpt_sans _ _ _ _ _)
@[simp] theorem completeOpt_cmd (j : Option Nat) (a b : Nat) (d : List Nat) (s : State) : (completeOpt j a b d s).cmd = s.cmd := of_sansDone (·.cmd) (fun _ => rfl) (completeOpt_sans _ _ _ _ _)
@[simp] theorem completeOpt_wo1 (j : Option Nat) (a b : Nat) (d : List Nat) (s : State) : (completeOpt j a b d s).wo1 = s.wo1 := of_sansDone (·.wo1) (fun _ => rfl) (completeOpt_sans _ _ _ _ _)
@[simp] theorem completeOpt_freeN (j : Option Nat) (a b : Nat) (d : List Nat) (s : State) : (completeOpt j a b d s).freeN = s.freeN := of_sansDone (·.freeN) (fun _ => rfl) (completeOpt_sans _ _ _ _ _)
@[simp] theorem completeOpt_carafe (j : Option Nat) (a b : Nat) (d : List Nat) (s : State) : (completeOpt j a b d s).carafe = s.carafe := of_sansDone (·.carafe) (fun _ => rfl) (completeOpt_sans _ _ _ _ _)
@[simp] theorem completeOpt_pans (j : Option Nat) (a b : Nat) (d : List Nat) (s : State) : (completeOpt j a b d s).pans = s.pans := of_sansDone (·.pans) (fun _ => rfl) (completeOpt_sans _ _ _ _ _)
@[simp] theorem completeOpt_evRing (j : Option Nat) (a b : Nat) (d : List Nat) (s : State) : (completeOpt j a b d s).evRing = s.evRing := of_sansDone (·.evRing) (fun _ => rfl) (completeOpt_sans _ _ _ _ _)
@[simp] theorem completeOpt_fwImg (j : Option Nat) (a b : Nat) (d : List Nat) (s : State) : (completeOpt j a b d s).fwImg = s.fwImg := of_sansDone (·.fwImg) (fun _ => rfl) (completeOpt_sans _ _ _ _ _)
@[simp] theorem completeOpt_audMirror (j : Option Nat) (a b : Nat) (d : List Nat) (s : State) : (completeOpt j a b d s).audMirror = s.audMirror := of_sansDone (·.audMirror) (fun _ => rfl) (completeOpt_sans _ _ _ _ _)
@[simp] theorem completeOpt_logSeq (j : Option Nat) (a b : Nat) (d : List Nat) (s : State) : (completeOpt j a b d s).logSeq = s.logSeq := of_sansDone (·.logSeq) (fun _ => rfl) (completeOpt_sans _ _ _ _ _)
@[simp] theorem completeOpt_logLevel (j : Option Nat) (a b : Nat) (d : List Nat) (s : State) : (completeOpt j a b d s).logLevel = s.logLevel := of_sansDone (·.logLevel) (fun _ => rfl) (completeOpt_sans _ _ _ _ _)
@[simp] theorem completeOpt_logTick (j : Option Nat) (a b : Nat) (d : List Nat) (s : State) : (completeOpt j a b d s).logTick = s.logTick := of_sansDone (·.logTick) (fun _ => rfl) (completeOpt_sans _ _ _ _ _)
@[simp] theorem completeOpt_rates (j : Option Nat) (a b : Nat) (d : List Nat) (s : State) : (completeOpt j a b d s).rates = s.rates := of_sansDone (·.rates) (fun _ => rfl) (completeOpt_sans _ _ _ _ _)
@[simp] theorem completeOpt_msixTab (j : Option Nat) (a b : Nat) (d : List Nat) (s : State) : (completeOpt j a b d s).msixTab = s.msixTab := of_sansDone (·.msixTab) (fun _ => rfl) (completeOpt_sans _ _ _ _ _)
@[simp] theorem completeOpt_nextJob (j : Option Nat) (a b : Nat) (d : List Nat) (s : State) : (completeOpt j a b d s).nextJob = s.nextJob := of_sansDone (·.nextJob) (fun _ => rfl) (completeOpt_sans _ _ _ _ _)
@[simp] theorem completeOpt_heldPkts (j : Option Nat) (a b : Nat) (d : List Nat) (s : State) : (completeOpt j a b d s).heldPkts = s.heldPkts := of_sansDone (·.heldPkts) (fun _ => rfl) (completeOpt_sans _ _ _ _ _)
@[simp] theorem completeOpt_rqHead (j : Option Nat) (a b : Nat) (d : List Nat) (s : State) : (completeOpt j a b d s).rqHead = s.rqHead := of_sansDone (·.rqHead) (fun _ => rfl) (completeOpt_sans _ _ _ _ _)
@[simp] theorem completeOpt_opens (j : Option Nat) (a b : Nat) (d : List Nat) (s : State) : (completeOpt j a b d s).opens = s.opens := of_sansDone (·.opens) (fun _ => rfl) (completeOpt_sans _ _ _ _ _)
@[simp] theorem completeOpt_staged (j : Option Nat) (a b : Nat) (d : List Nat) (s : State) : (completeOpt j a b d s).staged = s.staged := of_sansDone (·.staged) (fun _ => rfl) (completeOpt_sans _ _ _ _ _)
@[simp] theorem completeOpt_segs (j : Option Nat) (a b : Nat) (d : List Nat) (s : State) : (completeOpt j a b d s).segs = s.segs := of_sansDone (·.segs) (fun _ => rfl) (completeOpt_sans _ _ _ _ _)
@[simp] theorem completeOpt_badUnits (j : Option Nat) (a b : Nat) (d : List Nat) (s : State) : (completeOpt j a b d s).badUnits = s.badUnits := of_sansDone (·.badUnits) (fun _ => rfl) (completeOpt_sans _ _ _ _ _)
@[simp] theorem completeOpt_badPans (j : Option Nat) (a b : Nat) (d : List Nat) (s : State) : (completeOpt j a b d s).badPans = s.badPans := of_sansDone (·.badPans) (fun _ => rfl) (completeOpt_sans _ _ _ _ _)
@[simp] theorem completeOpt_plys (j : Option Nat) (a b : Nat) (d : List Nat) (s : State) : (completeOpt j a b d s).plys = s.plys := of_sansDone (·.plys) (fun _ => rfl) (completeOpt_sans _ _ _ _ _)
@[simp] theorem completeOpt_trigs (j : Option Nat) (a b : Nat) (d : List Nat) (s : State) : (completeOpt j a b d s).trigs = s.trigs := of_sansDone (·.trigs) (fun _ => rfl) (completeOpt_sans _ _ _ _ _)
@[simp] theorem completeOpt_seqEvs (j : Option Nat) (a b : Nat) (d : List Nat) (s : State) : (completeOpt j a b d s).seqEvs = s.seqEvs := of_sansDone (·.seqEvs) (fun _ => rfl) (completeOpt_sans _ _ _ _ _)
@[simp] theorem completeOpt_rails (j : Option Nat) (a b : Nat) (d : List Nat) (s : State) : (completeOpt j a b d s).rails = s.rails := of_sansDone (·.rails) (fun _ => rfl) (completeOpt_sans _ _ _ _ _)
@[simp] theorem completeOpt_chRails (j : Option Nat) (a b : Nat) (d : List Nat) (s : State) : (completeOpt j a b d s).chRails = s.chRails := of_sansDone (·.chRails) (fun _ => rfl) (completeOpt_sans _ _ _ _ _)
@[simp] theorem completeOpt_tapBits (j : Option Nat) (a b : Nat) (d : List Nat) (s : State) : (completeOpt j a b d s).tapBits = s.tapBits := of_sansDone (·.tapBits) (fun _ => rfl) (completeOpt_sans _ _ _ _ _)
@[simp] theorem completeOpt_encs (j : Option Nat) (a b : Nat) (d : List Nat) (s : State) : (completeOpt j a b d s).encs = s.encs := of_sansDone (·.encs) (fun _ => rfl) (completeOpt_sans _ _ _ _ _)
@[simp] theorem completeOpt_trks (j : Option Nat) (a b : Nat) (d : List Nat) (s : State) : (completeOpt j a b d s).trks = s.trks := of_sansDone (·.trks) (fun _ => rfl) (completeOpt_sans _ _ _ _ _)
@[simp] theorem completeOpt_chns (j : Option Nat) (a b : Nat) (d : List Nat) (s : State) : (completeOpt j a b d s).chns = s.chns := of_sansDone (·.chns) (fun _ => rfl) (completeOpt_sans _ _ _ _ _)
@[simp] theorem completeOpt_chnOut (j : Option Nat) (a b : Nat) (d : List Nat) (s : State) : (completeOpt j a b d s).chnOut = s.chnOut := of_sansDone (·.chnOut) (fun _ => rfl) (completeOpt_sans _ _ _ _ _)
@[simp] theorem completeOpt_gpDrive (j : Option Nat) (a b : Nat) (d : List Nat) (s : State) : (completeOpt j a b d s).gpDrive = s.gpDrive := of_sansDone (·.gpDrive) (fun _ => rfl) (completeOpt_sans _ _ _ _ _)
@[simp] theorem completeOpt_gpValue (j : Option Nat) (a b : Nat) (d : List Nat) (s : State) : (completeOpt j a b d s).gpValue = s.gpValue := of_sansDone (·.gpValue) (fun _ => rfl) (completeOpt_sans _ _ _ _ _)
@[simp] theorem completeOpt_gpQueue (j : Option Nat) (a b : Nat) (d : List Nat) (s : State) : (completeOpt j a b d s).gpQueue = s.gpQueue := of_sansDone (·.gpQueue) (fun _ => rfl) (completeOpt_sans _ _ _ _ _)
@[simp] theorem completeOpt_queues (j : Option Nat) (a b : Nat) (d : List Nat) (s : State) : (completeOpt j a b d s).queues = s.queues := of_sansDone (·.queues) (fun _ => rfl) (completeOpt_sans _ _ _ _ _)
@[simp] theorem completeOpt_caps (j : Option Nat) (a b : Nat) (d : List Nat) (s : State) : (completeOpt j a b d s).caps = s.caps := of_sansDone (·.caps) (fun _ => rfl) (completeOpt_sans _ _ _ _ _)
@[simp] theorem completeOpt_dmds (j : Option Nat) (a b : Nat) (d : List Nat) (s : State) : (completeOpt j a b d s).dmds = s.dmds := of_sansDone (·.dmds) (fun _ => rfl) (completeOpt_sans _ _ _ _ _)
@[simp] theorem completeOpt_adcOn (j : Option Nat) (a b : Nat) (d : List Nat) (s : State) : (completeOpt j a b d s).adcOn = s.adcOn := of_sansDone (·.adcOn) (fun _ => rfl) (completeOpt_sans _ _ _ _ _)
@[simp] theorem completeOpt_adcQ (j : Option Nat) (a b : Nat) (d : List Nat) (s : State) : (completeOpt j a b d s).adcQ = s.adcQ := of_sansDone (·.adcQ) (fun _ => rfl) (completeOpt_sans _ _ _ _ _)
@[simp] theorem completeOpt_hist (j : Option Nat) (a b : Nat) (d : List Nat) (s : State) : (completeOpt j a b d s).hist = s.hist := of_sansDone (·.hist) (fun _ => rfl) (completeOpt_sans _ _ _ _ _)
@[simp] theorem completeOpt_lanes (j : Option Nat) (a b : Nat) (d : List Nat) (s : State) : (completeOpt j a b d s).lanes = s.lanes := of_sansDone (·.lanes) (fun _ => rfl) (completeOpt_sans _ _ _ _ _)
@[simp] theorem completeOpt_meas (j : Option Nat) (a b : Nat) (d : List Nat) (s : State) : (completeOpt j a b d s).meas = s.meas := of_sansDone (·.meas) (fun _ => rfl) (completeOpt_sans _ _ _ _ _)
@[simp] theorem completeOpt_limOut (j : Option Nat) (a b : Nat) (d : List Nat) (s : State) : (completeOpt j a b d s).limOut = s.limOut := of_sansDone (·.limOut) (fun _ => rfl) (completeOpt_sans _ _ _ _ _)
@[simp] theorem completeOpt_faultSum (j : Option Nat) (a b : Nat) (d : List Nat) (s : State) : (completeOpt j a b d s).faultSum = s.faultSum := of_sansDone (·.faultSum) (fun _ => rfl) (completeOpt_sans _ _ _ _ _)
@[simp] theorem completeOpt_car (j : Option Nat) (a b : Nat) (d : List Nat) (s : State) : (completeOpt j a b d s).car = s.car := of_sansDone (·.car) (fun _ => rfl) (completeOpt_sans _ _ _ _ _)
@[simp] theorem completeOpt_carAsks (j : Option Nat) (a b : Nat) (d : List Nat) (s : State) : (completeOpt j a b d s).carAsks = s.carAsks := of_sansDone (·.carAsks) (fun _ => rfl) (completeOpt_sans _ _ _ _ _)
@[simp] theorem completeOpt_panX (j : Option Nat) (a b : Nat) (d : List Nat) (s : State) : (completeOpt j a b d s).panX = s.panX := of_sansDone (·.panX) (fun _ => rfl) (completeOpt_sans _ _ _ _ _)
@[simp] theorem completeOpt_cal (j : Option Nat) (a b : Nat) (d : List Nat) (s : State) : (completeOpt j a b d s).cal = s.cal := of_sansDone (·.cal) (fun _ => rfl) (completeOpt_sans _ _ _ _ _)
@[simp] theorem completeOpt_ols (j : Option Nat) (a b : Nat) (d : List Nat) (s : State) : (completeOpt j a b d s).ols = s.ols := of_sansDone (·.ols) (fun _ => rfl) (completeOpt_sans _ _ _ _ _)
@[simp] theorem completeOpt_ils (j : Option Nat) (a b : Nat) (d : List Nat) (s : State) : (completeOpt j a b d s).ils = s.ils := of_sansDone (·.ils) (fun _ => rfl) (completeOpt_sans _ _ _ _ _)
@[simp] theorem completeOpt_rkPorts (j : Option Nat) (a b : Nat) (d : List Nat) (s : State) : (completeOpt j a b d s).rkPorts = s.rkPorts := of_sansDone (·.rkPorts) (fun _ => rfl) (completeOpt_sans _ _ _ _ _)
@[simp] theorem completeOpt_rake (j : Option Nat) (a b : Nat) (d : List Nat) (s : State) : (completeOpt j a b d s).rake = s.rake := of_sansDone (·.rake) (fun _ => rfl) (completeOpt_sans _ _ _ _ _)
@[simp] theorem completeOpt_clk (j : Option Nat) (a b : Nat) (d : List Nat) (s : State) : (completeOpt j a b d s).clk = s.clk := of_sansDone (·.clk) (fun _ => rfl) (completeOpt_sans _ _ _ _ _)
@[simp] theorem completeOpt_cup (j : Option Nat) (a b : Nat) (d : List Nat) (s : State) : (completeOpt j a b d s).cup = s.cup := of_sansDone (·.cup) (fun _ => rfl) (completeOpt_sans _ _ _ _ _)
@[simp] theorem completeOpt_safeAt (j : Option Nat) (a b : Nat) (d : List Nat) (s : State) : (completeOpt j a b d s).safeAt = s.safeAt := of_sansDone (·.safeAt) (fun _ => rfl) (completeOpt_sans _ _ _ _ _)
@[simp] theorem completeOpt_asks (j : Option Nat) (a b : Nat) (d : List Nat) (s : State) : (completeOpt j a b d s).asks = s.asks := of_sansDone (·.asks) (fun _ => rfl) (completeOpt_sans _ _ _ _ _)
@[simp] theorem completeOpt_nvm (j : Option Nat) (a b : Nat) (d : List Nat) (s : State) : (completeOpt j a b d s).nvm = s.nvm := of_sansDone (·.nvm) (fun _ => rfl) (completeOpt_sans _ _ _ _ _)
@[simp] theorem completeOpt_boot (j : Option Nat) (a b : Nat) (d : List Nat) (s : State) : (completeOpt j a b d s).boot = s.boot := of_sansDone (·.boot) (fun _ => rfl) (completeOpt_sans _ _ _ _ _)
@[simp] theorem completeOpt_recov (j : Option Nat) (a b : Nat) (d : List Nat) (s : State) : (completeOpt j a b d s).recov = s.recov := of_sansDone (·.recov) (fun _ => rfl) (completeOpt_sans _ _ _ _ _)
@[simp] theorem completeOpt_hst (j : Option Nat) (a b : Nat) (d : List Nat) (s : State) : (completeOpt j a b d s).hst = s.hst := of_sansDone (·.hst) (fun _ => rfl) (completeOpt_sans _ _ _ _ _)
@[simp] theorem completeOpt_parOdd (j : Option Nat) (a b : Nat) (d : List Nat) (s : State) : (completeOpt j a b d s).parOdd = s.parOdd := of_sansDone (·.parOdd) (fun _ => rfl) (completeOpt_sans _ _ _ _ _)
@[simp] theorem completeOpt_parBad (j : Option Nat) (a b : Nat) (d : List Nat) (s : State) : (completeOpt j a b d s).parBad = s.parBad := of_sansDone (·.parBad) (fun _ => rfl) (completeOpt_sans _ _ _ _ _)
@[simp] theorem completeOpt_unitSafe (j : Option Nat) (a b : Nat) (d : List Nat) (s : State) : (completeOpt j a b d s).unitSafe = s.unitSafe := of_sansDone (·.unitSafe) (fun _ => rfl) (completeOpt_sans _ _ _ _ _)
@[simp] theorem completeOpt_wrote (j : Option Nat) (a b : Nat) (d : List Nat) (s : State) : (completeOpt j a b d s).wrote = s.wrote := of_sansDone (·.wrote) (fun _ => rfl) (completeOpt_sans _ _ _ _ _)
@[simp] theorem completeOpt_snapReq (j : Option Nat) (a b : Nat) (d : List Nat) (s : State) : (completeOpt j a b d s).snapReq = s.snapReq := of_sansDone (·.snapReq) (fun _ => rfl) (completeOpt_sans _ _ _ _ _)
@[simp] theorem completeOpt_snapJobs (j : Option Nat) (a b : Nat) (d : List Nat) (s : State) : (completeOpt j a b d s).snapJobs = s.snapJobs := of_sansDone (·.snapJobs) (fun _ => rfl) (completeOpt_sans _ _ _ _ _)
@[simp] theorem completeOpt_fences (j : Option Nat) (a b : Nat) (d : List Nat) (s : State) : (completeOpt j a b d s).fences = s.fences := of_sansDone (·.fences) (fun _ => rfl) (completeOpt_sans _ _ _ _ _)
@[simp] theorem completeOpt_segLoads (j : Option Nat) (a b : Nat) (d : List Nat) (s : State) : (completeOpt j a b d s).segLoads = s.segLoads := of_sansDone (·.segLoads) (fun _ => rfl) (completeOpt_sans _ _ _ _ _)
@[simp] theorem completeOpt_stepLoads (j : Option Nat) (a b : Nat) (d : List Nat) (s : State) : (completeOpt j a b d s).stepLoads = s.stepLoads := of_sansDone (·.stepLoads) (fun _ => rfl) (completeOpt_sans _ _ _ _ _)
@[simp] theorem completeOpt_panGrants (j : Option Nat) (a b : Nat) (d : List Nat) (s : State) : (completeOpt j a b d s).panGrants = s.panGrants := of_sansDone (·.panGrants) (fun _ => rfl) (completeOpt_sans _ _ _ _ _)

@[simp] theorem send_pending (p : Path) (o : Nat) (r : Reply) (s : State) : (send p o r s).pending = s.pending := of_sansReply (·.pending) (fun _ => rfl) (send_sans _ _ _ _)
@[simp] theorem send_cmd (p : Path) (o : Nat) (r : Reply) (s : State) : (send p o r s).cmd = s.cmd := of_sansReply (·.cmd) (fun _ => rfl) (send_sans _ _ _ _)
@[simp] theorem send_wo1 (p : Path) (o : Nat) (r : Reply) (s : State) : (send p o r s).wo1 = s.wo1 := of_sansReply (·.wo1) (fun _ => rfl) (send_sans _ _ _ _)
@[simp] theorem send_freeN (p : Path) (o : Nat) (r : Reply) (s : State) : (send p o r s).freeN = s.freeN := of_sansReply (·.freeN) (fun _ => rfl) (send_sans _ _ _ _)
@[simp] theorem send_carafe (p : Path) (o : Nat) (r : Reply) (s : State) : (send p o r s).carafe = s.carafe := of_sansReply (·.carafe) (fun _ => rfl) (send_sans _ _ _ _)
@[simp] theorem send_pans (p : Path) (o : Nat) (r : Reply) (s : State) : (send p o r s).pans = s.pans := of_sansReply (·.pans) (fun _ => rfl) (send_sans _ _ _ _)
@[simp] theorem send_evRing (p : Path) (o : Nat) (r : Reply) (s : State) : (send p o r s).evRing = s.evRing := of_sansReply (·.evRing) (fun _ => rfl) (send_sans _ _ _ _)
@[simp] theorem send_fwImg (p : Path) (o : Nat) (r : Reply) (s : State) : (send p o r s).fwImg = s.fwImg := of_sansReply (·.fwImg) (fun _ => rfl) (send_sans _ _ _ _)
@[simp] theorem send_audMirror (p : Path) (o : Nat) (r : Reply) (s : State) : (send p o r s).audMirror = s.audMirror := of_sansReply (·.audMirror) (fun _ => rfl) (send_sans _ _ _ _)
@[simp] theorem send_logSeq (p : Path) (o : Nat) (r : Reply) (s : State) : (send p o r s).logSeq = s.logSeq := of_sansReply (·.logSeq) (fun _ => rfl) (send_sans _ _ _ _)
@[simp] theorem send_logLevel (p : Path) (o : Nat) (r : Reply) (s : State) : (send p o r s).logLevel = s.logLevel := of_sansReply (·.logLevel) (fun _ => rfl) (send_sans _ _ _ _)
@[simp] theorem send_logTick (p : Path) (o : Nat) (r : Reply) (s : State) : (send p o r s).logTick = s.logTick := of_sansReply (·.logTick) (fun _ => rfl) (send_sans _ _ _ _)
@[simp] theorem send_rates (p : Path) (o : Nat) (r : Reply) (s : State) : (send p o r s).rates = s.rates := of_sansReply (·.rates) (fun _ => rfl) (send_sans _ _ _ _)
@[simp] theorem send_msixTab (p : Path) (o : Nat) (r : Reply) (s : State) : (send p o r s).msixTab = s.msixTab := of_sansReply (·.msixTab) (fun _ => rfl) (send_sans _ _ _ _)
@[simp] theorem send_wins (p : Path) (o : Nat) (r : Reply) (s : State) : (send p o r s).wins = s.wins := of_sansReply (·.wins) (fun _ => rfl) (send_sans _ _ _ _)
@[simp] theorem send_pool (p : Path) (o : Nat) (r : Reply) (s : State) : (send p o r s).pool = s.pool := of_sansReply (·.pool) (fun _ => rfl) (send_sans _ _ _ _)
@[simp] theorem send_jobs (p : Path) (o : Nat) (r : Reply) (s : State) : (send p o r s).jobs = s.jobs := of_sansReply (·.jobs) (fun _ => rfl) (send_sans _ _ _ _)
@[simp] theorem send_nextJob (p : Path) (o : Nat) (r : Reply) (s : State) : (send p o r s).nextJob = s.nextJob := of_sansReply (·.nextJob) (fun _ => rfl) (send_sans _ _ _ _)
@[simp] theorem send_heldPkts (p : Path) (o : Nat) (r : Reply) (s : State) : (send p o r s).heldPkts = s.heldPkts := of_sansReply (·.heldPkts) (fun _ => rfl) (send_sans _ _ _ _)
@[simp] theorem send_rqHead (p : Path) (o : Nat) (r : Reply) (s : State) : (send p o r s).rqHead = s.rqHead := of_sansReply (·.rqHead) (fun _ => rfl) (send_sans _ _ _ _)
@[simp] theorem send_opens (p : Path) (o : Nat) (r : Reply) (s : State) : (send p o r s).opens = s.opens := of_sansReply (·.opens) (fun _ => rfl) (send_sans _ _ _ _)
@[simp] theorem send_staged (p : Path) (o : Nat) (r : Reply) (s : State) : (send p o r s).staged = s.staged := of_sansReply (·.staged) (fun _ => rfl) (send_sans _ _ _ _)
@[simp] theorem send_segs (p : Path) (o : Nat) (r : Reply) (s : State) : (send p o r s).segs = s.segs := of_sansReply (·.segs) (fun _ => rfl) (send_sans _ _ _ _)
@[simp] theorem send_badUnits (p : Path) (o : Nat) (r : Reply) (s : State) : (send p o r s).badUnits = s.badUnits := of_sansReply (·.badUnits) (fun _ => rfl) (send_sans _ _ _ _)
@[simp] theorem send_badPans (p : Path) (o : Nat) (r : Reply) (s : State) : (send p o r s).badPans = s.badPans := of_sansReply (·.badPans) (fun _ => rfl) (send_sans _ _ _ _)
@[simp] theorem send_plys (p : Path) (o : Nat) (r : Reply) (s : State) : (send p o r s).plys = s.plys := of_sansReply (·.plys) (fun _ => rfl) (send_sans _ _ _ _)
@[simp] theorem send_trigs (p : Path) (o : Nat) (r : Reply) (s : State) : (send p o r s).trigs = s.trigs := of_sansReply (·.trigs) (fun _ => rfl) (send_sans _ _ _ _)
@[simp] theorem send_seqEvs (p : Path) (o : Nat) (r : Reply) (s : State) : (send p o r s).seqEvs = s.seqEvs := of_sansReply (·.seqEvs) (fun _ => rfl) (send_sans _ _ _ _)
@[simp] theorem send_rails (p : Path) (o : Nat) (r : Reply) (s : State) : (send p o r s).rails = s.rails := of_sansReply (·.rails) (fun _ => rfl) (send_sans _ _ _ _)
@[simp] theorem send_chRails (p : Path) (o : Nat) (r : Reply) (s : State) : (send p o r s).chRails = s.chRails := of_sansReply (·.chRails) (fun _ => rfl) (send_sans _ _ _ _)
@[simp] theorem send_tapBits (p : Path) (o : Nat) (r : Reply) (s : State) : (send p o r s).tapBits = s.tapBits := of_sansReply (·.tapBits) (fun _ => rfl) (send_sans _ _ _ _)
@[simp] theorem send_encs (p : Path) (o : Nat) (r : Reply) (s : State) : (send p o r s).encs = s.encs := of_sansReply (·.encs) (fun _ => rfl) (send_sans _ _ _ _)
@[simp] theorem send_trks (p : Path) (o : Nat) (r : Reply) (s : State) : (send p o r s).trks = s.trks := of_sansReply (·.trks) (fun _ => rfl) (send_sans _ _ _ _)
@[simp] theorem send_chns (p : Path) (o : Nat) (r : Reply) (s : State) : (send p o r s).chns = s.chns := of_sansReply (·.chns) (fun _ => rfl) (send_sans _ _ _ _)
@[simp] theorem send_chnOut (p : Path) (o : Nat) (r : Reply) (s : State) : (send p o r s).chnOut = s.chnOut := of_sansReply (·.chnOut) (fun _ => rfl) (send_sans _ _ _ _)
@[simp] theorem send_gpDrive (p : Path) (o : Nat) (r : Reply) (s : State) : (send p o r s).gpDrive = s.gpDrive := of_sansReply (·.gpDrive) (fun _ => rfl) (send_sans _ _ _ _)
@[simp] theorem send_gpValue (p : Path) (o : Nat) (r : Reply) (s : State) : (send p o r s).gpValue = s.gpValue := of_sansReply (·.gpValue) (fun _ => rfl) (send_sans _ _ _ _)
@[simp] theorem send_gpQueue (p : Path) (o : Nat) (r : Reply) (s : State) : (send p o r s).gpQueue = s.gpQueue := of_sansReply (·.gpQueue) (fun _ => rfl) (send_sans _ _ _ _)
@[simp] theorem send_queues (p : Path) (o : Nat) (r : Reply) (s : State) : (send p o r s).queues = s.queues := of_sansReply (·.queues) (fun _ => rfl) (send_sans _ _ _ _)
@[simp] theorem send_caps (p : Path) (o : Nat) (r : Reply) (s : State) : (send p o r s).caps = s.caps := of_sansReply (·.caps) (fun _ => rfl) (send_sans _ _ _ _)
@[simp] theorem send_dmds (p : Path) (o : Nat) (r : Reply) (s : State) : (send p o r s).dmds = s.dmds := of_sansReply (·.dmds) (fun _ => rfl) (send_sans _ _ _ _)
@[simp] theorem send_adcOn (p : Path) (o : Nat) (r : Reply) (s : State) : (send p o r s).adcOn = s.adcOn := of_sansReply (·.adcOn) (fun _ => rfl) (send_sans _ _ _ _)
@[simp] theorem send_adcQ (p : Path) (o : Nat) (r : Reply) (s : State) : (send p o r s).adcQ = s.adcQ := of_sansReply (·.adcQ) (fun _ => rfl) (send_sans _ _ _ _)
@[simp] theorem send_hist (p : Path) (o : Nat) (r : Reply) (s : State) : (send p o r s).hist = s.hist := of_sansReply (·.hist) (fun _ => rfl) (send_sans _ _ _ _)
@[simp] theorem send_lanes (p : Path) (o : Nat) (r : Reply) (s : State) : (send p o r s).lanes = s.lanes := of_sansReply (·.lanes) (fun _ => rfl) (send_sans _ _ _ _)
@[simp] theorem send_meas (p : Path) (o : Nat) (r : Reply) (s : State) : (send p o r s).meas = s.meas := of_sansReply (·.meas) (fun _ => rfl) (send_sans _ _ _ _)
@[simp] theorem send_limOut (p : Path) (o : Nat) (r : Reply) (s : State) : (send p o r s).limOut = s.limOut := of_sansReply (·.limOut) (fun _ => rfl) (send_sans _ _ _ _)
@[simp] theorem send_faultSum (p : Path) (o : Nat) (r : Reply) (s : State) : (send p o r s).faultSum = s.faultSum := of_sansReply (·.faultSum) (fun _ => rfl) (send_sans _ _ _ _)
@[simp] theorem send_car (p : Path) (o : Nat) (r : Reply) (s : State) : (send p o r s).car = s.car := of_sansReply (·.car) (fun _ => rfl) (send_sans _ _ _ _)
@[simp] theorem send_carAsks (p : Path) (o : Nat) (r : Reply) (s : State) : (send p o r s).carAsks = s.carAsks := of_sansReply (·.carAsks) (fun _ => rfl) (send_sans _ _ _ _)
@[simp] theorem send_panX (p : Path) (o : Nat) (r : Reply) (s : State) : (send p o r s).panX = s.panX := of_sansReply (·.panX) (fun _ => rfl) (send_sans _ _ _ _)
@[simp] theorem send_cal (p : Path) (o : Nat) (r : Reply) (s : State) : (send p o r s).cal = s.cal := of_sansReply (·.cal) (fun _ => rfl) (send_sans _ _ _ _)
@[simp] theorem send_ols (p : Path) (o : Nat) (r : Reply) (s : State) : (send p o r s).ols = s.ols := of_sansReply (·.ols) (fun _ => rfl) (send_sans _ _ _ _)
@[simp] theorem send_ils (p : Path) (o : Nat) (r : Reply) (s : State) : (send p o r s).ils = s.ils := of_sansReply (·.ils) (fun _ => rfl) (send_sans _ _ _ _)
@[simp] theorem send_rkPorts (p : Path) (o : Nat) (r : Reply) (s : State) : (send p o r s).rkPorts = s.rkPorts := of_sansReply (·.rkPorts) (fun _ => rfl) (send_sans _ _ _ _)
@[simp] theorem send_rake (p : Path) (o : Nat) (r : Reply) (s : State) : (send p o r s).rake = s.rake := of_sansReply (·.rake) (fun _ => rfl) (send_sans _ _ _ _)
@[simp] theorem send_clk (p : Path) (o : Nat) (r : Reply) (s : State) : (send p o r s).clk = s.clk := of_sansReply (·.clk) (fun _ => rfl) (send_sans _ _ _ _)
@[simp] theorem send_cup (p : Path) (o : Nat) (r : Reply) (s : State) : (send p o r s).cup = s.cup := of_sansReply (·.cup) (fun _ => rfl) (send_sans _ _ _ _)
@[simp] theorem send_safeAt (p : Path) (o : Nat) (r : Reply) (s : State) : (send p o r s).safeAt = s.safeAt := of_sansReply (·.safeAt) (fun _ => rfl) (send_sans _ _ _ _)
@[simp] theorem send_asks (p : Path) (o : Nat) (r : Reply) (s : State) : (send p o r s).asks = s.asks := of_sansReply (·.asks) (fun _ => rfl) (send_sans _ _ _ _)
@[simp] theorem send_nvm (p : Path) (o : Nat) (r : Reply) (s : State) : (send p o r s).nvm = s.nvm := of_sansReply (·.nvm) (fun _ => rfl) (send_sans _ _ _ _)
@[simp] theorem send_boot (p : Path) (o : Nat) (r : Reply) (s : State) : (send p o r s).boot = s.boot := of_sansReply (·.boot) (fun _ => rfl) (send_sans _ _ _ _)
@[simp] theorem send_recov (p : Path) (o : Nat) (r : Reply) (s : State) : (send p o r s).recov = s.recov := of_sansReply (·.recov) (fun _ => rfl) (send_sans _ _ _ _)
@[simp] theorem send_hst (p : Path) (o : Nat) (r : Reply) (s : State) : (send p o r s).hst = s.hst := of_sansReply (·.hst) (fun _ => rfl) (send_sans _ _ _ _)
@[simp] theorem send_parOdd (p : Path) (o : Nat) (r : Reply) (s : State) : (send p o r s).parOdd = s.parOdd := of_sansReply (·.parOdd) (fun _ => rfl) (send_sans _ _ _ _)
@[simp] theorem send_parBad (p : Path) (o : Nat) (r : Reply) (s : State) : (send p o r s).parBad = s.parBad := of_sansReply (·.parBad) (fun _ => rfl) (send_sans _ _ _ _)
@[simp] theorem send_unitSafe (p : Path) (o : Nat) (r : Reply) (s : State) : (send p o r s).unitSafe = s.unitSafe := of_sansReply (·.unitSafe) (fun _ => rfl) (send_sans _ _ _ _)
@[simp] theorem send_wrote (p : Path) (o : Nat) (r : Reply) (s : State) : (send p o r s).wrote = s.wrote := of_sansReply (·.wrote) (fun _ => rfl) (send_sans _ _ _ _)
@[simp] theorem send_snapReq (p : Path) (o : Nat) (r : Reply) (s : State) : (send p o r s).snapReq = s.snapReq := of_sansReply (·.snapReq) (fun _ => rfl) (send_sans _ _ _ _)
@[simp] theorem send_snapJobs (p : Path) (o : Nat) (r : Reply) (s : State) : (send p o r s).snapJobs = s.snapJobs := of_sansReply (·.snapJobs) (fun _ => rfl) (send_sans _ _ _ _)
@[simp] theorem send_fences (p : Path) (o : Nat) (r : Reply) (s : State) : (send p o r s).fences = s.fences := of_sansReply (·.fences) (fun _ => rfl) (send_sans _ _ _ _)
@[simp] theorem send_segLoads (p : Path) (o : Nat) (r : Reply) (s : State) : (send p o r s).segLoads = s.segLoads := of_sansReply (·.segLoads) (fun _ => rfl) (send_sans _ _ _ _)
@[simp] theorem send_stepLoads (p : Path) (o : Nat) (r : Reply) (s : State) : (send p o r s).stepLoads = s.stepLoads := of_sansReply (·.stepLoads) (fun _ => rfl) (send_sans _ _ _ _)
@[simp] theorem send_panGrants (p : Path) (o : Nat) (r : Reply) (s : State) : (send p o r s).panGrants = s.panGrants := of_sansReply (·.panGrants) (fun _ => rfl) (send_sans _ _ _ _)

@[simp] theorem finish_pending (s : State) : (finish s).pending = s.pending := of_sansEnd (·.pending) (fun _ => rfl) (finish_sans _)
@[simp] theorem finish_cmd (s : State) : (finish s).cmd = s.cmd := of_sansEnd (·.cmd) (fun _ => rfl) (finish_sans _)
@[simp] theorem finish_wo1 (s : State) : (finish s).wo1 = s.wo1 := of_sansEnd (·.wo1) (fun _ => rfl) (finish_sans _)
@[simp] theorem finish_freeN (s : State) : (finish s).freeN = s.freeN := of_sansEnd (·.freeN) (fun _ => rfl) (finish_sans _)
@[simp] theorem finish_carafe (s : State) : (finish s).carafe = s.carafe := of_sansEnd (·.carafe) (fun _ => rfl) (finish_sans _)
@[simp] theorem finish_pans (s : State) : (finish s).pans = s.pans := of_sansEnd (·.pans) (fun _ => rfl) (finish_sans _)
@[simp] theorem finish_evRing (s : State) : (finish s).evRing = s.evRing := of_sansEnd (·.evRing) (fun _ => rfl) (finish_sans _)
@[simp] theorem finish_fwImg (s : State) : (finish s).fwImg = s.fwImg := of_sansEnd (·.fwImg) (fun _ => rfl) (finish_sans _)
@[simp] theorem finish_audMirror (s : State) : (finish s).audMirror = s.audMirror := of_sansEnd (·.audMirror) (fun _ => rfl) (finish_sans _)
@[simp] theorem finish_logSeq (s : State) : (finish s).logSeq = s.logSeq := of_sansEnd (·.logSeq) (fun _ => rfl) (finish_sans _)
@[simp] theorem finish_logLevel (s : State) : (finish s).logLevel = s.logLevel := of_sansEnd (·.logLevel) (fun _ => rfl) (finish_sans _)
@[simp] theorem finish_logTick (s : State) : (finish s).logTick = s.logTick := of_sansEnd (·.logTick) (fun _ => rfl) (finish_sans _)
@[simp] theorem finish_rates (s : State) : (finish s).rates = s.rates := of_sansEnd (·.rates) (fun _ => rfl) (finish_sans _)
@[simp] theorem finish_msixTab (s : State) : (finish s).msixTab = s.msixTab := of_sansEnd (·.msixTab) (fun _ => rfl) (finish_sans _)
@[simp] theorem finish_wins (s : State) : (finish s).wins = s.wins := of_sansEnd (·.wins) (fun _ => rfl) (finish_sans _)
@[simp] theorem finish_pool (s : State) : (finish s).pool = s.pool := of_sansEnd (·.pool) (fun _ => rfl) (finish_sans _)
@[simp] theorem finish_jobs (s : State) : (finish s).jobs = s.jobs := of_sansEnd (·.jobs) (fun _ => rfl) (finish_sans _)
@[simp] theorem finish_nextJob (s : State) : (finish s).nextJob = s.nextJob := of_sansEnd (·.nextJob) (fun _ => rfl) (finish_sans _)
@[simp] theorem finish_heldPkts (s : State) : (finish s).heldPkts = s.heldPkts := of_sansEnd (·.heldPkts) (fun _ => rfl) (finish_sans _)
@[simp] theorem finish_rqHead (s : State) : (finish s).rqHead = s.rqHead := of_sansEnd (·.rqHead) (fun _ => rfl) (finish_sans _)
@[simp] theorem finish_rqWait (s : State) : (finish s).rqWait = s.rqWait := of_sansEnd (·.rqWait) (fun _ => rfl) (finish_sans _)
@[simp] theorem finish_opens (s : State) : (finish s).opens = s.opens := of_sansEnd (·.opens) (fun _ => rfl) (finish_sans _)
@[simp] theorem finish_staged (s : State) : (finish s).staged = s.staged := of_sansEnd (·.staged) (fun _ => rfl) (finish_sans _)
@[simp] theorem finish_segs (s : State) : (finish s).segs = s.segs := of_sansEnd (·.segs) (fun _ => rfl) (finish_sans _)
@[simp] theorem finish_badUnits (s : State) : (finish s).badUnits = s.badUnits := of_sansEnd (·.badUnits) (fun _ => rfl) (finish_sans _)
@[simp] theorem finish_badPans (s : State) : (finish s).badPans = s.badPans := of_sansEnd (·.badPans) (fun _ => rfl) (finish_sans _)
@[simp] theorem finish_plys (s : State) : (finish s).plys = s.plys := of_sansEnd (·.plys) (fun _ => rfl) (finish_sans _)
@[simp] theorem finish_trigs (s : State) : (finish s).trigs = s.trigs := of_sansEnd (·.trigs) (fun _ => rfl) (finish_sans _)
@[simp] theorem finish_seqEvs (s : State) : (finish s).seqEvs = s.seqEvs := of_sansEnd (·.seqEvs) (fun _ => rfl) (finish_sans _)
@[simp] theorem finish_rails (s : State) : (finish s).rails = s.rails := of_sansEnd (·.rails) (fun _ => rfl) (finish_sans _)
@[simp] theorem finish_chRails (s : State) : (finish s).chRails = s.chRails := of_sansEnd (·.chRails) (fun _ => rfl) (finish_sans _)
@[simp] theorem finish_tapBits (s : State) : (finish s).tapBits = s.tapBits := of_sansEnd (·.tapBits) (fun _ => rfl) (finish_sans _)
@[simp] theorem finish_encs (s : State) : (finish s).encs = s.encs := of_sansEnd (·.encs) (fun _ => rfl) (finish_sans _)
@[simp] theorem finish_trks (s : State) : (finish s).trks = s.trks := of_sansEnd (·.trks) (fun _ => rfl) (finish_sans _)
@[simp] theorem finish_chns (s : State) : (finish s).chns = s.chns := of_sansEnd (·.chns) (fun _ => rfl) (finish_sans _)
@[simp] theorem finish_chnOut (s : State) : (finish s).chnOut = s.chnOut := of_sansEnd (·.chnOut) (fun _ => rfl) (finish_sans _)
@[simp] theorem finish_gpDrive (s : State) : (finish s).gpDrive = s.gpDrive := of_sansEnd (·.gpDrive) (fun _ => rfl) (finish_sans _)
@[simp] theorem finish_gpValue (s : State) : (finish s).gpValue = s.gpValue := of_sansEnd (·.gpValue) (fun _ => rfl) (finish_sans _)
@[simp] theorem finish_gpQueue (s : State) : (finish s).gpQueue = s.gpQueue := of_sansEnd (·.gpQueue) (fun _ => rfl) (finish_sans _)
@[simp] theorem finish_queues (s : State) : (finish s).queues = s.queues := of_sansEnd (·.queues) (fun _ => rfl) (finish_sans _)
@[simp] theorem finish_caps (s : State) : (finish s).caps = s.caps := of_sansEnd (·.caps) (fun _ => rfl) (finish_sans _)
@[simp] theorem finish_dmds (s : State) : (finish s).dmds = s.dmds := of_sansEnd (·.dmds) (fun _ => rfl) (finish_sans _)
@[simp] theorem finish_adcOn (s : State) : (finish s).adcOn = s.adcOn := of_sansEnd (·.adcOn) (fun _ => rfl) (finish_sans _)
@[simp] theorem finish_adcQ (s : State) : (finish s).adcQ = s.adcQ := of_sansEnd (·.adcQ) (fun _ => rfl) (finish_sans _)
@[simp] theorem finish_hist (s : State) : (finish s).hist = s.hist := of_sansEnd (·.hist) (fun _ => rfl) (finish_sans _)
@[simp] theorem finish_lanes (s : State) : (finish s).lanes = s.lanes := of_sansEnd (·.lanes) (fun _ => rfl) (finish_sans _)
@[simp] theorem finish_meas (s : State) : (finish s).meas = s.meas := of_sansEnd (·.meas) (fun _ => rfl) (finish_sans _)
@[simp] theorem finish_limOut (s : State) : (finish s).limOut = s.limOut := of_sansEnd (·.limOut) (fun _ => rfl) (finish_sans _)
@[simp] theorem finish_car (s : State) : (finish s).car = s.car := of_sansEnd (·.car) (fun _ => rfl) (finish_sans _)
@[simp] theorem finish_carAsks (s : State) : (finish s).carAsks = s.carAsks := of_sansEnd (·.carAsks) (fun _ => rfl) (finish_sans _)
@[simp] theorem finish_panX (s : State) : (finish s).panX = s.panX := of_sansEnd (·.panX) (fun _ => rfl) (finish_sans _)
@[simp] theorem finish_cal (s : State) : (finish s).cal = s.cal := of_sansEnd (·.cal) (fun _ => rfl) (finish_sans _)
@[simp] theorem finish_ols (s : State) : (finish s).ols = s.ols := of_sansEnd (·.ols) (fun _ => rfl) (finish_sans _)
@[simp] theorem finish_ils (s : State) : (finish s).ils = s.ils := of_sansEnd (·.ils) (fun _ => rfl) (finish_sans _)
@[simp] theorem finish_rake (s : State) : (finish s).rake = s.rake := of_sansEnd (·.rake) (fun _ => rfl) (finish_sans _)
@[simp] theorem finish_clk (s : State) : (finish s).clk = s.clk := of_sansEnd (·.clk) (fun _ => rfl) (finish_sans _)
@[simp] theorem finish_cup (s : State) : (finish s).cup = s.cup := of_sansEnd (·.cup) (fun _ => rfl) (finish_sans _)
@[simp] theorem finish_safeAt (s : State) : (finish s).safeAt = s.safeAt := of_sansEnd (·.safeAt) (fun _ => rfl) (finish_sans _)
@[simp] theorem finish_asks (s : State) : (finish s).asks = s.asks := of_sansEnd (·.asks) (fun _ => rfl) (finish_sans _)
@[simp] theorem finish_nvm (s : State) : (finish s).nvm = s.nvm := of_sansEnd (·.nvm) (fun _ => rfl) (finish_sans _)
@[simp] theorem finish_boot (s : State) : (finish s).boot = s.boot := of_sansEnd (·.boot) (fun _ => rfl) (finish_sans _)
@[simp] theorem finish_recov (s : State) : (finish s).recov = s.recov := of_sansEnd (·.recov) (fun _ => rfl) (finish_sans _)
@[simp] theorem finish_hst (s : State) : (finish s).hst = s.hst := of_sansEnd (·.hst) (fun _ => rfl) (finish_sans _)
@[simp] theorem finish_parOdd (s : State) : (finish s).parOdd = s.parOdd := of_sansEnd (·.parOdd) (fun _ => rfl) (finish_sans _)
@[simp] theorem finish_parBad (s : State) : (finish s).parBad = s.parBad := of_sansEnd (·.parBad) (fun _ => rfl) (finish_sans _)
@[simp] theorem finish_unitSafe (s : State) : (finish s).unitSafe = s.unitSafe := of_sansEnd (·.unitSafe) (fun _ => rfl) (finish_sans _)
@[simp] theorem finish_wrote (s : State) : (finish s).wrote = s.wrote := of_sansEnd (·.wrote) (fun _ => rfl) (finish_sans _)
@[simp] theorem finish_snapReq (s : State) : (finish s).snapReq = s.snapReq := of_sansEnd (·.snapReq) (fun _ => rfl) (finish_sans _)
@[simp] theorem finish_snapJobs (s : State) : (finish s).snapJobs = s.snapJobs := of_sansEnd (·.snapJobs) (fun _ => rfl) (finish_sans _)
@[simp] theorem finish_fences (s : State) : (finish s).fences = s.fences := of_sansEnd (·.fences) (fun _ => rfl) (finish_sans _)
@[simp] theorem finish_segLoads (s : State) : (finish s).segLoads = s.segLoads := of_sansEnd (·.segLoads) (fun _ => rfl) (finish_sans _)
@[simp] theorem finish_stepLoads (s : State) : (finish s).stepLoads = s.stepLoads := of_sansEnd (·.stepLoads) (fun _ => rfl) (finish_sans _)
@[simp] theorem finish_panGrants (s : State) : (finish s).panGrants = s.panGrants := of_sansEnd (·.panGrants) (fun _ => rfl) (finish_sans _)

end Sys2Proof.Machine
end

