-- ==== Sys2Proof/Laws/Arrivals.lean ====
section
/-! SUPPORT. How a packet that passes R321's checks becomes a command, and how its reply is cached. -/

namespace Sys2Proof.Machine

/-- The state in which a packet that passes is executed: it is a job, and its tag is pending. -/
def taken (p : Pkt) (s : State) : State :=
  winEnter (winKey p.org p.src) p.tag p.opcode s.nextJob (newJob p (counted p s.coming)).2

theorem counted_keeps (p : Pkt) (s : State) : Keeps hstA s (counted p s) := by
  have hb : hstA (F.HST_BYTES_COUNT.key 0) := by simp only [hstA, Fld.key, F.HST_BYTES_COUNT]; omega
  unfold counted
  split
  · exact Keeps.refl _ _
  · exact Keeps.refl _ _
  · exact (Keeps.refl _ _).wr F.HST_BYTES_COUNT 0 _ hb

/-- A state without its registers. -/
def sansFlds (s : State) : State := { s with flds := [] }

theorem counted_sans (p : Pkt) (s : State) : sansFlds (counted p s) = sansFlds s := by
  unfold counted
  split <;> rfl

theorem of_sansFlds {γ : Type} (g : State → γ) (hg : ∀ s, g (sansFlds s) = g s) {s t : State} (h : sansFlds s = sansFlds t) : g s = g t :=
  (hg s).symm.trans ((congrArg g h).trans (hg t))

/-- A state without what taking a packet up changes. -/
def sansTaken (s : State) : State := { s with flds := [], jobs := [], nextJob := 0, wins := [], cmd := false }

theorem taken_keeps (p : Pkt) (s : State) : Keeps hstA s (taken p s) := (counted_keeps p s.coming).trans (Keeps.of_eq rfl)

theorem taken_sans (p : Pkt) (s : State) : sansTaken (taken p s) = sansTaken s := by
  have h := congrArg sansTaken (counted_sans p s.coming)
  exact h

theorem of_sansTaken {γ : Type} (g : State → γ) (hg : ∀ s, g (sansTaken s) = g s) {s t : State} (h : sansTaken s = sansTaken t) : g s = g t :=
  (hg s).symm.trans ((congrArg g h).trans (hg t))

@[simp] theorem taken_pending (p : Pkt) (s : State) : (taken p s).pending = s.pending := of_sansTaken (·.pending) (fun _ => rfl) (taken_sans p s)
@[simp] theorem taken_wo1 (p : Pkt) (s : State) : (taken p s).wo1 = s.wo1 := of_sansTaken (·.wo1) (fun _ => rfl) (taken_sans p s)
@[simp] theorem taken_freeN (p : Pkt) (s : State) : (taken p s).freeN = s.freeN := of_sansTaken (·.freeN) (fun _ => rfl) (taken_sans p s)
@[simp] theorem taken_carafe (p : Pkt) (s : State) : (taken p s).carafe = s.carafe := of_sansTaken (·.carafe) (fun _ => rfl) (taken_sans p s)
@[simp] theorem taken_pans (p : Pkt) (s : State) : (taken p s).pans = s.pans := of_sansTaken (·.pans) (fun _ => rfl) (taken_sans p s)
@[simp] theorem taken_evRing (p : Pkt) (s : State) : (taken p s).evRing = s.evRing := of_sansTaken (·.evRing) (fun _ => rfl) (taken_sans p s)
@[simp] theorem taken_fwImg (p : Pkt) (s : State) : (taken p s).fwImg = s.fwImg := of_sansTaken (·.fwImg) (fun _ => rfl) (taken_sans p s)
@[simp] theorem taken_audMirror (p : Pkt) (s : State) : (taken p s).audMirror = s.audMirror := of_sansTaken (·.audMirror) (fun _ => rfl) (taken_sans p s)
@[simp] theorem taken_logSeq (p : Pkt) (s : State) : (taken p s).logSeq = s.logSeq := of_sansTaken (·.logSeq) (fun _ => rfl) (taken_sans p s)
@[simp] theorem taken_logLevel (p : Pkt) (s : State) : (taken p s).logLevel = s.logLevel := of_sansTaken (·.logLevel) (fun _ => rfl) (taken_sans p s)
@[simp] theorem taken_logTick (p : Pkt) (s : State) : (taken p s).logTick = s.logTick := of_sansTaken (·.logTick) (fun _ => rfl) (taken_sans p s)
@[simp] theorem taken_rates (p : Pkt) (s : State) : (taken p s).rates = s.rates := of_sansTaken (·.rates) (fun _ => rfl) (taken_sans p s)
@[simp] theorem taken_msixWait (p : Pkt) (s : State) : (taken p s).msixWait = s.msixWait := of_sansTaken (·.msixWait) (fun _ => rfl) (taken_sans p s)
@[simp] theorem taken_msixTab (p : Pkt) (s : State) : (taken p s).msixTab = s.msixTab := of_sansTaken (·.msixTab) (fun _ => rfl) (taken_sans p s)
@[simp] theorem taken_out (p : Pkt) (s : State) : (taken p s).out = s.out := of_sansTaken (·.out) (fun _ => rfl) (taken_sans p s)
@[simp] theorem taken_pool (p : Pkt) (s : State) : (taken p s).pool = s.pool := of_sansTaken (·.pool) (fun _ => rfl) (taken_sans p s)
@[simp] theorem taken_heldPkts (p : Pkt) (s : State) : (taken p s).heldPkts = s.heldPkts := of_sansTaken (·.heldPkts) (fun _ => rfl) (taken_sans p s)
@[simp] theorem taken_rqHead (p : Pkt) (s : State) : (taken p s).rqHead = s.rqHead := of_sansTaken (·.rqHead) (fun _ => rfl) (taken_sans p s)
@[simp] theorem taken_rqWait (p : Pkt) (s : State) : (taken p s).rqWait = s.rqWait := of_sansTaken (·.rqWait) (fun _ => rfl) (taken_sans p s)
@[simp] theorem taken_opens (p : Pkt) (s : State) : (taken p s).opens = s.opens := of_sansTaken (·.opens) (fun _ => rfl) (taken_sans p s)
@[simp] theorem taken_staged (p : Pkt) (s : State) : (taken p s).staged = s.staged := of_sansTaken (·.staged) (fun _ => rfl) (taken_sans p s)
@[simp] theorem taken_segs (p : Pkt) (s : State) : (taken p s).segs = s.segs := of_sansTaken (·.segs) (fun _ => rfl) (taken_sans p s)
@[simp] theorem taken_badUnits (p : Pkt) (s : State) : (taken p s).badUnits = s.badUnits := of_sansTaken (·.badUnits) (fun _ => rfl) (taken_sans p s)
@[simp] theorem taken_badPans (p : Pkt) (s : State) : (taken p s).badPans = s.badPans := of_sansTaken (·.badPans) (fun _ => rfl) (taken_sans p s)
@[simp] theorem taken_plys (p : Pkt) (s : State) : (taken p s).plys = s.plys := of_sansTaken (·.plys) (fun _ => rfl) (taken_sans p s)
@[simp] theorem taken_trigs (p : Pkt) (s : State) : (taken p s).trigs = s.trigs := of_sansTaken (·.trigs) (fun _ => rfl) (taken_sans p s)
@[simp] theorem taken_seqEvs (p : Pkt) (s : State) : (taken p s).seqEvs = s.seqEvs := of_sansTaken (·.seqEvs) (fun _ => rfl) (taken_sans p s)
@[simp] theorem taken_rails (p : Pkt) (s : State) : (taken p s).rails = s.rails := of_sansTaken (·.rails) (fun _ => rfl) (taken_sans p s)
@[simp] theorem taken_chRails (p : Pkt) (s : State) : (taken p s).chRails = s.chRails := of_sansTaken (·.chRails) (fun _ => rfl) (taken_sans p s)
@[simp] theorem taken_tapBits (p : Pkt) (s : State) : (taken p s).tapBits = s.tapBits := of_sansTaken (·.tapBits) (fun _ => rfl) (taken_sans p s)
@[simp] theorem taken_encs (p : Pkt) (s : State) : (taken p s).encs = s.encs := of_sansTaken (·.encs) (fun _ => rfl) (taken_sans p s)
@[simp] theorem taken_trks (p : Pkt) (s : State) : (taken p s).trks = s.trks := of_sansTaken (·.trks) (fun _ => rfl) (taken_sans p s)
@[simp] theorem taken_chns (p : Pkt) (s : State) : (taken p s).chns = s.chns := of_sansTaken (·.chns) (fun _ => rfl) (taken_sans p s)
@[simp] theorem taken_chnOut (p : Pkt) (s : State) : (taken p s).chnOut = s.chnOut := of_sansTaken (·.chnOut) (fun _ => rfl) (taken_sans p s)
@[simp] theorem taken_gpDrive (p : Pkt) (s : State) : (taken p s).gpDrive = s.gpDrive := of_sansTaken (·.gpDrive) (fun _ => rfl) (taken_sans p s)
@[simp] theorem taken_gpValue (p : Pkt) (s : State) : (taken p s).gpValue = s.gpValue := of_sansTaken (·.gpValue) (fun _ => rfl) (taken_sans p s)
@[simp] theorem taken_gpQueue (p : Pkt) (s : State) : (taken p s).gpQueue = s.gpQueue := of_sansTaken (·.gpQueue) (fun _ => rfl) (taken_sans p s)
@[simp] theorem taken_queues (p : Pkt) (s : State) : (taken p s).queues = s.queues := of_sansTaken (·.queues) (fun _ => rfl) (taken_sans p s)
@[simp] theorem taken_caps (p : Pkt) (s : State) : (taken p s).caps = s.caps := of_sansTaken (·.caps) (fun _ => rfl) (taken_sans p s)
@[simp] theorem taken_dmds (p : Pkt) (s : State) : (taken p s).dmds = s.dmds := of_sansTaken (·.dmds) (fun _ => rfl) (taken_sans p s)
@[simp] theorem taken_adcOn (p : Pkt) (s : State) : (taken p s).adcOn = s.adcOn := of_sansTaken (·.adcOn) (fun _ => rfl) (taken_sans p s)
@[simp] theorem taken_adcQ (p : Pkt) (s : State) : (taken p s).adcQ = s.adcQ := of_sansTaken (·.adcQ) (fun _ => rfl) (taken_sans p s)
@[simp] theorem taken_hist (p : Pkt) (s : State) : (taken p s).hist = s.hist := of_sansTaken (·.hist) (fun _ => rfl) (taken_sans p s)
@[simp] theorem taken_lanes (p : Pkt) (s : State) : (taken p s).lanes = s.lanes := of_sansTaken (·.lanes) (fun _ => rfl) (taken_sans p s)
@[simp] theorem taken_meas (p : Pkt) (s : State) : (taken p s).meas = s.meas := of_sansTaken (·.meas) (fun _ => rfl) (taken_sans p s)
@[simp] theorem taken_limOut (p : Pkt) (s : State) : (taken p s).limOut = s.limOut := of_sansTaken (·.limOut) (fun _ => rfl) (taken_sans p s)
@[simp] theorem taken_faultSum (p : Pkt) (s : State) : (taken p s).faultSum = s.faultSum := of_sansTaken (·.faultSum) (fun _ => rfl) (taken_sans p s)
@[simp] theorem taken_car (p : Pkt) (s : State) : (taken p s).car = s.car := of_sansTaken (·.car) (fun _ => rfl) (taken_sans p s)
@[simp] theorem taken_carAsks (p : Pkt) (s : State) : (taken p s).carAsks = s.carAsks := of_sansTaken (·.carAsks) (fun _ => rfl) (taken_sans p s)
@[simp] theorem taken_panX (p : Pkt) (s : State) : (taken p s).panX = s.panX := of_sansTaken (·.panX) (fun _ => rfl) (taken_sans p s)
@[simp] theorem taken_cal (p : Pkt) (s : State) : (taken p s).cal = s.cal := of_sansTaken (·.cal) (fun _ => rfl) (taken_sans p s)
@[simp] theorem taken_ols (p : Pkt) (s : State) : (taken p s).ols = s.ols := of_sansTaken (·.ols) (fun _ => rfl) (taken_sans p s)
@[simp] theorem taken_ils (p : Pkt) (s : State) : (taken p s).ils = s.ils := of_sansTaken (·.ils) (fun _ => rfl) (taken_sans p s)
@[simp] theorem taken_rkPorts (p : Pkt) (s : State) : (taken p s).rkPorts = s.rkPorts := of_sansTaken (·.rkPorts) (fun _ => rfl) (taken_sans p s)
@[simp] theorem taken_rake (p : Pkt) (s : State) : (taken p s).rake = s.rake := of_sansTaken (·.rake) (fun _ => rfl) (taken_sans p s)
@[simp] theorem taken_clk (p : Pkt) (s : State) : (taken p s).clk = s.clk := of_sansTaken (·.clk) (fun _ => rfl) (taken_sans p s)
@[simp] theorem taken_cup (p : Pkt) (s : State) : (taken p s).cup = s.cup := of_sansTaken (·.cup) (fun _ => rfl) (taken_sans p s)
@[simp] theorem taken_safeAt (p : Pkt) (s : State) : (taken p s).safeAt = s.safeAt := of_sansTaken (·.safeAt) (fun _ => rfl) (taken_sans p s)
@[simp] theorem taken_asks (p : Pkt) (s : State) : (taken p s).asks = s.asks := of_sansTaken (·.asks) (fun _ => rfl) (taken_sans p s)
@[simp] theorem taken_nvm (p : Pkt) (s : State) : (taken p s).nvm = s.nvm := of_sansTaken (·.nvm) (fun _ => rfl) (taken_sans p s)
@[simp] theorem taken_boot (p : Pkt) (s : State) : (taken p s).boot = s.boot := of_sansTaken (·.boot) (fun _ => rfl) (taken_sans p s)
@[simp] theorem taken_recov (p : Pkt) (s : State) : (taken p s).recov = s.recov := of_sansTaken (·.recov) (fun _ => rfl) (taken_sans p s)
@[simp] theorem taken_hst (p : Pkt) (s : State) : (taken p s).hst = s.hst := of_sansTaken (·.hst) (fun _ => rfl) (taken_sans p s)
@[simp] theorem taken_parOdd (p : Pkt) (s : State) : (taken p s).parOdd = s.parOdd := of_sansTaken (·.parOdd) (fun _ => rfl) (taken_sans p s)
@[simp] theorem taken_parBad (p : Pkt) (s : State) : (taken p s).parBad = s.parBad := of_sansTaken (·.parBad) (fun _ => rfl) (taken_sans p s)
@[simp] theorem taken_unitSafe (p : Pkt) (s : State) : (taken p s).unitSafe = s.unitSafe := of_sansTaken (·.unitSafe) (fun _ => rfl) (taken_sans p s)
@[simp] theorem taken_wrote (p : Pkt) (s : State) : (taken p s).wrote = s.wrote := of_sansTaken (·.wrote) (fun _ => rfl) (taken_sans p s)
@[simp] theorem taken_snapReq (p : Pkt) (s : State) : (taken p s).snapReq = s.snapReq := of_sansTaken (·.snapReq) (fun _ => rfl) (taken_sans p s)
@[simp] theorem taken_snapJobs (p : Pkt) (s : State) : (taken p s).snapJobs = s.snapJobs := of_sansTaken (·.snapJobs) (fun _ => rfl) (taken_sans p s)
@[simp] theorem taken_fences (p : Pkt) (s : State) : (taken p s).fences = s.fences := of_sansTaken (·.fences) (fun _ => rfl) (taken_sans p s)
@[simp] theorem taken_segLoads (p : Pkt) (s : State) : (taken p s).segLoads = s.segLoads := of_sansTaken (·.segLoads) (fun _ => rfl) (taken_sans p s)
@[simp] theorem taken_stepLoads (p : Pkt) (s : State) : (taken p s).stepLoads = s.stepLoads := of_sansTaken (·.stepLoads) (fun _ => rfl) (taken_sans p s)
@[simp] theorem taken_panGrants (p : Pkt) (s : State) : (taken p s).panGrants = s.panGrants := of_sansTaken (·.panGrants) (fun _ => rfl) (taken_sans p s)

theorem taken_rd (p : Pkt) (s : State) (f : Fld) (u : Nat) (h : ¬ hstA (f.key u)) : (taken p s).rd f u = s.rd f u :=
  (taken_keeps p s).rd f u h

theorem taken_on (p : Pkt) (s : State) (f : Fld) (u : Nat) (h : ¬ hstA (f.key u)) : (taken p s).on f u = s.on f u :=
  (taken_keeps p s).on f u h

theorem counted_nextJob (p : Pkt) (s : State) : (counted p s).nextJob = s.nextJob := of_sansFlds (·.nextJob) (fun _ => rfl) (counted_sans p s)
theorem counted_jobs (p : Pkt) (s : State) : (counted p s).jobs = s.jobs := of_sansFlds (·.jobs) (fun _ => rfl) (counted_sans p s)
theorem counted_wins (p : Pkt) (s : State) : (counted p s).wins = s.wins := of_sansFlds (·.wins) (fun _ => rfl) (counted_sans p s)

/-- The job of a packet. -/
def jobFor (p : Pkt) (j : Nat) : Job := ⟨j, p.org, p.src, p.tag, p.opcode, p.unit, p.path, p.reply, p.crc, p.batchId, p.batch, false⟩

theorem taken_jobs (p : Pkt) (s : State) : (taken p s).jobs = s.jobs ++ [jobFor p s.nextJob] := by
  show (counted p s.coming).jobs ++ [⟨(counted p s.coming).nextJob, _, _, _, _, _, _, _, _, _, _, _⟩] = _
  rw [counted_jobs, counted_nextJob]; rfl

theorem taken_jobOf (p : Pkt) (s : State) (h : jobOf s s.nextJob = none) : jobOf (taken p s) s.nextJob = some (jobFor p s.nextJob) := by
  simp only [jobOf, taken_jobs] at *
  rw [List.find?_append, h]
  simp [jobFor]

theorem winOf_setWin (k : Nat) (w : Win) (s : State) : winOf (setWin k w s) k = w := by
  simp [winOf, setWin, tabGet_put_same]

theorem winOf_congr (s t : State) (k : Nat) (h : t.wins = s.wins) : winOf t k = winOf s k := by simp [winOf, h]

/-- A list to which an entry that passes a filter is added behind entries of other tags. -/
theorem find_added (l : List TagEnt) (q : TagEnt → Bool) (e : TagEnt) (hq : q e = true) :
    ((l.filter (fun x => x.tag != e.tag) ++ [e]).filter q).find? (fun x => x.tag == e.tag) = some e := by
  rw [List.filter_append, List.find?_append]
  have hnone : ((l.filter (fun x => x.tag != e.tag)).filter q).find? (fun x => x.tag == e.tag) = none := by
    rw [List.find?_eq_none]
    intro x hx
    simp only [List.mem_filter, bne_iff_ne] at hx
    simp [hx.1.2]
  rw [hnone]
  simp [hq]

/-- What a window holds for a tag that it has just entered. -/
theorem winEnt_enter (w : Win) (h : Nat) (e : TagEnt) (h1 : -255 ≤ serial 32 e.tag h) (h2 : serial 32 e.tag h ≤ 0) :
    winEnt (winTrim { seen := true, h := h, ents := w.ents.filter (fun x => x.tag != e.tag) ++ [e] }) e.tag = some e := by
  refine find_added w.ents _ e ?_
  show (decide (-255 ≤ serial 32 e.tag h) && decide (serial 32 e.tag h ≤ 0)) = true
  rw [decide_eq_true h1, decide_eq_true h2]; rfl

theorem serial_self (a : Nat) : serial 32 a a = 0 := by
  unfold serial
  have : a % 2 ^ 32 + 2 ^ 32 - a % 2 ^ 32 = 2 ^ 32 := by omega
  rw [this]; decide

/-- A new tag is pending in its window. -/
theorem taken_ent (p : Pkt) (s : State) (h : newTag s p) :
    winEnt (winOf (taken p s) (winKey p.org p.src)) p.tag = some ⟨p.tag, p.opcode, false, s.nextJob, none⟩ := by
  have hw : winOf (newJob p (counted p s.coming)).2 (winKey p.org p.src) = winOf s (winKey p.org p.src) :=
    winOf_congr _ _ _ (counted_wins p s.coming)
  unfold taken winEnter
  simp only [winOf_setWin, hw]
  have hd : -255 ≤ serial 32 p.tag (if (!(winOf s (winKey p.org p.src)).seen ||
      decide (0 < serial 32 p.tag (winOf s (winKey p.org p.src)).h)) = true then p.tag else (winOf s (winKey p.org p.src)).h) ∧
      serial 32 p.tag (if (!(winOf s (winKey p.org p.src)).seen ||
      decide (0 < serial 32 p.tag (winOf s (winKey p.org p.src)).h)) = true then p.tag else (winOf s (winKey p.org p.src)).h) ≤ 0 := by
    split
    · rw [serial_self]; decide
    · rename_i hc
      simp only [Bool.or_eq_true, Bool.not_eq_true', decide_eq_true_eq, not_or, Bool.not_eq_false] at hc
      have := h.2 hc.1
      exact ⟨this.1, Int.not_lt.mp hc.2⟩
  exact winEnt_enter _ _ ⟨p.tag, p.opcode, false, s.nextJob, none⟩ hd.1 hd.2

/-! ### The checks see the same state -/

theorem mode_of_keeps {s t : State} (h : Keeps hstA s t) : mode t = mode s :=
  h.rd F.GLB_MODE_MODE 0 (by simp only [hstA, Fld.key, F.GLB_MODE_MODE]; omega)

theorem fetching_congr {s t : State} (h : Keeps hstA s t) (hb : t.boot = s.boot) (hr : t.recov = s.recov) : fetching t = fetching s := by
  simp only [fetching, mode_of_keeps h, hb, hr]

theorem pktHeld_congr {s t : State} (h : Keeps hstA s t) (hb : t.boot = s.boot) (hr : t.recov = s.recov) (hj : t.jobs = s.jobs)
    (hp : t.plys = s.plys) (hc : t.car = s.car) (l : List Pkt) (p : Pkt) : pktHeld t l p = pktHeld s l p := by
  simp only [pktHeld, fetching_congr h hb hr, hj, hc, plyOf, hp, jobSame, jobOf]

theorem opWords_congr {s t : State} (hs : t.segs = s.segs) (p : Pkt) : opWords t p = opWords s p := by
  have hg : ∀ i, segOf t i = segOf s i := fun i => by simp only [segOf, hs]
  unfold opWords
  rw [hg]

theorem permCmd_congr {s t : State} (h : Keeps hstA s t) (o c : Nat) (ho : o < 7) : permCmd t o c = permCmd s o c := by
  have : t.rd F.GLB_PERM_CMD_CLASSES o = s.rd F.GLB_PERM_CMD_CLASSES o :=
    h.rd _ _ (by simp only [hstA, Fld.key, F.GLB_PERM_CMD_CLASSES]; omega)
  simp only [permCmd, this]

theorem modeOk_congr {s t : State} (h : Keeps hstA s t) (hb : t.boot = s.boot) (p : Pkt) : modeOk t p = modeOk s p := by
  have h2 : t.on F.CAR_STAT_TRAINED 0 = s.on F.CAR_STAT_TRAINED 0 :=
    h.on _ _ (by simp only [hstA, Fld.key, F.CAR_STAT_TRAINED]; omega)
  unfold modeOk
  rw [h2, hb, mode_of_keeps h]

theorem pktWhy_congr {s t : State} (h : Keeps hstA s t) (hb : t.boot = s.boot) (hs : t.segs = s.segs) (ho : t.opens = s.opens) (p : Pkt)
    (hp : p.org < 7) : pktWhy t p = pktWhy s p := by
  have h1 : lengthOk t p = lengthOk s p := by unfold lengthOk; rw [opWords_congr hs]
  have h2 : maskOk t p = maskOk s p := by unfold maskOk; rw [permCmd_congr h _ _ hp, hb]
  have h3 : batchWhy t p = batchWhy s p := by unfold batchWhy openOf; rw [ho]
  unfold pktWhy
  rw [h1, h2, h3, modeOk_congr h hb]

theorem isLocal_congr {s t : State} (h : Keeps hstA s t) (p : Pkt) : isLocal t p = isLocal s p := by
  have h1 : t.on F.GLB_ADDR_VALID 0 = s.on F.GLB_ADDR_VALID 0 :=
    h.on _ _ (by simp only [hstA, Fld.key, F.GLB_ADDR_VALID]; omega)
  have h2 : t.rd F.GLB_ADDR_ADDR 0 = s.rd F.GLB_ADDR_ADDR 0 :=
    h.rd _ _ (by simp only [hstA, Fld.key, F.GLB_ADDR_ADDR]; omega)
  unfold isLocal
  rw [h1, h2]

/-! ### A packet that passes -/

theorem passes_opInfo {s : State} {p : Pkt} (h : (pktWhy s p).1 = stOk) : (opInfo p.opcode).isSome = true := by
  unfold pktWhy at h
  split at h
  · simp [stBadOpcode, stOk] at h
  · rename_i hn; simpa [Option.isSome_iff_ne_none, Option.isNone_iff_eq_none] using hn

theorem powered_of_fetching {s : State} (h : fetching s = true) : powered s = true := by
  simp only [fetching, Bool.and_eq_true, beq_iff_eq] at h
  simp [powered, h.1.1.1]

/-- A packet that is held by nothing starts. -/
theorem arrive_start (q : Pkt) (s : State) (hf : fetching s = true) (hh : pktHeld s s.heldPkts q = false) :
    arrive q s.coming = startPkt q (counted q s.coming) := by
  have hpow : powered s.coming = true := powered_of_fetching hf
  have hcs := counted_sans q s.coming
  have hck := counted_keeps q s.coming
  have e2 : arrive q s.coming = (if pktHeld (counted q s.coming) (counted q s.coming).heldPkts q then
      { counted q s.coming with heldPkts := (counted q s.coming).heldPkts ++ [q] } else startPkt q (counted q s.coming)) := by
    unfold arrive
    simp only [hpow, Bool.not_true, Bool.false_eq_true, if_false]
  have e3 : pktHeld (counted q s.coming) (counted q s.coming).heldPkts q = false := by
    have e4 : (counted q s.coming).heldPkts = s.heldPkts := of_sansFlds (·.heldPkts) (fun _ => rfl) (t := s.coming) hcs
    have e5 : pktHeld (counted q s.coming) s.heldPkts q = pktHeld s.coming s.heldPkts q :=
      pktHeld_congr hck (of_sansFlds (·.boot) (fun _ => rfl) hcs) (of_sansFlds (·.recov) (fun _ => rfl) hcs)
        (of_sansFlds (·.jobs) (fun _ => rfl) hcs) (of_sansFlds (·.plys) (fun _ => rfl) hcs) (of_sansFlds (·.car) (fun _ => rfl) hcs) _ _
    rw [e4, e5]
    exact hh
  rw [e2, e3]
  simp only [Bool.false_eq_true, if_false]

/-- A packet with a new tag that is whole is dispatched. -/
theorem start_dispatch (q : Pkt) (s : State) (hside : ∀ x, q.path ≠ .side x) (hcrc : q.crc = true → q.crcOk = true) (hhdr : q.hdrOk = true)
    (hbat : q.batch = false) (htag : newTag s q) (h0 : q.opcode ≠ 0xF0) (h1 : q.opcode = 1 → q.w 0 % 2 = 0) :
    startPkt q s = dispatch true q s := by
  have e1 : (match q.path with | .side _ => true | _ => false) = false := by
    split
    · rename_i x hx; exact absurd hx (hside x)
    · rfl
  have e2 : (q.crc && !q.crcOk) = false := by
    cases hc : q.crc
    · rfl
    · simp [hcrc hc]
  have e3 : (q.opcode == 0x01 && q.w 0 % 2 == 1) = false := by
    by_cases hq : q.opcode = 1
    · simp [hq, h1 hq]
    · simp [hq]
  have e4 : (q.opcode == 0xF0) = false := by simpa using h0
  unfold startPkt
  simp only [e2, hhdr, hbat, e3, e4, Bool.false_and, Bool.or_false, Bool.false_eq_true, if_false, Bool.not_true]
  cases hs : (winOf s (winKey q.org q.src)).seen
  · simp only [Bool.not_false, if_true]
  · have hd := htag.2 hs
    have a1 : ¬ (256 < serial 32 q.tag (winOf s (winKey q.org q.src)).h) := Int.not_lt.mpr hd.2
    have a2 : ¬ (serial 32 q.tag (winOf s (winKey q.org q.src)).h < -255) := Int.not_lt.mpr hd.1
    simp only [Bool.not_true, Bool.false_eq_true, if_false, a1, a2, htag.1]

/-- A packet for this module is executed. -/
theorem dispatch_execute (q : Pkt) (s : State) (htgt : q.target ≠ 0xFFF) (hloc : isLocal s q = true)
    (hjob : jobOf s s.nextJob = none) : dispatch true q (counted q s.coming) = execute s.nextJob q (taken q s) := by
  have e0 : (q.target == 0xFFF) = false := by simpa using htgt
  have e1 : jobOf (taken q s) s.nextJob = some (jobFor q s.nextJob) := taken_jobOf q s hjob
  have e2 : isLocal (taken q s) q = true := by rw [isLocal_congr (taken_keeps q s)]; exact hloc
  have e3 : (counted q s.coming).nextJob = s.nextJob := counted_nextJob q s.coming
  have e4 : dispatch true q (counted q s.coming) = (match jobOf (taken q s) s.nextJob with
      | none => taken q s
      | some b =>
        let side := match q.path with | .side _ => true | _ => false
        if q.target == 0xFFF && !side then
          (if q.opcode == 0xF0 then complete s.nextJob stBadParam 0 [] (taken q s) else broadcast b q (taken q s))
        else if isLocal (taken q s) q then execute s.nextJob q (taken q s)
        else if q.batch then complete s.nextJob stBadParam 0 [] (taken q s)
        else if !(taken q s).on F.GLB_ADDR_VALID 0 then complete s.nextJob stChainTimeout 1 [] (taken q s)
        else forward b q (taken q s)) := by
    unfold dispatch newJob
    rw [e3]
    have : taken q s = winEnter (winKey q.org q.src) q.tag q.opcode s.nextJob
        { counted q s.coming with jobs := (counted q s.coming).jobs ++ [⟨s.nextJob, q.org, q.src, q.tag, q.opcode, q.unit, q.path, q.reply, q.crc, q.batchId, q.batch, false⟩], nextJob := s.nextJob + 1 } := by
      unfold taken newJob
      rw [e3]
    rw [this]
    rfl
  rw [e4, e1, e2, e0]
  rfl

theorem newTag_counted (q p : Pkt) (s : State) (h : newTag s p) (ho : q.org = p.org) (hs : q.src = p.src) (ht : q.tag = p.tag) :
    newTag (counted q s.coming) q := by
  have hw : winOf (counted q s.coming) (winKey p.org p.src) = winOf s (winKey p.org p.src) :=
    winOf_congr _ _ _ (counted_wins q s.coming)
  unfold newTag
  rw [ho, hs, ht, hw]
  exact h

/-- A packet that passes is executed as the job that the module would give next. -/
theorem packet_eq (op : Nat) (p : Pkt) (s : State) (h : passes op p s) (h0 : op ≠ 0xF0) (h1 : op = 1 → p.w 0 % 2 = 0) :
    hostCmd (packet op p) s = (execute s.nextJob (numbered op p) (taken (numbered op p) s)).rested := by
  obtain ⟨hf, hh, hside, hcrc, hhdr, hbat, htag, htgt, hloc, hwhy, hjob, _, horg⟩ := h
  rw [hostCmd_eq _ _ (powered_of_fetching hf)]
  show (arrive (numbered op p) s.coming).rested = _
  rw [arrive_start _ _ hf hh, start_dispatch (numbered op p) _ hside hcrc hhdr hbat (newTag_counted _ p s htag rfl rfl rfl) h0 h1,
    dispatch_execute (numbered op p) _ htgt hloc hjob]

/-- A packet of a command without an interim reply runs, and answers unless its end comes later. -/
theorem execute_eq (j : Nat) (q : Pkt) (s : State) (hw : (pktWhy s q).1 = stOk) (hb : q.batch = false)
    (hi : opInterim q.opcode = false) :
    execute j q s = (if (opRun j q s).wait then flagAll q.org (opRun j q s).flags (opRun j q s).st
      else complete j (opRun j q s).status (opRun j q s).detail (opRun j q s).data (flagAll q.org (opRun j q s).flags (opRun j q s).st)) := by
  unfold execute
  simp only [hw, hb, hi, bne_self_eq_false, Bool.false_and, Bool.false_eq_true, if_false]

/-- The same where an interim reply goes first. -/
theorem execute_interim_eq (j : Nat) (q : Pkt) (s : State) (hw : (pktWhy s q).1 = stOk) (hb : q.batch = false)
    (hi : opInterim q.opcode = true) (hok : (opRun j q s).status = stOk) :
    execute j q s = (if (opRun j q (interim j s)).wait then flagAll q.org (opRun j q (interim j s)).flags (opRun j q (interim j s)).st
      else complete j (opRun j q (interim j s)).status (opRun j q (interim j s)).detail (opRun j q (interim j s)).data
        (flagAll q.org (opRun j q (interim j s)).flags (opRun j q (interim j s)).st)) := by
  unfold execute
  simp only [hw, hb, hi, hok, beq_self_eq_true, Bool.and_self, if_true, bne_self_eq_false, Bool.false_eq_true, if_false]

/-! ### Final replies in the window -/

theorem winEnt_done (l : List TagEnt) (tag job : Nat) (rep : Reply) (e : TagEnt) (he : l.find? (fun x => x.tag == tag) = some e)
    (hj : e.job = job) (hd : e.done = false) :
    (l.map (fun x => if x.job == job && !x.done then { x with done := true, reply := some rep } else x)).find? (fun x => x.tag == tag) =
      some { e with done := true, reply := some rep } := by
  induction l with
  | nil => simp at he
  | cons x r ih =>
    simp only [List.map_cons, List.find?_cons]
    by_cases hx : x.tag = tag
    · simp only [List.find?_cons, hx, beq_self_eq_true] at he
      obtain rfl : x = e := by simpa using he
      simp [hj, hd, hx]
    · have h1 : (x.tag == tag) = false := by simpa using hx
      have h2 : ((if (x.job == job && !x.done) = true then { x with done := true, reply := some rep } else x : TagEnt).tag == tag) = false := by
        split <;> simpa using hx
      simp only [List.find?_cons, h1] at he
      rw [h2]
      exact ih he

/-- The final reply of a job whose tag is pending is cached under the tag. -/
theorem complete_replied (j status detail : Nat) (data : List Nat) (s : State) (b : Job) (e : TagEnt) (hb : jobOf s j = some b)
    (ho : b.org < 1000) (ho5 : b.org ≠ 5)
    (hr : memN s.recov.jobs j = false) (he : winEnt (winOf s (winKey b.org b.src)) b.tag = some e) (hj : e.job = j) (hd : e.done = false) :
    ∃ r : Reply, winEnt (winOf (complete j status detail data s) (winKey b.org b.src)) b.tag = some { e with done := true, reply := some r } ∧
      r.tag = b.tag ∧ r.status = status ∧ r.final = true ∧ r.data = data := by
  have hk : winKey b.org b.src = b.org := by simp [winKey, ho5]
  have hw : ∀ rep : Reply, winEnt (winOf (winDone (winKey b.org b.src) j rep { s with jobs := s.jobs.filter (fun x => x.id != j) }) (winKey b.org b.src)) b.tag =
      some { e with done := true, reply := some rep } := by
    intro rep
    unfold winDone
    have hany : (winOf s (winKey b.org b.src)).ents.any (fun x => x.job == j && !x.done) = true := by
      rw [List.any_eq_true]
      exact ⟨e, List.mem_of_find?_eq_some he, by simp [hj, hd]⟩
    have h0 : winOf { s with jobs := s.jobs.filter (fun x => x.id != j) } (winKey b.org b.src) = winOf s (winKey b.org b.src) := rfl
    rw [h0]
    simp only [hany, if_true]
    have hp : poolAdd (winKey b.org b.src) rep.tag = id := by
      funext t
      unfold poolAdd
      rw [hk]
      simp [ho]
    rw [hp]
    simp only [id, winOf_setWin]
    unfold winEnt
    exact winEnt_done _ _ _ _ _ he hj hd
  unfold complete completeCt
  have hc : (if (s.recov.stage != 0 && memN s.recov.jobs j) = true then none else jobOf s j) = some b := by
    simp [hr, hb]
  rw [hc]
  simp only
  refine ⟨{ jobReply s b true false status detail data with ct := s.ctEv }, ?_, rfl, rfl, rfl, rfl⟩
  split
  · rw [winOf_congr _ _ _ (send_wins _ _ _ _)]
    exact hw _
  · exact hw _

/-! ### Replies that leave keep the side channel clear -/

theorem sqStall_out (r : Nat) (b : Bool) (s : State) : (sqStall r b s).out = s.out := by
  unfold sqStall
  exact sans_foldl (·.out) _ _ _ (fun t e => by split <;> rfl)

theorem rqDrain_quiet (r : Nat) (l : List (Nat × Reply)) (s : State) (h : quiet s) : quiet (rqDrain r l s) := by
  induction l generalizing s with
  | nil =>
    simp only [rqDrain]
    split
    · intro o ho; rw [sqStall_out] at ho; exact h o ho
    · exact h
  | cons e rest ih =>
    obtain ⟨k, rep⟩ := e
    simp only [rqDrain]
    split
    · apply ih
      intro o ho
      have : o ∈ s.out ++ [Out.reply (.ring (Fin.ofNat 32 (k % 32))) (k / 32) rep, Out.hostWrite r 1 ((s.rd F.HST_RQ_TAIL_V r + 4 * replyWords rep) % 2 ^ (s.rd F.HST_RQ_CTL_SIZE r + 1))] := ho
      rw [List.mem_append] at this
      rcases this with hm | hm
      · exact h o hm
      · simp only [List.mem_cons, List.not_mem_nil, or_false] at hm
        rcases hm with rfl | rfl <;> rfl
    · intro o ho; rw [sqStall_out] at ho
      refine h o ?_
      revert ho
      split <;> exact id

/-- A reply to a host leaves nothing for the side channel. -/
theorem send_quiet (path : Path) (hp : ∀ x, path ≠ .side x) (o : Nat) (r : Reply) (s : State) (h : quiet s) : quiet (send path o r s) := by
  unfold send
  split
  · exact rqDrain_quiet _ _ _ h
  · exact h
  · rename_i q hq hn
    intro x hx
    have hx : x ∈ s.out ++ [Out.reply path o r] := hx
    rw [List.mem_append] at hx
    rcases hx with hm | hm
    · exact h x hm
    · simp only [List.mem_cons, List.not_mem_nil, or_false] at hm
      subst hm
      cases path with
      | side y => exact absurd rfl (hp y)
      | _ => rfl

theorem winDone_out (k job : Nat) (rep : Reply) (s : State) : (winDone k job rep s).out = s.out := by
  unfold winDone
  extract_lets w
  split
  · unfold poolAdd
    split
    · rfl
    · extract_lets pl
      clear_value pl
      split
      · rfl
      · cases pl <;> rfl
  · rfl

/-- The final reply of a job of a host leaves nothing for the side channel. -/
theorem complete_quiet (j status detail : Nat) (data : List Nat) (s : State) (h : quiet s)
    (hp : ∀ b, jobOf s j = some b → ∀ x, b.path ≠ .side x) : quiet (complete j status detail data s) := by
  have hw : ∀ k rep, quiet (winDone k j rep { s with jobs := s.jobs.filter (fun x => x.id != j) }) := by
    intro k rep o ho
    rw [winDone_out] at ho
    exact h o ho
  unfold complete completeCt
  split
  · exact h
  · rename_i b hb
    split
    · refine send_quiet _ (hp b ?_) _ _ _ (hw _ _)
      split at hb
      · simp at hb
      · exact hb
    · exact hw _ _

theorem interim_sans (j : Nat) (s : State) : sansReply (interim j s) = sansReply s := by
  unfold interim
  split
  · rfl
  · split
    · exact send_sans _ _ _ _
    · rfl

theorem interim_keeps (j : Nat) (s : State) : Keeps hstA s (interim j s) := by
  unfold interim
  split
  · exact Keeps.refl _ _
  · split
    · exact send_keeps _ _ _ _
    · exact Keeps.refl _ _

theorem interim_quiet (j : Nat) (s : State) (h : quiet s) (hp : ∀ b, jobOf s j = some b → ∀ x, b.path ≠ .side x) : quiet (interim j s) := by
  unfold interim
  split
  · exact h
  · rename_i b hb
    split
    · exact send_quiet _ (hp b hb) _ _ _ h
    · exact h

/-! ### A packet from its arrival to its answer -/

/-- The state in which a packet that passes is executed, after its interim reply if its opcode gives one. -/
def entered (op : Nat) (p : Pkt) (s : State) : State :=
  if opInterim op then interim s.nextJob (taken (numbered op p) s) else taken (numbered op p) s

theorem entered_keeps (op : Nat) (p : Pkt) (s : State) : Keeps hstA s (entered op p s) := by
  unfold entered
  split
  · exact (taken_keeps _ _).trans (interim_keeps _ _)
  · exact taken_keeps _ _

/-- A state without what taking a packet up and replying change. -/
def sansEntered (s : State) : State :=
  { s with flds := [], jobs := [], nextJob := 0, wins := [], cmd := false, out := [], rqWait := [], msixWait := [] }

theorem entered_sans (op : Nat) (p : Pkt) (s : State) : sansEntered (entered op p s) = sansEntered s := by
  have h1 : sansEntered (taken (numbered op p) s) = sansEntered s := of_sansTaken sansEntered (fun _ => rfl) (taken_sans (numbered op p) s)
  unfold entered
  split
  · have h2 : sansEntered (interim s.nextJob (taken (numbered op p) s)) = sansEntered (taken (numbered op p) s) :=
      of_sansReply sansEntered (fun _ => rfl) (interim_sans s.nextJob (taken (numbered op p) s))
    exact h2.trans h1
  · exact h1

theorem of_sansEntered {γ : Type} (g : State → γ) (hg : ∀ s, g (sansEntered s) = g s) {s t : State} (h : sansEntered s = sansEntered t) : g s = g t :=
  (hg s).symm.trans ((congrArg g h).trans (hg t))

theorem entered_rd (op : Nat) (p : Pkt) (s : State) (f : Fld) (u : Nat) (h : ¬ hstA (f.key u)) : (entered op p s).rd f u = s.rd f u :=
  (entered_keeps op p s).rd f u h

theorem entered_on (op : Nat) (p : Pkt) (s : State) (f : Fld) (u : Nat) (h : ¬ hstA (f.key u)) : (entered op p s).on f u = s.on f u :=
  (entered_keeps op p s).on f u h

theorem entered_jobs (op : Nat) (p : Pkt) (s : State) : (entered op p s).jobs = s.jobs ++ [jobFor (numbered op p) s.nextJob] := by
  unfold entered
  split
  · rw [show (interim s.nextJob (taken (numbered op p) s)).jobs = (taken (numbered op p) s).jobs from
      of_sansReply (·.jobs) (fun _ => rfl) (interim_sans _ _)]
    exact taken_jobs _ _
  · exact taken_jobs _ _

theorem entered_jobOf (op : Nat) (p : Pkt) (s : State) (h : jobOf s s.nextJob = none) :
    jobOf (entered op p s) s.nextJob = some (jobFor (numbered op p) s.nextJob) := by
  have := taken_jobOf (numbered op p) s h
  simp only [jobOf, entered_jobs, taken_jobs] at *
  exact this

theorem entered_ent (op : Nat) (p : Pkt) (s : State) (h : newTag s p) :
    winEnt (winOf (entered op p s) (winKey p.org p.src)) p.tag = some ⟨p.tag, op, false, s.nextJob, none⟩ := by
  have h0 := taken_ent (numbered op p) s h
  unfold entered
  split
  · rw [winOf_congr _ _ _ (of_sansReply (·.wins) (fun _ => rfl) (interim_sans _ _))]
    exact h0
  · exact h0

theorem taken_quiet (q : Pkt) (s : State) (h : quiet s) : quiet (taken q s) := by
  intro o ho
  rw [taken_out] at ho
  exact h o ho

theorem entered_quiet (op : Nat) (p : Pkt) (s : State) (h : quiet s) (hside : ∀ x, p.path ≠ .side x) (hj : jobOf s s.nextJob = none) :
    quiet (entered op p s) := by
  unfold entered
  split
  · refine interim_quiet _ _ (taken_quiet _ _ h) ?_
    intro b hb
    rw [taken_jobOf _ _ hj] at hb
    obtain rfl := Option.some.inj hb
    exact hside
  · exact taken_quiet _ _ h

/-- What a packet that passes comes to: its command runs in `entered`, and answers unless its end comes later. -/
theorem packet_run (op : Nat) (p : Pkt) (s : State) (h : passes op p s) (h0 : op ≠ 0xF0) (h1 : op = 1 → p.w 0 % 2 = 0)
    (hi : opInterim op = true → (opRun s.nextJob (numbered op p) (taken (numbered op p) s)).status = stOk) :
    hostCmd (packet op p) s =
      (let r := opRun s.nextJob (numbered op p) (entered op p s)
       (if r.wait then flagAll p.org r.flags r.st
         else complete s.nextJob r.status r.detail r.data (flagAll p.org r.flags r.st)).rested) := by
  rw [packet_eq op p s h h0 h1]
  obtain ⟨_, _, _, _, _, hbat, _, _, _, hwhy, _, _, horg⟩ := h
  have hw : (pktWhy (taken (numbered op p) s) (numbered op p)).1 = stOk := by
    rw [pktWhy_congr (taken_keeps _ _) (taken_boot _ _) (taken_segs _ _) (taken_opens _ _) (numbered op p) horg.1]
    exact hwhy
  unfold entered
  cases hint : opInterim op
  · rw [execute_eq s.nextJob (numbered op p) _ hw hbat hint]
    rfl
  · rw [execute_interim_eq s.nextJob (numbered op p) _ hw hbat hint (hi hint)]
    rfl

/-- A command that answers at once: its reply is cached, and its effect stands. -/
theorem packet_done (op : Nat) (p : Pkt) (s : State) (h : passes op p s) (h0 : op ≠ 0xF0) (h1 : op = 1 → p.w 0 % 2 = 0)
    (hi : opInterim op = true → (opRun s.nextJob (numbered op p) (taken (numbered op p) s)).status = stOk)
    (status detail : Nat) (data : List Nat) (st : State)
    (hr : opRun s.nextJob (numbered op p) (entered op p s) = ⟨status, detail, data, [], false, st⟩)
    (hwins : st.wins = (entered op p s).wins) (hjobs : st.jobs = (entered op p s).jobs) (hrec : st.recov = s.recov) :
    replied p status data (finish (hostCmd (packet op p) s)) ∧ Keeps hstA st (hostCmd (packet op p) s) ∧
      sansDone (hostCmd (packet op p) s) = sansDone st.rested ∧ (quiet st → quiet (hostCmd (packet op p) s)) := by
  rw [packet_run op p s h h0 h1 hi]
  obtain ⟨_, _, hside, _, _, _, htag, _, _, _, hjob, hmem, horg⟩ := h
  have hjo : jobOf st s.nextJob = some (jobFor (numbered op p) s.nextJob) := by
    rw [← entered_jobOf op p s hjob]; simp only [jobOf, hjobs]
  rw [hr]
  simp only [flagAll, List.foldl_nil, Bool.false_eq_true, if_false]
  have hent : winEnt (winOf st (winKey p.org p.src)) p.tag = some ⟨p.tag, op, false, s.nextJob, none⟩ := by
    rw [winOf_congr _ _ _ hwins]; exact entered_ent op p s htag
  refine ⟨?_, completeCt_keeps _ _ _ _ _ _, ?_, ?_⟩
  · obtain ⟨r, hr1, hr2, hr3, hr4, hr5⟩ := complete_replied s.nextJob status detail data st (jobFor (numbered op p) s.nextJob) _ hjo
      (show p.org < 1000 by omega) horg.2 (by rw [hrec]; exact hmem) hent rfl rfl
    have hw : (finish (complete s.nextJob status detail data st).rested).wins = (complete s.nextJob status detail data st).wins := finish_wins _
    exact ⟨_, r, by rw [winOf_congr _ _ _ hw]; exact hr1, rfl, rfl, hr2, hr3, hr4, hr5⟩
  · have := complete_sans s.nextJob status detail data st
    exact of_sansDone (fun s => sansDone s.rested) (fun _ => rfl) this
  · intro hq
    exact complete_quiet _ _ _ _ _ hq (fun b hb => by rw [hjo] at hb; obtain rfl := Option.some.inj hb; exact hside)

/-- A command that is taken up and answers at its end: it is in progress, and its effect so far stands. -/
theorem packet_begun (op : Nat) (p : Pkt) (s : State) (h : passes op p s) (h0 : op ≠ 0xF0) (h1 : op = 1 → p.w 0 % 2 = 0)
    (hi : opInterim op = true → (opRun s.nextJob (numbered op p) (taken (numbered op p) s)).status = stOk)
    (st : State) (hr : opRun s.nextJob (numbered op p) (entered op p s) = rWait st)
    (hwins : st.wins = (entered op p s).wins) (hjobs : st.jobs = (entered op p s).jobs) :
    hostCmd (packet op p) s = st.rested ∧ begun op p s.nextJob (finish (hostCmd (packet op p) s)) := by
  have e : hostCmd (packet op p) s = st.rested := by
    rw [packet_run op p s h h0 h1 hi, hr]
    rfl
  obtain ⟨_, _, _, _, _, _, htag, _⟩ := h
  refine ⟨e, ?_⟩
  rw [e]
  have hw : (finish st.rested).wins = (entered op p s).wins := (finish_wins _).trans hwins
  have hj : (finish st.rested).jobs = s.jobs ++ [jobFor (numbered op p) s.nextJob] := by
    rw [finish_jobs]
    exact Eq.trans hjobs (entered_jobs op p s)
  refine ⟨⟨⟨p.tag, op, false, s.nextJob, none⟩, ?_, rfl, rfl, rfl⟩, jobFor (numbered op p) s.nextJob, ?_, rfl, rfl, rfl, rfl⟩
  · rw [winOf_congr _ _ _ hw]; exact entered_ent op p s htag
  · rw [hj]; simp

end Sys2Proof.Machine
end

