-- ==== Sys2Proof/Laws/Map.lean ====
section
/-! SUPPORT. The register map: an address names one register of one unit. -/

namespace Sys2Proof.Machine

/-- The last address of a run of units that holds a register. -/
def Blk.last (b : Blk) : Nat := b.base + b.stride * (b.count - 1) + b.rows.foldl (fun n r => max n r.off) 0

/-- What a run of units answers for an address. -/
def Blk.find (b : Blk) (a : Nat) : Option (Blk × Nat × Row) :=
  if b.holds a then
    let u := (a - b.base) / b.stride
    let off := (a - b.base) % b.stride
    (b.rows.find? (fun r => r.off == off)).map (fun r => (b, u, r))
  else none

theorem regAt_eq (a : Nat) : regAt a = blks.findSome? (fun b => b.find a) := rfl

/-- No register of `c` lies at an address of `b`. -/
def Blk.apart (c b : Blk) : Bool :=
  decide (c.last < b.base) || decide (b.last < c.base) ||
    (List.range b.count).all (fun u => b.rows.all (fun r => (c.find (b.base + b.stride * u + r.off)).isNone))

/-- The rows of a run have offsets of their own, below the distance of its units. -/
def Blk.plain (b : Blk) : Bool :=
  decide (0 < b.stride) && b.rows.all (fun r => decide (r.off < b.stride)) && b.rows.Pairwise (fun r q => r.off ≠ q.off)

/-- Each run is plain, and lies apart from those before it. -/
def blksOk : List Blk → List Blk → Bool
  | _, [] => true
  | pre, b :: rest => b.plain && pre.all (fun c => c.apart b) && blksOk (pre ++ [b]) rest

theorem blks_ok : blksOk [] blks = true := by decide +kernel

theorem foldl_max_le (l : List Row) (n : Nat) : n ≤ l.foldl (fun n r => max n r.off) n ∧ ∀ r ∈ l, r.off ≤ l.foldl (fun n r => max n r.off) n := by
  induction l generalizing n with
  | nil => simp
  | cons r l ih =>
    have h := ih (max n r.off)
    refine ⟨Nat.le_trans (Nat.le_max_left _ _) h.1, ?_⟩
    intro q hq
    simp only [List.mem_cons] at hq
    rcases hq with rfl | hq
    · exact Nat.le_trans (Nat.le_max_right _ _) h.1
    · exact h.2 q hq

theorem Blk.off_le_last (b : Blk) (u : Nat) (r : Row) (hu : u < b.count) (hr : r ∈ b.rows) :
    b.base + b.stride * u + r.off ≤ b.last := by
  have h := (foldl_max_le b.rows 0).2 r hr
  have : b.stride * u ≤ b.stride * (b.count - 1) := Nat.mul_le_mul_left _ (by omega)
  simp only [Blk.last]; omega

/-- A run answers only for addresses between its base and its last register. -/
theorem Blk.find_range (c : Blk) (a : Nat) (h : (c.find a).isSome) : c.base ≤ a ∧ a ≤ c.last := by
  unfold Blk.find at h
  split at h
  · rename_i hh
    simp only [Blk.holds, Bool.and_eq_true, decide_eq_true_eq] at hh
    refine ⟨hh.1, ?_⟩
    simp only [Option.isSome_map] at h
    obtain ⟨r, hr⟩ := Option.isSome_iff_exists.mp h
    have hm := List.mem_of_find?_eq_some hr
    have ho : r.off = (a - c.base) % c.stride := by simpa using List.find?_some hr
    have := c.off_le_last ((a - c.base) / c.stride) r hh.2 hm
    have e := Nat.div_add_mod (a - c.base) c.stride
    rw [ho] at this
    omega
  · simp at h

theorem Blk.find_self (b : Blk) (hb : b.plain = true) (u : Nat) (r : Row) (hu : u < b.count) (hr : r ∈ b.rows) :
    b.find (b.base + b.stride * u + r.off) = some (b, u, r) := by
  simp only [Blk.plain, Bool.and_eq_true, decide_eq_true_eq, List.all_eq_true] at hb
  obtain ⟨⟨hs, ho⟩, hp⟩ := hb
  have hro := ho r hr
  have e : b.base + b.stride * u + r.off - b.base = b.stride * u + r.off := by omega
  have ed : (b.stride * u + r.off) / b.stride = u := by
    rw [Nat.mul_add_div hs, Nat.div_eq_of_lt hro]; omega
  have em : (b.stride * u + r.off) % b.stride = r.off := by
    rw [Nat.mul_add_mod, Nat.mod_eq_of_lt hro]
  have hh : b.holds (b.base + b.stride * u + r.off) = true := by
    simp only [Blk.holds, e, ed, Bool.and_eq_true, decide_eq_true_eq]
    exact ⟨by omega, hu⟩
  unfold Blk.find
  rw [if_pos hh]
  simp only [e, ed, em]
  have hf : b.rows.find? (fun q => q.off == r.off) = some r := by
    clear ho hh
    generalize b.rows = l at hr hp
    induction l with
    | nil => simp at hr
    | cons q l ih =>
      simp only [List.mem_cons] at hr
      have hp' := List.pairwise_cons.mp hp
      rcases hr with rfl | hr
      · simp
      · have : q.off ≠ r.off := hp'.1 r hr
        simp only [List.find?_cons, beq_eq_false_iff_ne.mpr this]
        exact ih hr hp'.2
  rw [hf]; rfl

theorem find_of_ok (pre l : List Blk) (h : blksOk pre l = true) (b : Blk) (hb : b ∈ l) (u : Nat) (r : Row) (hu : u < b.count)
    (hr : r ∈ b.rows) : (∀ c ∈ pre, c.find (b.base + b.stride * u + r.off) = none) ∧
      l.findSome? (fun c => c.find (b.base + b.stride * u + r.off)) = some (b, u, r) := by
  induction l generalizing pre with
  | nil => simp at hb
  | cons x l ih =>
    simp only [blksOk, Bool.and_eq_true, List.all_eq_true] at h
    obtain ⟨⟨hx, hpre⟩, hrest⟩ := h
    have apart : ∀ c : Blk, c.apart b = true → c.find (b.base + b.stride * u + r.off) = none := by
      intro c hc
      cases hf : c.find (b.base + b.stride * u + r.off) with
      | none => rfl
      | some e =>
      exfalso
      have h1 := c.find_range _ (by rw [hf]; rfl)
      have h2 := b.off_le_last u r hu hr
      simp only [Blk.apart, Bool.or_eq_true, decide_eq_true_eq, List.all_eq_true] at hc
      rcases hc with (hc | hc) | hc
      · omega
      · omega
      · have h3 := hc u (by simpa using hu) r hr
        rw [hf] at h3; simp at h3
    simp only [List.mem_cons] at hb
    rcases hb with rfl | hb
    · refine ⟨fun c hc => apart c (hpre c hc), ?_⟩
      simp only [List.findSome?_cons, b.find_self hx u r hu hr]
    · have hi := ih (pre ++ [x]) hrest hb
      refine ⟨fun c hc => hi.1 c (by simp [hc]), ?_⟩
      simp only [List.findSome?_cons, hi.1 x (by simp)]
      exact hi.2

/-- The address of a register names that register and its unit. -/
theorem regAt_of_mem (b : Blk) (hb : b ∈ blks) (u : Nat) (hu : u < b.count) (r : Row) (hr : r ∈ b.rows) :
    regAt (b.base + b.stride * u + r.off) = some (b, u, r) := by
  rw [regAt_eq]
  exact (find_of_ok [] blks blks_ok b hb u r hu hr).2

theorem wordAt_of_mem (b : Blk) (hb : b ∈ blks) (u : Nat) (hu : u < b.count) (r : Row) (hr : r ∈ b.rows) :
    wordAt (b.base + b.stride * u + r.off) = some (b, u, r, false) := by
  unfold wordAt
  rw [regAt_of_mem b hb u hu r hr]

end Sys2Proof.Machine
end

