-- ==== Sys2Proof/Laws/Writes.lean ====
section
/-! SUPPORT. What a write of a command register comes to: the effects of its fields, in order. -/

namespace Sys2Proof.Machine

/-- A register whose writable fields are all CMD, with a word that each of them takes. -/
def cmdRow (b : Blk) (r : Row) (w : Nat) : Bool :=
  r.flds.all (fun f => (f.cls == .ro || f.cls == .st || (f.cls == .cmd && decide (f.lo + f.width ≤ 32) && decide (0 < f.width) && f.ok (f.part w)))
      && !(f.id == F.GLB_PERM_CMD_CLASSES.id || f.id == F.GLB_PERM_REG_GROUPS.id || f.id == F.PAN_OWN_B_OWNER.id))
    && r.flds.any (fun f => f.cls == .cmd) && !rowRefused b r w && (b.base != 0x30000 || r.off != 0) && b.base != 0xA01000 && (b.base != 0x10000 || r.off != 0) && b.base != 0x80
    && b.base != 0x800000

/-- The CMD fields of a register with their parts of a word. -/
def cmdParts (r : Row) (w : Nat) : List (Fld × Nat) := (r.flds.filter (fun f => f.cls == .cmd)).map (fun f => (f, f.part w))

theorem ones_bits (n lo width : Nat) (h : lo + width ≤ n) : (2 ^ n - 1) / 2 ^ lo % 2 ^ width = 2 ^ width - 1 := by
  apply Nat.eq_of_testBit_eq
  intro i
  simp only [Nat.testBit_mod_two_pow, Nat.testBit_div_two_pow, Nat.testBit_two_pow_sub_one]
  by_cases hi : i < width
  · simp [hi]; omega
  · simp [hi]

theorem ones_part (lo width : Nat) (h : lo + width ≤ 32) : (2 ^ 32 - 1) / 2 ^ lo % 2 ^ width = 2 ^ width - 1 :=
  ones_bits 32 lo width h

theorem filter_all {α : Type} (l : List α) (q : α → Bool) (h : ∀ x ∈ l, q x = true) : l.filter q = l := by
  simpa [List.filter_eq_self] using h

theorem find?_none {α : Type} (l : List α) (q : α → Bool) (h : ∀ x ∈ l, q x = false) : l.find? q = none := by
  simpa [List.find?_eq_none] using h

theorem zip_map_self {α β : Type} (l : List α) (g : α → β) : l.zip (l.map g) = l.map (fun x => (x, g x)) := by
  induction l with
  | nil => rfl
  | cons x l ih => simp [ih]

theorem runHooks_nil (act : Fld → Nat → State → Eff) (e : Nat × List Nat × State) : runHooks act [] e = e := rfl

/-- Commands act whatever else the tick writes (R32). -/
theorem reaching_cmd (w : Who) (b : Blk) (u : Nat) (r : Row) (mask value : Nat) (acc : List (Fld × Nat)) (s : State)
    (h : ∀ e ∈ acc, e.1.cls = .cmd) : reaching w b u r mask value acc s = acc := by
  unfold reaching
  extract_lets m
  induction acc with
  | nil => rfl
  | cons e l ih =>
    have he : (e.1.cls == Cls.cmd) = true := by rw [h e (by simp)]; rfl
    rw [List.filterMap_cons]
    simp only [he, if_true]
    rw [ih (fun x hx => h x (by simp [hx]))]

/-- A command keeps no value. -/
theorem keptBits_cmd (l : List (Fld × Nat)) (h : ∀ e ∈ l, e.1.cls = .cmd) : keptBits l = 0 := by
  unfold keptBits
  induction l with
  | nil => rfl
  | cons e r ih =>
    have he : (e.1.cls == Cls.cmd) = true := by rw [h e (by simp)]; rfl
    rw [List.foldl_cons, he]
    exact ih (fun x hx => h x (by simp [hx]))

/-- A whole-word write of a command register. -/
theorem rowWrite_cmd (w : Who) (b : Blk) (u : Nat) (r : Row) (a word : Nat) (s : State) (h : cmdRow b r word = true)
    (ha : a ≠ F.NVM_BOOT_LOCK_LOCK.addr 0) (hc : a ≠ F.NVM_CAL_LOCK_LOCK.addr 0) :
    rowWrite w b u r a (2 ^ 32 - 1) word word s =
      (let e := runHooks (fun f v t => cmdHook w b u f v t) (cmdParts r word) (0, [], s)
       ⟨e.1, (match e.2.1 with | [] => [] | c :: _ => [(c, a, word)]), e.2.2⟩) := by
  simp only [cmdRow, Bool.and_eq_true, List.all_eq_true, beq_iff_eq, decide_eq_true_eq, Bool.not_eq_true', bne_iff_ne, Bool.or_eq_true] at h
  obtain ⟨⟨⟨⟨⟨⟨⟨hf, hne⟩, hrr⟩, hb0⟩, hb1⟩, hb2⟩, hb3⟩, hb4⟩ := h
  have hcl : ∀ f ∈ r.flds, clsOf f u = f.cls := by
    intro f x
    have h1 := (hf f x).2
    simp only [Bool.or_eq_false_iff, beq_eq_false_iff_ne] at h1
    simp only [clsOf, h1.1.1, h1.1.2, h1.2, beq_iff_eq, Bool.or_eq_true, Bool.and_eq_true]
    simp
  have hcmd : ∀ f ∈ r.flds, f.cls = .cmd → (f.lo + f.width ≤ 32 ∧ 0 < f.width) ∧ f.ok (f.part word) = true := by
    intro f x hc
    have h1 := (hf f x).1
    simp only [hc] at h1
    simpa using h1
  have hpas : ∀ f ∈ r.flds, passive f u = !(f.cls == .cmd) := by
    intro f x
    have h1 := (hf f x).1
    simp only [passive, hcl f x]
    cases hcc : f.cls <;> simp_all
  have hnp : ∀ f ∈ r.flds, (f.cls == .pst) = false ∧ (f.cls == .cfg) = false ∧ (f.cls == .wo1) = false ∧ (f.cls == .live) = false := by
    intro f x
    have h1 := (hf f x).1
    cases hcc : f.cls <;> simp_all
  have htou : ∀ f ∈ r.flds, f.cls = .cmd → touches (2 ^ 32 - 1) f = true := by
    intro f x hc
    have h1 := (hcmd f x hc).1
    simp only [touches, ones_part _ _ h1.1, bne_iff_ne]
    have : 2 ^ 1 ≤ 2 ^ f.width := Nat.pow_le_pow_right (by omega) h1.2
    omega
  have hnv : ∀ f ∈ r.flds, f.cls = .cmd → newVal s (2 ^ 32 - 1) word u f = f.part word := by
    intro f x hc
    have h1 := (hcmd f x hc).1.1
    simp only [newVal, hc, ones_part _ _ h1, Fld.part]
    simp [Nat.and_two_pow_sub_one_eq_mod]
  have hall : r.flds.all (fun f => passive f u) = false := by
    obtain ⟨f, x, hc⟩ := List.any_eq_true.mp hne
    rw [List.all_eq_false]
    exact ⟨f, x, by rw [hpas f x, hc]; simp⟩
  have hpst : r.flds.any (fun f => f.cls == .pst) = false := by
    simp only [List.any_eq_false]; intro f x; simp [(hnp f x).1]
  have hsel : r.flds.filter (fun f => !passive f u && touches (2 ^ 32 - 1) f) = r.flds.filter (fun f => f.cls == .cmd) := by
    apply List.filter_congr
    intro f x
    rw [hpas f x]
    by_cases hc : f.cls = .cmd
    · rw [htou f x hc, hc]; rfl
    · simp [hc]
  have hfs : (r.flds.filter (fun f => !passive f u && touches (2 ^ 32 - 1) f)).map (fun f => (f, newVal s (2 ^ 32 - 1) word u f))
      = cmdParts r word := by
    rw [hsel, cmdParts]
    apply List.map_congr_left
    intro f x
    rw [List.mem_filter, beq_iff_eq] at x
    rw [hnv f x.1 x.2]
  have hmem : ∀ e ∈ cmdParts r word, e.1.cls = .cmd ∧ e.1.ok e.2 = true := by
    intro e x
    simp only [cmdParts, List.mem_map, List.mem_filter, beq_iff_eq] at x
    obtain ⟨f, x, rfl⟩ := x
    exact ⟨x.2, (hcmd f x.1 x.2).2⟩
  have hwhy : ∀ e ∈ cmdParts r word, fieldWhy s b u r e.1 (s.rd e.1 u) e.2 = (0, 0) := by
    intro e x
    simp [fieldWhy, (hmem e x).1, (hmem e x).2]
  have hwhys : (cmdParts r word).map (fun e => fieldWhy s b u r e.1 (s.rd e.1 u) e.2)
      = (cmdParts r word).map (fun _ => ((0, 0) : Nat × Nat)) := List.map_congr_left hwhy
  have hacc : ((cmdParts r word).map (fun x => (x, ((0, 0) : Nat × Nat)))).filterMap
      (fun e => if e.2.2 == 0 then some e.1 else none) = cmdParts r word := by
    generalize cmdParts r word = l
    induction l with
    | nil => rfl
    | cons x l ih => simp only [List.map_cons, List.filterMap_cons, beq_self_eq_true, if_true, ih]
  have hbad : ((cmdParts r word).map (fun _ => ((0, 0) : Nat × Nat))).find? (fun y => y.2 != 0) = none := by
    simp [List.find?_eq_none]
  have hrej : ((cmdParts r word).map (fun x => (x, ((0, 0) : Nat × Nat)))).any
      (fun e => e.2.2 != 0 && e.1.1.cls == .cfg) = false := by
    simp [List.any_eq_false]
  have hkept : (cmdParts r word).any (fun e => e.1.cls == .cfg || e.1.cls == .wo1) = false := by
    rw [List.any_eq_false]; intro e x; simp [(hmem e x).1]
  have hun : (cmdParts r word).filter (fun e => !hooked e.1) = [] := by
    rw [List.filter_eq_nil_iff]; intro e x; simp [hooked, (hmem e x).1]
  have hcm : (cmdParts r word).filter (fun e => e.1.cls == .cmd) = cmdParts r word := by
    apply filter_all; intro e x; simp [(hmem e x).1]
  have hlv : (cmdParts r word).filter (fun e => e.1.cls == .live && hooked e.1) = [] := by
    rw [List.filter_eq_nil_iff]; intro e x; simp [(hmem e x).1]
  have hrc : rowCfg r = false := by
    simp only [rowCfg, List.any_eq_false]; intro f x; simp [(hnp f x).2.1]
  unfold rowWrite
  simp only [hall, hpst, hrr, Bool.false_eq_true, if_false]
  simp only [hfs]
  have hkeep : rowKeep w b u r a (2 ^ 32 - 1) word false (cmdParts r word) s = s := by
    simp only [rowKeep, rowStore, hkept, hun, hrc, keptBits_cmd _ (fun e x => (hmem e x).1), Nat.and_zero, beq_self_eq_true, Bool.or_true,
      storeAll, List.foldl_nil, Bool.false_and, Bool.false_eq_true, if_false, if_true]
  have hre : reaching w b u r (2 ^ 32 - 1) word (cmdParts r word) s = cmdParts r word := reaching_cmd _ _ _ _ _ _ _ _ (fun e x => (hmem e x).1)
  have hca : rowCause w b u r (2 ^ 32 - 1) word s = 0 := by
    have : ¬ (b.base = 0x30000 ∧ r.off = 0) := by
      rintro ⟨x, y⟩
      rcases hb0 with h | h
      · exact h x
      · exact h y
    simp only [rowCause, beq_iff_eq, Bool.and_eq_true, this, if_false]
  simp only [hca, bne_self_eq_false, Bool.false_eq_true, if_false]
  simp only [hwhys, zip_map_self, hacc, hbad, hrej, hre, hkeep, hcm, hlv, runHooks_nil]
  have hb2' : ¬ (b.base = 0x10000 ∧ r.off = 0) := by
    rintro ⟨x, y⟩
    rcases hb2 with h | h
    · exact h x
    · exact h y
  simp only [hb1, hb2', ha, hc, beq_iff_eq, Bool.and_eq_true, false_and, if_false] <;> rfl

theorem regDenied_false (s : State) (o : Nat) (b : Blk) (hb : b.base ≠ 0x80) (h : mayCommand s o b.grp) : regDenied s o b = false := by
  simp only [regDenied]
  rcases h with h | h | h
  · simp [h]
  · simp [h]
  · simp [h, hb]

/-- A whole word written to a command register of a unit: the effects of its fields and nothing else, with the access flagged where an
effect names a cause. -/
theorem writeWord_cmd (o a word : Nat) (s : State) (b : Blk) (u : Nat) (r : Row) (hat : wordAt a = some (b, u, r, false))
    (h : cmdRow b r word = true) (hm : mayCommand s o b.grp) (hw : word < 2 ^ 32) (h4 : a % 4 = 0)
    (ha : a ≠ F.NVM_BOOT_LOCK_LOCK.addr 0) (hc : a ≠ F.NVM_CAL_LOCK_LOCK.addr 0) (hp : r.pair = false) (ho : regAt a = some (b, u, r)) :
    writeWord o a word s =
      (let e := runHooks (fun f v t => cmdHook ⟨o, 0, 0, o == 0, false⟩ b u f v t) (cmdParts r word) (0, [], s)
       flagAll o (match e.2.1 with | [] => [] | c :: _ => [(c, a, word)]) e.2.2) := by
  have hb : b.base ≠ 0x80 := by
    simp only [cmdRow, Bool.and_eq_true, bne_iff_ne] at h; exact h.1.2
  have hd := regDenied_false s o b hb hm
  have hy : accessWhy s ⟨o, 0, 0, o == 0, false⟩ a 15 = (0, 0) := by
    simp [accessWhy, h4, hat, hd]
  have hpair : isPair a = false := by simp [isPair, ho, hp]
  have hbits : byteBits 15 = 2 ^ 32 - 1 := by decide
  simp only [writeWord, writeNow, regWrites, List.length_singleton, hpair, Bool.and_false, Bool.false_and, if_false, Bool.false_eq_true]
  simp only [regWrite, hy, hat, hbits, Nat.mod_eq_of_lt hw, bne_self_eq_false, Bool.false_eq_true, if_false, Nat.mul_one,
    rowWrite_cmd ⟨o, 0, 0, o == 0, false⟩ b u r a word s h ha hc, List.nil_append]

/-- The same for a register of the map. -/
theorem cmd_write (b : Blk) (hb : b ∈ blks) (r : Row) (hr : r ∈ b.rows) (word : Nat)
    (h : (cmdRow b r word && decide (word < 2 ^ 32) && b.base % 4 == 0 && b.stride % 4 == 0 && r.off % 4 == 0 && !r.pair) = true)
    (u : Nat) (hu : u < b.count) (a : Nat) (ha : a = b.base + b.stride * u + r.off) (o : Nat) (s : State) (hm : mayCommand s o b.grp) :
    writeWord o a word s =
      (let e := runHooks (fun f v t => cmdHook ⟨o, 0, 0, o == 0, false⟩ b u f v t) (cmdParts r word) (0, [], s)
       flagAll o (match e.2.1 with | [] => [] | c :: _ => [(c, a, word)]) e.2.2) := by
  subst ha
  simp only [Bool.and_eq_true, decide_eq_true_eq, beq_iff_eq, Bool.not_eq_true'] at h
  obtain ⟨⟨⟨⟨⟨h, hw⟩, h1⟩, h2⟩, h3⟩, hp⟩ := h
  have ho := regAt_of_mem b hb u hu r hr
  have hn : b.base ≠ 0x800000 := by
    simp only [cmdRow, Bool.and_eq_true, bne_iff_ne] at h; exact h.2
  have lock : ∀ a, (regAt a).map (fun e => e.1.base) = some 0x800000 → b.base + b.stride * u + r.off ≠ a := by
    intro a ha e
    rw [← e, ho] at ha
    simp at ha
    exact hn ha
  refine writeWord_cmd o _ word s b u r (wordAt_of_mem b hb u hu r hr) h hm hw ?_ (lock _ (by decide +kernel)) (lock _ (by decide +kernel)) hp ho
  have : b.stride * u % 4 = 0 := by rw [Nat.mul_mod, h2]; simp
  omega

end Sys2Proof.Machine
end

