-- ==== Sys2Proof/Laws/Commands.lean ====
section
/-! SUPPORT. What each bit of a command register does when an origin that may write the register writes it alone. -/

namespace Sys2Proof.Machine

/-- An effect with the access flagged where it names a cause. -/
def flagged (o a w : Nat) (r : Eff) : State :=
  flagAll o (match (if r.2.1 == 0 then ([] : List Nat) else [] ++ [r.2.1]) with | [] => [] | c :: _ => [(c, a, w)]) r.2.2

theorem flagged_none (o a w : Nat) (r : Eff) (h : r.2.1 = 0) : flagged o a w r = r.2.2 := by
  simp only [flagged, h, beq_self_eq_true, if_true]
  rfl

theorem glbRegErrClr_eq (o : Nat) (s : State) (hm : mayCommand s o 0) : cmdBit F.GLB_REG_ERR_CLR o 0 s = regErrClear s :=
  cmd_write ⟨0x0, 0x1000000, 1, 0, rowsGlbId⟩ (List.mem_of_getElem? (i := 0) rfl)
    ⟨0x18, false, [F.GLB_REG_ERR_CLR, F.GLB_REG_ERR_ORIGIN, F.GLB_REG_ERR_CAUSE, F.GLB_REG_ERR_COUNT]⟩ (List.mem_of_getElem? (i := 6) rfl) 2147483648
    (by decide) 0 (by decide) _ (by simp only [Fld.addr, F.GLB_REG_ERR_CLR] <;> omega) o s hm

theorem glbSnapGo_eq (o : Nat) (s : State) (hm : mayCommand s o 0) : cmdBit F.GLB_SNAP_GO o 0 s = { s with snapReq := true } :=
  cmd_write ⟨0x0, 0x1000000, 1, 0, rowsGlbId⟩ (List.mem_of_getElem? (i := 0) rfl)
    ⟨0x24, false, [F.GLB_SNAP_SEQ, F.GLB_SNAP_GO]⟩ (List.mem_of_getElem? (i := 9) rfl) 1
    (by decide) 0 (by decide) _ (by simp only [Fld.addr, F.GLB_SNAP_GO] <;> omega) o s hm

theorem rsrcCmdClr_eq (o u : Nat) (hu : u < 64) (s : State) (hm : mayCommand s o 7) : cmdBit F.RSRC_CMD_CLR o u s = railClear u s :=
  cmd_write ⟨0x300000, 0x80, 64, 7, rowsRsrcCtl⟩ (List.mem_of_getElem? (i := 13) rfl)
    ⟨0x4, false, [F.RSRC_CMD_CLR, F.RSRC_CMD_REANCHOR, F.RSRC_CMD_LOAD]⟩ (List.mem_of_getElem? (i := 1) rfl) 4
    (by decide) u hu _ (by simp only [Fld.addr, F.RSRC_CMD_CLR] <;> omega) o s hm

theorem rsrcCmdReanchor_eq (o u : Nat) (hu : u < 64) (s : State) (hm : mayCommand s o 7) : cmdBit F.RSRC_CMD_REANCHOR o u s = railReanchor u s :=
  cmd_write ⟨0x300000, 0x80, 64, 7, rowsRsrcCtl⟩ (List.mem_of_getElem? (i := 13) rfl)
    ⟨0x4, false, [F.RSRC_CMD_CLR, F.RSRC_CMD_REANCHOR, F.RSRC_CMD_LOAD]⟩ (List.mem_of_getElem? (i := 1) rfl) 2
    (by decide) u hu _ (by simp only [Fld.addr, F.RSRC_CMD_REANCHOR] <;> omega) o s hm

theorem rsrcCmdLoad_eq (o u : Nat) (hu : u < 64) (s : State) (hm : mayCommand s o 7) : cmdBit F.RSRC_CMD_LOAD o u s = railLoad u s :=
  cmd_write ⟨0x300000, 0x80, 64, 7, rowsRsrcCtl⟩ (List.mem_of_getElem? (i := 13) rfl)
    ⟨0x4, false, [F.RSRC_CMD_CLR, F.RSRC_CMD_REANCHOR, F.RSRC_CMD_LOAD]⟩ (List.mem_of_getElem? (i := 1) rfl) 1
    (by decide) u hu _ (by simp only [Fld.addr, F.RSRC_CMD_LOAD] <;> omega) o s hm

theorem encCmdZero_eq (o u : Nat) (hu : u < 8) (s : State) (hm : mayCommand s o 7) : cmdBit F.ENC_CMD_ZERO o u s = setEncPos u 0 s :=
  cmd_write ⟨0x302000, 0x40, 8, 7, rowsEncCtl⟩ (List.mem_of_getElem? (i := 14) rfl)
    ⟨0x24, false, [F.ENC_CMD_CLR, F.ENC_CMD_ZERO]⟩ (List.mem_of_getElem? (i := 7) rfl) 1
    (by decide) u hu _ (by simp only [Fld.addr, F.ENC_CMD_ZERO] <;> omega) o s hm

theorem encCmdClr_eq (o u : Nat) (hu : u < 8) (s : State) (hm : mayCommand s o 7) : cmdBit F.ENC_CMD_CLR o u s = encClear u s :=
  cmd_write ⟨0x302000, 0x40, 8, 7, rowsEncCtl⟩ (List.mem_of_getElem? (i := 14) rfl)
    ⟨0x24, false, [F.ENC_CMD_CLR, F.ENC_CMD_ZERO]⟩ (List.mem_of_getElem? (i := 7) rfl) 2
    (by decide) u hu _ (by simp only [Fld.addr, F.ENC_CMD_CLR] <;> omega) o s hm

theorem rsrcLtCmdClr_eq (o u : Nat) (hu : u < 8) (s : State) (hm : mayCommand s o 7) : cmdBit F.RSRC_LT_CMD_CLR o u s = trkClear u s :=
  cmd_write ⟨0x303000, 0x40, 8, 7, rowsRsrcLtCtl⟩ (List.mem_of_getElem? (i := 15) rfl)
    ⟨0x28, false, [F.RSRC_LT_CMD_CLR]⟩ (List.mem_of_getElem? (i := 8) rfl) 1
    (by decide) u hu _ (by simp only [Fld.addr, F.RSRC_LT_CMD_CLR] <;> omega) o s hm

theorem plyCmdClr_eq (o u : Nat) (hu : u < 64) (s : State) (hm : mayCommand s o 5) : cmdBit F.PLY_CMD_CLR o u s = (plyClear u s).wr F.PLY_STATE_CMD_REJ u 0 :=
  cmd_write ⟨0x100000, 0x1000, 64, 5, rowsPlyStepBase⟩ (List.mem_of_getElem? (i := 11) rfl)
    ⟨0xc, false, [F.PLY_CMD_CLR, F.PLY_CMD_SKIP, F.PLY_CMD_STOP, F.PLY_CMD_RESUME, F.PLY_CMD_HOLD, F.PLY_CMD_START, F.PLY_CMD_ARM]⟩ (List.mem_of_getElem? (i := 3) rfl) 64
    (by decide) u hu _ (by simp only [Fld.addr, F.PLY_CMD_CLR] <;> omega) o s hm

theorem plySeqCmdClr_eq (o u : Nat) (hu : u < 64) (s : State) (hm : mayCommand s o 5) : cmdBit F.PLY_SEQ_CMD_CLR o u s = seqClear u s :=
  cmd_write ⟨0x100000, 0x1000, 64, 5, rowsPlyStepBase⟩ (List.mem_of_getElem? (i := 11) rfl)
    ⟨0x12c, false, [F.PLY_SEQ_CMD_CLR, F.PLY_SEQ_CMD_EV_CLR]⟩ (List.mem_of_getElem? (i := 26) rfl) 65536
    (by decide) u hu _ (by simp only [Fld.addr, F.PLY_SEQ_CMD_CLR] <;> omega) o s hm

theorem chnCmdClr_eq (o u : Nat) (hu : u < 256) (s : State) (hm : mayCommand s o 6) : cmdBit F.CHN_CMD_CLR o u s = chnClear u s :=
  cmd_write ⟨0x200000, 0x400, 256, 6, rowsChnCtl⟩ (List.mem_of_getElem? (i := 12) rfl)
    ⟨0x10, false, [F.CHN_CMD_RESEED, F.CHN_CMD_CLR, F.CHN_CMD_BQ_APPLY]⟩ (List.mem_of_getElem? (i := 4) rfl) 16
    (by decide) u hu _ (by simp only [Fld.addr, F.CHN_CMD_CLR] <;> omega) o s hm

theorem capCmdFlush_eq (o u : Nat) (hu : u < 32) (s : State) (hm : mayCommand s o 10) : cmdBit F.CAP_CMD_FLUSH o u s = capClose u false true s :=
  cmd_write ⟨0x330000, 0x40, 32, 10, rowsCapCtl⟩ (List.mem_of_getElem? (i := 19) rfl)
    ⟨0x14, false, [F.CAP_CMD_REARM, F.CAP_CMD_CLR, F.CAP_CMD_FLUSH]⟩ (List.mem_of_getElem? (i := 5) rfl) 1
    (by decide) u hu _ (by simp only [Fld.addr, F.CAP_CMD_FLUSH] <;> omega) o s hm

theorem capCmdRearm_eq (o u : Nat) (hu : u < 32) (s : State) (hm : mayCommand s o 10) : cmdBit F.CAP_CMD_REARM o u s = capRearm u s :=
  cmd_write ⟨0x330000, 0x40, 32, 10, rowsCapCtl⟩ (List.mem_of_getElem? (i := 19) rfl)
    ⟨0x14, false, [F.CAP_CMD_REARM, F.CAP_CMD_CLR, F.CAP_CMD_FLUSH]⟩ (List.mem_of_getElem? (i := 5) rfl) 4
    (by decide) u hu _ (by simp only [Fld.addr, F.CAP_CMD_REARM] <;> omega) o s hm

theorem capCmdClr_eq (o u : Nat) (hu : u < 32) (s : State) (hm : mayCommand s o 10) : cmdBit F.CAP_CMD_CLR o u s = capClear u s :=
  cmd_write ⟨0x330000, 0x40, 32, 10, rowsCapCtl⟩ (List.mem_of_getElem? (i := 19) rfl)
    ⟨0x14, false, [F.CAP_CMD_REARM, F.CAP_CMD_CLR, F.CAP_CMD_FLUSH]⟩ (List.mem_of_getElem? (i := 5) rfl) 2
    (by decide) u hu _ (by simp only [Fld.addr, F.CAP_CMD_CLR] <;> omega) o s hm

theorem refCmdFreeze_eq (o u : Nat) (hu : u < 8) (s : State) (hm : mayCommand s o 14) : cmdBit F.REF_CMD_FREEZE o u s = (laneFreeze u 1 s).2 :=
  cmd_write ⟨0x700000, 0x80, 8, 14, rowsRefCtl⟩ (List.mem_of_getElem? (i := 33) rfl)
    ⟨0x18, false, [F.REF_CMD_CLR, F.REF_CMD_ZERO, F.REF_CMD_UNFREEZE, F.REF_CMD_FREEZE]⟩ (List.mem_of_getElem? (i := 6) rfl) 1
    (by decide) u hu _ (by simp only [Fld.addr, F.REF_CMD_FREEZE] <;> omega) o s hm

theorem refCmdUnfreeze_eq (o u : Nat) (hu : u < 8) (s : State) (hm : mayCommand s o 14) : cmdBit F.REF_CMD_UNFREEZE o u s = (laneUnfreeze u s).2 :=
  cmd_write ⟨0x700000, 0x80, 8, 14, rowsRefCtl⟩ (List.mem_of_getElem? (i := 33) rfl)
    ⟨0x18, false, [F.REF_CMD_CLR, F.REF_CMD_ZERO, F.REF_CMD_UNFREEZE, F.REF_CMD_FREEZE]⟩ (List.mem_of_getElem? (i := 6) rfl) 2
    (by decide) u hu _ (by simp only [Fld.addr, F.REF_CMD_UNFREEZE] <;> omega) o s hm

theorem refCmdZero_eq (o u : Nat) (hu : u < 8) (s : State) (hm : mayCommand s o 14) : cmdBit F.REF_CMD_ZERO o u s = (laneFreeze u 2 s).2 :=
  cmd_write ⟨0x700000, 0x80, 8, 14, rowsRefCtl⟩ (List.mem_of_getElem? (i := 33) rfl)
    ⟨0x18, false, [F.REF_CMD_CLR, F.REF_CMD_ZERO, F.REF_CMD_UNFREEZE, F.REF_CMD_FREEZE]⟩ (List.mem_of_getElem? (i := 6) rfl) 4
    (by decide) u hu _ (by simp only [Fld.addr, F.REF_CMD_ZERO] <;> omega) o s hm

theorem refCmdClr_eq (o u : Nat) (hu : u < 8) (s : State) (hm : mayCommand s o 14) : cmdBit F.REF_CMD_CLR o u s = laneClear u s :=
  cmd_write ⟨0x700000, 0x80, 8, 14, rowsRefCtl⟩ (List.mem_of_getElem? (i := 33) rfl)
    ⟨0x18, false, [F.REF_CMD_CLR, F.REF_CMD_ZERO, F.REF_CMD_UNFREEZE, F.REF_CMD_FREEZE]⟩ (List.mem_of_getElem? (i := 6) rfl) 8
    (by decide) u hu _ (by simp only [Fld.addr, F.REF_CMD_CLR] <;> omega) o s hm

theorem carCmdScrubNow_eq (o : Nat) (s : State) (hm : mayCommand s o 2) : cmdBit F.CAR_CMD_SCRUB_NOW o 0 s = scrubStart s :=
  cmd_write ⟨0x20000, 0x1000000, 1, 2, rowsCarCtl⟩ (List.mem_of_getElem? (i := 4) rfl)
    ⟨0x40, false, [F.CAR_CMD_SCRUB_NOW, F.CAR_CMD_CLR]⟩ (List.mem_of_getElem? (i := 15) rfl) 2
    (by decide) 0 (by decide) _ (by simp only [Fld.addr, F.CAR_CMD_SCRUB_NOW] <;> omega) o s hm

theorem carCmdClr_eq (o : Nat) (s : State) (hm : mayCommand s o 2) : cmdBit F.CAR_CMD_CLR o 0 s = carClear s :=
  cmd_write ⟨0x20000, 0x1000000, 1, 2, rowsCarCtl⟩ (List.mem_of_getElem? (i := 4) rfl)
    ⟨0x40, false, [F.CAR_CMD_SCRUB_NOW, F.CAR_CMD_CLR]⟩ (List.mem_of_getElem? (i := 15) rfl) 1
    (by decide) 0 (by decide) _ (by simp only [Fld.addr, F.CAR_CMD_CLR] <;> omega) o s hm

theorem panCmdClr_eq (o : Nat) (s : State) (hm : mayCommand s o 3) : cmdBit F.PAN_CMD_CLR o 0 s = panClear s :=
  cmd_write ⟨0x30300, 0x1000000, 1, 3, rowsPanRet⟩ (List.mem_of_getElem? (i := 9) rfl)
    ⟨0x10, false, [F.PAN_CMD_CLR]⟩ (List.mem_of_getElem? (i := 4) rfl) 1
    (by decide) 0 (by decide) _ (by simp only [Fld.addr, F.PAN_CMD_CLR] <;> omega) o s hm

theorem brnCmdFlush_eq (o u : Nat) (hu : u < 128) (s : State) (hm : mayCommand s o 4) : cmdBit F.BRN_CMD_FLUSH o u s = queueFlush u s := by
  refine (cmd_write ⟨0x40000, 0x40, 128, 4, rowsBrnCtl⟩ (List.mem_of_getElem? (i := 10) rfl)
    ⟨0x38, false, [F.BRN_CMD_CLR, F.BRN_CMD_DROP, F.BRN_CMD_FLUSH]⟩ (List.mem_of_getElem? (i := 14) rfl) 1
    (by decide) u hu _ (by simp only [Fld.addr, F.BRN_CMD_FLUSH] <;> omega) o s hm).trans ?_
  simp [cmdParts, runHooks, cmdHook, Fld.part, Fld.id, done, flagAll, F.BRN_CMD_FLUSH, F.BRN_CMD_DROP, F.BRN_CMD_CLR]

theorem brnCmdDrop_eq (o u : Nat) (hu : u < 128) (s : State) (hm : mayCommand s o 4) : cmdBit F.BRN_CMD_DROP o u s = qDrop u s :=
  cmd_write ⟨0x40000, 0x40, 128, 4, rowsBrnCtl⟩ (List.mem_of_getElem? (i := 10) rfl)
    ⟨0x38, false, [F.BRN_CMD_CLR, F.BRN_CMD_DROP, F.BRN_CMD_FLUSH]⟩ (List.mem_of_getElem? (i := 14) rfl) 2
    (by decide) u hu _ (by simp only [Fld.addr, F.BRN_CMD_DROP] <;> omega) o s hm

theorem brnCmdClr_eq (o u : Nat) (hu : u < 128) (s : State) (hm : mayCommand s o 4) : cmdBit F.BRN_CMD_CLR o u s = qClear u s :=
  cmd_write ⟨0x40000, 0x40, 128, 4, rowsBrnCtl⟩ (List.mem_of_getElem? (i := 10) rfl)
    ⟨0x38, false, [F.BRN_CMD_CLR, F.BRN_CMD_DROP, F.BRN_CMD_FLUSH]⟩ (List.mem_of_getElem? (i := 14) rfl) 4
    (by decide) u hu _ (by simp only [Fld.addr, F.BRN_CMD_CLR] <;> omega) o s hm

theorem flmIlCmdRemeasure_eq (o u : Nat) (hu : u < 8) (s : State) (hm : mayCommand s o 11) : cmdBit F.FLM_IL_CMD_REMEASURE o u s = (if ilSt s u == ilRun then ilRemeasure u s else s) :=
  cmd_write ⟨0x401000, 0x40, 8, 11, rowsFlmIlCtl⟩ (List.mem_of_getElem? (i := 21) rfl)
    ⟨0x20, false, [F.FLM_IL_CMD_REMEASURE, F.FLM_IL_CMD_CLR]⟩ (List.mem_of_getElem? (i := 8) rfl) 2
    (by decide) u hu _ (by simp only [Fld.addr, F.FLM_IL_CMD_REMEASURE] <;> omega) o s hm

theorem flmIlCmdClr_eq (o u : Nat) (hu : u < 8) (s : State) (hm : mayCommand s o 11) : cmdBit F.FLM_IL_CMD_CLR o u s = ilClear u s :=
  cmd_write ⟨0x401000, 0x40, 8, 11, rowsFlmIlCtl⟩ (List.mem_of_getElem? (i := 21) rfl)
    ⟨0x20, false, [F.FLM_IL_CMD_REMEASURE, F.FLM_IL_CMD_CLR]⟩ (List.mem_of_getElem? (i := 8) rfl) 1
    (by decide) u hu _ (by simp only [Fld.addr, F.FLM_IL_CMD_CLR] <;> omega) o s hm

theorem rakeCmdClr_eq (o : Nat) (s : State) (hm : mayCommand s o 12) : cmdBit F.RAKE_CMD_CLR o 0 s = rkClear s :=
  cmd_write ⟨0x500000, 0x1000000, 1, 12, rowsRakeCtl⟩ (List.mem_of_getElem? (i := 22) rfl)
    ⟨0x8, false, [F.RAKE_CMD_CLR, F.RAKE_CMD_ENUM_FULL, F.RAKE_CMD_CT_LOAD, F.RAKE_CMD_PULSE, F.RAKE_CMD_ENUM]⟩ (List.mem_of_getElem? (i := 2) rfl) 16
    (by decide) 0 (by decide) _ (by simp only [Fld.addr, F.RAKE_CMD_CLR] <;> omega) o s hm

theorem rakePCmdClr_eq (o u : Nat) (hu : u < 4) (s : State) (hm : mayCommand s o 12) : cmdBit F.RAKE_P_CMD_CLR o u s = rkPortClear u s :=
  cmd_write ⟨0x500100, 0x40, 4, 12, rowsRakePCtl⟩ (List.mem_of_getElem? (i := 23) rfl)
    ⟨0x18, false, [F.RAKE_P_CMD_CLR]⟩ (List.mem_of_getElem? (i := 6) rfl) 1
    (by decide) u hu _ (by simp only [Fld.addr, F.RAKE_P_CMD_CLR] <;> omega) o s hm

theorem hstCmdClr_eq (o : Nat) (s : State) (hm : mayCommand s o 13) : cmdBit F.HST_CMD_CLR o 0 s = hstClear s :=
  cmd_write ⟨0x600000, 0x1000000, 1, 13, rowsHstCtl⟩ (List.mem_of_getElem? (i := 26) rfl)
    ⟨0x10, false, [F.HST_CMD_CLR]⟩ (List.mem_of_getElem? (i := 4) rfl) 1
    (by decide) 0 (by decide) _ (by simp only [Fld.addr, F.HST_CMD_CLR] <;> omega) o s hm

theorem clkCmdClr_eq (o : Nat) (s : State) (hm : mayCommand s o 1) : cmdBit F.CLK_CMD_CLR o 0 s = clkClear s :=
  cmd_write ⟨0x10000, 0x1000000, 1, 1, rowsClkRef⟩ (List.mem_of_getElem? (i := 2) rfl)
    ⟨0x20, false, [F.CLK_CMD_CLR]⟩ (List.mem_of_getElem? (i := 6) rfl) 1
    (by decide) 0 (by decide) _ (by simp only [Fld.addr, F.CLK_CMD_CLR] <;> omega) o s hm

theorem logCmdAudFlush_eq (o : Nat) (s : State) (hm : mayCommand s o 16) : cmdBit F.LOG_CMD_AUD_FLUSH o 0 s = audFlush s :=
  cmd_write ⟨0x900000, 0x1000000, 1, 16, rowsLogEvStat⟩ (List.mem_of_getElem? (i := 37) rfl)
    ⟨0x38, false, [F.LOG_CMD_AUD_FLUSH, F.LOG_CMD_CLR]⟩ (List.mem_of_getElem? (i := 11) rfl) 2
    (by decide) 0 (by decide) _ (by simp only [Fld.addr, F.LOG_CMD_AUD_FLUSH] <;> omega) o s hm

theorem logCmdClr_eq (o : Nat) (s : State) (hm : mayCommand s o 16) : cmdBit F.LOG_CMD_CLR o 0 s = logClear s :=
  cmd_write ⟨0x900000, 0x1000000, 1, 16, rowsLogEvStat⟩ (List.mem_of_getElem? (i := 37) rfl)
    ⟨0x38, false, [F.LOG_CMD_AUD_FLUSH, F.LOG_CMD_CLR]⟩ (List.mem_of_getElem? (i := 11) rfl) 1
    (by decide) 0 (by decide) _ (by simp only [Fld.addr, F.LOG_CMD_CLR] <;> omega) o s hm

theorem pwrCmdClr_eq (o : Nat) (s : State) (hm : mayCommand s o 18) : cmdBit F.PWR_CMD_CLR o 0 s = s.wrs [(F.PWR_EVT_PF, 0, 0), (F.PWR_EVT_THERM, 0, 0), (F.PWR_PIN_PEAK, 0, 0)] :=
  cmd_write ⟨0xb00000, 0x1000000, 1, 18, rowsPwrStat⟩ (List.mem_of_getElem? (i := 41) rfl)
    ⟨0x18, false, [F.PWR_CMD_CLR]⟩ (List.mem_of_getElem? (i := 6) rfl) 1
    (by decide) 0 (by decide) _ (by simp only [Fld.addr, F.PWR_CMD_CLR] <;> omega) o s hm

theorem plyCmdArm_eq (o u : Nat) (hu : u < 64) (s : State) (hm : mayCommand s o 5) :
    cmdBit F.PLY_CMD_ARM o u s = flagged o (F.PLY_CMD_ARM.addr u) 1 (plyCmdSt u (plyArm (plyPar s u) none u) s) :=
  cmd_write ⟨0x100000, 0x1000, 64, 5, rowsPlyStepBase⟩ (List.mem_of_getElem? (i := 11) rfl)
    ⟨0xc, false, [F.PLY_CMD_CLR, F.PLY_CMD_SKIP, F.PLY_CMD_STOP, F.PLY_CMD_RESUME, F.PLY_CMD_HOLD, F.PLY_CMD_START, F.PLY_CMD_ARM]⟩ (List.mem_of_getElem? (i := 3) rfl) 1
    (by decide) u hu _ (by simp only [Fld.addr, F.PLY_CMD_ARM] <;> omega) o s hm

theorem plyCmdStart_eq (o u : Nat) (hu : u < 64) (s : State) (hm : mayCommand s o 5) :
    cmdBit F.PLY_CMD_START o u s = flagged o (F.PLY_CMD_START.addr u) 2 (plyCmdSt u (plyStart s.eff none u) s) :=
  cmd_write ⟨0x100000, 0x1000, 64, 5, rowsPlyStepBase⟩ (List.mem_of_getElem? (i := 11) rfl)
    ⟨0xc, false, [F.PLY_CMD_CLR, F.PLY_CMD_SKIP, F.PLY_CMD_STOP, F.PLY_CMD_RESUME, F.PLY_CMD_HOLD, F.PLY_CMD_START, F.PLY_CMD_ARM]⟩ (List.mem_of_getElem? (i := 3) rfl) 2
    (by decide) u hu _ (by simp only [Fld.addr, F.PLY_CMD_START] <;> omega) o s hm

theorem plyCmdHold_eq (o u : Nat) (hu : u < 64) (s : State) (hm : mayCommand s o 5) :
    cmdBit F.PLY_CMD_HOLD o u s = flagged o (F.PLY_CMD_HOLD.addr u) 4 (plyCmd u (holdOk s u) (plyAct 4 none true u (plyHold false u)) s) :=
  cmd_write ⟨0x100000, 0x1000, 64, 5, rowsPlyStepBase⟩ (List.mem_of_getElem? (i := 11) rfl)
    ⟨0xc, false, [F.PLY_CMD_CLR, F.PLY_CMD_SKIP, F.PLY_CMD_STOP, F.PLY_CMD_RESUME, F.PLY_CMD_HOLD, F.PLY_CMD_START, F.PLY_CMD_ARM]⟩ (List.mem_of_getElem? (i := 3) rfl) 4
    (by decide) u hu _ (by simp only [Fld.addr, F.PLY_CMD_HOLD] <;> omega) o s hm

theorem plyCmdResume_eq (o u : Nat) (hu : u < 64) (s : State) (hm : mayCommand s o 5) :
    cmdBit F.PLY_CMD_RESUME o u s = flagged o (F.PLY_CMD_RESUME.addr u) 8 (plyCmd u (resumeOk s u) (plyAct 5 none true u (plyResume s.eff u)) s) :=
  cmd_write ⟨0x100000, 0x1000, 64, 5, rowsPlyStepBase⟩ (List.mem_of_getElem? (i := 11) rfl)
    ⟨0xc, false, [F.PLY_CMD_CLR, F.PLY_CMD_SKIP, F.PLY_CMD_STOP, F.PLY_CMD_RESUME, F.PLY_CMD_HOLD, F.PLY_CMD_START, F.PLY_CMD_ARM]⟩ (List.mem_of_getElem? (i := 3) rfl) 8
    (by decide) u hu _ (by simp only [Fld.addr, F.PLY_CMD_RESUME] <;> omega) o s hm

theorem plyCmdStop_eq (o u : Nat) (hu : u < 64) (s : State) (hm : mayCommand s o 5) :
    cmdBit F.PLY_CMD_STOP o u s = flagged o (F.PLY_CMD_STOP.addr u) 16 (plyCmd u (stopOk s u) (plyAct 3 none true u (plyStop u)) s) :=
  cmd_write ⟨0x100000, 0x1000, 64, 5, rowsPlyStepBase⟩ (List.mem_of_getElem? (i := 11) rfl)
    ⟨0xc, false, [F.PLY_CMD_CLR, F.PLY_CMD_SKIP, F.PLY_CMD_STOP, F.PLY_CMD_RESUME, F.PLY_CMD_HOLD, F.PLY_CMD_START, F.PLY_CMD_ARM]⟩ (List.mem_of_getElem? (i := 3) rfl) 16
    (by decide) u hu _ (by simp only [Fld.addr, F.PLY_CMD_STOP] <;> omega) o s hm

theorem plyCmdSkip_eq (o u : Nat) (hu : u < 64) (s : State) (hm : mayCommand s o 5) :
    cmdBit F.PLY_CMD_SKIP o u s = flagged o (F.PLY_CMD_SKIP.addr u) 32 (plyCmd u (skipOk s u) (fun z => plySkip z.eff u (z.rd F.PLY_SKIP_TIMING u) (z.rd F.PLY_SKIP_DROP u) z) s) :=
  cmd_write ⟨0x100000, 0x1000, 64, 5, rowsPlyStepBase⟩ (List.mem_of_getElem? (i := 11) rfl)
    ⟨0xc, false, [F.PLY_CMD_CLR, F.PLY_CMD_SKIP, F.PLY_CMD_STOP, F.PLY_CMD_RESUME, F.PLY_CMD_HOLD, F.PLY_CMD_START, F.PLY_CMD_ARM]⟩ (List.mem_of_getElem? (i := 3) rfl) 32
    (by decide) u hu _ (by simp only [Fld.addr, F.PLY_CMD_SKIP] <;> omega) o s hm

theorem chnCmdReseed_eq (o u : Nat) (hu : u < 256) (s : State) (hm : mayCommand s o 6) :
    cmdBit F.CHN_CMD_RESEED o u s = flagged o (F.CHN_CMD_RESEED.addr u) 32 (chnReseed u s) :=
  cmd_write ⟨0x200000, 0x400, 256, 6, rowsChnCtl⟩ (List.mem_of_getElem? (i := 12) rfl)
    ⟨0x10, false, [F.CHN_CMD_RESEED, F.CHN_CMD_CLR, F.CHN_CMD_BQ_APPLY]⟩ (List.mem_of_getElem? (i := 4) rfl) 32
    (by decide) u hu _ (by simp only [Fld.addr, F.CHN_CMD_RESEED] <;> omega) o s hm

theorem rakeCmdEnum_eq (o : Nat) (s : State) (hm : mayCommand s o 12) :
    cmdBit F.RAKE_CMD_ENUM o 0 s = flagged o (F.RAKE_CMD_ENUM.addr 0) 1 ((let r := enumStart false none s; ignored (!r.1) r.2)) :=
  cmd_write ⟨0x500000, 0x1000000, 1, 12, rowsRakeCtl⟩ (List.mem_of_getElem? (i := 22) rfl)
    ⟨0x8, false, [F.RAKE_CMD_CLR, F.RAKE_CMD_ENUM_FULL, F.RAKE_CMD_CT_LOAD, F.RAKE_CMD_PULSE, F.RAKE_CMD_ENUM]⟩ (List.mem_of_getElem? (i := 2) rfl) 1
    (by decide) 0 (by decide) _ (by simp only [Fld.addr, F.RAKE_CMD_ENUM] <;> omega) o s hm

theorem rakeCmdEnumFull_eq (o : Nat) (s : State) (hm : mayCommand s o 12) :
    cmdBit F.RAKE_CMD_ENUM_FULL o 0 s = flagged o (F.RAKE_CMD_ENUM_FULL.addr 0) 8 ((let r := enumStart true none s; ignored (!r.1) r.2)) :=
  cmd_write ⟨0x500000, 0x1000000, 1, 12, rowsRakeCtl⟩ (List.mem_of_getElem? (i := 22) rfl)
    ⟨0x8, false, [F.RAKE_CMD_CLR, F.RAKE_CMD_ENUM_FULL, F.RAKE_CMD_CT_LOAD, F.RAKE_CMD_PULSE, F.RAKE_CMD_ENUM]⟩ (List.mem_of_getElem? (i := 2) rfl) 8
    (by decide) 0 (by decide) _ (by simp only [Fld.addr, F.RAKE_CMD_ENUM_FULL] <;> omega) o s hm

theorem rakeCmdCtLoad_eq (o : Nat) (s : State) (hm : mayCommand s o 12) :
    cmdBit F.RAKE_CMD_CT_LOAD o 0 s = flagged o (F.RAKE_CMD_CT_LOAD.addr 0) 4 ((let r := ctLoad s; ignored (!r.1) r.2)) :=
  cmd_write ⟨0x500000, 0x1000000, 1, 12, rowsRakeCtl⟩ (List.mem_of_getElem? (i := 22) rfl)
    ⟨0x8, false, [F.RAKE_CMD_CLR, F.RAKE_CMD_ENUM_FULL, F.RAKE_CMD_CT_LOAD, F.RAKE_CMD_PULSE, F.RAKE_CMD_ENUM]⟩ (List.mem_of_getElem? (i := 2) rfl) 4
    (by decide) 0 (by decide) _ (by simp only [Fld.addr, F.RAKE_CMD_CT_LOAD] <;> omega) o s hm

theorem rakeCmdPulse_eq (o : Nat) (s : State) (hm : mayCommand s o 12) :
    cmdBit F.RAKE_CMD_PULSE o 0 s = flagged o (F.RAKE_CMD_PULSE.addr 0) 2 ((let r := rkPulse s; ignored (!r.1) r.2)) :=
  cmd_write ⟨0x500000, 0x1000000, 1, 12, rowsRakeCtl⟩ (List.mem_of_getElem? (i := 22) rfl)
    ⟨0x8, false, [F.RAKE_CMD_CLR, F.RAKE_CMD_ENUM_FULL, F.RAKE_CMD_CT_LOAD, F.RAKE_CMD_PULSE, F.RAKE_CMD_ENUM]⟩ (List.mem_of_getElem? (i := 2) rfl) 2
    (by decide) 0 (by decide) _ (by simp only [Fld.addr, F.RAKE_CMD_PULSE] <;> omega) o s hm

end Sys2Proof.Machine
end

