-- ==== Sys2Proof/Laws/Clears.lean ====
section
/-! SUPPORT. Lists of register writes, and the commands that come to one. -/

namespace Sys2Proof.Machine

/-! ### Reading after a list of writes -/

/-- A field that a list of writes does not name keeps its value. -/
theorem State.rd_wrs_other (l : List (Fld × Nat × Nat)) (s : State) (g : Fld) (w : Nat) (h : ∀ e ∈ l, e.1.key e.2.1 ≠ g.key w) :
    (s.wrs l).rd g w = s.rd g w := by
  induction l generalizing s with
  | nil => rfl
  | cons e r ih =>
    obtain ⟨f, u, v⟩ := e
    rw [State.wrs_cons, ih _ (fun x hx => h x (by simp [hx])), State.rd_wr_other _ _ _ _ _ _ (h (f, u, v) (by simp))]

theorem State.wrs_append (s : State) (a b : List (Fld × Nat × Nat)) : s.wrs (a ++ b) = (s.wrs a).wrs b := by
  simp only [State.wrs, List.foldl_append]

/-- Writes for each of a list of units are one list of writes. -/
theorem State.wrs_foldl {β : Type} (g : β → List (Fld × Nat × Nat)) (l : List β) (s : State) :
    l.foldl (fun t i => t.wrs (g i)) s = s.wrs ((l.map g).flatten) := by
  induction l generalizing s with
  | nil => rfl
  | cons i r ih => simp only [List.foldl_cons, List.map_cons, List.flatten_cons, State.wrs_append, ih]

/-- Zeros written to fields with numbers of their own read 0. -/
def zeros (l : List (Fld × Nat)) : List (Fld × Nat × Nat) := l.map (fun e => (e.1, e.2, 0))

theorem State.rd_wrs_zeros (l : List (Fld × Nat)) (h : l.Pairwise (fun a b => a.1.key a.2 ≠ b.1.key b.2)) (s : State) :
    ∀ e ∈ l, (s.wrs (zeros l)).rd e.1 e.2 = 0 := by
  induction l generalizing s with
  | nil => simp
  | cons e r ih =>
    obtain ⟨f, u⟩ := e
    have hp := List.pairwise_cons.mp h
    intro x hx
    simp only [zeros, List.map_cons, State.wrs_cons]
    simp only [List.mem_cons] at hx
    rcases hx with rfl | hx
    · have := State.rd_wrs_other (zeros r) (s.wr f u 0) f u (by
        intro y hy
        simp only [zeros, List.mem_map] at hy
        obtain ⟨z, hz, rfl⟩ := hy
        exact fun e => hp.1 z hz e.symm)
      simp only [zeros] at this
      rw [this, State.rd_wr_same]
      simp
    · exact ih hp.2 _ x hx

theorem sameBut_wrs_zeros (l : List (Fld × Nat)) (s : State) : sameBut l s (s.wrs (zeros l)) := by
  intro f u h
  refine State.rd_wrs_other _ _ _ _ ?_
  intro y hy
  simp only [zeros, List.mem_map] at hy
  obtain ⟨z, hz, rfl⟩ := hy
  exact h z hz

theorem zeros_append (a b : List (Fld × Nat)) : zeros (a ++ b) = zeros a ++ zeros b := List.map_append

theorem zeros_flatten {β : Type} (g : β → List (Fld × Nat)) (l : List β) :
    zeros ((l.map g).flatten) = (l.map (fun i => zeros (g i))).flatten := by
  induction l with
  | nil => rfl
  | cons i r ih => simp only [List.map_cons, List.flatten_cons, zeros_append, ih]

/-! ### The end of a command that leaves the side channel clear -/

theorem settle_eq (s : State) : ∃ l n, settle s = { s with msixWait := l, faultSum := n } := by
  unfold settle
  extract_lets v
  split
  · exact ⟨s.msixWait, s.faultSum, rfl⟩
  · exact ⟨addN s.msixWait 48, v, rfl⟩

/-- With no reply for the side channel, the end of a command changes the interrupts that wait and the fault summary only. -/
theorem finish_eq (s : State) (h : quiet s) : ∃ l n, finish s = { s with msixWait := l, faultSum := n } := by
  unfold finish
  rw [flushSide_quiet s h]
  exact settle_eq s

/-- A state without its registers and the mark of a command. -/
def sansCmd (s : State) : State := { s with flds := [], cmd := false }

theorem of_sansCmd {γ : Type} (g : State → γ) (hg : ∀ s, g (sansCmd s) = g s) {s t : State} (h : sansCmd s = sansCmd t) : g s = g t :=
  (hg s).symm.trans ((congrArg g h).trans (hg t))

theorem quiet_of_sansCmd {s t : State} (h : sansCmd t = sansCmd s) (hq : quiet s) : quiet t := by
  have ho : t.out = s.out := of_sansCmd (·.out) (fun _ => rfl) h
  intro o x
  rw [ho] at x
  exact hq o x

/-- A state that differs in registers only, ended. -/
theorem onlyRegs_finish (s t : State) (hq : quiet s) (h : sansCmd t = sansCmd s) : onlyRegs s (finish t) := by
  obtain ⟨l, n, e⟩ := finish_eq t (quiet_of_sansCmd h hq)
  unfold onlyRegs
  rw [e]
  have h1 := congrArg (fun x : State => { x with flds := s.flds, cmd := s.cmd, msixWait := s.msixWait, faultSum := s.faultSum }) h
  exact h1

theorem sansCmd_wrs (s : State) (l : List (Fld × Nat × Nat)) : sansCmd (s.wrs l) = sansCmd s :=
  State.wrs_sans sansCmd (fun _ _ _ _ => rfl) l s

/-- A command that comes to a list of zeros. -/
theorem clears_of (i : Instr) (s : State) (l : List (Fld × Nat)) (hq : quiet s) (he : exec i s = .next (finish (s.coming.wrs (zeros l)).rested))
    (hd : l.Pairwise (fun a b => a.1.key a.2 ≠ b.1.key b.2)) : clears i s l := by
  have hs : sansCmd (s.coming.wrs (zeros l)).rested = sansCmd s := (sansCmd_wrs s.coming (zeros l)).trans rfl
  refine ⟨_, he, ?_, ?_, onlyRegs_finish s _ hq hs⟩
  · intro e x
    rw [finish_rd _ (quiet_of_sansCmd hs hq)]
    exact State.rd_wrs_zeros l hd s.coming e x
  · intro f u h
    rw [finish_rd _ (quiet_of_sansCmd hs hq)]
    exact sameBut_wrs_zeros l s.coming f u h

end Sys2Proof.Machine
end

