-- ==== Sys2Proof/Laws/Hooks.lean ====
section
/-! SUPPORT. What a write of a register with one LIVE field that acts comes to: that field's effect, after the other fields took their
values. -/

namespace Sys2Proof.Machine

/-- A state without what the fields that only store change. -/
def sansWrite (s : State) : State := { s with flds := [], wo1 := [], audMirror := [], parOdd := [], parBad := [], carAsks := [], wrote := [] }

theorem ask_sansWrite (port : Nat) (w : Bool) (a n : Nat) (s : State) : sansWrite (s.ask port w a n) = sansWrite s := by
  unfold State.ask
  split <;> rfl

theorem sansWrite_wr (s : State) (f : Fld) (u v : Nat) : sansWrite (s.wr f u v) = sansWrite s := rfl

/-- The shape of a row in the map: every field lies in the row's register, and none is posted. -/
def rowShape (b : Blk) (r : Row) : Bool :=
  r.flds.all (fun g => g.base == b.base + r.off && (g.stride == b.stride || b.count == 1) && decide (g.lo < 64) && g.cls != .pst)

/-- A field of class CMD, or a LIVE field that acts. -/
def actsOf (g : Fld) : Bool := g.cls == .cmd || (g.cls == .live && hooked g)

/-- A register of `n` bits whose fields that act each take their part of the word. -/
def hookRow (n : Nat) (b : Blk) (r : Row) (v : Nat) : Bool :=
  rowShape b r && r.flds.all (fun f => !actsOf f || (decide (f.lo + f.width ≤ n) && decide (0 < f.width) && f.ok (f.part v)))
    && r.flds.all (fun f => !(f.id == F.GLB_PERM_CMD_CLASSES.id || f.id == F.GLB_PERM_REG_GROUPS.id || f.id == F.PAN_OWN_B_OWNER.id))
    && r.flds.any (fun g => g.cls != .ro && g.cls != .st) && !rowRefused b r v && b.base != 0x80 && (b.base != 0x30000 || r.off != 0)

/-- What follows the effects of a register's fields in its own row: a tap takes the present bit, the PLLs show a new selection, a lock is
stored. -/
def rowEnd (b : Blk) (u : Nat) (r : Row) (a : Nat) (s t : State) : State :=
  if b.base == 0xA01000 && (s.rd F.TRG_TAP_PLAYER u != t.rd F.TRG_TAP_PLAYER u || s.rd F.TRG_TAP_BIT u != t.rd F.TRG_TAP_BIT u
      || (!s.on F.TRG_TAP_EN u && t.on F.TRG_TAP_EN u)) then tapTake u t
  else if b.base == 0x10000 && r.off == 0 then pllShow t
  else if a == F.NVM_BOOT_LOCK_LOCK.addr 0 && t.on F.NVM_BOOT_LOCK_LOCK 0 && !s.on F.NVM_BOOT_LOCK_LOCK 0 then lockStore false t
  else if a == F.NVM_CAL_LOCK_LOCK.addr 0 && t.on F.NVM_CAL_LOCK_LOCK 0 && !s.on F.NVM_CAL_LOCK_LOCK 0 then lockStore true t
  else t

/-- A row after whose effects nothing follows. -/
def endless (b : Blk) (r : Row) : Bool := b.base != 0xA01000 && (b.base != 0x10000 || r.off != 0) && b.base != 0x800000

theorem rowEnd_endless (b : Blk) (u : Nat) (r : Row) (a : Nat) (s t : State) (h : endless b r = true)
    (ha : a ≠ F.NVM_BOOT_LOCK_LOCK.addr 0) (hc : a ≠ F.NVM_CAL_LOCK_LOCK.addr 0) : rowEnd b u r a s t = t := by
  simp only [endless, Bool.and_eq_true, bne_iff_ne, Bool.or_eq_true] at h
  obtain ⟨⟨hb1, hb2⟩, _⟩ := h
  have hb2' : ¬ (b.base = 0x10000 ∧ r.off = 0) := by
    rintro ⟨x, y⟩
    rcases hb2 with h | h
    · exact h x
    · exact h y
  have h1 : (b.base == 0xA01000) = false := by simpa using hb1
  have h2 : (b.base == 0x10000 && r.off == 0) = false := by simpa using hb2'
  have h3 : (a == F.NVM_BOOT_LOCK_LOCK.addr 0) = false := by simpa using ha
  have h4 : (a == F.NVM_CAL_LOCK_LOCK.addr 0) = false := by simpa using hc
  simp only [rowEnd, h1, h2, h3, h4, Bool.false_and, Bool.false_eq_true, if_false]

theorem audit_keeps (kind : Nat) (ch ba : Bool) (src o tag bt m : Nat) (per : List Nat) (s : State) :
    Keeps logA s (audit kind ch ba src o tag bt m per s) := by
  have h1 : logA (F.LOG_AUD_STAT_SKIPPED.key 0) := by simp only [logA, Fld.key, F.LOG_AUD_STAT_SKIPPED]; omega
  have h2 : logA (F.LOG_AUD_NVM_AUDSEQ.key 0) := by simp only [logA, Fld.key, F.LOG_AUD_NVM_AUDSEQ]; omega
  have h3 : logA (F.LOG_AUD_SEQ_AUDSEQ.key 0) := by simp only [logA, Fld.key, F.LOG_AUD_SEQ_AUDSEQ]; omega
  have h4 : logA (F.LOG_AUD_STAT_BACKLOG.key 0) := by simp only [logA, Fld.key, F.LOG_AUD_STAT_BACKLOG]; omega
  unfold audit
  extract_lets n nv skip w s1 s2
  have k1 : Keeps logA s s1 := Keeps.of_eq (ask_flds _ _ _ _ _)
  have k2 : Keeps logA s s2 := by
    show Keeps logA s (if _ then _ else _)
    split
    · exact (k1.wr _ _ _ h1).wr _ _ _ h2
    · exact k1
  exact (k2.wr _ _ _ h3).wr _ _ _ h4

theorem audit_sans (kind : Nat) (ch ba : Bool) (src o tag bt m : Nat) (per : List Nat) (s : State) :
    sansWrite (audit kind ch ba src o tag bt m per s) = sansWrite s := by
  unfold audit
  extract_lets n nv skip w s1 s2
  have k1 : sansWrite s1 = sansWrite s := (ask_sansWrite _ _ _ _ _).trans rfl
  have k2 : sansWrite s2 = sansWrite s := by
    show sansWrite (if _ then _ else _) = _
    split
    · rw [State.bump, State.bumpBy, sansWrite_wr, sansWrite_wr]; exact k1
    · exact k1
  rw [State.wrB, sansWrite_wr, sansWrite_wr]
  exact k2

theorem storeAll_sans (u : Nat) (l : List (Fld × Nat)) (s : State) : sansWrite (storeAll u l s) = sansWrite s :=
  sans_foldl sansWrite _ _ _ (fun t e => by
    show sansWrite (if _ then _ else _) = _
    split
    · exact sansWrite_wr t e.1 u e.2
    · exact sansWrite_wr t e.1 u e.2)

theorem storeAll_keeps (P : Nat → Prop) (u : Nat) (l : List (Fld × Nat)) (s : State) (h : ∀ e ∈ l, P (e.1.key u)) :
    Keeps P s (storeAll u l s) :=
  Keeps.foldl _ _ _ (fun t e he => by
    show Keeps P t (if _ then _ else _)
    have k : Keeps P t (t.wr e.1 u e.2) := (Keeps.refl P t).wr _ _ _ (h e he)
    split
    · exact k.trans (Keeps.of_eq rfl)
    · exact k)

theorem storeAll_rd (u : Nat) (l : List (Fld × Nat)) (s : State) (g : Fld) (x : Nat) (h : ∀ e ∈ l, e.1.key u ≠ g.key x) :
    (storeAll u l s).rd g x = s.rd g x := by
  induction l generalizing s with
  | nil => rfl
  | cons e r ih =>
    have e1 : storeAll u (e :: r) s = storeAll u r (if e.1.cls == .wo1 then
        { s.wr e.1 u e.2 with wo1 := addN (s.wr e.1 u e.2).wo1 (e.1.key u) } else s.wr e.1 u e.2) := rfl
    rw [e1, ih _ (fun y hy => h y (by simp [hy]))]
    have e2 : ∀ t : State, t.flds = (s.wr e.1 u e.2).flds → t.rd g x = s.rd g x := by
      intro t ht
      rw [← State.rd_wr_other s e.1 g u x e.2 (h e (by simp))]
      simp only [State.rd, ht]
    split
    · exact e2 _ rfl
    · exact e2 _ rfl

theorem zip_filterMap {α : Type} (l : List α) (y : α → Nat × Nat) :
    (l.zip (l.map y)).filterMap (fun e => if e.2.2 == 0 then some e.1 else none) = l.filter (fun e => (y e).2 == 0) := by
  induction l with
  | nil => rfl
  | cons x l ih =>
    simp only [List.map_cons, List.zip_cons_cons, List.filterMap_cons, List.filter_cons]
    by_cases h : ((y x).2 == 0) = true
    · simp only [h, if_true, ih]
    · simp only [h, ih]; rfl

/-- A register of the row, or of the logs. -/
def rowA (a k : Nat) : Prop := k / 64 = a ∨ logA k

theorem parCure_sans (a m : Nat) (s : State) : sansWrite (parCure a m s) = sansWrite s := rfl

theorem rowStore_sans (w : Who) (b : Blk) (u : Nat) (r : Row) (m : Nat) (acc : List (Fld × Nat)) (s : State) :
    sansWrite (rowStore w b u r m acc s) = sansWrite s := by
  unfold rowStore
  extract_lets s1 n
  have h : sansWrite s1 = sansWrite s := storeAll_sans _ _ _
  split
  · exact h
  · exact h

theorem rowStore_flds (w : Who) (b : Blk) (u : Nat) (r : Row) (m : Nat) (acc : List (Fld × Nat)) (s : State) :
    (rowStore w b u r m acc s).flds = (storeAll u (acc.filter (fun e => !hooked e.1)) s).flds := by
  unfold rowStore
  extract_lets s1 n
  split <;> rfl

theorem rowStore_rd (w : Who) (b : Blk) (u : Nat) (r : Row) (m : Nat) (acc : List (Fld × Nat)) (s : State) (g : Fld) (x : Nat) :
    (rowStore w b u r m acc s).rd g x = (storeAll u (acc.filter (fun e => !hooked e.1)) s).rd g x := by
  simp only [State.rd, rowStore_flds]

theorem rowStore_par (w : Who) (b : Blk) (u : Nat) (r : Row) (m : Nat) (acc : List (Fld × Nat)) (s : State) :
    (rowStore w b u r m acc s).parOdd = (storeAll u (acc.filter (fun e => !hooked e.1)) s).parOdd ∧
      (rowStore w b u r m acc s).parBad = (storeAll u (acc.filter (fun e => !hooked e.1)) s).parBad := by
  unfold rowStore
  extract_lets s1 n
  split <;> exact ⟨rfl, rfl⟩

theorem rowKeep_sans (w : Who) (b : Blk) (u : Nat) (r : Row) (a m v : Nat) (c : Bool) (acc : List (Fld × Nat)) (s : State) :
    sansWrite (rowKeep w b u r a m v c acc s) = sansWrite s := by
  unfold rowKeep
  extract_lets old s1 s2
  have h1 : sansWrite s1 = sansWrite s := rowStore_sans _ _ _ _ _ _ _
  have h2 : sansWrite s2 = sansWrite s := by
    show sansWrite (if _ then _ else _) = _
    split
    · rw [parCure_sans]; exact h1
    · exact h1
  split
  · rw [audit_sans]; exact h2
  · exact h2

theorem rowKeep_keeps (P : Nat → Prop) (hP : ∀ k, logA k → P k) (w : Who) (b : Blk) (u : Nat) (r : Row) (a m v : Nat) (c : Bool)
    (acc : List (Fld × Nat)) (s : State) (h : ∀ e ∈ acc, P (e.1.key u)) : Keeps P s (rowKeep w b u r a m v c acc s) := by
  unfold rowKeep
  extract_lets old s1 s2
  have h1 : Keeps P s s1 :=
    (storeAll_keeps _ _ _ _ (fun e he => h e (List.mem_filter.mp he).1)).trans (Keeps.of_eq (rowStore_flds _ _ _ _ _ _ _))
  have h2 : Keeps P s s2 := by
    show Keeps P s (if _ then _ else _)
    split
    · exact h1.trans (Keeps.of_eq rfl)
    · exact h1
  split
  · exact h2.trans ((audit_keeps _ _ _ _ _ _ _ _ _ _).mono hP)
  · exact h2

theorem rowKeep_rd (w : Who) (b : Blk) (u : Nat) (r : Row) (a m v : Nat) (c : Bool) (acc : List (Fld × Nat)) (s : State) (g : Fld) (x : Nat)
    (h : ∀ e ∈ acc, hooked e.1 = false → e.1.key u ≠ g.key x) (hg : ¬ logA (g.key x)) :
    (rowKeep w b u r a m v c acc s).rd g x = s.rd g x := by
  unfold rowKeep
  extract_lets old s1 s2
  have h1 : s1.rd g x = s.rd g x := (rowStore_rd _ _ _ _ _ _ _ _ _).trans <| storeAll_rd _ _ _ _ _ (fun e he => h e (List.mem_filter.mp he).1 (by simpa using (List.mem_filter.mp he).2))
  have h2 : s2.rd g x = s.rd g x := by
    show State.rd (if _ then _ else _) g x = _
    split
    · exact h1
    · exact h1
  split
  · rw [(audit_keeps _ _ _ _ _ _ _ _ _ _).rd g x hg]; exact h2
  · exact h2

/-- A state without what an audit entry changes. -/
def sansAud (s : State) : State := { s with flds := [], audMirror := [], carAsks := [] }

theorem sansAud_wr (s : State) (f : Fld) (u v : Nat) : sansAud (s.wr f u v) = sansAud s := rfl

theorem ask_sansAud (port : Nat) (w : Bool) (a n : Nat) (s : State) : sansAud (s.ask port w a n) = sansAud s := by
  unfold State.ask
  split <;> rfl

theorem audit_sansAud (kind : Nat) (ch ba : Bool) (src o tag bt m : Nat) (per : List Nat) (s : State) :
    sansAud (audit kind ch ba src o tag bt m per s) = sansAud s := by
  unfold audit
  extract_lets n nv skip w s1 s2
  have k1 : sansAud s1 = sansAud s := (ask_sansAud _ _ _ _ _).trans rfl
  have k2 : sansAud s2 = sansAud s := by
    show sansAud (if _ then _ else _) = _
    split
    · rw [State.bump, State.bumpBy, sansAud_wr, sansAud_wr]; exact k1
    · exact k1
  rw [State.wrB, sansAud_wr, sansAud_wr]
  exact k2

theorem parOdd_of_sansAud {s t : State} (h : sansAud t = sansAud s) : t.parOdd = s.parOdd := by
  have e : ∀ x : State, x.parOdd = (sansAud x).parOdd := fun _ => rfl
  rw [e t, e s, h]

theorem parBad_of_sansAud {s t : State} (h : sansAud t = sansAud s) : t.parBad = s.parBad := by
  have e : ∀ x : State, x.parBad = (sansAud x).parBad := fun _ => rfl
  rw [e t, e s, h]

theorem audit_parOdd (kind : Nat) (ch ba : Bool) (src o tag bt m : Nat) (per : List Nat) (s : State) :
    (audit kind ch ba src o tag bt m per s).parOdd = s.parOdd ∧ (audit kind ch ba src o tag bt m per s).parBad = s.parBad :=
  ⟨parOdd_of_sansAud (audit_sansAud _ _ _ _ _ _ _ _ _ _), parBad_of_sansAud (audit_sansAud _ _ _ _ _ _ _ _ _ _)⟩

theorem storeAll_par (u : Nat) (l : List (Fld × Nat)) (s : State) : (storeAll u l s).parOdd = s.parOdd ∧ (storeAll u l s).parBad = s.parBad := by
  refine ⟨?_, ?_⟩
  · exact sans_foldl (·.parOdd) _ _ _ (fun t e => by show State.parOdd (if _ then _ else _) = _; split <;> rfl)
  · exact sans_foldl (·.parBad) _ _ _ (fun t e => by show State.parBad (if _ then _ else _) = _; split <;> rfl)

/-- A write leaves a register store without mismatches so. -/
theorem rowKeep_par (w : Who) (b : Blk) (u : Nat) (r : Row) (a m v : Nat) (c : Bool) (acc : List (Fld × Nat)) (s : State) :
    (s.parOdd = [] → (rowKeep w b u r a m v c acc s).parOdd = []) ∧ (s.parBad = [] → (rowKeep w b u r a m v c acc s).parBad = []) := by
  unfold rowKeep
  extract_lets old s1 s2
  have hs := storeAll_par u (acc.filter (fun e => !hooked e.1)) s
  have hr := rowStore_par w b u r m acc s
  have h1 : s1.parOdd = s.parOdd ∧ s1.parBad = s.parBad := ⟨hr.1.trans hs.1, hr.2.trans hs.2⟩
  have h2 : (s.parOdd = [] → s2.parOdd = []) ∧ (s.parBad = [] → s2.parBad = []) := by
    refine ⟨fun h => ?_, fun h => ?_⟩
    · show State.parOdd (if _ then _ else _) = _
      have : s1.parOdd = [] := h1.1.trans h
      split
      · show s1.parOdd.filter _ = []; rw [this]; rfl
      · exact this
    · show State.parBad (if _ then _ else _) = _
      have : s1.parBad = [] := h1.2.trans h
      split
      · show s1.parBad.filter _ = []; rw [this]; rfl
      · exact this
  split
  · have k := audit_parOdd 2 (w.o == 5) w.bar0 (if w.o == 5 then w.src else 0) w.o (if w.bar0 then 0 else w.tag) 0 0
      [a, v, if a == unitAddr b u + r.off then old % 2 ^ 32 else old / 2 ^ 32] s2
    exact ⟨fun h => k.1.trans (h2.1 h), fun h => k.2.trans (h2.2 h)⟩
  · exact h2

/-- The state that a list of effects comes to does not depend on the statuses and causes before it. -/
theorem runHooks_congr (act : Fld → Nat → State → Eff) (l : List (Fld × Nat)) (e e' : Nat × List Nat × State) (h : e.2.2 = e'.2.2) :
    (runHooks act l e).2.2 = (runHooks act l e').2.2 := by
  induction l generalizing e e' with
  | nil => exact h
  | cons x r ih =>
    simp only [runHooks, List.foldl_cons] at ih ⊢
    exact ih _ _ (by simp only [h])

/-- The fields that act with their parts of a word. -/
def partsOf (q : Fld → Bool) (r : Row) (v : Nat) : List (Fld × Nat) := (r.flds.filter q).map (fun f => (f, f.part v))

theorem storeAll_same (u : Nat) (l : List (Fld × Nat)) (s : State) (g : Fld)
    (h : ∀ e ∈ l, e.1.key u = g.key u → e.1 = g ∧ e.2 = s.rd g u) : (storeAll u l s).rd g u = s.rd g u := by
  induction l generalizing s with
  | nil => rfl
  | cons e r ih =>
    have e1 : storeAll u (e :: r) s = storeAll u r (if e.1.cls == .wo1 then
        { s.wr e.1 u e.2 with wo1 := addN (s.wr e.1 u e.2).wo1 (e.1.key u) } else s.wr e.1 u e.2) := rfl
    have e3 : (s.wr e.1 u e.2).rd g u = s.rd g u := by
      by_cases hk : e.1.key u = g.key u
      · obtain ⟨h1, h2⟩ := h e (by simp) hk
        rw [h1, h2, State.rd_wr_same]
        exact Nat.mod_eq_of_lt (s.rd_lt g u)
      · exact State.rd_wr_other _ _ _ _ _ _ hk
    have e2 : ∀ t : State, t.flds = (s.wr e.1 u e.2).flds → t.rd g u = s.rd g u := by
      intro t ht
      rw [← e3]
      simp only [State.rd, ht]
    have e4 : (if e.1.cls == .wo1 then { s.wr e.1 u e.2 with wo1 := addN (s.wr e.1 u e.2).wo1 (e.1.key u) } else s.wr e.1 u e.2 : State).rd g u
        = s.rd g u := by
      split
      · exact e2 _ rfl
      · exact e2 _ rfl
    rw [e1, ih _ (fun y hy hk => by rw [e4]; exact h y (by simp [hy]) hk), e4]

theorem storeAll_stored (u : Nat) (l : List (Fld × Nat)) (s : State) (g : Fld) (v : Nat) (hm : (g, v) ∈ l)
    (h : ∀ e ∈ l, e.1.key u = g.key u → e = (g, v)) : (storeAll u l s).rd g u = v % 2 ^ g.width := by
  induction l generalizing s with
  | nil => simp at hm
  | cons e r ih =>
    have e1 : storeAll u (e :: r) s = storeAll u r (if e.1.cls == .wo1 then
        { s.wr e.1 u e.2 with wo1 := addN (s.wr e.1 u e.2).wo1 (e.1.key u) } else s.wr e.1 u e.2) := rfl
    rw [e1]
    by_cases hr : (g, v) ∈ r
    · exact ih _ hr (fun y hy => h y (by simp [hy]))
    · have he : e = (g, v) := by
        simp only [List.mem_cons] at hm
        rcases hm with hm | hm
        · exact hm.symm
        · exact absurd hm hr
      subst he
      rw [storeAll_rd _ _ _ _ _ (fun y hy hk => hr (by rw [← h y (by simp [hy]) hk]; exact hy))]
      split
      · exact State.rd_wr_same _ _ _ _
      · exact State.rd_wr_same _ _ _ _

theorem rowKeep_stored (w : Who) (b : Blk) (u : Nat) (r : Row) (a m x : Nat) (c : Bool) (acc : List (Fld × Nat)) (s : State) (g : Fld) (v : Nat)
    (hm : (g, v) ∈ acc) (hh : hooked g = false) (h : ∀ e ∈ acc, hooked e.1 = false → e.1.key u = g.key u → e = (g, v))
    (hg : ¬ logA (g.key u)) : (rowKeep w b u r a m x c acc s).rd g u = v % 2 ^ g.width := by
  unfold rowKeep
  extract_lets old s1 s2
  have h1 : s1.rd g u = v % 2 ^ g.width := (rowStore_rd _ _ _ _ _ _ _ _ _).trans <| storeAll_stored _ _ _ _ _ (List.mem_filter.mpr ⟨hm, by simp [hh]⟩)
    (fun e he => h e (List.mem_filter.mp he).1 (by simpa using (List.mem_filter.mp he).2))
  have h2 : s2.rd g u = v % 2 ^ g.width := by
    show State.rd (if _ then _ else _) g u = _
    split
    · exact h1
    · exact h1
  split
  · rw [(audit_keeps _ _ _ _ _ _ _ _ _ _).rd g u hg]; exact h2
  · exact h2

theorem rowKeep_same (w : Who) (b : Blk) (u : Nat) (r : Row) (a m v : Nat) (c : Bool) (acc : List (Fld × Nat)) (s : State) (g : Fld)
    (h : ∀ e ∈ acc, hooked e.1 = false → e.1.key u = g.key u → e.1 = g ∧ e.2 = s.rd g u) (hg : ¬ logA (g.key u)) :
    (rowKeep w b u r a m v c acc s).rd g u = s.rd g u := by
  unfold rowKeep
  extract_lets old s1 s2
  have h1 : s1.rd g u = s.rd g u := (rowStore_rd _ _ _ _ _ _ _ _ _).trans <| storeAll_same _ _ _ _ (fun e he => h e (List.mem_filter.mp he).1 (by simpa using (List.mem_filter.mp he).2))
  have h2 : s2.rd g u = s.rd g u := by
    show State.rd (if _ then _ else _) g u = _
    split
    · exact h1
    · exact h1
  split
  · rw [(audit_keeps _ _ _ _ _ _ _ _ _ _).rd g u hg]; exact h2
  · exact h2

/-- The state in which the effects of a register's fields act: only the row's fields that store, the audit log and the row's parity may
differ from the state before. -/
structure RowWrote (n : Nat) (b : Blk) (u : Nat) (r : Row) (v : Nat) (s z : State) : Prop where
  sans : sansWrite z = sansWrite s
  keeps : Keeps (rowA (b.base + b.stride * u + r.off)) s z
  other : ∀ (g : Fld) (y : Nat), ¬ logA (g.key y) → (∀ e ∈ r.flds, hooked e = false → e.key u ≠ g.key y) → z.rd g y = s.rd g y
  same : ∀ g : Fld, ¬ logA (g.key u) →
    (∀ e ∈ r.flds, hooked e = false → e.key u = g.key u → e = g ∧ newVal s (2 ^ n - 1) v u g = s.rd g u) → z.rd g u = s.rd g u
  stored : ∀ g ∈ r.flds, ¬ logA (g.key u) → hooked g = false → passive g u = false → touches (2 ^ n - 1) g = true →
    (fieldWhy s b u r g (s.rd g u) (newVal s (2 ^ n - 1) v u g)).2 = 0 → (∀ e ∈ r.flds, e.lo = g.lo → e = g) →
    z.rd g u = newVal s (2 ^ n - 1) v u g % 2 ^ g.width
  odd : s.parOdd = [] → z.parOdd = []
  bad : s.parBad = [] → z.parBad = []

/-- Where a writer's rank prevails, every bit is open to it (R32). -/
theorem openBits_prevails (s : State) (rank reg mask : Nat) (h : prevails s rank) : s.openBits false rank reg mask = mask := by
  have hf : s.heldBits false rank reg = 0 := by
    unfold State.heldBits
    have : s.wrote.filter (fun w => w.tick == s.eff && w.reg == reg && (false || decide (rank < w.rank))) = [] := by
      rw [List.filter_eq_nil_iff]
      intro w hw
      by_cases ht : w.tick = s.eff
      · have := h w hw ht
        simp [ht, Nat.not_lt.mpr this]
      · simp [ht]
    rw [this]; rfl
  simp [State.openBits, hf]

/-- A write that no later writer's bits meet reaches the register whole (R32). -/
theorem reaching_open (w : Who) (b : Blk) (u : Nat) (r : Row) (mask value : Nat) (acc : List (Fld × Nat)) (s : State)
    (hb : w.batch = false) (hp : prevails s w.rank) (h : ∀ e ∈ acc, touches mask e.1 = true ∧ e.2 = newVal s mask value u e.1) :
    reaching w b u r mask value acc s = acc := by
  unfold reaching
  rw [hb, openBits_prevails s w.rank _ mask hp]
  extract_lets m
  induction acc with
  | nil => rfl
  | cons e l ih =>
    have he := h e (by simp)
    have e1 : (if e.1.cls == Cls.cmd then some e else if touches m e.1 then some (e.1, newVal s m value u e.1) else none) = some e := by
      have : touches m e.1 = true := he.1
      rw [this]
      split
      · rfl
      · simp only [if_true, m, ← he.2]
    rw [List.filterMap_cons, e1]
    simp only
    rw [ih (fun x hx => h x (by simp [hx]))]

/-- A whole write of a register: the effects of its fields in order. -/
theorem rowWrite_hook (n : Nat) (w : Who) (b : Blk) (u : Nat) (r : Row) (a v x : Nat) (s : State) (h : hookRow n b r v = true) (hu : u < b.count)
    (hw : w.batch = false) (hp : prevails s w.rank) :
    ∃ z, (rowWrite w b u r a (2 ^ n - 1) v x s).st = rowEnd b u r a s
        (runHooks (fun f v t => liveHook w b u f v t) (partsOf (fun g => g.cls == .live && hooked g) r v)
          (runHooks (fun f v t => cmdHook w b u f v t) (partsOf (fun g => g.cls == .cmd) r v) (0, [], z))).2.2 ∧ RowWrote n b u r v s z := by
  simp only [hookRow, rowShape, Bool.and_eq_true, List.all_eq_true, beq_iff_eq, decide_eq_true_eq, bne_iff_ne, Bool.not_eq_true',
    Bool.or_eq_true] at h
  obtain ⟨⟨⟨⟨⟨⟨hsh, hact⟩, hid⟩, hany⟩, hrr⟩, hb3⟩, hb0⟩ := h
  have hcl : ∀ f ∈ r.flds, clsOf f u = f.cls := by
    intro f x
    have h1 := hid f x
    simp only [Bool.or_eq_false_iff, beq_eq_false_iff_ne] at h1
    simp only [clsOf, h1.1.1, h1.1.2, h1.2, beq_iff_eq, Bool.or_eq_true, Bool.and_eq_true]
    simp
  have hf : ∀ f ∈ r.flds, actsOf f = true → passive f u = false ∧ touches (2 ^ n - 1) f = true ∧ newVal s (2 ^ n - 1) v u f = f.part v ∧
      fieldWhy s b u r f (s.rd f u) (f.part v) = (0, 0) := by
    intro f x ac
    have hcls : f.cls = .cmd ∨ f.cls = .live := by
      simp only [actsOf, Bool.or_eq_true, Bool.and_eq_true, beq_iff_eq] at ac
      rcases ac with h | h
      · exact Or.inl h
      · exact Or.inr h.1
    obtain ⟨⟨hw, hw0⟩, hok⟩ : (f.lo + f.width ≤ n ∧ 0 < f.width) ∧ f.ok (f.part v) = true := by
      rcases hact f x with h | h
      · rw [ac] at h; exact absurd h (by decide)
      · exact h
    have hand : ∀ y, y < 2 ^ f.width → y &&& (2 ^ f.width - 1) = y := by
      intro y hy; rw [Nat.and_two_pow_sub_one_eq_mod, Nat.mod_eq_of_lt hy]
    refine ⟨?_, ?_, ?_, ?_⟩
    · rcases hcls with h | h <;> simp [passive, hcl f x, h]
    · simp only [touches, ones_bits _ _ _ hw, bne_iff_ne]
      have : 2 ^ 1 ≤ 2 ^ f.width := Nat.pow_le_pow_right (by omega) hw0
      omega
    · simp only [newVal, ones_bits _ _ _ hw, Fld.part]
      rw [hand _ (Nat.mod_lt _ (Nat.two_pow_pos _))]
      split
      · simp
      · rw [hand _ (s.rd_lt f u)]; omega
    · rcases hcls with h | h <;> simp [fieldWhy, h, hok]
  have hall : r.flds.all (fun g => passive g u) = false := by
    rw [List.any_eq_true] at hany
    obtain ⟨f, hm, ac⟩ := hany
    rw [List.all_eq_false]; exact ⟨f, hm, by simpa [passive, hcl f hm] using ac⟩
  have hpst : r.flds.any (fun g => g.cls == .pst) = false := by
    rw [List.any_eq_false]; intro g x; simpa using (hsh g x).2
  have hca : rowCause w b u r (2 ^ n - 1) v s = 0 := by
    have : ¬ (b.base = 0x30000 ∧ r.off = 0) := by
      rintro ⟨x, y⟩
      rcases hb0 with h | h
      · exact h x
      · exact h y
    simp only [rowCause, beq_iff_eq, Bool.and_eq_true, this, if_false]
  unfold rowWrite
  simp only [hall, hpst, hrr, hca, bne_self_eq_false, Bool.false_eq_true, if_false]
  rw [zip_filterMap]
  generalize hfs : (r.flds.filter (fun g => !passive g u && touches (2 ^ n - 1) g)).map (fun g => (g, newVal s (2 ^ n - 1) v u g)) = fs
  generalize hacc : fs.filter (fun e => (fieldWhy s b u r e.1 (s.rd e.1 u) e.2).2 == 0) = acc
  have hin : ∀ e ∈ acc, e.1 ∈ r.flds ∧ e.2 = newVal s (2 ^ n - 1) v u e.1 := by
    intro e he
    rw [← hacc, List.mem_filter, ← hfs] at he
    obtain ⟨he, _⟩ := he
    simp only [List.mem_map, List.mem_filter] at he
    obtain ⟨g, hg, rfl⟩ := he
    exact ⟨hg.1, rfl⟩
  have hsel : ∀ q : Fld → Bool, (∀ f, q f = true → actsOf f = true) → acc.filter (fun e => q e.1) = partsOf q r v := by
    intro q hq
    have e1 : acc.filter (fun e => q e.1) =
        ((r.flds.filter q).filter (fun g => (!passive g u && touches (2 ^ n - 1) g) &&
          (fieldWhy s b u r g (s.rd g u) (newVal s (2 ^ n - 1) v u g)).2 == 0)).map (fun g => (g, newVal s (2 ^ n - 1) v u g)) := by
      rw [← hacc, ← hfs]
      rw [List.filter_filter, List.filter_map, List.filter_filter, List.filter_filter]
      congr 1
      apply List.filter_congr
      intro g _
      simp only [Function.comp]
      cases passive g u <;> cases touches (2 ^ n - 1) g <;> cases q g <;>
        cases (fieldWhy s b u r g (s.rd g u) (newVal s (2 ^ n - 1) v u g)).2 == 0 <;> rfl
    have hg : ∀ g ∈ r.flds.filter q, (passive g u = false ∧ touches (2 ^ n - 1) g = true) ∧ newVal s (2 ^ n - 1) v u g = g.part v ∧
        fieldWhy s b u r g (s.rd g u) (g.part v) = (0, 0) := by
      intro g hg
      rw [List.mem_filter] at hg
      obtain ⟨a1, a2, a3, a4⟩ := hf g hg.1 (hq g hg.2)
      exact ⟨⟨a1, a2⟩, a3, a4⟩
    rw [e1, partsOf, filter_all _ _ (fun g x => by obtain ⟨⟨a1, a2⟩, a3, a4⟩ := hg g x; simp [a1, a2, a3, a4])]
    exact List.map_congr_left (fun g x => by rw [(hg g x).2.1])
  have hre : reaching w b u r (2 ^ n - 1) v acc s = acc := by
    refine reaching_open w b u r (2 ^ n - 1) v acc s hw hp (fun e he => ⟨?_, (hin e he).2⟩)
    rw [← hacc, List.mem_filter, ← hfs] at he
    obtain ⟨he, _⟩ := he
    simp only [List.mem_map, List.mem_filter, Bool.and_eq_true] at he
    obtain ⟨g, hg, rfl⟩ := he
    exact hg.2.2
  simp only [hre]
  rw [hsel (fun g => g.cls == .cmd) (fun f h => by simp only [actsOf, h, Bool.true_or]),
    hsel (fun g => g.cls == .live && hooked g) (fun f h => by simp only [actsOf, h, Bool.or_true])]
  have hkey : ∀ e ∈ acc, e.1.key u = (b.base + b.stride * u + r.off) * 64 + e.1.lo ∧ e.1.lo < 64 := by
    intro e he
    have := (hsh _ (hin e he).1).1
    refine ⟨?_, this.2⟩
    have hst : e.1.stride * u = b.stride * u := by
      rcases this.1.2 with h | h
      · rw [h]
      · have : u = 0 := by omega
        rw [this]; simp
    simp only [Fld.key, this.1.1, hst]
    congr 2; omega
  have hacc' : ∀ g, g ∈ r.flds → passive g u = false → touches (2 ^ n - 1) g = true →
      (fieldWhy s b u r g (s.rd g u) (newVal s (2 ^ n - 1) v u g)).2 = 0 → (g, newVal s (2 ^ n - 1) v u g) ∈ acc := by
    intro g hg h1 h2 h3
    rw [← hacc, List.mem_filter, ← hfs]
    refine ⟨List.mem_map.mpr ⟨g, List.mem_filter.mpr ⟨hg, by simp [h1, h2]⟩, rfl⟩, by simp [h3]⟩
  refine ⟨rowKeep w b u r a (2 ^ n - 1) x ((fs.zip (fs.map (fun e => fieldWhy s b u r e.1 (s.rd e.1 u) e.2))).any
      (fun e => e.2.2 != 0 && e.1.1.cls == .cfg)) acc s, ?_, rowKeep_sans _ _ _ _ _ _ _ _ _ _, rowKeep_keeps _ (fun k hk => Or.inr hk) _ _ _ _ _ _ _ _ _ _ ?_,
    ?_, ?_, ?_, (rowKeep_par _ _ _ _ _ _ _ _ _ _).1, (rowKeep_par _ _ _ _ _ _ _ _ _ _).2⟩
  · simp only [rowEnd]
    split
    · rw [runHooks_congr _ _ _ _ (runHooks_congr _ _ (_, [_], rowKeep w b u r a (2 ^ n - 1) x _ acc s) (0, [], _) rfl)]
    · rfl
  · intro e he
    left
    have := hkey e he
    omega
  · intro g y hl hne
    exact rowKeep_rd _ _ _ _ _ _ _ _ _ _ _ _ (fun e he hh => hne e.1 (hin e he).1 hh) hl
  · intro g hl hsame
    refine rowKeep_same _ _ _ _ _ _ _ _ _ _ _ (fun e he hh hk => ?_) hl
    obtain ⟨h5, h6⟩ := hsame e.1 (hin e he).1 hh hk
    exact ⟨h5, by rw [(hin e he).2, h5, h6]⟩
  · intro g hg hl hh hp ht hy hu
    refine rowKeep_stored _ _ _ _ _ _ _ _ _ _ _ _ (hacc' g hg hp ht hy) hh (fun e he _ hk => ?_) hl
    have h1 := hkey e he
    have h2 := hkey _ (hacc' g hg hp ht hy)
    have h3 : e.1 = g := hu e.1 (hin e he).1 (by simp only at h2; omega)
    exact Prod.ext h3 (by rw [(hin e he).2, h3])

end Sys2Proof.Machine
end

