-- ==== Sys2Proof/Laws/Rows.lean ====
section
/-! SUPPORT. From what an operation keeps to the frame of the row that runs it. -/

namespace Sys2Proof.Machine

/-! ### The end of a command, whatever waits -/

/-- The Rake's counts of dropped packets. -/
def dropA (k : Nat) : Prop :=
  k / 64 = 0x500030 ∨ k / 64 = 0x500114 ∨ k / 64 = 0x500154 ∨ k / 64 = 0x500194 ∨ k / 64 = 0x5001D4

theorem bump_keeps (P : Nat → Prop) (s : State) (f : Fld) (u : Nat) (h : P (f.key u)) : Keeps P s (s.bump f u) :=
  (Keeps.refl P s).wr f u _ h

theorem noroute_keeps (s : State) : Keeps dropA s (s.bump F.RAKE_ERR_NOROUTE 0) :=
  bump_keeps _ _ _ _ (Or.inl rfl)

theorem sideTo_keeps (n src : Nat) (ws : List Nat) (s : State) (h : n < 4) : Keeps dropA s (sideTo n src ws s) := by
  unfold sideTo
  extract_lets p
  split
  · exact Keeps.refl _ _
  · split
    · exact Keeps.of_eq rfl
    · refine bump_keeps _ _ _ _ ?_
      simp only [dropA, Fld.key, F.RAKE_P_ERR2_SIDE_DROP]; omega

theorem sideRoute_keeps (src dst : Nat) (ws : List Nat) (s : State) : Keeps dropA s (sideRoute src dst ws s) := by
  unfold sideRoute
  split
  · split
    · rename_i h; exact sideTo_keeps _ _ _ _ h
    · exact noroute_keeps s
  · split
    · exact sideTo_keeps _ _ _ _ (by omega)
    · exact noroute_keeps s

theorem sideSend_keeps (kind dst : Nat) (body : List Nat) (s : State) : Keeps dropA s (sideSend kind dst body s) := by
  unfold sideSend
  extract_lets ws
  split
  · split
    · exact sideTo_keeps _ _ _ _ (by omega)
    · refine Keeps.foldl _ _ _ (fun t n hn => sideTo_keeps _ _ _ _ ?_)
      simp at hn; omega
  · exact sideRoute_keeps _ _ _ _

theorem flushSide_keeps (s : State) : Keeps dropA s (flushSide s) := by
  unfold flushSide
  extract_lets side
  refine (Keeps.of_eq (P := dropA) (s := s) (t := { s with out := s.out.filter (fun o => !side o) }) rfl).trans ?_
  refine Keeps.foldl _ _ _ (fun t o _ => ?_)
  split
  · split
    · exact Keeps.refl _ _
    · exact sideSend_keeps _ _ _ _
  · exact Keeps.refl _ _

/-- The end of a command writes no register but the counts of dropped packets. -/
theorem finish_keeps (s : State) : Keeps dropA s (finish s) := (flushSide_keeps s).trans (Keeps.of_eq (settle_flds _))

theorem within_append (A B : List (Nat × Nat)) (a : Nat) : within (A ++ B) a ↔ within A a ∨ within B a := by
  simp only [within, List.mem_append, or_and_right, exists_or]

theorem logA_within (A : List (Nat × Nat)) (k : Nat) (h : logA k) : within (A ++ records) k :=
  (within_append _ _ _).mpr (Or.inr ⟨(64 * 0x900000, 64 * 0xA00000), by simp [records], by simp only [logA] at h; omega⟩)

theorem flagA_within (A : List (Nat × Nat)) (k : Nat) (h : flagA k) : within (A ++ records) k := by
  rcases h with h | h
  · exact (within_append _ _ _).mpr (Or.inr ⟨(64 * 0x10, 64 * 0x20), by simp [records], by simp only [glbA] at h; omega⟩)
  · exact logA_within A k h

theorem dropA_within (A : List (Nat × Nat)) (k : Nat) (h : dropA k) : within (A ++ records) k := by
  refine (within_append _ _ _).mpr (Or.inr ?_)
  rcases h with h | h | h | h | h
  · exact ⟨(64 * 0x500030, 64 * 0x500031), by simp [records], by omega⟩
  · exact ⟨(64 * 0x500114, 64 * 0x500115), by simp [records], by omega⟩
  · exact ⟨(64 * 0x500154, 64 * 0x500155), by simp [records], by omega⟩
  · exact ⟨(64 * 0x500194, 64 * 0x500195), by simp [records], by omega⟩
  · exact ⟨(64 * 0x5001D4, 64 * 0x5001D5), by simp [records], by omega⟩

/-- Registers kept outside ranges. -/
theorem Keeps.regsBut {A : List (Nat × Nat)} {s t : State} (h : Keeps (within A) s t) : regsBut A s t :=
  fun f u hp => h.rd f u hp

theorem bytesKept_of {s t : State} (h1 : t.carafe = s.carafe) (h2 : t.pans = s.pans) : bytesKept s t :=
  fun a => by rw [h1, h2]; exact ⟨rfl, rfl⟩

theorem finish_carafe' (s : State) : (finish s).carafe = s.carafe := of_sansEnd (·.carafe) (fun _ => rfl) (finish_sans s)
theorem finish_pans' (s : State) : (finish s).pans = s.pans := of_sansEnd (·.pans) (fun _ => rfl) (finish_sans s)

/-- A field that is no count of dropped packets reads the same at the end of a command. -/
theorem finish_reads (s : State) (f : Fld) (u : Nat) (h : ¬ dropA (f.key u)) : (finish s).rd f u = s.rd f u :=
  (finish_keeps s).rd f u h

/-- The frame of a row from what its operation keeps. -/
theorem actsTo_of {i : Instr} {s : State} {A : List (Nat × Nat)} {l : List (Fld × Nat × Nat)} {more : State → Prop} (x : State)
    (he : exec i s = .next (finish x)) (hk : Keeps (within (A ++ records)) s x)
    (hr : ∀ e ∈ l, ¬ dropA (e.1.key e.2.1) ∧ x.rd e.1 e.2.1 = e.2.2) (hc : x.carafe = s.carafe) (hp : x.pans = s.pans)
    (hm : more (finish x)) : actsTo i s A l more := by
  refine ⟨_, he, ?_, ?_, ?_, hm⟩
  · intro e x; rw [finish_reads _ _ _ (hr e x).1]; exact (hr e x).2
  · exact (hk.trans ((finish_keeps x).mono (dropA_within A))).regsBut
  · exact bytesKept_of ((finish_carafe' x).trans hc) ((finish_pans' x).trans hp)

theorem acts_of {i : Instr} {s : State} {A : List (Nat × Nat)} {l : List (Fld × Nat × Nat)} (x : State)
    (he : exec i s = .next (finish x)) (hk : Keeps (within (A ++ records)) s x)
    (hr : ∀ e ∈ l, ¬ dropA (e.1.key e.2.1) ∧ x.rd e.1 e.2.1 = e.2.2) (hc : x.carafe = s.carafe) (hp : x.pans = s.pans) :
    acts i s A l := by
  obtain ⟨t, h⟩ := actsTo_of (more := fun _ => True) x he hk hr hc hp trivial
  exact ⟨t, h.1, h.2.1, h.2.2.1, h.2.2.2.1⟩

theorem running_eq (g : State → State) (s : State) (h : s.boot.stage = 0) : running g s = activityTick (g s) := by
  simp only [running, h, beq_self_eq_true, if_true]

/-- Registers that the activity rule and the end of a command leave alone. -/
def plainA (a : Nat) : Prop := ¬ flagA a ∧ ¬ dropA a

/-- The frame of a device event while the fabric runs. -/
theorem runsTo_of {i : Instr} {s : State} {A : List (Nat × Nat)} {l : List (Fld × Nat × Nat)} {more : State → Prop} (g : State → State)
    (y : State) (h0 : s.boot.stage = 0) (he : exec i s = .next (finish (running g s))) (hy : g s = y) (hk : Keeps (within (A ++ records)) s y)
    (hr : ∀ e ∈ l, plainA (e.1.key e.2.1) ∧ y.rd e.1 e.2.1 = e.2.2) (hc : y.carafe = s.carafe) (hp : y.pans = s.pans)
    (hm : more (finish (activityTick y))) : actsTo i s A l more := by
  rw [running_eq g s h0, hy] at he
  refine actsTo_of _ he (hk.trans ((activityTick_keeps y).mono (flagA_within A))) ?_ ((activityTick_carafe y).trans hc)
    ((activityTick_pans y).trans hp) hm
  intro e x
  exact ⟨(hr e x).1.2, ((activityTick_keeps y).rd _ _ (hr e x).1.1).trans (hr e x).2⟩

theorem runs_of {i : Instr} {s : State} {A : List (Nat × Nat)} {l : List (Fld × Nat × Nat)} (g : State → State)
    (y : State) (h0 : s.boot.stage = 0) (he : exec i s = .next (finish (running g s))) (hy : g s = y) (hk : Keeps (within (A ++ records)) s y)
    (hr : ∀ e ∈ l, plainA (e.1.key e.2.1) ∧ y.rd e.1 e.2.1 = e.2.2) (hc : y.carafe = s.carafe) (hp : y.pans = s.pans) :
    acts i s A l := by
  obtain ⟨t, h⟩ := runsTo_of (more := fun _ => True) g y h0 he hy hk hr hc hp trivial
  exact ⟨t, h.1, h.2.1, h.2.2.1, h.2.2.2.1⟩

/-! ### Keeping registers, operation by operation -/

theorem Keeps.wrs {P : Nat → Prop} {s t : State} (h : Keeps P s t) (l : List (Fld × Nat × Nat)) (hp : ∀ e ∈ l, P (e.1.key e.2.1)) :
    Keeps P s (t.wrs l) := by
  induction l generalizing t with
  | nil => exact h
  | cons e r ih =>
    obtain ⟨f, u, v⟩ := e
    rw [State.wrs_cons]
    exact ih (h.wr f u v (hp (f, u, v) (by simp))) (fun x hx => hp x (by simp [hx]))

theorem Keeps.wrB {P : Nat → Prop} {s t : State} (h : Keeps P s t) (f : Fld) (u : Nat) (b : Bool) (hp : P (f.key u)) :
    Keeps P s (t.wrB f u b) := h.wr f u _ hp

theorem Keeps.wrI {P : Nat → Prop} {s t : State} (h : Keeps P s t) (f : Fld) (u : Nat) (i : Int) (hp : P (f.key u)) :
    Keeps P s (t.wrI f u i) := h.wr f u _ hp

theorem Keeps.bump {P : Nat → Prop} {s t : State} (h : Keeps P s t) (f : Fld) (u : Nat) (hp : P (f.key u)) :
    Keeps P s (t.bump f u) := h.wr f u _ hp

theorem Keeps.tally {P : Nat → Prop} {s t : State} (h : Keeps P s t) (f : Fld) (u : Nat) (hp : P (f.key u)) :
    Keeps P s (t.tally f u) := h.wr f u _ hp

theorem Keeps.of_flds {P : Nat → Prop} {s t u : State} (h : Keeps P s t) (e : u.flds = t.flds) : Keeps P s u := h.trans (Keeps.of_eq e)

theorem Keeps.ite {P : Nat → Prop} {s t u : State} {c : Prop} [Decidable c] (h : Keeps P s t) (g : Keeps P s u) :
    Keeps P s (if c then t else u) := by split <;> assumption

/-! ### The same over the register store alone -/

/-- Entries outside a set of addresses are the same in two register stores. -/
def KF (P : Nat → Prop) (a b : Tab Nat) : Prop := ∀ k, ¬ P k → tabGet b k = tabGet a k

theorem KF.keeps {P : Nat → Prop} {s t : State} (h : KF P s.flds t.flds) : Keeps P s t := h

theorem KF.refl (P : Nat → Prop) (a : Tab Nat) : KF P a a := fun _ _ => rfl

theorem KF.wr {P : Nat → Prop} {a : Tab Nat} {t : State} {f : Fld} {u v : Nat} (h : KF P a t.flds) (hp : P (f.key u)) :
    KF P a (t.wr f u v).flds := fun k hk => by
  rw [← h k hk]
  exact tabGet_set_other _ _ _ _ _ (fun e => hk (e ▸ hp))

theorem KF.wrB {P : Nat → Prop} {a : Tab Nat} {t : State} {f : Fld} {u : Nat} {v : Bool} (h : KF P a t.flds) (hp : P (f.key u)) :
    KF P a (t.wrB f u v).flds := KF.wr h hp

theorem KF.wrI {P : Nat → Prop} {a : Tab Nat} {t : State} {f : Fld} {u : Nat} {v : Int} (h : KF P a t.flds) (hp : P (f.key u)) :
    KF P a (t.wrI f u v).flds := KF.wr h hp

theorem KF.bump {P : Nat → Prop} {a : Tab Nat} {t : State} {f : Fld} {u : Nat} (h : KF P a t.flds) (hp : P (f.key u)) :
    KF P a (t.bump f u).flds := KF.wr h hp

theorem KF.bumpBy {P : Nat → Prop} {a : Tab Nat} {t : State} {f : Fld} {u n : Nat} (h : KF P a t.flds) (hp : P (f.key u)) :
    KF P a (t.bumpBy f u n).flds := KF.wr h hp

theorem KF.tally {P : Nat → Prop} {a : Tab Nat} {t : State} {f : Fld} {u : Nat} (h : KF P a t.flds) (hp : P (f.key u)) :
    KF P a (t.tally f u).flds := KF.wr h hp

theorem KF.tallyBy {P : Nat → Prop} {a : Tab Nat} {t : State} {f : Fld} {u n : Nat} (h : KF P a t.flds) (hp : P (f.key u)) :
    KF P a (t.tallyBy f u n).flds := KF.wr h hp

theorem KF.wrs {P : Nat → Prop} {a : Tab Nat} {t : State} {l : List (Fld × Nat × Nat)} (h : KF P a t.flds)
    (hp : ∀ e ∈ l, P (e.1.key e.2.1)) : KF P a (t.wrs l).flds := Keeps.wrs (s := { t with flds := a }) h l hp

theorem KF.trans {P : Nat → Prop} {a : Tab Nat} {t u : State} (h : KF P a t.flds) (g : Keeps P t u) : KF P a u.flds :=
  fun k hk => (g k hk).trans (h k hk)

/-! ### Writes from outside -/

/-- The frame of a register write from what its effects keep. -/
theorem writesTo_of {i : Instr} {s : State} {A : List (Nat × Nat)} {l : List (Fld × Nat × Nat)} {more : State → Prop} (g : State → State)
    (o : Nat) (fl : List (Nat × Nat × Nat)) (y : State) (he : exec i s = .next (finish (hostCmd g s))) (hp : powered s = true)
    (hy : g s.coming = flagAll o fl y) (hk : Keeps (within (A ++ records)) s y)
    (hr : ∀ e ∈ l, plainA (e.1.key e.2.1) ∧ y.rd e.1 e.2.1 = e.2.2)
    (hc : y.carafe = s.carafe) (hpn : y.pans = s.pans) (hm : more (finish (flagAll o fl y).rested)) : actsTo i s A l more := by
  rw [hostCmd_eq _ _ hp, byHost, hy] at he
  have hf : Keeps (within (A ++ records)) y (flagAll o fl y).rested := (flagAll_keeps o fl y).mono (flagA_within A)
  refine actsTo_of _ he (hk.trans hf) ?_ ?_ ?_ hm
  · intro e x
    exact ⟨(hr e x).1.2, ((flagAll_keeps o fl y).rd _ _ (hr e x).1.1).trans (hr e x).2⟩
  · exact (of_sansLog (·.carafe) (fun _ => rfl) (flagAll_sans o fl y)).trans hc
  · exact (of_sansLog (·.pans) (fun _ => rfl) (flagAll_sans o fl y)).trans hpn

/-- The same with nothing else to say of the next state. -/
theorem writesTo_acts {i : Instr} {s : State} {A : List (Nat × Nat)} {l : List (Fld × Nat × Nat)} (g : State → State)
    (o : Nat) (fl : List (Nat × Nat × Nat)) (y : State) (he : exec i s = .next (finish (hostCmd g s))) (hp : powered s = true)
    (hy : g s.coming = flagAll o fl y) (hk : Keeps (within (A ++ records)) s y)
    (hr : ∀ e ∈ l, plainA (e.1.key e.2.1) ∧ y.rd e.1 e.2.1 = e.2.2)
    (hc : y.carafe = s.carafe) (hpn : y.pans = s.pans) : acts i s A l := by
  obtain ⟨t, h⟩ := writesTo_of (more := fun _ => True) g o fl y he hp hy hk hr hc hpn trivial
  exact ⟨t, h.1, h.2.1, h.2.2.1, h.2.2.2.1⟩

/-- What no record, reply or fault summary is part of, at the end of a command from outside. -/
theorem hostEnd_get {γ : Type} (g : State → γ) (h1 : ∀ s, g (sansEnd s) = g s) (h2 : ∀ s, g (sansLog s) = g s) (h3 : ∀ s, g s.rested = g s)
    (o : Nat) (fl : List (Nat × Nat × Nat)) (y : State) : g (finish (flagAll o fl y).rested) = g y :=
  (of_sansEnd g h1 (finish_sans _)).trans ((h3 _).trans (of_sansLog g h2 (flagAll_sans o fl y)))

/-- The same at the end of a device event. -/
theorem runEnd_get {γ : Type} (g : State → γ) (h1 : ∀ s, g (sansEnd s) = g s) (h2 : ∀ s, g (sansLog s) = g s)
    (y : State) : g (finish (activityTick y)) = g y :=
  (of_sansEnd g h1 (finish_sans _)).trans (of_sansLog g h2 (activityTick_sans y))

end Sys2Proof.Machine
end

