-- ==== Sys2Proof/Laws/Enables.lean ====
section
/-! SUPPORT. What a write of a register with LIVE fields that act comes to: the effects of those fields, after the others took their values. -/

namespace Sys2Proof.Machine

/-- A whole word written to a register some of whose fields act. -/
theorem hook_write (b : Blk) (hb : b ∈ blks) (r : Row) (hr : r ∈ b.rows) (v : Nat)
    (h : (b.base % 4 == 0 && b.stride % 4 == 0 && r.off % 4 == 0 && !r.pair) = true) (hk : hookRow 32 b r v = true) (hv : v < 2 ^ 32)
    (u : Nat) (hu : u < b.count) (a : Nat) (ha : a = b.base + b.stride * u + r.off) (o : Nat) (s : State) (hm : mayWrite s o b.grp) :
    ∃ z fl, writeWord o a v s = flagAll o fl (rowEnd b u r a s
        (runHooks (fun f v t => liveHook ⟨o, 0, 0, o == 0, false⟩ b u f v t) (partsOf (fun g => g.cls == .live && hooked g) r v)
          (runHooks (fun f v t => cmdHook ⟨o, 0, 0, o == 0, false⟩ b u f v t) (partsOf (fun g => g.cls == .cmd) r v) (0, [], z))).2.2) ∧
      RowWrote 32 b u r v s z := by
  subst ha
  simp only [Bool.and_eq_true, beq_iff_eq, Bool.not_eq_true'] at h
  obtain ⟨⟨⟨h1, h2⟩, h3⟩, hp⟩ := h
  have ho := regAt_of_mem b hb u hu r hr
  have hat := wordAt_of_mem b hb u hu r hr
  have hkb := hk
  simp only [hookRow, Bool.and_eq_true, bne_iff_ne] at hkb
  have h80 : b.base ≠ 0x80 := hkb.1.2
  have h4 : (b.base + b.stride * u + r.off) % 4 = 0 := by
    have : b.stride * u % 4 = 0 := by rw [Nat.mul_mod, h2]; simp
    omega
  have hd := regDenied_false s o b h80 hm.1
  have hy : accessWhy s ⟨o, 0, 0, o == 0, false⟩ (b.base + b.stride * u + r.off) 15 = (0, 0) := by
    simp [accessWhy, h4, hat, hd]
  have hpair : isPair (b.base + b.stride * u + r.off) = false := by simp [isPair, ho, hp]
  have hbits : byteBits 15 = 2 ^ 32 - 1 := by decide
  obtain ⟨z, e1, e2⟩ := rowWrite_hook 32 ⟨o, 0, 0, o == 0, false⟩ b u r (b.base + b.stride * u + r.off) v v s hk hu rfl hm.2
  generalize hx : rowWrite ⟨o, 0, 0, o == 0, false⟩ b u r (b.base + b.stride * u + r.off) (2 ^ 32 - 1) v v s = x at e1
  have e : writeWord o (b.base + b.stride * u + r.off) v s = flagAll o x.flags x.st := by
    simp only [writeWord, writeNow, regWrites, List.length_singleton, hpair, Bool.and_false, Bool.false_and, if_false, Bool.false_eq_true]
    simp only [regWrite, hy, hat, hbits, Nat.mod_eq_of_lt hv, bne_self_eq_false, Bool.false_eq_true, if_false, Nat.mul_one, hx, List.nil_append]
  exact ⟨z, x.flags, by rw [e, e1], e2⟩

/-- Both words of a pair written in one tick. -/
theorem hook_pair (b : Blk) (hb : b ∈ blks) (r : Row) (hr : r ∈ b.rows) (v : Nat)
    (h : (b.base % 8 == 0 && b.stride % 8 == 0 && r.off % 8 == 0 && r.pair) = true) (hk : hookRow 64 b r v = true) (hv : v < 2 ^ 64)
    (u : Nat) (hu : u < b.count) (a : Nat) (ha : a = b.base + b.stride * u + r.off) (o : Nat) (s : State) (hm : mayWrite s o b.grp) :
    ∃ z fl, writePair o a v s = flagAll o fl (rowEnd b u r a s
        (runHooks (fun f v t => liveHook ⟨o, 0, 0, o == 0, false⟩ b u f v t) (partsOf (fun g => g.cls == .live && hooked g) r v)
          (runHooks (fun f v t => cmdHook ⟨o, 0, 0, o == 0, false⟩ b u f v t) (partsOf (fun g => g.cls == .cmd) r v) (0, [], z))).2.2) ∧
      RowWrote 64 b u r v s z := by
  subst ha
  simp only [Bool.and_eq_true, beq_iff_eq] at h
  obtain ⟨⟨⟨h1, h2⟩, h3⟩, hp⟩ := h
  have ho := regAt_of_mem b hb u hu r hr
  have hat := wordAt_of_mem b hb u hu r hr
  have hkb := hk
  simp only [hookRow, Bool.and_eq_true, bne_iff_ne] at hkb
  have h80 : b.base ≠ 0x80 := hkb.1.2
  have h8 : (b.base + b.stride * u + r.off) % 8 = 0 := by
    have : b.stride * u % 8 = 0 := by rw [Nat.mul_mod, h2]; simp
    omega
  have h4 : (b.base + b.stride * u + r.off) % 4 = 0 := by omega
  have hd := regDenied_false s o b h80 hm.1
  have hy : accessWhy s ⟨o, 0, 0, o == 0, false⟩ (b.base + b.stride * u + r.off) 15 = (0, 0) := by
    simp [accessWhy, h4, hat, hd]
  have hpair : isPair (b.base + b.stride * u + r.off) = true := by simp [isPair, ho, hp, h8]
  have hbits : byteBits 15 + byteBits 15 * 2 ^ 32 = 2 ^ 64 - 1 := by decide
  have hval : v % 2 ^ 32 % 2 ^ 32 + v / 2 ^ 32 % 2 ^ 32 * 2 ^ 32 = v := by
    rw [Nat.mod_mod, Nat.mod_eq_of_lt (Nat.div_lt_of_lt_mul (by rw [← Nat.pow_add]; exact hv)), Nat.mod_add_div']
  obtain ⟨z, e1, e2⟩ := rowWrite_hook 64 ⟨o, 0, 0, o == 0, false⟩ b u r (b.base + b.stride * u + r.off) v (v % 2 ^ 32) s hk hu rfl hm.2
  generalize hx : rowWrite ⟨o, 0, 0, o == 0, false⟩ b u r (b.base + b.stride * u + r.off) (2 ^ 64 - 1) v (v % 2 ^ 32) s = x at e1
  have hp2 : pairWrite ⟨o, 0, 0, o == 0, false⟩ (b.base + b.stride * u + r.off) 15 (v % 2 ^ 32) (v / 2 ^ 32) s = x := by
    simp only [pairWrite, hy, hat, hbits, hval, bne_self_eq_false, Bool.false_eq_true, if_false, hx]
  have e : writePair o (b.base + b.stride * u + r.off) v s = flagAll o x.flags x.st := by
    rw [writePair, writeNow]
    simp only [regWrites, List.length_cons, List.length_nil, hpair, List.isEmpty_cons, Bool.not_false, Bool.and_self, Nat.reduceAdd,
      beq_self_eq_true, Bool.or_true, if_true, List.drop_succ_cons, List.drop_zero, List.headD_cons, List.nil_append]
    rw [hp2]
  exact ⟨z, x.flags, by rw [e, e1], e2⟩

theorem ignored_st (b : Bool) (s : State) : (ignored b s).2.2 = s := by cases b <;> rfl
theorem done_st (s : State) : (done s).2.2 = s := rfl

/-- No lock register lies in another block. -/
theorem lock_apart (b : Blk) (hb : b ∈ blks) (r : Row) (hr : r ∈ b.rows) (u : Nat) (hu : u < b.count) (hn : b.base ≠ 0x800000) :
    b.base + b.stride * u + r.off ≠ F.NVM_BOOT_LOCK_LOCK.addr 0 ∧ b.base + b.stride * u + r.off ≠ F.NVM_CAL_LOCK_LOCK.addr 0 := by
  have ho := regAt_of_mem b hb u hu r hr
  have lock : ∀ a, (regAt a).map (fun e => e.1.base) = some 0x800000 → b.base + b.stride * u + r.off ≠ a := by
    intro a ha e
    rw [← e, ho] at ha
    simp at ha
    exact hn ha
  exact ⟨lock _ (by decide +kernel), lock _ (by decide +kernel)⟩

/-- The same for a row after whose effects nothing follows. -/
theorem word_write (b : Blk) (hb : b ∈ blks) (r : Row) (hr : r ∈ b.rows) (v : Nat)
    (h : (b.base % 4 == 0 && b.stride % 4 == 0 && r.off % 4 == 0 && !r.pair && endless b r) = true) (hk : hookRow 32 b r v = true) (hv : v < 2 ^ 32)
    (u : Nat) (hu : u < b.count) (a : Nat) (ha : a = b.base + b.stride * u + r.off) (o : Nat) (s : State) (hm : mayWrite s o b.grp) :
    ∃ z fl, writeWord o a v s = flagAll o fl
        (runHooks (fun f v t => liveHook ⟨o, 0, 0, o == 0, false⟩ b u f v t) (partsOf (fun g => g.cls == .live && hooked g) r v)
          (runHooks (fun f v t => cmdHook ⟨o, 0, 0, o == 0, false⟩ b u f v t) (partsOf (fun g => g.cls == .cmd) r v) (0, [], z))).2.2 ∧
      RowWrote 32 b u r v s z := by
  rw [Bool.and_eq_true] at h
  have he := h.2
  simp only [endless, Bool.and_eq_true, bne_iff_ne] at he
  obtain ⟨h1, h2⟩ := lock_apart b hb r hr u hu he.2
  obtain ⟨z, fl, e1, e2⟩ := hook_write b hb r hr v h.1 hk hv u hu a ha o s hm
  refine ⟨z, fl, ?_, e2⟩
  rw [e1, rowEnd_endless _ _ _ _ _ _ h.2 (ha ▸ h1) (ha ▸ h2)]

theorem pair_write (b : Blk) (hb : b ∈ blks) (r : Row) (hr : r ∈ b.rows) (v : Nat)
    (h : (b.base % 8 == 0 && b.stride % 8 == 0 && r.off % 8 == 0 && r.pair && endless b r) = true) (hk : hookRow 64 b r v = true) (hv : v < 2 ^ 64)
    (u : Nat) (hu : u < b.count) (a : Nat) (ha : a = b.base + b.stride * u + r.off) (o : Nat) (s : State) (hm : mayWrite s o b.grp) :
    ∃ z fl, writePair o a v s = flagAll o fl
        (runHooks (fun f v t => liveHook ⟨o, 0, 0, o == 0, false⟩ b u f v t) (partsOf (fun g => g.cls == .live && hooked g) r v)
          (runHooks (fun f v t => cmdHook ⟨o, 0, 0, o == 0, false⟩ b u f v t) (partsOf (fun g => g.cls == .cmd) r v) (0, [], z))).2.2 ∧
      RowWrote 64 b u r v s z := by
  rw [Bool.and_eq_true] at h
  have he := h.2
  simp only [endless, Bool.and_eq_true, bne_iff_ne] at he
  obtain ⟨h1, h2⟩ := lock_apart b hb r hr u hu he.2
  obtain ⟨z, fl, e1, e2⟩ := hook_pair b hb r hr v h.1 hk hv u hu a ha o s hm
  refine ⟨z, fl, ?_, e2⟩
  rw [e1, rowEnd_endless _ _ _ _ _ _ h.2 (ha ▸ h1) (ha ▸ h2)]

/-- An enable of a unit in whose registers no parity mismatch stands, while no unit is in SAFE: its action alone. -/
theorem enable_clean (b : Blk) (u : Nat) (f : Fld) (v : Nat) (act : Bool → Bool → State → Eff) (z : State) (ho : z.parOdd = [])
    (hb : z.parBad = []) (hs : (act false (v == 1) z).2.2.unitSafe = []) : (enable b u f v act z).2.2 = (act false (v == 1) z).2.2 := by
  have h1 : parCheck b u z = z := by simp [parCheck, ho, parDetectAll]
  have h2 : unitPar z b u = false := by simp [unitPar, hb]
  have h3 : (if (v == 1) = true then parCheck b u z else z) = z := by rw [h1]; split <;> rfl
  simp only [enable, h3, h2]
  split
  · simp [unitSafeLeave, hs, memN]
  · rfl

theorem rsrcCtlEn_row (v : Nat) : hookRow 32 ⟨0x300000, 0x80, 64, 7, rowsRsrcCtl⟩ ⟨0x0, false, [F.RSRC_CTL_COMP, F.RSRC_CTL_ABS, F.RSRC_CTL_LOSS_POL, F.RSRC_CTL_SEL, F.RSRC_CTL_SRC, F.RSRC_CTL_EN]⟩ v = true := rfl

theorem rsrcCtlEn_write (o u : Nat) (hu : u < 64) (v : Nat) (hv : v < 2 ^ 32)  (s : State) (hm : mayWrite s o 7) :
    ∃ z fl, writeWord o (F.RSRC_CTL_EN.addr u) v s = flagAll o fl ((enable ⟨0x300000, 0x80, 64, 7, rowsRsrcCtl⟩ u F.RSRC_CTL_EN (F.RSRC_CTL_EN.part v) (fun par e t => done (railEnable par u e t)) z).2.2) ∧
      RowWrote 32 ⟨0x300000, 0x80, 64, 7, rowsRsrcCtl⟩ u ⟨0x0, false, [F.RSRC_CTL_COMP, F.RSRC_CTL_ABS, F.RSRC_CTL_LOSS_POL, F.RSRC_CTL_SEL, F.RSRC_CTL_SRC, F.RSRC_CTL_EN]⟩ v s z := by
  obtain ⟨z, fl, h1, h2⟩ := word_write ⟨0x300000, 0x80, 64, 7, rowsRsrcCtl⟩ (List.mem_of_getElem? (i := 13) rfl) ⟨0x0, false, [F.RSRC_CTL_COMP, F.RSRC_CTL_ABS, F.RSRC_CTL_LOSS_POL, F.RSRC_CTL_SEL, F.RSRC_CTL_SRC, F.RSRC_CTL_EN]⟩ (List.mem_of_getElem? (i := 0) rfl) v
    (by decide) (rsrcCtlEn_row v) hv u hu (F.RSRC_CTL_EN.addr u) (by simp only [Fld.addr, F.RSRC_CTL_EN] <;> omega) o s hm
  have p1 : partsOf (fun g => g.cls == .live && hooked g) ⟨0x0, false, [F.RSRC_CTL_COMP, F.RSRC_CTL_ABS, F.RSRC_CTL_LOSS_POL, F.RSRC_CTL_SEL, F.RSRC_CTL_SRC, F.RSRC_CTL_EN]⟩ v = [(F.RSRC_CTL_EN, F.RSRC_CTL_EN.part v)] := by
    simp only [partsOf, List.filter_cons, List.filter_nil, List.map_cons, List.map_nil, (by decide : (F.RSRC_CTL_COMP.cls == .live && hooked F.RSRC_CTL_COMP) = false), (by decide : (F.RSRC_CTL_ABS.cls == .live && hooked F.RSRC_CTL_ABS) = false), (by decide : (F.RSRC_CTL_LOSS_POL.cls == .live && hooked F.RSRC_CTL_LOSS_POL) = false), (by decide : (F.RSRC_CTL_SEL.cls == .live && hooked F.RSRC_CTL_SEL) = false), (by decide : (F.RSRC_CTL_SRC.cls == .live && hooked F.RSRC_CTL_SRC) = false), (by decide : (F.RSRC_CTL_EN.cls == .live && hooked F.RSRC_CTL_EN) = true), Bool.false_eq_true, if_false, if_true]
  have p2 : partsOf (fun g => g.cls == .cmd) ⟨0x0, false, [F.RSRC_CTL_COMP, F.RSRC_CTL_ABS, F.RSRC_CTL_LOSS_POL, F.RSRC_CTL_SEL, F.RSRC_CTL_SRC, F.RSRC_CTL_EN]⟩ v = [] := by
    simp only [partsOf, List.filter_cons, List.filter_nil, List.map_cons, List.map_nil, (by decide : (F.RSRC_CTL_COMP.cls == .cmd) = false), (by decide : (F.RSRC_CTL_ABS.cls == .cmd) = false), (by decide : (F.RSRC_CTL_LOSS_POL.cls == .cmd) = false), (by decide : (F.RSRC_CTL_SEL.cls == .cmd) = false), (by decide : (F.RSRC_CTL_SRC.cls == .cmd) = false), (by decide : (F.RSRC_CTL_EN.cls == .cmd) = false), Bool.false_eq_true, if_false, if_true]
  rw [p1, p2] at h1
  refine ⟨z, fl, h1.trans ?_, h2⟩
  simp only [runHooks, List.foldl_cons, List.foldl_nil, liveHook, cmdHook, (by decide : (F.RSRC_CTL_EN.id == F.RSRC_SCALE_SCALE.id) = false), (by decide : (F.RSRC_CTL_EN.id == F.RSRC_CTL_EN.id) = true), (by decide : (F.RSRC_CTL_EN.id == F.ENC_CTL_EN.id) = false), (by decide : (F.RSRC_CTL_EN.id == F.RSRC_LT_CTL_EN.id) = false), Bool.false_eq_true, if_false, if_true, ignored_st, done_st] <;> rfl

theorem rsrcScaleScale_row (v : Nat) : hookRow 64 ⟨0x300000, 0x80, 64, 7, rowsRsrcCtl⟩ ⟨0x20, true, [F.RSRC_SCALE_SCALE]⟩ v = true := rfl

theorem rsrcScaleScale_write (o u : Nat) (hu : u < 64) (v : Nat) (hv : v < 2 ^ 64)  (s : State) (hm : mayWrite s o 7) :
    ∃ z fl, writePair o (F.RSRC_SCALE_SCALE.addr u) v s = flagAll o fl (railScale u (F.RSRC_SCALE_SCALE.part v) z) ∧
      RowWrote 64 ⟨0x300000, 0x80, 64, 7, rowsRsrcCtl⟩ u ⟨0x20, true, [F.RSRC_SCALE_SCALE]⟩ v s z := by
  obtain ⟨z, fl, h1, h2⟩ := pair_write ⟨0x300000, 0x80, 64, 7, rowsRsrcCtl⟩ (List.mem_of_getElem? (i := 13) rfl) ⟨0x20, true, [F.RSRC_SCALE_SCALE]⟩ (List.mem_of_getElem? (i := 6) rfl) v
    (by decide) (rsrcScaleScale_row v) hv u hu (F.RSRC_SCALE_SCALE.addr u) (by simp only [Fld.addr, F.RSRC_SCALE_SCALE] <;> omega) o s hm
  have p1 : partsOf (fun g => g.cls == .live && hooked g) ⟨0x20, true, [F.RSRC_SCALE_SCALE]⟩ v = [(F.RSRC_SCALE_SCALE, F.RSRC_SCALE_SCALE.part v)] := by
    simp only [partsOf, List.filter_cons, List.filter_nil, List.map_cons, List.map_nil, (by decide : (F.RSRC_SCALE_SCALE.cls == .live && hooked F.RSRC_SCALE_SCALE) = true), Bool.false_eq_true, if_false, if_true]
  have p2 : partsOf (fun g => g.cls == .cmd) ⟨0x20, true, [F.RSRC_SCALE_SCALE]⟩ v = [] := by
    simp only [partsOf, List.filter_cons, List.filter_nil, List.map_cons, List.map_nil, (by decide : (F.RSRC_SCALE_SCALE.cls == .cmd) = false), Bool.false_eq_true, if_false, if_true]
  rw [p1, p2] at h1
  refine ⟨z, fl, h1.trans ?_, h2⟩
  simp only [runHooks, List.foldl_cons, List.foldl_nil, liveHook, cmdHook, (by decide : (F.RSRC_SCALE_SCALE.id == F.RSRC_SCALE_SCALE.id) = true), (by decide : (F.RSRC_SCALE_SCALE.id == F.RSRC_CTL_EN.id) = false), (by decide : (F.RSRC_SCALE_SCALE.id == F.ENC_CTL_EN.id) = false), (by decide : (F.RSRC_SCALE_SCALE.id == F.RSRC_LT_CTL_EN.id) = false), Bool.false_eq_true, if_false, if_true, ignored_st, done_st] <;> rfl

theorem rsrcRateRate_row (v : Nat) : hookRow 64 ⟨0x300000, 0x80, 64, 7, rowsRsrcCtl⟩ ⟨0x18, true, [F.RSRC_RATE_RATE]⟩ v = true := rfl

theorem rsrcRateRate_write (o u : Nat) (hu : u < 64) (v : Nat) (hv : v < 2 ^ 64)  (s : State) (hm : mayWrite s o 7) :
    ∃ z fl, writePair o (F.RSRC_RATE_RATE.addr u) v s = flagAll o fl (z) ∧
      RowWrote 64 ⟨0x300000, 0x80, 64, 7, rowsRsrcCtl⟩ u ⟨0x18, true, [F.RSRC_RATE_RATE]⟩ v s z := by
  obtain ⟨z, fl, h1, h2⟩ := pair_write ⟨0x300000, 0x80, 64, 7, rowsRsrcCtl⟩ (List.mem_of_getElem? (i := 13) rfl) ⟨0x18, true, [F.RSRC_RATE_RATE]⟩ (List.mem_of_getElem? (i := 5) rfl) v
    (by decide) (rsrcRateRate_row v) hv u hu (F.RSRC_RATE_RATE.addr u) (by simp only [Fld.addr, F.RSRC_RATE_RATE] <;> omega) o s hm
  have p1 : partsOf (fun g => g.cls == .live && hooked g) ⟨0x18, true, [F.RSRC_RATE_RATE]⟩ v = [] := by
    simp only [partsOf, List.filter_cons, List.filter_nil, List.map_cons, List.map_nil, (by decide : (F.RSRC_RATE_RATE.cls == .live && hooked F.RSRC_RATE_RATE) = false), Bool.false_eq_true, if_false, if_true]
  have p2 : partsOf (fun g => g.cls == .cmd) ⟨0x18, true, [F.RSRC_RATE_RATE]⟩ v = [] := by
    simp only [partsOf, List.filter_cons, List.filter_nil, List.map_cons, List.map_nil, (by decide : (F.RSRC_RATE_RATE.cls == .cmd) = false), Bool.false_eq_true, if_false, if_true]
  rw [p1, p2] at h1
  refine ⟨z, fl, h1.trans ?_, h2⟩
  rfl

theorem encCtlEn_row (v : Nat) : hookRow 32 ⟨0x302000, 0x40, 8, 7, rowsEncCtl⟩ ⟨0x0, false, [F.ENC_CTL_TERM, F.ENC_CTL_INDEX, F.ENC_CTL_FILT, F.ENC_CTL_INVERT, F.ENC_CTL_MODE, F.ENC_CTL_EN]⟩ v = true := rfl

theorem encCtlEn_write (o u : Nat) (hu : u < 8) (v : Nat) (hv : v < 2 ^ 32)  (s : State) (hm : mayWrite s o 7) :
    ∃ z fl, writeWord o (F.ENC_CTL_EN.addr u) v s = flagAll o fl ((enable ⟨0x302000, 0x40, 8, 7, rowsEncCtl⟩ u F.ENC_CTL_EN (F.ENC_CTL_EN.part v) (fun par e t => let r := encEnable par u e t; if r.1 then done r.2 else (stBadParam, cBadEncoding, r.2)) z).2.2) ∧
      RowWrote 32 ⟨0x302000, 0x40, 8, 7, rowsEncCtl⟩ u ⟨0x0, false, [F.ENC_CTL_TERM, F.ENC_CTL_INDEX, F.ENC_CTL_FILT, F.ENC_CTL_INVERT, F.ENC_CTL_MODE, F.ENC_CTL_EN]⟩ v s z := by
  obtain ⟨z, fl, h1, h2⟩ := word_write ⟨0x302000, 0x40, 8, 7, rowsEncCtl⟩ (List.mem_of_getElem? (i := 14) rfl) ⟨0x0, false, [F.ENC_CTL_TERM, F.ENC_CTL_INDEX, F.ENC_CTL_FILT, F.ENC_CTL_INVERT, F.ENC_CTL_MODE, F.ENC_CTL_EN]⟩ (List.mem_of_getElem? (i := 0) rfl) v
    (by decide) (encCtlEn_row v) hv u hu (F.ENC_CTL_EN.addr u) (by simp only [Fld.addr, F.ENC_CTL_EN] <;> omega) o s hm
  have p1 : partsOf (fun g => g.cls == .live && hooked g) ⟨0x0, false, [F.ENC_CTL_TERM, F.ENC_CTL_INDEX, F.ENC_CTL_FILT, F.ENC_CTL_INVERT, F.ENC_CTL_MODE, F.ENC_CTL_EN]⟩ v = [(F.ENC_CTL_EN, F.ENC_CTL_EN.part v)] := by
    simp only [partsOf, List.filter_cons, List.filter_nil, List.map_cons, List.map_nil, (by decide : (F.ENC_CTL_TERM.cls == .live && hooked F.ENC_CTL_TERM) = false), (by decide : (F.ENC_CTL_INDEX.cls == .live && hooked F.ENC_CTL_INDEX) = false), (by decide : (F.ENC_CTL_FILT.cls == .live && hooked F.ENC_CTL_FILT) = false), (by decide : (F.ENC_CTL_INVERT.cls == .live && hooked F.ENC_CTL_INVERT) = false), (by decide : (F.ENC_CTL_MODE.cls == .live && hooked F.ENC_CTL_MODE) = false), (by decide : (F.ENC_CTL_EN.cls == .live && hooked F.ENC_CTL_EN) = true), Bool.false_eq_true, if_false, if_true]
  have p2 : partsOf (fun g => g.cls == .cmd) ⟨0x0, false, [F.ENC_CTL_TERM, F.ENC_CTL_INDEX, F.ENC_CTL_FILT, F.ENC_CTL_INVERT, F.ENC_CTL_MODE, F.ENC_CTL_EN]⟩ v = [] := by
    simp only [partsOf, List.filter_cons, List.filter_nil, List.map_cons, List.map_nil, (by decide : (F.ENC_CTL_TERM.cls == .cmd) = false), (by decide : (F.ENC_CTL_INDEX.cls == .cmd) = false), (by decide : (F.ENC_CTL_FILT.cls == .cmd) = false), (by decide : (F.ENC_CTL_INVERT.cls == .cmd) = false), (by decide : (F.ENC_CTL_MODE.cls == .cmd) = false), (by decide : (F.ENC_CTL_EN.cls == .cmd) = false), Bool.false_eq_true, if_false, if_true]
  rw [p1, p2] at h1
  refine ⟨z, fl, h1.trans ?_, h2⟩
  simp only [runHooks, List.foldl_cons, List.foldl_nil, liveHook, cmdHook, (by decide : (F.ENC_CTL_EN.id == F.RSRC_SCALE_SCALE.id) = false), (by decide : (F.ENC_CTL_EN.id == F.RSRC_CTL_EN.id) = false), (by decide : (F.ENC_CTL_EN.id == F.ENC_CTL_EN.id) = true), (by decide : (F.ENC_CTL_EN.id == F.RSRC_LT_CTL_EN.id) = false), Bool.false_eq_true, if_false, if_true, ignored_st, done_st] <;> rfl

theorem rsrcLtCtlEn_row (v : Nat) : hookRow 32 ⟨0x303000, 0x40, 8, 7, rowsRsrcLtCtl⟩ ⟨0x0, false, [F.RSRC_LT_CTL_MAINS, F.RSRC_LT_CTL_MISS_MAX, F.RSRC_LT_CTL_WIN, F.RSRC_LT_CTL_IN_SEL, F.RSRC_LT_CTL_AVG, F.RSRC_LT_CTL_EDGE, F.RSRC_LT_CTL_SLEW, F.RSRC_LT_CTL_EN]⟩ v = true := rfl

theorem rsrcLtCtlEn_write (o u : Nat) (hu : u < 8) (v : Nat) (hv : v < 2 ^ 32)  (s : State) (hm : mayWrite s o 7) :
    ∃ z fl, writeWord o (F.RSRC_LT_CTL_EN.addr u) v s = flagAll o fl ((enable ⟨0x303000, 0x40, 8, 7, rowsRsrcLtCtl⟩ u F.RSRC_LT_CTL_EN (F.RSRC_LT_CTL_EN.part v) (fun par e t => done (trkEnable par u e t))
        (if F.RSRC_LT_CTL_MAINS.part v == 0 then done z else trkMains u z).2.2).2.2) ∧
      RowWrote 32 ⟨0x303000, 0x40, 8, 7, rowsRsrcLtCtl⟩ u ⟨0x0, false, [F.RSRC_LT_CTL_MAINS, F.RSRC_LT_CTL_MISS_MAX, F.RSRC_LT_CTL_WIN, F.RSRC_LT_CTL_IN_SEL, F.RSRC_LT_CTL_AVG, F.RSRC_LT_CTL_EDGE, F.RSRC_LT_CTL_SLEW, F.RSRC_LT_CTL_EN]⟩ v s z := by
  obtain ⟨z, fl, h1, h2⟩ := word_write ⟨0x303000, 0x40, 8, 7, rowsRsrcLtCtl⟩ (List.mem_of_getElem? (i := 15) rfl) ⟨0x0, false, [F.RSRC_LT_CTL_MAINS, F.RSRC_LT_CTL_MISS_MAX, F.RSRC_LT_CTL_WIN, F.RSRC_LT_CTL_IN_SEL, F.RSRC_LT_CTL_AVG, F.RSRC_LT_CTL_EDGE, F.RSRC_LT_CTL_SLEW, F.RSRC_LT_CTL_EN]⟩ (List.mem_of_getElem? (i := 0) rfl) v
    (by decide) (rsrcLtCtlEn_row v) hv u hu (F.RSRC_LT_CTL_EN.addr u) (by simp only [Fld.addr, F.RSRC_LT_CTL_EN] <;> omega) o s hm
  have p1 : partsOf (fun g => g.cls == .live && hooked g) ⟨0x0, false, [F.RSRC_LT_CTL_MAINS, F.RSRC_LT_CTL_MISS_MAX, F.RSRC_LT_CTL_WIN, F.RSRC_LT_CTL_IN_SEL, F.RSRC_LT_CTL_AVG, F.RSRC_LT_CTL_EDGE, F.RSRC_LT_CTL_SLEW, F.RSRC_LT_CTL_EN]⟩ v = [(F.RSRC_LT_CTL_EN, F.RSRC_LT_CTL_EN.part v)] := by
    simp only [partsOf, List.filter_cons, List.filter_nil, List.map_cons, List.map_nil, (by decide : (F.RSRC_LT_CTL_MAINS.cls == .live && hooked F.RSRC_LT_CTL_MAINS) = false), (by decide : (F.RSRC_LT_CTL_MISS_MAX.cls == .live && hooked F.RSRC_LT_CTL_MISS_MAX) = false), (by decide : (F.RSRC_LT_CTL_WIN.cls == .live && hooked F.RSRC_LT_CTL_WIN) = false), (by decide : (F.RSRC_LT_CTL_IN_SEL.cls == .live && hooked F.RSRC_LT_CTL_IN_SEL) = false), (by decide : (F.RSRC_LT_CTL_AVG.cls == .live && hooked F.RSRC_LT_CTL_AVG) = false), (by decide : (F.RSRC_LT_CTL_EDGE.cls == .live && hooked F.RSRC_LT_CTL_EDGE) = false), (by decide : (F.RSRC_LT_CTL_SLEW.cls == .live && hooked F.RSRC_LT_CTL_SLEW) = false), (by decide : (F.RSRC_LT_CTL_EN.cls == .live && hooked F.RSRC_LT_CTL_EN) = true), Bool.false_eq_true, if_false, if_true]
  have p2 : partsOf (fun g => g.cls == .cmd) ⟨0x0, false, [F.RSRC_LT_CTL_MAINS, F.RSRC_LT_CTL_MISS_MAX, F.RSRC_LT_CTL_WIN, F.RSRC_LT_CTL_IN_SEL, F.RSRC_LT_CTL_AVG, F.RSRC_LT_CTL_EDGE, F.RSRC_LT_CTL_SLEW, F.RSRC_LT_CTL_EN]⟩ v = [(F.RSRC_LT_CTL_MAINS, F.RSRC_LT_CTL_MAINS.part v)] := by
    simp only [partsOf, List.filter_cons, List.filter_nil, List.map_cons, List.map_nil, (by decide : (F.RSRC_LT_CTL_MAINS.cls == .cmd) = true), (by decide : (F.RSRC_LT_CTL_MISS_MAX.cls == .cmd) = false), (by decide : (F.RSRC_LT_CTL_WIN.cls == .cmd) = false), (by decide : (F.RSRC_LT_CTL_IN_SEL.cls == .cmd) = false), (by decide : (F.RSRC_LT_CTL_AVG.cls == .cmd) = false), (by decide : (F.RSRC_LT_CTL_EDGE.cls == .cmd) = false), (by decide : (F.RSRC_LT_CTL_SLEW.cls == .cmd) = false), (by decide : (F.RSRC_LT_CTL_EN.cls == .cmd) = false), Bool.false_eq_true, if_false, if_true]
  rw [p1, p2] at h1
  refine ⟨z, fl, h1.trans ?_, h2⟩
  simp only [runHooks, List.foldl_cons, List.foldl_nil, liveHook, cmdHook, (by decide : (F.RSRC_LT_CTL_EN.id == F.RSRC_SCALE_SCALE.id) = false), (by decide : (F.RSRC_LT_CTL_EN.id == F.RSRC_CTL_EN.id) = false), (by decide : (F.RSRC_LT_CTL_EN.id == F.ENC_CTL_EN.id) = false), (by decide : (F.RSRC_LT_CTL_EN.id == F.RSRC_LT_CTL_EN.id) = true), (by decide : (F.RSRC_LT_CTL_MAINS.id == F.RSRC_CMD_CLR.id) = false), (by decide : (F.RSRC_LT_CTL_MAINS.id == F.RSRC_CMD_REANCHOR.id) = false), (by decide : (F.RSRC_LT_CTL_MAINS.id == F.RSRC_CMD_LOAD.id) = false), (by decide : (F.RSRC_LT_CTL_MAINS.id == F.ENC_CMD_ZERO.id) = false), (by decide : (F.RSRC_LT_CTL_MAINS.id == F.ENC_CMD_CLR.id) = false), (by decide : (F.RSRC_LT_CTL_MAINS.id == F.RSRC_LT_CTL_MAINS.id) = true), Bool.false_eq_true, if_false, if_true, ignored_st, done_st] <;> rfl

theorem plyCtlEn_row (v : Nat) : hookRow 32 ⟨0x100000, 0x1000, 64, 5, rowsPlyStepBase⟩ ⟨0x0, false, [F.PLY_CTL_BIND, F.PLY_CTL_STARVE_POL, F.PLY_CTL_ECC_POL, F.PLY_CTL_UNDER_POL, F.PLY_CTL_MODE, F.PLY_CTL_WIDTH, F.PLY_CTL_EN]⟩ v = true := rfl

theorem plyCtlEn_write (o u : Nat) (hu : u < 64) (v : Nat) (hv : v < 2 ^ 32)  (s : State) (hm : mayWrite s o 5) :
    ∃ z fl, writeWord o (F.PLY_CTL_EN.addr u) v s = flagAll o fl ((enable ⟨0x100000, 0x1000, 64, 5, rowsPlyStepBase⟩ u F.PLY_CTL_EN (F.PLY_CTL_EN.part v) (fun par e t => done (plyEn par u e t)) z).2.2) ∧
      RowWrote 32 ⟨0x100000, 0x1000, 64, 5, rowsPlyStepBase⟩ u ⟨0x0, false, [F.PLY_CTL_BIND, F.PLY_CTL_STARVE_POL, F.PLY_CTL_ECC_POL, F.PLY_CTL_UNDER_POL, F.PLY_CTL_MODE, F.PLY_CTL_WIDTH, F.PLY_CTL_EN]⟩ v s z := by
  obtain ⟨z, fl, h1, h2⟩ := word_write ⟨0x100000, 0x1000, 64, 5, rowsPlyStepBase⟩ (List.mem_of_getElem? (i := 11) rfl) ⟨0x0, false, [F.PLY_CTL_BIND, F.PLY_CTL_STARVE_POL, F.PLY_CTL_ECC_POL, F.PLY_CTL_UNDER_POL, F.PLY_CTL_MODE, F.PLY_CTL_WIDTH, F.PLY_CTL_EN]⟩ (List.mem_of_getElem? (i := 0) rfl) v
    (by decide) (plyCtlEn_row v) hv u hu (F.PLY_CTL_EN.addr u) (by simp only [Fld.addr, F.PLY_CTL_EN] <;> omega) o s hm
  have p1 : partsOf (fun g => g.cls == .live && hooked g) ⟨0x0, false, [F.PLY_CTL_BIND, F.PLY_CTL_STARVE_POL, F.PLY_CTL_ECC_POL, F.PLY_CTL_UNDER_POL, F.PLY_CTL_MODE, F.PLY_CTL_WIDTH, F.PLY_CTL_EN]⟩ v = [(F.PLY_CTL_EN, F.PLY_CTL_EN.part v)] := by
    simp only [partsOf, List.filter_cons, List.filter_nil, List.map_cons, List.map_nil, (by decide : (F.PLY_CTL_BIND.cls == .live && hooked F.PLY_CTL_BIND) = false), (by decide : (F.PLY_CTL_STARVE_POL.cls == .live && hooked F.PLY_CTL_STARVE_POL) = false), (by decide : (F.PLY_CTL_ECC_POL.cls == .live && hooked F.PLY_CTL_ECC_POL) = false), (by decide : (F.PLY_CTL_UNDER_POL.cls == .live && hooked F.PLY_CTL_UNDER_POL) = false), (by decide : (F.PLY_CTL_MODE.cls == .live && hooked F.PLY_CTL_MODE) = false), (by decide : (F.PLY_CTL_WIDTH.cls == .live && hooked F.PLY_CTL_WIDTH) = false), (by decide : (F.PLY_CTL_EN.cls == .live && hooked F.PLY_CTL_EN) = true), Bool.false_eq_true, if_false, if_true]
  have p2 : partsOf (fun g => g.cls == .cmd) ⟨0x0, false, [F.PLY_CTL_BIND, F.PLY_CTL_STARVE_POL, F.PLY_CTL_ECC_POL, F.PLY_CTL_UNDER_POL, F.PLY_CTL_MODE, F.PLY_CTL_WIDTH, F.PLY_CTL_EN]⟩ v = [] := by
    simp only [partsOf, List.filter_cons, List.filter_nil, List.map_cons, List.map_nil, (by decide : (F.PLY_CTL_BIND.cls == .cmd) = false), (by decide : (F.PLY_CTL_STARVE_POL.cls == .cmd) = false), (by decide : (F.PLY_CTL_ECC_POL.cls == .cmd) = false), (by decide : (F.PLY_CTL_UNDER_POL.cls == .cmd) = false), (by decide : (F.PLY_CTL_MODE.cls == .cmd) = false), (by decide : (F.PLY_CTL_WIDTH.cls == .cmd) = false), (by decide : (F.PLY_CTL_EN.cls == .cmd) = false), Bool.false_eq_true, if_false, if_true]
  rw [p1, p2] at h1
  refine ⟨z, fl, h1.trans ?_, h2⟩
  simp only [runHooks, List.foldl_cons, List.foldl_nil, liveHook, cmdHook, Bool.false_eq_true, if_false, if_true, ignored_st, done_st] <;> rfl

theorem chnCtlEn_row (v : Nat) : hookRow 32 ⟨0x200000, 0x400, 256, 6, rowsChnCtl⟩ ⟨0x0, false, [F.CHN_CTL_BQ_EN, F.CHN_CTL_LIM_POL, F.CHN_CTL_TYPE, F.CHN_CTL_INTERP, F.CHN_CTL_EN]⟩ v = true := rfl

theorem chnCtlEn_write (o u : Nat) (hu : u < 256) (v : Nat) (hv : v < 2 ^ 32)  (s : State) (hm : mayWrite s o 6) :
    ∃ z fl, writeWord o (F.CHN_CTL_EN.addr u) v s = flagAll o fl ((enable ⟨0x200000, 0x400, 256, 6, rowsChnCtl⟩ u F.CHN_CTL_EN (F.CHN_CTL_EN.part v) (fun par e t => done (chnEnable par u e t)) z).2.2) ∧
      RowWrote 32 ⟨0x200000, 0x400, 256, 6, rowsChnCtl⟩ u ⟨0x0, false, [F.CHN_CTL_BQ_EN, F.CHN_CTL_LIM_POL, F.CHN_CTL_TYPE, F.CHN_CTL_INTERP, F.CHN_CTL_EN]⟩ v s z := by
  obtain ⟨z, fl, h1, h2⟩ := word_write ⟨0x200000, 0x400, 256, 6, rowsChnCtl⟩ (List.mem_of_getElem? (i := 12) rfl) ⟨0x0, false, [F.CHN_CTL_BQ_EN, F.CHN_CTL_LIM_POL, F.CHN_CTL_TYPE, F.CHN_CTL_INTERP, F.CHN_CTL_EN]⟩ (List.mem_of_getElem? (i := 0) rfl) v
    (by decide) (chnCtlEn_row v) hv u hu (F.CHN_CTL_EN.addr u) (by simp only [Fld.addr, F.CHN_CTL_EN] <;> omega) o s hm
  have p1 : partsOf (fun g => g.cls == .live && hooked g) ⟨0x0, false, [F.CHN_CTL_BQ_EN, F.CHN_CTL_LIM_POL, F.CHN_CTL_TYPE, F.CHN_CTL_INTERP, F.CHN_CTL_EN]⟩ v = [(F.CHN_CTL_EN, F.CHN_CTL_EN.part v)] := by
    simp only [partsOf, List.filter_cons, List.filter_nil, List.map_cons, List.map_nil, (by decide : (F.CHN_CTL_BQ_EN.cls == .live && hooked F.CHN_CTL_BQ_EN) = false), (by decide : (F.CHN_CTL_LIM_POL.cls == .live && hooked F.CHN_CTL_LIM_POL) = false), (by decide : (F.CHN_CTL_TYPE.cls == .live && hooked F.CHN_CTL_TYPE) = false), (by decide : (F.CHN_CTL_INTERP.cls == .live && hooked F.CHN_CTL_INTERP) = false), (by decide : (F.CHN_CTL_EN.cls == .live && hooked F.CHN_CTL_EN) = true), Bool.false_eq_true, if_false, if_true]
  have p2 : partsOf (fun g => g.cls == .cmd) ⟨0x0, false, [F.CHN_CTL_BQ_EN, F.CHN_CTL_LIM_POL, F.CHN_CTL_TYPE, F.CHN_CTL_INTERP, F.CHN_CTL_EN]⟩ v = [] := by
    simp only [partsOf, List.filter_cons, List.filter_nil, List.map_cons, List.map_nil, (by decide : (F.CHN_CTL_BQ_EN.cls == .cmd) = false), (by decide : (F.CHN_CTL_LIM_POL.cls == .cmd) = false), (by decide : (F.CHN_CTL_TYPE.cls == .cmd) = false), (by decide : (F.CHN_CTL_INTERP.cls == .cmd) = false), (by decide : (F.CHN_CTL_EN.cls == .cmd) = false), Bool.false_eq_true, if_false, if_true]
  rw [p1, p2] at h1
  refine ⟨z, fl, h1.trans ?_, h2⟩
  simp only [runHooks, List.foldl_cons, List.foldl_nil, liveHook, cmdHook, Bool.false_eq_true, if_false, if_true, ignored_st, done_st] <;> rfl

theorem cnvDacCtlEn_row (v : Nat) : hookRow 32 ⟨0x310000, 0x20, 8, 8, rowsCnvDacCtl⟩ ⟨0x0, false, [F.CNV_DAC_CTL_EN]⟩ v = true := rfl

theorem cnvDacCtlEn_write (o u : Nat) (hu : u < 8) (v : Nat) (hv : v < 2 ^ 32)  (s : State) (hm : mayWrite s o 8) :
    ∃ z fl, writeWord o (F.CNV_DAC_CTL_EN.addr u) v s = flagAll o fl ((enable ⟨0x310000, 0x20, 8, 8, rowsCnvDacCtl⟩ u F.CNV_DAC_CTL_EN (F.CNV_DAC_CTL_EN.part v) (fun par e t => unlessPar (par && e) (fun y => let r := dacEnable u e y; ignored (!r.1) r.2) t) z).2.2) ∧
      RowWrote 32 ⟨0x310000, 0x20, 8, 8, rowsCnvDacCtl⟩ u ⟨0x0, false, [F.CNV_DAC_CTL_EN]⟩ v s z := by
  obtain ⟨z, fl, h1, h2⟩ := word_write ⟨0x310000, 0x20, 8, 8, rowsCnvDacCtl⟩ (List.mem_of_getElem? (i := 16) rfl) ⟨0x0, false, [F.CNV_DAC_CTL_EN]⟩ (List.mem_of_getElem? (i := 0) rfl) v
    (by decide) (cnvDacCtlEn_row v) hv u hu (F.CNV_DAC_CTL_EN.addr u) (by simp only [Fld.addr, F.CNV_DAC_CTL_EN] <;> omega) o s hm
  have p1 : partsOf (fun g => g.cls == .live && hooked g) ⟨0x0, false, [F.CNV_DAC_CTL_EN]⟩ v = [(F.CNV_DAC_CTL_EN, F.CNV_DAC_CTL_EN.part v)] := by
    simp only [partsOf, List.filter_cons, List.filter_nil, List.map_cons, List.map_nil, (by decide : (F.CNV_DAC_CTL_EN.cls == .live && hooked F.CNV_DAC_CTL_EN) = true), Bool.false_eq_true, if_false, if_true]
  have p2 : partsOf (fun g => g.cls == .cmd) ⟨0x0, false, [F.CNV_DAC_CTL_EN]⟩ v = [] := by
    simp only [partsOf, List.filter_cons, List.filter_nil, List.map_cons, List.map_nil, (by decide : (F.CNV_DAC_CTL_EN.cls == .cmd) = false), Bool.false_eq_true, if_false, if_true]
  rw [p1, p2] at h1
  refine ⟨z, fl, h1.trans ?_, h2⟩
  simp only [runHooks, List.foldl_cons, List.foldl_nil, liveHook, cmdHook, (by decide : (F.CNV_DAC_CTL_EN.id == F.CNV_DAC_CTL_EN.id) = true), (by decide : (F.CNV_DAC_CTL_EN.id == F.CNV_ADC_CTL_EN.id) = false), Bool.false_eq_true, if_false, if_true, ignored_st, done_st] <;> rfl

theorem cnvAdcCtlEn_row (v : Nat) : hookRow 32 ⟨0x310100, 0x20, 8, 8, rowsCnvAdcCtl⟩ ⟨0x0, false, [F.CNV_ADC_CTL_PHASE, F.CNV_ADC_CTL_EN]⟩ v = true := rfl

theorem cnvAdcCtlEn_write (o u : Nat) (hu : u < 8) (v : Nat) (hv : v < 2 ^ 32)  (s : State) (hm : mayWrite s o 8) :
    ∃ z fl, writeWord o (F.CNV_ADC_CTL_EN.addr u) v s = flagAll o fl ((enable ⟨0x310100, 0x20, 8, 8, rowsCnvAdcCtl⟩ u F.CNV_ADC_CTL_EN (F.CNV_ADC_CTL_EN.part v) (fun par e t => unlessPar (par && e) (fun y => done (adcEnable u e y)) t) z).2.2) ∧
      RowWrote 32 ⟨0x310100, 0x20, 8, 8, rowsCnvAdcCtl⟩ u ⟨0x0, false, [F.CNV_ADC_CTL_PHASE, F.CNV_ADC_CTL_EN]⟩ v s z := by
  obtain ⟨z, fl, h1, h2⟩ := word_write ⟨0x310100, 0x20, 8, 8, rowsCnvAdcCtl⟩ (List.mem_of_getElem? (i := 17) rfl) ⟨0x0, false, [F.CNV_ADC_CTL_PHASE, F.CNV_ADC_CTL_EN]⟩ (List.mem_of_getElem? (i := 0) rfl) v
    (by decide) (cnvAdcCtlEn_row v) hv u hu (F.CNV_ADC_CTL_EN.addr u) (by simp only [Fld.addr, F.CNV_ADC_CTL_EN] <;> omega) o s hm
  have p1 : partsOf (fun g => g.cls == .live && hooked g) ⟨0x0, false, [F.CNV_ADC_CTL_PHASE, F.CNV_ADC_CTL_EN]⟩ v = [(F.CNV_ADC_CTL_EN, F.CNV_ADC_CTL_EN.part v)] := by
    simp only [partsOf, List.filter_cons, List.filter_nil, List.map_cons, List.map_nil, (by decide : (F.CNV_ADC_CTL_PHASE.cls == .live && hooked F.CNV_ADC_CTL_PHASE) = false), (by decide : (F.CNV_ADC_CTL_EN.cls == .live && hooked F.CNV_ADC_CTL_EN) = true), Bool.false_eq_true, if_false, if_true]
  have p2 : partsOf (fun g => g.cls == .cmd) ⟨0x0, false, [F.CNV_ADC_CTL_PHASE, F.CNV_ADC_CTL_EN]⟩ v = [] := by
    simp only [partsOf, List.filter_cons, List.filter_nil, List.map_cons, List.map_nil, (by decide : (F.CNV_ADC_CTL_PHASE.cls == .cmd) = false), (by decide : (F.CNV_ADC_CTL_EN.cls == .cmd) = false), Bool.false_eq_true, if_false, if_true]
  rw [p1, p2] at h1
  refine ⟨z, fl, h1.trans ?_, h2⟩
  simp only [runHooks, List.foldl_cons, List.foldl_nil, liveHook, cmdHook, (by decide : (F.CNV_ADC_CTL_EN.id == F.CNV_DAC_CTL_EN.id) = false), (by decide : (F.CNV_ADC_CTL_EN.id == F.CNV_ADC_CTL_EN.id) = true), Bool.false_eq_true, if_false, if_true, ignored_st, done_st] <;> rfl

theorem dmdCtlEn_row (v : Nat) : hookRow 32 ⟨0x320000, 0x40, 16, 9, rowsDmdCtl⟩ ⟨0x0, false, [F.DMD_CTL_REF_PLAYER, F.DMD_CTL_IN_UNIT, F.DMD_CTL_REF_MODE, F.DMD_CTL_IN_KIND, F.DMD_CTL_K, F.DMD_CTL_EN]⟩ v = true := rfl

theorem dmdCtlEn_write (o u : Nat) (hu : u < 16) (v : Nat) (hv : v < 2 ^ 32)  (s : State) (hm : mayWrite s o 9) :
    ∃ z fl, writeWord o (F.DMD_CTL_EN.addr u) v s = flagAll o fl ((enable ⟨0x320000, 0x40, 16, 9, rowsDmdCtl⟩ u F.DMD_CTL_EN (F.DMD_CTL_EN.part v) (fun par e t => done (dmdEnable par u e t)) z).2.2) ∧
      RowWrote 32 ⟨0x320000, 0x40, 16, 9, rowsDmdCtl⟩ u ⟨0x0, false, [F.DMD_CTL_REF_PLAYER, F.DMD_CTL_IN_UNIT, F.DMD_CTL_REF_MODE, F.DMD_CTL_IN_KIND, F.DMD_CTL_K, F.DMD_CTL_EN]⟩ v s z := by
  obtain ⟨z, fl, h1, h2⟩ := word_write ⟨0x320000, 0x40, 16, 9, rowsDmdCtl⟩ (List.mem_of_getElem? (i := 18) rfl) ⟨0x0, false, [F.DMD_CTL_REF_PLAYER, F.DMD_CTL_IN_UNIT, F.DMD_CTL_REF_MODE, F.DMD_CTL_IN_KIND, F.DMD_CTL_K, F.DMD_CTL_EN]⟩ (List.mem_of_getElem? (i := 0) rfl) v
    (by decide) (dmdCtlEn_row v) hv u hu (F.DMD_CTL_EN.addr u) (by simp only [Fld.addr, F.DMD_CTL_EN] <;> omega) o s hm
  have p1 : partsOf (fun g => g.cls == .live && hooked g) ⟨0x0, false, [F.DMD_CTL_REF_PLAYER, F.DMD_CTL_IN_UNIT, F.DMD_CTL_REF_MODE, F.DMD_CTL_IN_KIND, F.DMD_CTL_K, F.DMD_CTL_EN]⟩ v = [(F.DMD_CTL_EN, F.DMD_CTL_EN.part v)] := by
    simp only [partsOf, List.filter_cons, List.filter_nil, List.map_cons, List.map_nil, (by decide : (F.DMD_CTL_REF_PLAYER.cls == .live && hooked F.DMD_CTL_REF_PLAYER) = false), (by decide : (F.DMD_CTL_IN_UNIT.cls == .live && hooked F.DMD_CTL_IN_UNIT) = false), (by decide : (F.DMD_CTL_REF_MODE.cls == .live && hooked F.DMD_CTL_REF_MODE) = false), (by decide : (F.DMD_CTL_IN_KIND.cls == .live && hooked F.DMD_CTL_IN_KIND) = false), (by decide : (F.DMD_CTL_K.cls == .live && hooked F.DMD_CTL_K) = false), (by decide : (F.DMD_CTL_EN.cls == .live && hooked F.DMD_CTL_EN) = true), Bool.false_eq_true, if_false, if_true]
  have p2 : partsOf (fun g => g.cls == .cmd) ⟨0x0, false, [F.DMD_CTL_REF_PLAYER, F.DMD_CTL_IN_UNIT, F.DMD_CTL_REF_MODE, F.DMD_CTL_IN_KIND, F.DMD_CTL_K, F.DMD_CTL_EN]⟩ v = [] := by
    simp only [partsOf, List.filter_cons, List.filter_nil, List.map_cons, List.map_nil, (by decide : (F.DMD_CTL_REF_PLAYER.cls == .cmd) = false), (by decide : (F.DMD_CTL_IN_UNIT.cls == .cmd) = false), (by decide : (F.DMD_CTL_REF_MODE.cls == .cmd) = false), (by decide : (F.DMD_CTL_IN_KIND.cls == .cmd) = false), (by decide : (F.DMD_CTL_K.cls == .cmd) = false), (by decide : (F.DMD_CTL_EN.cls == .cmd) = false), Bool.false_eq_true, if_false, if_true]
  rw [p1, p2] at h1
  refine ⟨z, fl, h1.trans ?_, h2⟩
  simp only [runHooks, List.foldl_cons, List.foldl_nil, liveHook, cmdHook, Bool.false_eq_true, if_false, if_true, ignored_st, done_st] <;> rfl

theorem capCtlEn_row (v : Nat) : hookRow 32 ⟨0x330000, 0x40, 32, 10, rowsCapCtl⟩ ⟨0x0, false, [F.CAP_CTL_TAG_PLAYER, F.CAP_CTL_TAG, F.CAP_CTL_DEC_MODE, F.CAP_CTL_GATE, F.CAP_CTL_UNIT, F.CAP_CTL_KIND, F.CAP_CTL_EN]⟩ v = true := rfl

theorem capCtlEn_write (o u : Nat) (hu : u < 32) (v : Nat) (hv : v < 2 ^ 32)  (s : State) (hm : mayWrite s o 10) :
    ∃ z fl, writeWord o (F.CAP_CTL_EN.addr u) v s = flagAll o fl ((enable ⟨0x330000, 0x40, 32, 10, rowsCapCtl⟩ u F.CAP_CTL_EN (F.CAP_CTL_EN.part v) (fun par e t => done (capEnable par u e t)) z).2.2) ∧
      RowWrote 32 ⟨0x330000, 0x40, 32, 10, rowsCapCtl⟩ u ⟨0x0, false, [F.CAP_CTL_TAG_PLAYER, F.CAP_CTL_TAG, F.CAP_CTL_DEC_MODE, F.CAP_CTL_GATE, F.CAP_CTL_UNIT, F.CAP_CTL_KIND, F.CAP_CTL_EN]⟩ v s z := by
  obtain ⟨z, fl, h1, h2⟩ := word_write ⟨0x330000, 0x40, 32, 10, rowsCapCtl⟩ (List.mem_of_getElem? (i := 19) rfl) ⟨0x0, false, [F.CAP_CTL_TAG_PLAYER, F.CAP_CTL_TAG, F.CAP_CTL_DEC_MODE, F.CAP_CTL_GATE, F.CAP_CTL_UNIT, F.CAP_CTL_KIND, F.CAP_CTL_EN]⟩ (List.mem_of_getElem? (i := 0) rfl) v
    (by decide) (capCtlEn_row v) hv u hu (F.CAP_CTL_EN.addr u) (by simp only [Fld.addr, F.CAP_CTL_EN] <;> omega) o s hm
  have p1 : partsOf (fun g => g.cls == .live && hooked g) ⟨0x0, false, [F.CAP_CTL_TAG_PLAYER, F.CAP_CTL_TAG, F.CAP_CTL_DEC_MODE, F.CAP_CTL_GATE, F.CAP_CTL_UNIT, F.CAP_CTL_KIND, F.CAP_CTL_EN]⟩ v = [(F.CAP_CTL_EN, F.CAP_CTL_EN.part v)] := by
    simp only [partsOf, List.filter_cons, List.filter_nil, List.map_cons, List.map_nil, (by decide : (F.CAP_CTL_TAG_PLAYER.cls == .live && hooked F.CAP_CTL_TAG_PLAYER) = false), (by decide : (F.CAP_CTL_TAG.cls == .live && hooked F.CAP_CTL_TAG) = false), (by decide : (F.CAP_CTL_DEC_MODE.cls == .live && hooked F.CAP_CTL_DEC_MODE) = false), (by decide : (F.CAP_CTL_GATE.cls == .live && hooked F.CAP_CTL_GATE) = false), (by decide : (F.CAP_CTL_UNIT.cls == .live && hooked F.CAP_CTL_UNIT) = false), (by decide : (F.CAP_CTL_KIND.cls == .live && hooked F.CAP_CTL_KIND) = false), (by decide : (F.CAP_CTL_EN.cls == .live && hooked F.CAP_CTL_EN) = true), Bool.false_eq_true, if_false, if_true]
  have p2 : partsOf (fun g => g.cls == .cmd) ⟨0x0, false, [F.CAP_CTL_TAG_PLAYER, F.CAP_CTL_TAG, F.CAP_CTL_DEC_MODE, F.CAP_CTL_GATE, F.CAP_CTL_UNIT, F.CAP_CTL_KIND, F.CAP_CTL_EN]⟩ v = [] := by
    simp only [partsOf, List.filter_cons, List.filter_nil, List.map_cons, List.map_nil, (by decide : (F.CAP_CTL_TAG_PLAYER.cls == .cmd) = false), (by decide : (F.CAP_CTL_TAG.cls == .cmd) = false), (by decide : (F.CAP_CTL_DEC_MODE.cls == .cmd) = false), (by decide : (F.CAP_CTL_GATE.cls == .cmd) = false), (by decide : (F.CAP_CTL_UNIT.cls == .cmd) = false), (by decide : (F.CAP_CTL_KIND.cls == .cmd) = false), (by decide : (F.CAP_CTL_EN.cls == .cmd) = false), Bool.false_eq_true, if_false, if_true]
  rw [p1, p2] at h1
  refine ⟨z, fl, h1.trans ?_, h2⟩
  simp only [runHooks, List.foldl_cons, List.foldl_nil, liveHook, cmdHook, Bool.false_eq_true, if_false, if_true, ignored_st, done_st] <;> rfl

theorem refCtlEn_row (v : Nat) : hookRow 32 ⟨0x700000, 0x80, 8, 14, rowsRefCtl⟩ ⟨0x0, false, [F.REF_CTL_PAIR, F.REF_CTL_PLAYER, F.REF_CTL_WD_POL, F.REF_CTL_LIM_POL, F.REF_CTL_CYCLIC, F.REF_CTL_WORD, F.REF_CTL_EN]⟩ v = true := rfl

theorem refCtlEn_write (o u : Nat) (hu : u < 8) (v : Nat) (hv : v < 2 ^ 32)  (s : State) (hm : mayWrite s o 14) :
    ∃ z fl, writeWord o (F.REF_CTL_EN.addr u) v s = flagAll o fl ((enable ⟨0x700000, 0x80, 8, 14, rowsRefCtl⟩ u F.REF_CTL_EN (F.REF_CTL_EN.part v) (fun par e t => done (laneEnable par u e t)) z).2.2) ∧
      RowWrote 32 ⟨0x700000, 0x80, 8, 14, rowsRefCtl⟩ u ⟨0x0, false, [F.REF_CTL_PAIR, F.REF_CTL_PLAYER, F.REF_CTL_WD_POL, F.REF_CTL_LIM_POL, F.REF_CTL_CYCLIC, F.REF_CTL_WORD, F.REF_CTL_EN]⟩ v s z := by
  obtain ⟨z, fl, h1, h2⟩ := word_write ⟨0x700000, 0x80, 8, 14, rowsRefCtl⟩ (List.mem_of_getElem? (i := 33) rfl) ⟨0x0, false, [F.REF_CTL_PAIR, F.REF_CTL_PLAYER, F.REF_CTL_WD_POL, F.REF_CTL_LIM_POL, F.REF_CTL_CYCLIC, F.REF_CTL_WORD, F.REF_CTL_EN]⟩ (List.mem_of_getElem? (i := 0) rfl) v
    (by decide) (refCtlEn_row v) hv u hu (F.REF_CTL_EN.addr u) (by simp only [Fld.addr, F.REF_CTL_EN] <;> omega) o s hm
  have p1 : partsOf (fun g => g.cls == .live && hooked g) ⟨0x0, false, [F.REF_CTL_PAIR, F.REF_CTL_PLAYER, F.REF_CTL_WD_POL, F.REF_CTL_LIM_POL, F.REF_CTL_CYCLIC, F.REF_CTL_WORD, F.REF_CTL_EN]⟩ v = [(F.REF_CTL_EN, F.REF_CTL_EN.part v)] := by
    simp only [partsOf, List.filter_cons, List.filter_nil, List.map_cons, List.map_nil, (by decide : (F.REF_CTL_PAIR.cls == .live && hooked F.REF_CTL_PAIR) = false), (by decide : (F.REF_CTL_PLAYER.cls == .live && hooked F.REF_CTL_PLAYER) = false), (by decide : (F.REF_CTL_WD_POL.cls == .live && hooked F.REF_CTL_WD_POL) = false), (by decide : (F.REF_CTL_LIM_POL.cls == .live && hooked F.REF_CTL_LIM_POL) = false), (by decide : (F.REF_CTL_CYCLIC.cls == .live && hooked F.REF_CTL_CYCLIC) = false), (by decide : (F.REF_CTL_WORD.cls == .live && hooked F.REF_CTL_WORD) = false), (by decide : (F.REF_CTL_EN.cls == .live && hooked F.REF_CTL_EN) = true), Bool.false_eq_true, if_false, if_true]
  have p2 : partsOf (fun g => g.cls == .cmd) ⟨0x0, false, [F.REF_CTL_PAIR, F.REF_CTL_PLAYER, F.REF_CTL_WD_POL, F.REF_CTL_LIM_POL, F.REF_CTL_CYCLIC, F.REF_CTL_WORD, F.REF_CTL_EN]⟩ v = [] := by
    simp only [partsOf, List.filter_cons, List.filter_nil, List.map_cons, List.map_nil, (by decide : (F.REF_CTL_PAIR.cls == .cmd) = false), (by decide : (F.REF_CTL_PLAYER.cls == .cmd) = false), (by decide : (F.REF_CTL_WD_POL.cls == .cmd) = false), (by decide : (F.REF_CTL_LIM_POL.cls == .cmd) = false), (by decide : (F.REF_CTL_CYCLIC.cls == .cmd) = false), (by decide : (F.REF_CTL_WORD.cls == .cmd) = false), (by decide : (F.REF_CTL_EN.cls == .cmd) = false), Bool.false_eq_true, if_false, if_true]
  rw [p1, p2] at h1
  refine ⟨z, fl, h1.trans ?_, h2⟩
  simp only [runHooks, List.foldl_cons, List.foldl_nil, liveHook, cmdHook, Bool.false_eq_true, if_false, if_true, ignored_st, done_st] <;> rfl

theorem brnCtlEn_row (v : Nat) : hookRow 32 ⟨0x40000, 0x40, 128, 4, rowsBrnCtl⟩ ⟨0x0, false, [F.BRN_CTL_B, F.BRN_CTL_A, F.BRN_CTL_WR_SIDE, F.BRN_CTL_DEEP, F.BRN_CTL_EN]⟩ v = true := rfl

theorem brnCtlEn_write (o u : Nat) (hu : u < 128) (v : Nat) (hv : v < 2 ^ 32)  (s : State) (hm : mayWrite s o 4) :
    ∃ z fl, writeWord o (F.BRN_CTL_EN.addr u) v s = flagAll o fl ((enable ⟨0x40000, 0x40, 128, 4, rowsBrnCtl⟩ u F.BRN_CTL_EN (F.BRN_CTL_EN.part v) (fun par e t => let r := qEnable par u e t; ignored r.1 r.2) z).2.2) ∧
      RowWrote 32 ⟨0x40000, 0x40, 128, 4, rowsBrnCtl⟩ u ⟨0x0, false, [F.BRN_CTL_B, F.BRN_CTL_A, F.BRN_CTL_WR_SIDE, F.BRN_CTL_DEEP, F.BRN_CTL_EN]⟩ v s z := by
  obtain ⟨z, fl, h1, h2⟩ := word_write ⟨0x40000, 0x40, 128, 4, rowsBrnCtl⟩ (List.mem_of_getElem? (i := 10) rfl) ⟨0x0, false, [F.BRN_CTL_B, F.BRN_CTL_A, F.BRN_CTL_WR_SIDE, F.BRN_CTL_DEEP, F.BRN_CTL_EN]⟩ (List.mem_of_getElem? (i := 0) rfl) v
    (by decide) (brnCtlEn_row v) hv u hu (F.BRN_CTL_EN.addr u) (by simp only [Fld.addr, F.BRN_CTL_EN] <;> omega) o s hm
  have p1 : partsOf (fun g => g.cls == .live && hooked g) ⟨0x0, false, [F.BRN_CTL_B, F.BRN_CTL_A, F.BRN_CTL_WR_SIDE, F.BRN_CTL_DEEP, F.BRN_CTL_EN]⟩ v = [(F.BRN_CTL_EN, F.BRN_CTL_EN.part v)] := by
    simp only [partsOf, List.filter_cons, List.filter_nil, List.map_cons, List.map_nil, (by decide : (F.BRN_CTL_B.cls == .live && hooked F.BRN_CTL_B) = false), (by decide : (F.BRN_CTL_A.cls == .live && hooked F.BRN_CTL_A) = false), (by decide : (F.BRN_CTL_WR_SIDE.cls == .live && hooked F.BRN_CTL_WR_SIDE) = false), (by decide : (F.BRN_CTL_DEEP.cls == .live && hooked F.BRN_CTL_DEEP) = false), (by decide : (F.BRN_CTL_EN.cls == .live && hooked F.BRN_CTL_EN) = true), Bool.false_eq_true, if_false, if_true]
  have p2 : partsOf (fun g => g.cls == .cmd) ⟨0x0, false, [F.BRN_CTL_B, F.BRN_CTL_A, F.BRN_CTL_WR_SIDE, F.BRN_CTL_DEEP, F.BRN_CTL_EN]⟩ v = [] := by
    simp only [partsOf, List.filter_cons, List.filter_nil, List.map_cons, List.map_nil, (by decide : (F.BRN_CTL_B.cls == .cmd) = false), (by decide : (F.BRN_CTL_A.cls == .cmd) = false), (by decide : (F.BRN_CTL_WR_SIDE.cls == .cmd) = false), (by decide : (F.BRN_CTL_DEEP.cls == .cmd) = false), (by decide : (F.BRN_CTL_EN.cls == .cmd) = false), Bool.false_eq_true, if_false, if_true]
  rw [p1, p2] at h1
  refine ⟨z, fl, h1.trans ?_, h2⟩
  simp only [runHooks, List.foldl_cons, List.foldl_nil, liveHook, cmdHook, (by decide : (F.BRN_CTL_EN.id == F.BRN_CTL_EN.id) = true), (by decide : (F.BRN_CTL_EN.id == F.BRN_LVL_SENSE.id) = false), (by decide : (F.BRN_CTL_EN.id == F.BRN_LVL_LEVEL.id) = false), (by decide : (F.BRN_CTL_EN.id == F.BRN_NOTE_ACK.id) = false), Bool.false_eq_true, if_false, if_true, ignored_st, done_st] <;> rfl

theorem brnLvlLevel_row (v : Nat) : hookRow 32 ⟨0x40000, 0x40, 128, 4, rowsBrnCtl⟩ ⟨0xc, false, [F.BRN_LVL_SENSE, F.BRN_LVL_LEVEL]⟩ v = true := rfl

theorem brnLvlLevel_write (o u : Nat) (hu : u < 128) (v : Nat) (hv : v < 2 ^ 32)  (s : State) (hm : mayWrite s o 4) :
    ∃ z fl, writeWord o (F.BRN_LVL_LEVEL.addr u) v s = flagAll o fl ((let t := qLevel u (F.BRN_LVL_SENSE.part v) (z.rd F.BRN_LVL_LEVEL u) z; qLevel u (t.rd F.BRN_LVL_SENSE u) (F.BRN_LVL_LEVEL.part v) t)) ∧
      RowWrote 32 ⟨0x40000, 0x40, 128, 4, rowsBrnCtl⟩ u ⟨0xc, false, [F.BRN_LVL_SENSE, F.BRN_LVL_LEVEL]⟩ v s z := by
  obtain ⟨z, fl, h1, h2⟩ := word_write ⟨0x40000, 0x40, 128, 4, rowsBrnCtl⟩ (List.mem_of_getElem? (i := 10) rfl) ⟨0xc, false, [F.BRN_LVL_SENSE, F.BRN_LVL_LEVEL]⟩ (List.mem_of_getElem? (i := 3) rfl) v
    (by decide) (brnLvlLevel_row v) hv u hu (F.BRN_LVL_LEVEL.addr u) (by simp only [Fld.addr, F.BRN_LVL_LEVEL] <;> omega) o s hm
  have p1 : partsOf (fun g => g.cls == .live && hooked g) ⟨0xc, false, [F.BRN_LVL_SENSE, F.BRN_LVL_LEVEL]⟩ v = [(F.BRN_LVL_SENSE, F.BRN_LVL_SENSE.part v), (F.BRN_LVL_LEVEL, F.BRN_LVL_LEVEL.part v)] := by
    simp only [partsOf, List.filter_cons, List.filter_nil, List.map_cons, List.map_nil, (by decide : (F.BRN_LVL_SENSE.cls == .live && hooked F.BRN_LVL_SENSE) = true), (by decide : (F.BRN_LVL_LEVEL.cls == .live && hooked F.BRN_LVL_LEVEL) = true), Bool.false_eq_true, if_false, if_true]
  have p2 : partsOf (fun g => g.cls == .cmd) ⟨0xc, false, [F.BRN_LVL_SENSE, F.BRN_LVL_LEVEL]⟩ v = [] := by
    simp only [partsOf, List.filter_cons, List.filter_nil, List.map_cons, List.map_nil, (by decide : (F.BRN_LVL_SENSE.cls == .cmd) = false), (by decide : (F.BRN_LVL_LEVEL.cls == .cmd) = false), Bool.false_eq_true, if_false, if_true]
  rw [p1, p2] at h1
  refine ⟨z, fl, h1.trans ?_, h2⟩
  simp only [runHooks, List.foldl_cons, List.foldl_nil, liveHook, cmdHook, (by decide : (F.BRN_LVL_SENSE.id == F.BRN_CTL_EN.id) = false), (by decide : (F.BRN_LVL_SENSE.id == F.BRN_LVL_SENSE.id) = true), (by decide : (F.BRN_LVL_SENSE.id == F.BRN_LVL_LEVEL.id) = false), (by decide : (F.BRN_LVL_SENSE.id == F.BRN_NOTE_ACK.id) = false), (by decide : (F.BRN_LVL_LEVEL.id == F.BRN_CTL_EN.id) = false), (by decide : (F.BRN_LVL_LEVEL.id == F.BRN_LVL_SENSE.id) = false), (by decide : (F.BRN_LVL_LEVEL.id == F.BRN_LVL_LEVEL.id) = true), (by decide : (F.BRN_LVL_LEVEL.id == F.BRN_NOTE_ACK.id) = false), Bool.false_eq_true, if_false, if_true, ignored_st, done_st] <;> rfl

theorem brnNoteAck_row (v : Nat) : hookRow 32 ⟨0x40000, 0x40, 128, 4, rowsBrnCtl⟩ ⟨0x10, false, [F.BRN_NOTE_ACK, F.BRN_NOTE_XCNT]⟩ v = true := rfl

theorem brnNoteAck_write (o u : Nat) (hu : u < 128) (v : Nat) (hv : v < 2 ^ 32)  (s : State) (hm : mayWrite s o 4) :
    ∃ z fl, writeWord o (F.BRN_NOTE_ACK.addr u) v s = flagAll o fl (qAck u (F.BRN_NOTE_ACK.part v) z) ∧
      RowWrote 32 ⟨0x40000, 0x40, 128, 4, rowsBrnCtl⟩ u ⟨0x10, false, [F.BRN_NOTE_ACK, F.BRN_NOTE_XCNT]⟩ v s z := by
  obtain ⟨z, fl, h1, h2⟩ := word_write ⟨0x40000, 0x40, 128, 4, rowsBrnCtl⟩ (List.mem_of_getElem? (i := 10) rfl) ⟨0x10, false, [F.BRN_NOTE_ACK, F.BRN_NOTE_XCNT]⟩ (List.mem_of_getElem? (i := 4) rfl) v
    (by decide) (brnNoteAck_row v) hv u hu (F.BRN_NOTE_ACK.addr u) (by simp only [Fld.addr, F.BRN_NOTE_ACK] <;> omega) o s hm
  have p1 : partsOf (fun g => g.cls == .live && hooked g) ⟨0x10, false, [F.BRN_NOTE_ACK, F.BRN_NOTE_XCNT]⟩ v = [(F.BRN_NOTE_ACK, F.BRN_NOTE_ACK.part v)] := by
    simp only [partsOf, List.filter_cons, List.filter_nil, List.map_cons, List.map_nil, (by decide : (F.BRN_NOTE_ACK.cls == .live && hooked F.BRN_NOTE_ACK) = true), (by decide : (F.BRN_NOTE_XCNT.cls == .live && hooked F.BRN_NOTE_XCNT) = false), Bool.false_eq_true, if_false, if_true]
  have p2 : partsOf (fun g => g.cls == .cmd) ⟨0x10, false, [F.BRN_NOTE_ACK, F.BRN_NOTE_XCNT]⟩ v = [] := by
    simp only [partsOf, List.filter_cons, List.filter_nil, List.map_cons, List.map_nil, (by decide : (F.BRN_NOTE_ACK.cls == .cmd) = false), (by decide : (F.BRN_NOTE_XCNT.cls == .cmd) = false), Bool.false_eq_true, if_false, if_true]
  rw [p1, p2] at h1
  refine ⟨z, fl, h1.trans ?_, h2⟩
  simp only [runHooks, List.foldl_cons, List.foldl_nil, liveHook, cmdHook, (by decide : (F.BRN_NOTE_ACK.id == F.BRN_CTL_EN.id) = false), (by decide : (F.BRN_NOTE_ACK.id == F.BRN_LVL_SENSE.id) = false), (by decide : (F.BRN_NOTE_ACK.id == F.BRN_LVL_LEVEL.id) = false), (by decide : (F.BRN_NOTE_ACK.id == F.BRN_NOTE_ACK.id) = true), Bool.false_eq_true, if_false, if_true, ignored_st, done_st] <;> rfl

theorem flmOlCtlEn_row (v : Nat) : hookRow 32 ⟨0x400000, 0x40, 16, 11, rowsFlmOlCtl⟩ ⟨0x0, false, [F.FLM_OL_CTL_TRAIN_SF, F.FLM_OL_CTL_ORDER, F.FLM_OL_CTL_MARK_EN, F.FLM_OL_CTL_MPLAYER, F.FLM_OL_CTL_RATE, F.FLM_OL_CTL_EN]⟩ v = true := rfl

theorem flmOlCtlEn_write (o u : Nat) (hu : u < 16) (v : Nat) (hv : v < 2 ^ 32)  (s : State) (hm : mayWrite s o 11) :
    ∃ z fl, writeWord o (F.FLM_OL_CTL_EN.addr u) v s = flagAll o fl ((enable ⟨0x400000, 0x40, 16, 11, rowsFlmOlCtl⟩ u F.FLM_OL_CTL_EN (F.FLM_OL_CTL_EN.part v) (fun par e t => let r := olEnable par u e t; ignored r.1 r.2) z).2.2) ∧
      RowWrote 32 ⟨0x400000, 0x40, 16, 11, rowsFlmOlCtl⟩ u ⟨0x0, false, [F.FLM_OL_CTL_TRAIN_SF, F.FLM_OL_CTL_ORDER, F.FLM_OL_CTL_MARK_EN, F.FLM_OL_CTL_MPLAYER, F.FLM_OL_CTL_RATE, F.FLM_OL_CTL_EN]⟩ v s z := by
  obtain ⟨z, fl, h1, h2⟩ := word_write ⟨0x400000, 0x40, 16, 11, rowsFlmOlCtl⟩ (List.mem_of_getElem? (i := 20) rfl) ⟨0x0, false, [F.FLM_OL_CTL_TRAIN_SF, F.FLM_OL_CTL_ORDER, F.FLM_OL_CTL_MARK_EN, F.FLM_OL_CTL_MPLAYER, F.FLM_OL_CTL_RATE, F.FLM_OL_CTL_EN]⟩ (List.mem_of_getElem? (i := 0) rfl) v
    (by decide) (flmOlCtlEn_row v) hv u hu (F.FLM_OL_CTL_EN.addr u) (by simp only [Fld.addr, F.FLM_OL_CTL_EN] <;> omega) o s hm
  have p1 : partsOf (fun g => g.cls == .live && hooked g) ⟨0x0, false, [F.FLM_OL_CTL_TRAIN_SF, F.FLM_OL_CTL_ORDER, F.FLM_OL_CTL_MARK_EN, F.FLM_OL_CTL_MPLAYER, F.FLM_OL_CTL_RATE, F.FLM_OL_CTL_EN]⟩ v = [(F.FLM_OL_CTL_EN, F.FLM_OL_CTL_EN.part v)] := by
    simp only [partsOf, List.filter_cons, List.filter_nil, List.map_cons, List.map_nil, (by decide : (F.FLM_OL_CTL_TRAIN_SF.cls == .live && hooked F.FLM_OL_CTL_TRAIN_SF) = false), (by decide : (F.FLM_OL_CTL_ORDER.cls == .live && hooked F.FLM_OL_CTL_ORDER) = false), (by decide : (F.FLM_OL_CTL_MARK_EN.cls == .live && hooked F.FLM_OL_CTL_MARK_EN) = false), (by decide : (F.FLM_OL_CTL_MPLAYER.cls == .live && hooked F.FLM_OL_CTL_MPLAYER) = false), (by decide : (F.FLM_OL_CTL_RATE.cls == .live && hooked F.FLM_OL_CTL_RATE) = false), (by decide : (F.FLM_OL_CTL_EN.cls == .live && hooked F.FLM_OL_CTL_EN) = true), Bool.false_eq_true, if_false, if_true]
  have p2 : partsOf (fun g => g.cls == .cmd) ⟨0x0, false, [F.FLM_OL_CTL_TRAIN_SF, F.FLM_OL_CTL_ORDER, F.FLM_OL_CTL_MARK_EN, F.FLM_OL_CTL_MPLAYER, F.FLM_OL_CTL_RATE, F.FLM_OL_CTL_EN]⟩ v = [] := by
    simp only [partsOf, List.filter_cons, List.filter_nil, List.map_cons, List.map_nil, (by decide : (F.FLM_OL_CTL_TRAIN_SF.cls == .cmd) = false), (by decide : (F.FLM_OL_CTL_ORDER.cls == .cmd) = false), (by decide : (F.FLM_OL_CTL_MARK_EN.cls == .cmd) = false), (by decide : (F.FLM_OL_CTL_MPLAYER.cls == .cmd) = false), (by decide : (F.FLM_OL_CTL_RATE.cls == .cmd) = false), (by decide : (F.FLM_OL_CTL_EN.cls == .cmd) = false), Bool.false_eq_true, if_false, if_true]
  rw [p1, p2] at h1
  refine ⟨z, fl, h1.trans ?_, h2⟩
  simp only [runHooks, List.foldl_cons, List.foldl_nil, liveHook, cmdHook, (by decide : (F.FLM_OL_CTL_EN.id == F.FLM_OL_CTL_EN.id) = true), (by decide : (F.FLM_OL_CTL_EN.id == F.FLM_IL_CTL_EN.id) = false), Bool.false_eq_true, if_false, if_true, ignored_st, done_st] <;> rfl

theorem flmIlCtlEn_row (v : Nat) : hookRow 32 ⟨0x401000, 0x40, 8, 11, rowsFlmIlCtl⟩ ⟨0x0, false, [F.FLM_IL_CTL_COMP, F.FLM_IL_CTL_RATE, F.FLM_IL_CTL_EN]⟩ v = true := rfl

theorem flmIlCtlEn_write (o u : Nat) (hu : u < 8) (v : Nat) (hv : v < 2 ^ 32)  (s : State) (hm : mayWrite s o 11) :
    ∃ z fl, writeWord o (F.FLM_IL_CTL_EN.addr u) v s = flagAll o fl ((enable ⟨0x401000, 0x40, 8, 11, rowsFlmIlCtl⟩ u F.FLM_IL_CTL_EN (F.FLM_IL_CTL_EN.part v) (fun par e t => let r := ilEnable par u e t; ignored r.1 r.2) z).2.2) ∧
      RowWrote 32 ⟨0x401000, 0x40, 8, 11, rowsFlmIlCtl⟩ u ⟨0x0, false, [F.FLM_IL_CTL_COMP, F.FLM_IL_CTL_RATE, F.FLM_IL_CTL_EN]⟩ v s z := by
  obtain ⟨z, fl, h1, h2⟩ := word_write ⟨0x401000, 0x40, 8, 11, rowsFlmIlCtl⟩ (List.mem_of_getElem? (i := 21) rfl) ⟨0x0, false, [F.FLM_IL_CTL_COMP, F.FLM_IL_CTL_RATE, F.FLM_IL_CTL_EN]⟩ (List.mem_of_getElem? (i := 0) rfl) v
    (by decide) (flmIlCtlEn_row v) hv u hu (F.FLM_IL_CTL_EN.addr u) (by simp only [Fld.addr, F.FLM_IL_CTL_EN] <;> omega) o s hm
  have p1 : partsOf (fun g => g.cls == .live && hooked g) ⟨0x0, false, [F.FLM_IL_CTL_COMP, F.FLM_IL_CTL_RATE, F.FLM_IL_CTL_EN]⟩ v = [(F.FLM_IL_CTL_EN, F.FLM_IL_CTL_EN.part v)] := by
    simp only [partsOf, List.filter_cons, List.filter_nil, List.map_cons, List.map_nil, (by decide : (F.FLM_IL_CTL_COMP.cls == .live && hooked F.FLM_IL_CTL_COMP) = false), (by decide : (F.FLM_IL_CTL_RATE.cls == .live && hooked F.FLM_IL_CTL_RATE) = false), (by decide : (F.FLM_IL_CTL_EN.cls == .live && hooked F.FLM_IL_CTL_EN) = true), Bool.false_eq_true, if_false, if_true]
  have p2 : partsOf (fun g => g.cls == .cmd) ⟨0x0, false, [F.FLM_IL_CTL_COMP, F.FLM_IL_CTL_RATE, F.FLM_IL_CTL_EN]⟩ v = [] := by
    simp only [partsOf, List.filter_cons, List.filter_nil, List.map_cons, List.map_nil, (by decide : (F.FLM_IL_CTL_COMP.cls == .cmd) = false), (by decide : (F.FLM_IL_CTL_RATE.cls == .cmd) = false), (by decide : (F.FLM_IL_CTL_EN.cls == .cmd) = false), Bool.false_eq_true, if_false, if_true]
  rw [p1, p2] at h1
  refine ⟨z, fl, h1.trans ?_, h2⟩
  simp only [runHooks, List.foldl_cons, List.foldl_nil, liveHook, cmdHook, (by decide : (F.FLM_IL_CTL_EN.id == F.FLM_OL_CTL_EN.id) = false), (by decide : (F.FLM_IL_CTL_EN.id == F.FLM_IL_CTL_EN.id) = true), Bool.false_eq_true, if_false, if_true, ignored_st, done_st] <;> rfl

theorem rakeCtl_row (v : Nat) (hok : 1 ≤ F.RAKE_CTL_FENCE.part v ∧ F.RAKE_CTL_FENCE.part v ≤ 64) : hookRow 32 ⟨0x500000, 0x1000000, 1, 12, rowsRakeCtl⟩ ⟨0x0, false, [F.RAKE_CTL_FENCE, F.RAKE_CTL_ROLE, F.RAKE_CTL_AUTO_ENUM, F.RAKE_CTL_EN]⟩ v = true := by
  have h : F.RAKE_CTL_FENCE.ok (F.RAKE_CTL_FENCE.part v) = true := decide_eq_true hok
  simp only [hookRow, List.all_cons, List.all_nil, h, Bool.and_true, Bool.or_true]
  rfl

theorem rakeCtlEn_write (o : Nat) (v : Nat) (hv : v < 2 ^ 32) (hok : 1 ≤ F.RAKE_CTL_FENCE.part v ∧ F.RAKE_CTL_FENCE.part v ≤ 64) (s : State) (hm : mayWrite s o 12) :
    ∃ z fl, writeWord o (F.RAKE_CTL_EN.addr 0) v s = flagAll o fl ((enable ⟨0x500000, 0x1000000, 1, 12, rowsRakeCtl⟩ 0 F.RAKE_CTL_EN (F.RAKE_CTL_EN.part v) (fun par e t => unlessPar (par && e) (fun y => done (rkEnable e y)) t) (fenceWrite (F.RAKE_CTL_FENCE.part v) z).2).2.2) ∧
      RowWrote 32 ⟨0x500000, 0x1000000, 1, 12, rowsRakeCtl⟩ 0 ⟨0x0, false, [F.RAKE_CTL_FENCE, F.RAKE_CTL_ROLE, F.RAKE_CTL_AUTO_ENUM, F.RAKE_CTL_EN]⟩ v s z := by
  obtain ⟨z, fl, h1, h2⟩ := word_write ⟨0x500000, 0x1000000, 1, 12, rowsRakeCtl⟩ (List.mem_of_getElem? (i := 22) rfl) ⟨0x0, false, [F.RAKE_CTL_FENCE, F.RAKE_CTL_ROLE, F.RAKE_CTL_AUTO_ENUM, F.RAKE_CTL_EN]⟩ (List.mem_of_getElem? (i := 0) rfl) v
    (by decide) (rakeCtl_row v hok) hv 0 (by decide) (F.RAKE_CTL_EN.addr 0) (by simp only [Fld.addr, F.RAKE_CTL_EN] <;> omega) o s hm
  have p1 : partsOf (fun g => g.cls == .live && hooked g) ⟨0x0, false, [F.RAKE_CTL_FENCE, F.RAKE_CTL_ROLE, F.RAKE_CTL_AUTO_ENUM, F.RAKE_CTL_EN]⟩ v = [(F.RAKE_CTL_FENCE, F.RAKE_CTL_FENCE.part v), (F.RAKE_CTL_EN, F.RAKE_CTL_EN.part v)] := by
    simp only [partsOf, List.filter_cons, List.filter_nil, List.map_cons, List.map_nil, (by decide : (F.RAKE_CTL_FENCE.cls == .live && hooked F.RAKE_CTL_FENCE) = true), (by decide : (F.RAKE_CTL_ROLE.cls == .live && hooked F.RAKE_CTL_ROLE) = false), (by decide : (F.RAKE_CTL_AUTO_ENUM.cls == .live && hooked F.RAKE_CTL_AUTO_ENUM) = false), (by decide : (F.RAKE_CTL_EN.cls == .live && hooked F.RAKE_CTL_EN) = true), Bool.false_eq_true, if_false, if_true]
  have p2 : partsOf (fun g => g.cls == .cmd) ⟨0x0, false, [F.RAKE_CTL_FENCE, F.RAKE_CTL_ROLE, F.RAKE_CTL_AUTO_ENUM, F.RAKE_CTL_EN]⟩ v = [] := by
    simp only [partsOf, List.filter_cons, List.filter_nil, List.map_cons, List.map_nil, (by decide : (F.RAKE_CTL_FENCE.cls == .cmd) = false), (by decide : (F.RAKE_CTL_ROLE.cls == .cmd) = false), (by decide : (F.RAKE_CTL_AUTO_ENUM.cls == .cmd) = false), (by decide : (F.RAKE_CTL_EN.cls == .cmd) = false), Bool.false_eq_true, if_false, if_true]
  rw [p1, p2] at h1
  refine ⟨z, fl, h1.trans ?_, h2⟩
  simp only [runHooks, List.foldl_cons, List.foldl_nil, liveHook, cmdHook, (by decide : (F.RAKE_CTL_FENCE.id == F.RAKE_CTL_FENCE.id) = true), (by decide : (F.RAKE_CTL_FENCE.id == F.RAKE_CTL_EN.id) = false), (by decide : (F.RAKE_CTL_FENCE.id == F.RAKE_P_CTL_EN.id) = false), (by decide : (F.RAKE_CTL_EN.id == F.RAKE_CTL_FENCE.id) = false), (by decide : (F.RAKE_CTL_EN.id == F.RAKE_CTL_EN.id) = true), (by decide : (F.RAKE_CTL_EN.id == F.RAKE_P_CTL_EN.id) = false), Bool.false_eq_true, if_false, if_true, ignored_st, done_st] <;> rfl

theorem rakePCtlEn_row (v : Nat) : hookRow 32 ⟨0x500100, 0x40, 4, 12, rowsRakePCtl⟩ ⟨0x0, false, [F.RAKE_P_CTL_SWING, F.RAKE_P_CTL_EN]⟩ v = true := rfl

theorem rakePCtlEn_write (o u : Nat) (hu : u < 4) (v : Nat) (hv : v < 2 ^ 32)  (s : State) (hm : mayWrite s o 12) :
    ∃ z fl, writeWord o (F.RAKE_P_CTL_EN.addr u) v s = flagAll o fl ((enable ⟨0x500100, 0x40, 4, 12, rowsRakePCtl⟩ u F.RAKE_P_CTL_EN (F.RAKE_P_CTL_EN.part v) (fun par e t => unlessPar (par && e) (fun y => done (rkPortEnable u e y)) t) z).2.2) ∧
      RowWrote 32 ⟨0x500100, 0x40, 4, 12, rowsRakePCtl⟩ u ⟨0x0, false, [F.RAKE_P_CTL_SWING, F.RAKE_P_CTL_EN]⟩ v s z := by
  obtain ⟨z, fl, h1, h2⟩ := word_write ⟨0x500100, 0x40, 4, 12, rowsRakePCtl⟩ (List.mem_of_getElem? (i := 23) rfl) ⟨0x0, false, [F.RAKE_P_CTL_SWING, F.RAKE_P_CTL_EN]⟩ (List.mem_of_getElem? (i := 0) rfl) v
    (by decide) (rakePCtlEn_row v) hv u hu (F.RAKE_P_CTL_EN.addr u) (by simp only [Fld.addr, F.RAKE_P_CTL_EN] <;> omega) o s hm
  have p1 : partsOf (fun g => g.cls == .live && hooked g) ⟨0x0, false, [F.RAKE_P_CTL_SWING, F.RAKE_P_CTL_EN]⟩ v = [(F.RAKE_P_CTL_EN, F.RAKE_P_CTL_EN.part v)] := by
    simp only [partsOf, List.filter_cons, List.filter_nil, List.map_cons, List.map_nil, (by decide : (F.RAKE_P_CTL_SWING.cls == .live && hooked F.RAKE_P_CTL_SWING) = false), (by decide : (F.RAKE_P_CTL_EN.cls == .live && hooked F.RAKE_P_CTL_EN) = true), Bool.false_eq_true, if_false, if_true]
  have p2 : partsOf (fun g => g.cls == .cmd) ⟨0x0, false, [F.RAKE_P_CTL_SWING, F.RAKE_P_CTL_EN]⟩ v = [] := by
    simp only [partsOf, List.filter_cons, List.filter_nil, List.map_cons, List.map_nil, (by decide : (F.RAKE_P_CTL_SWING.cls == .cmd) = false), (by decide : (F.RAKE_P_CTL_EN.cls == .cmd) = false), Bool.false_eq_true, if_false, if_true]
  rw [p1, p2] at h1
  refine ⟨z, fl, h1.trans ?_, h2⟩
  simp only [runHooks, List.foldl_cons, List.foldl_nil, liveHook, cmdHook, (by decide : (F.RAKE_P_CTL_EN.id == F.RAKE_CTL_FENCE.id) = false), (by decide : (F.RAKE_P_CTL_EN.id == F.RAKE_CTL_EN.id) = false), (by decide : (F.RAKE_P_CTL_EN.id == F.RAKE_P_CTL_EN.id) = true), Bool.false_eq_true, if_false, if_true, ignored_st, done_st] <;> rfl

theorem hstSqCtlEn_row (v : Nat) : hookRow 32 ⟨0x600100, 0x20, 32, 13, rowsHstSqCtl⟩ ⟨0x0, false, [F.HST_SQ_CTL_RQ, F.HST_SQ_CTL_SIZE, F.HST_SQ_CTL_EN]⟩ v = true := rfl

theorem hstSqCtlEn_write (o u : Nat) (hu : u < 32) (v : Nat) (hv : v < 2 ^ 32)  (s : State) (hm : mayWrite s o 13) :
    ∃ z fl, writeWord o (F.HST_SQ_CTL_EN.addr u) v s = flagAll o fl ((enable ⟨0x600100, 0x20, 32, 13, rowsHstSqCtl⟩ u F.HST_SQ_CTL_EN (F.HST_SQ_CTL_EN.part v) (fun par e t => unlessPar (par && e) (fun y => done (sqEnable u e y)) t) z).2.2) ∧
      RowWrote 32 ⟨0x600100, 0x20, 32, 13, rowsHstSqCtl⟩ u ⟨0x0, false, [F.HST_SQ_CTL_RQ, F.HST_SQ_CTL_SIZE, F.HST_SQ_CTL_EN]⟩ v s z := by
  obtain ⟨z, fl, h1, h2⟩ := word_write ⟨0x600100, 0x20, 32, 13, rowsHstSqCtl⟩ (List.mem_of_getElem? (i := 28) rfl) ⟨0x0, false, [F.HST_SQ_CTL_RQ, F.HST_SQ_CTL_SIZE, F.HST_SQ_CTL_EN]⟩ (List.mem_of_getElem? (i := 0) rfl) v
    (by decide) (hstSqCtlEn_row v) hv u hu (F.HST_SQ_CTL_EN.addr u) (by simp only [Fld.addr, F.HST_SQ_CTL_EN] <;> omega) o s hm
  have p1 : partsOf (fun g => g.cls == .live && hooked g) ⟨0x0, false, [F.HST_SQ_CTL_RQ, F.HST_SQ_CTL_SIZE, F.HST_SQ_CTL_EN]⟩ v = [(F.HST_SQ_CTL_EN, F.HST_SQ_CTL_EN.part v)] := by
    simp only [partsOf, List.filter_cons, List.filter_nil, List.map_cons, List.map_nil, (by decide : (F.HST_SQ_CTL_RQ.cls == .live && hooked F.HST_SQ_CTL_RQ) = false), (by decide : (F.HST_SQ_CTL_SIZE.cls == .live && hooked F.HST_SQ_CTL_SIZE) = false), (by decide : (F.HST_SQ_CTL_EN.cls == .live && hooked F.HST_SQ_CTL_EN) = true), Bool.false_eq_true, if_false, if_true]
  have p2 : partsOf (fun g => g.cls == .cmd) ⟨0x0, false, [F.HST_SQ_CTL_RQ, F.HST_SQ_CTL_SIZE, F.HST_SQ_CTL_EN]⟩ v = [] := by
    simp only [partsOf, List.filter_cons, List.filter_nil, List.map_cons, List.map_nil, (by decide : (F.HST_SQ_CTL_RQ.cls == .cmd) = false), (by decide : (F.HST_SQ_CTL_SIZE.cls == .cmd) = false), (by decide : (F.HST_SQ_CTL_EN.cls == .cmd) = false), Bool.false_eq_true, if_false, if_true]
  rw [p1, p2] at h1
  refine ⟨z, fl, h1.trans ?_, h2⟩
  simp only [runHooks, List.foldl_cons, List.foldl_nil, liveHook, cmdHook, (by decide : (F.HST_SQ_CTL_EN.id == F.HST_SQ_CTL_EN.id) = true), (by decide : (F.HST_SQ_CTL_EN.id == F.HST_RQ_CTL_EN.id) = false), (by decide : (F.HST_SQ_CTL_EN.id == F.HST_XR_CTL_EN.id) = false), (by decide : (F.HST_SQ_CTL_EN.id == F.HST_BAR2_BASE_BASE.id) = false), Bool.false_eq_true, if_false, if_true, ignored_st, done_st] <;> rfl

theorem hstRqCtlEn_row (v : Nat) : hookRow 32 ⟨0x600500, 0x20, 32, 13, rowsHstRqCtl⟩ ⟨0x0, false, [F.HST_RQ_CTL_VEC, F.HST_RQ_CTL_HOLDOFF, F.HST_RQ_CTL_SIZE, F.HST_RQ_CTL_EN]⟩ v = true := rfl

theorem hstRqCtlEn_write (o u : Nat) (hu : u < 32) (v : Nat) (hv : v < 2 ^ 32)  (s : State) (hm : mayWrite s o 13) :
    ∃ z fl, writeWord o (F.HST_RQ_CTL_EN.addr u) v s = flagAll o fl ((enable ⟨0x600500, 0x20, 32, 13, rowsHstRqCtl⟩ u F.HST_RQ_CTL_EN (F.HST_RQ_CTL_EN.part v) (fun par e t => unlessPar (par && e) (fun y => let r := rqEnable u e y; ignored r.1 r.2) t) z).2.2) ∧
      RowWrote 32 ⟨0x600500, 0x20, 32, 13, rowsHstRqCtl⟩ u ⟨0x0, false, [F.HST_RQ_CTL_VEC, F.HST_RQ_CTL_HOLDOFF, F.HST_RQ_CTL_SIZE, F.HST_RQ_CTL_EN]⟩ v s z := by
  obtain ⟨z, fl, h1, h2⟩ := word_write ⟨0x600500, 0x20, 32, 13, rowsHstRqCtl⟩ (List.mem_of_getElem? (i := 29) rfl) ⟨0x0, false, [F.HST_RQ_CTL_VEC, F.HST_RQ_CTL_HOLDOFF, F.HST_RQ_CTL_SIZE, F.HST_RQ_CTL_EN]⟩ (List.mem_of_getElem? (i := 0) rfl) v
    (by decide) (hstRqCtlEn_row v) hv u hu (F.HST_RQ_CTL_EN.addr u) (by simp only [Fld.addr, F.HST_RQ_CTL_EN] <;> omega) o s hm
  have p1 : partsOf (fun g => g.cls == .live && hooked g) ⟨0x0, false, [F.HST_RQ_CTL_VEC, F.HST_RQ_CTL_HOLDOFF, F.HST_RQ_CTL_SIZE, F.HST_RQ_CTL_EN]⟩ v = [(F.HST_RQ_CTL_EN, F.HST_RQ_CTL_EN.part v)] := by
    simp only [partsOf, List.filter_cons, List.filter_nil, List.map_cons, List.map_nil, (by decide : (F.HST_RQ_CTL_VEC.cls == .live && hooked F.HST_RQ_CTL_VEC) = false), (by decide : (F.HST_RQ_CTL_HOLDOFF.cls == .live && hooked F.HST_RQ_CTL_HOLDOFF) = false), (by decide : (F.HST_RQ_CTL_SIZE.cls == .live && hooked F.HST_RQ_CTL_SIZE) = false), (by decide : (F.HST_RQ_CTL_EN.cls == .live && hooked F.HST_RQ_CTL_EN) = true), Bool.false_eq_true, if_false, if_true]
  have p2 : partsOf (fun g => g.cls == .cmd) ⟨0x0, false, [F.HST_RQ_CTL_VEC, F.HST_RQ_CTL_HOLDOFF, F.HST_RQ_CTL_SIZE, F.HST_RQ_CTL_EN]⟩ v = [] := by
    simp only [partsOf, List.filter_cons, List.filter_nil, List.map_cons, List.map_nil, (by decide : (F.HST_RQ_CTL_VEC.cls == .cmd) = false), (by decide : (F.HST_RQ_CTL_HOLDOFF.cls == .cmd) = false), (by decide : (F.HST_RQ_CTL_SIZE.cls == .cmd) = false), (by decide : (F.HST_RQ_CTL_EN.cls == .cmd) = false), Bool.false_eq_true, if_false, if_true]
  rw [p1, p2] at h1
  refine ⟨z, fl, h1.trans ?_, h2⟩
  simp only [runHooks, List.foldl_cons, List.foldl_nil, liveHook, cmdHook, (by decide : (F.HST_RQ_CTL_EN.id == F.HST_SQ_CTL_EN.id) = false), (by decide : (F.HST_RQ_CTL_EN.id == F.HST_RQ_CTL_EN.id) = true), (by decide : (F.HST_RQ_CTL_EN.id == F.HST_XR_CTL_EN.id) = false), (by decide : (F.HST_RQ_CTL_EN.id == F.HST_BAR2_BASE_BASE.id) = false), Bool.false_eq_true, if_false, if_true, ignored_st, done_st] <;> rfl

theorem hstXrCtlEn_row (v : Nat) : hookRow 32 ⟨0x600900, 0x20, 8, 13, rowsHstXrCtl⟩ ⟨0x0, false, [F.HST_XR_CTL_VEC, F.HST_XR_CTL_GROUP, F.HST_XR_CTL_SIZE, F.HST_XR_CTL_EN]⟩ v = true := rfl

theorem hstXrCtlEn_write (o u : Nat) (hu : u < 8) (v : Nat) (hv : v < 2 ^ 32)  (s : State) (hm : mayWrite s o 13) :
    ∃ z fl, writeWord o (F.HST_XR_CTL_EN.addr u) v s = flagAll o fl ((enable ⟨0x600900, 0x20, 8, 13, rowsHstXrCtl⟩ u F.HST_XR_CTL_EN (F.HST_XR_CTL_EN.part v) (fun par e t => unlessPar (par && e) (fun y => done (xrEnable u e y)) t) z).2.2) ∧
      RowWrote 32 ⟨0x600900, 0x20, 8, 13, rowsHstXrCtl⟩ u ⟨0x0, false, [F.HST_XR_CTL_VEC, F.HST_XR_CTL_GROUP, F.HST_XR_CTL_SIZE, F.HST_XR_CTL_EN]⟩ v s z := by
  obtain ⟨z, fl, h1, h2⟩ := word_write ⟨0x600900, 0x20, 8, 13, rowsHstXrCtl⟩ (List.mem_of_getElem? (i := 30) rfl) ⟨0x0, false, [F.HST_XR_CTL_VEC, F.HST_XR_CTL_GROUP, F.HST_XR_CTL_SIZE, F.HST_XR_CTL_EN]⟩ (List.mem_of_getElem? (i := 0) rfl) v
    (by decide) (hstXrCtlEn_row v) hv u hu (F.HST_XR_CTL_EN.addr u) (by simp only [Fld.addr, F.HST_XR_CTL_EN] <;> omega) o s hm
  have p1 : partsOf (fun g => g.cls == .live && hooked g) ⟨0x0, false, [F.HST_XR_CTL_VEC, F.HST_XR_CTL_GROUP, F.HST_XR_CTL_SIZE, F.HST_XR_CTL_EN]⟩ v = [(F.HST_XR_CTL_EN, F.HST_XR_CTL_EN.part v)] := by
    simp only [partsOf, List.filter_cons, List.filter_nil, List.map_cons, List.map_nil, (by decide : (F.HST_XR_CTL_VEC.cls == .live && hooked F.HST_XR_CTL_VEC) = false), (by decide : (F.HST_XR_CTL_GROUP.cls == .live && hooked F.HST_XR_CTL_GROUP) = false), (by decide : (F.HST_XR_CTL_SIZE.cls == .live && hooked F.HST_XR_CTL_SIZE) = false), (by decide : (F.HST_XR_CTL_EN.cls == .live && hooked F.HST_XR_CTL_EN) = true), Bool.false_eq_true, if_false, if_true]
  have p2 : partsOf (fun g => g.cls == .cmd) ⟨0x0, false, [F.HST_XR_CTL_VEC, F.HST_XR_CTL_GROUP, F.HST_XR_CTL_SIZE, F.HST_XR_CTL_EN]⟩ v = [] := by
    simp only [partsOf, List.filter_cons, List.filter_nil, List.map_cons, List.map_nil, (by decide : (F.HST_XR_CTL_VEC.cls == .cmd) = false), (by decide : (F.HST_XR_CTL_GROUP.cls == .cmd) = false), (by decide : (F.HST_XR_CTL_SIZE.cls == .cmd) = false), (by decide : (F.HST_XR_CTL_EN.cls == .cmd) = false), Bool.false_eq_true, if_false, if_true]
  rw [p1, p2] at h1
  refine ⟨z, fl, h1.trans ?_, h2⟩
  simp only [runHooks, List.foldl_cons, List.foldl_nil, liveHook, cmdHook, (by decide : (F.HST_XR_CTL_EN.id == F.HST_SQ_CTL_EN.id) = false), (by decide : (F.HST_XR_CTL_EN.id == F.HST_RQ_CTL_EN.id) = false), (by decide : (F.HST_XR_CTL_EN.id == F.HST_XR_CTL_EN.id) = true), (by decide : (F.HST_XR_CTL_EN.id == F.HST_BAR2_BASE_BASE.id) = false), Bool.false_eq_true, if_false, if_true, ignored_st, done_st] <;> rfl

theorem hstBar2BaseBase_row (v : Nat) : hookRow 64 ⟨0x600000, 0x1000000, 1, 13, rowsHstCtl⟩ ⟨0x18, true, [F.HST_BAR2_BASE_BASE]⟩ v = true := rfl

theorem hstBar2BaseBase_write (o : Nat) (v : Nat) (hv : v < 2 ^ 64)  (s : State) (hm : mayWrite s o 13) :
    ∃ z fl, writePair o (F.HST_BAR2_BASE_BASE.addr 0) v s = flagAll o fl (z.wr F.HST_BAR2_BASE_BASE 0 (F.HST_BAR2_BASE_BASE.part v)) ∧
      RowWrote 64 ⟨0x600000, 0x1000000, 1, 13, rowsHstCtl⟩ 0 ⟨0x18, true, [F.HST_BAR2_BASE_BASE]⟩ v s z := by
  obtain ⟨z, fl, h1, h2⟩ := pair_write ⟨0x600000, 0x1000000, 1, 13, rowsHstCtl⟩ (List.mem_of_getElem? (i := 26) rfl) ⟨0x18, true, [F.HST_BAR2_BASE_BASE]⟩ (List.mem_of_getElem? (i := 5) rfl) v
    (by decide) (hstBar2BaseBase_row v) hv 0 (by decide) (F.HST_BAR2_BASE_BASE.addr 0) (by simp only [Fld.addr, F.HST_BAR2_BASE_BASE] <;> omega) o s hm
  have p1 : partsOf (fun g => g.cls == .live && hooked g) ⟨0x18, true, [F.HST_BAR2_BASE_BASE]⟩ v = [(F.HST_BAR2_BASE_BASE, F.HST_BAR2_BASE_BASE.part v)] := by
    simp only [partsOf, List.filter_cons, List.filter_nil, List.map_cons, List.map_nil, (by decide : (F.HST_BAR2_BASE_BASE.cls == .live && hooked F.HST_BAR2_BASE_BASE) = true), Bool.false_eq_true, if_false, if_true]
  have p2 : partsOf (fun g => g.cls == .cmd) ⟨0x18, true, [F.HST_BAR2_BASE_BASE]⟩ v = [] := by
    simp only [partsOf, List.filter_cons, List.filter_nil, List.map_cons, List.map_nil, (by decide : (F.HST_BAR2_BASE_BASE.cls == .cmd) = false), Bool.false_eq_true, if_false, if_true]
  rw [p1, p2] at h1
  refine ⟨z, fl, h1.trans ?_, h2⟩
  simp only [runHooks, List.foldl_cons, List.foldl_nil, liveHook, cmdHook, (by decide : (F.HST_BAR2_BASE_BASE.id == F.HST_SQ_CTL_EN.id) = false), (by decide : (F.HST_BAR2_BASE_BASE.id == F.HST_RQ_CTL_EN.id) = false), (by decide : (F.HST_BAR2_BASE_BASE.id == F.HST_XR_CTL_EN.id) = false), (by decide : (F.HST_BAR2_BASE_BASE.id == F.HST_BAR2_BASE_BASE.id) = true), Bool.false_eq_true, if_false, if_true, ignored_st, done_st] <;> rfl

theorem panRetSleep_row (v : Nat) : hookRow 32 ⟨0x30300, 0x1000000, 1, 3, rowsPanRet⟩ ⟨0x0, false, [F.PAN_RET_SLEEP, F.PAN_RET_RET]⟩ v = true := rfl

theorem panRetSleep_write (o : Nat) (v : Nat) (hv : v < 2 ^ 32)  (s : State) (hm : mayWrite s o 3) :
    ∃ z fl, writeWord o (F.PAN_RET_SLEEP.addr 0) v s = flagAll o fl (panSleep (F.PAN_RET_SLEEP.part v) z) ∧
      RowWrote 32 ⟨0x30300, 0x1000000, 1, 3, rowsPanRet⟩ 0 ⟨0x0, false, [F.PAN_RET_SLEEP, F.PAN_RET_RET]⟩ v s z := by
  obtain ⟨z, fl, h1, h2⟩ := word_write ⟨0x30300, 0x1000000, 1, 3, rowsPanRet⟩ (List.mem_of_getElem? (i := 9) rfl) ⟨0x0, false, [F.PAN_RET_SLEEP, F.PAN_RET_RET]⟩ (List.mem_of_getElem? (i := 0) rfl) v
    (by decide) (panRetSleep_row v) hv 0 (by decide) (F.PAN_RET_SLEEP.addr 0) (by simp only [Fld.addr, F.PAN_RET_SLEEP] <;> omega) o s hm
  have p1 : partsOf (fun g => g.cls == .live && hooked g) ⟨0x0, false, [F.PAN_RET_SLEEP, F.PAN_RET_RET]⟩ v = [(F.PAN_RET_SLEEP, F.PAN_RET_SLEEP.part v)] := by
    simp only [partsOf, List.filter_cons, List.filter_nil, List.map_cons, List.map_nil, (by decide : (F.PAN_RET_SLEEP.cls == .live && hooked F.PAN_RET_SLEEP) = true), (by decide : (F.PAN_RET_RET.cls == .live && hooked F.PAN_RET_RET) = false), Bool.false_eq_true, if_false, if_true]
  have p2 : partsOf (fun g => g.cls == .cmd) ⟨0x0, false, [F.PAN_RET_SLEEP, F.PAN_RET_RET]⟩ v = [] := by
    simp only [partsOf, List.filter_cons, List.filter_nil, List.map_cons, List.map_nil, (by decide : (F.PAN_RET_SLEEP.cls == .cmd) = false), (by decide : (F.PAN_RET_RET.cls == .cmd) = false), Bool.false_eq_true, if_false, if_true]
  rw [p1, p2] at h1
  refine ⟨z, fl, h1.trans ?_, h2⟩
  simp only [runHooks, List.foldl_cons, List.foldl_nil, liveHook, cmdHook, (by decide : (F.PAN_RET_SLEEP.id == F.PAN_RET_SLEEP.id) = true), Bool.false_eq_true, if_false, if_true, ignored_st, done_st] <;> rfl

theorem logEvRdRecno_row (v : Nat) : hookRow 32 ⟨0x900000, 0x1000000, 1, 16, rowsLogEvStat⟩ ⟨0xc, false, [F.LOG_EV_RD_RECNO]⟩ v = true := rfl

theorem logEvRdRecno_write (o : Nat) (v : Nat) (hv : v < 2 ^ 32)  (s : State) (hm : mayWrite s o 16) :
    ∃ z fl, writeWord o (F.LOG_EV_RD_RECNO.addr 0) v s = flagAll o fl (logNotice false (z.wr F.LOG_EV_RD_RECNO 0 (F.LOG_EV_RD_RECNO.part v))) ∧
      RowWrote 32 ⟨0x900000, 0x1000000, 1, 16, rowsLogEvStat⟩ 0 ⟨0xc, false, [F.LOG_EV_RD_RECNO]⟩ v s z := by
  obtain ⟨z, fl, h1, h2⟩ := word_write ⟨0x900000, 0x1000000, 1, 16, rowsLogEvStat⟩ (List.mem_of_getElem? (i := 37) rfl) ⟨0xc, false, [F.LOG_EV_RD_RECNO]⟩ (List.mem_of_getElem? (i := 3) rfl) v
    (by decide) (logEvRdRecno_row v) hv 0 (by decide) (F.LOG_EV_RD_RECNO.addr 0) (by simp only [Fld.addr, F.LOG_EV_RD_RECNO] <;> omega) o s hm
  have p1 : partsOf (fun g => g.cls == .live && hooked g) ⟨0xc, false, [F.LOG_EV_RD_RECNO]⟩ v = [(F.LOG_EV_RD_RECNO, F.LOG_EV_RD_RECNO.part v)] := by
    simp only [partsOf, List.filter_cons, List.filter_nil, List.map_cons, List.map_nil, (by decide : (F.LOG_EV_RD_RECNO.cls == .live && hooked F.LOG_EV_RD_RECNO) = true), Bool.false_eq_true, if_false, if_true]
  have p2 : partsOf (fun g => g.cls == .cmd) ⟨0xc, false, [F.LOG_EV_RD_RECNO]⟩ v = [] := by
    simp only [partsOf, List.filter_cons, List.filter_nil, List.map_cons, List.map_nil, (by decide : (F.LOG_EV_RD_RECNO.cls == .cmd) = false), Bool.false_eq_true, if_false, if_true]
  rw [p1, p2] at h1
  refine ⟨z, fl, h1.trans ?_, h2⟩
  simp only [runHooks, List.foldl_cons, List.foldl_nil, liveHook, cmdHook, (by decide : (F.LOG_EV_RD_RECNO.id == F.LOG_EV_NOTE_ACK.id) = false), (by decide : (F.LOG_EV_RD_RECNO.id == F.LOG_EV_RD_RECNO.id) = true), Bool.false_eq_true, if_false, if_true, ignored_st, done_st] <;> rfl

theorem logEvNoteAck_row (v : Nat) : hookRow 32 ⟨0x900000, 0x1000000, 1, 16, rowsLogEvStat⟩ ⟨0x14, false, [F.LOG_EV_NOTE_ACK, F.LOG_EV_NOTE_XCNT]⟩ v = true := rfl

theorem logEvNoteAck_write (o : Nat) (v : Nat) (hv : v < 2 ^ 32)  (s : State) (hm : mayWrite s o 16) :
    ∃ z fl, writeWord o (F.LOG_EV_NOTE_ACK.addr 0) v s = flagAll o fl (logNotice false (z.wr F.LOG_EV_NOTE_ACK 0 (F.LOG_EV_NOTE_ACK.part v))) ∧
      RowWrote 32 ⟨0x900000, 0x1000000, 1, 16, rowsLogEvStat⟩ 0 ⟨0x14, false, [F.LOG_EV_NOTE_ACK, F.LOG_EV_NOTE_XCNT]⟩ v s z := by
  obtain ⟨z, fl, h1, h2⟩ := word_write ⟨0x900000, 0x1000000, 1, 16, rowsLogEvStat⟩ (List.mem_of_getElem? (i := 37) rfl) ⟨0x14, false, [F.LOG_EV_NOTE_ACK, F.LOG_EV_NOTE_XCNT]⟩ (List.mem_of_getElem? (i := 5) rfl) v
    (by decide) (logEvNoteAck_row v) hv 0 (by decide) (F.LOG_EV_NOTE_ACK.addr 0) (by simp only [Fld.addr, F.LOG_EV_NOTE_ACK] <;> omega) o s hm
  have p1 : partsOf (fun g => g.cls == .live && hooked g) ⟨0x14, false, [F.LOG_EV_NOTE_ACK, F.LOG_EV_NOTE_XCNT]⟩ v = [(F.LOG_EV_NOTE_ACK, F.LOG_EV_NOTE_ACK.part v)] := by
    simp only [partsOf, List.filter_cons, List.filter_nil, List.map_cons, List.map_nil, (by decide : (F.LOG_EV_NOTE_ACK.cls == .live && hooked F.LOG_EV_NOTE_ACK) = true), (by decide : (F.LOG_EV_NOTE_XCNT.cls == .live && hooked F.LOG_EV_NOTE_XCNT) = false), Bool.false_eq_true, if_false, if_true]
  have p2 : partsOf (fun g => g.cls == .cmd) ⟨0x14, false, [F.LOG_EV_NOTE_ACK, F.LOG_EV_NOTE_XCNT]⟩ v = [] := by
    simp only [partsOf, List.filter_cons, List.filter_nil, List.map_cons, List.map_nil, (by decide : (F.LOG_EV_NOTE_ACK.cls == .cmd) = false), (by decide : (F.LOG_EV_NOTE_XCNT.cls == .cmd) = false), Bool.false_eq_true, if_false, if_true]
  rw [p1, p2] at h1
  refine ⟨z, fl, h1.trans ?_, h2⟩
  simp only [runHooks, List.foldl_cons, List.foldl_nil, liveHook, cmdHook, (by decide : (F.LOG_EV_NOTE_ACK.id == F.LOG_EV_NOTE_ACK.id) = true), (by decide : (F.LOG_EV_NOTE_ACK.id == F.LOG_EV_RD_RECNO.id) = false), Bool.false_eq_true, if_false, if_true, ignored_st, done_st] <;> rfl

theorem plyJumpGo_row (v : Nat) : hookRow 32 ⟨0x100000, 0x1000, 64, 5, rowsPlyStepBase⟩ ⟨0x130, false, [F.PLY_JUMP_GO, F.PLY_JUMP_TIMING, F.PLY_JUMP_TARGET]⟩ v = true := rfl

theorem plyJumpGo_write (o u : Nat) (hu : u < 64) (v : Nat) (hv : v < 2 ^ 32)  (s : State) (hm : mayWrite s o 5) :
    ∃ z fl, writeWord o (F.PLY_JUMP_GO.addr u) v s = flagAll o fl ((if F.PLY_JUMP_GO.part v == 0 then done z else plyJumpGo u z).2.2) ∧
      RowWrote 32 ⟨0x100000, 0x1000, 64, 5, rowsPlyStepBase⟩ u ⟨0x130, false, [F.PLY_JUMP_GO, F.PLY_JUMP_TIMING, F.PLY_JUMP_TARGET]⟩ v s z := by
  obtain ⟨z, fl, h1, h2⟩ := word_write ⟨0x100000, 0x1000, 64, 5, rowsPlyStepBase⟩ (List.mem_of_getElem? (i := 11) rfl) ⟨0x130, false, [F.PLY_JUMP_GO, F.PLY_JUMP_TIMING, F.PLY_JUMP_TARGET]⟩ (List.mem_of_getElem? (i := 27) rfl) v
    (by decide) (plyJumpGo_row v) hv u hu (F.PLY_JUMP_GO.addr u) (by simp only [Fld.addr, F.PLY_JUMP_GO] <;> omega) o s hm
  have p1 : partsOf (fun g => g.cls == .live && hooked g) ⟨0x130, false, [F.PLY_JUMP_GO, F.PLY_JUMP_TIMING, F.PLY_JUMP_TARGET]⟩ v = [] := by
    simp only [partsOf, List.filter_cons, List.filter_nil, List.map_cons, List.map_nil, (by decide : (F.PLY_JUMP_GO.cls == .live && hooked F.PLY_JUMP_GO) = false), (by decide : (F.PLY_JUMP_TIMING.cls == .live && hooked F.PLY_JUMP_TIMING) = false), (by decide : (F.PLY_JUMP_TARGET.cls == .live && hooked F.PLY_JUMP_TARGET) = false), Bool.false_eq_true, if_false, if_true]
  have p2 : partsOf (fun g => g.cls == .cmd) ⟨0x130, false, [F.PLY_JUMP_GO, F.PLY_JUMP_TIMING, F.PLY_JUMP_TARGET]⟩ v = [(F.PLY_JUMP_GO, F.PLY_JUMP_GO.part v)] := by
    simp only [partsOf, List.filter_cons, List.filter_nil, List.map_cons, List.map_nil, (by decide : (F.PLY_JUMP_GO.cls == .cmd) = true), (by decide : (F.PLY_JUMP_TIMING.cls == .cmd) = false), (by decide : (F.PLY_JUMP_TARGET.cls == .cmd) = false), Bool.false_eq_true, if_false, if_true]
  rw [p1, p2] at h1
  refine ⟨z, fl, h1.trans ?_, h2⟩
  simp only [runHooks, List.foldl_cons, List.foldl_nil, liveHook, cmdHook, (by decide : (F.PLY_JUMP_GO.id == F.PLY_SEQ_CMD_CLR.id) = false), (by decide : (F.PLY_JUMP_GO.id == F.PLY_SEQ_CMD_EV_CLR.id) = false), (by decide : (F.PLY_JUMP_GO.id == F.PLY_JUMP_GO.id) = true), (by decide : (F.PLY_JUMP_GO.id == F.PLY_PHASE_GO.id) = false), Bool.false_eq_true, if_false, if_true, ignored_st, done_st] <;> rfl

theorem plyPhaseGo_row (v : Nat) : hookRow 32 ⟨0x100000, 0x1000, 64, 5, rowsPlyStepBase⟩ ⟨0x134, false, [F.PLY_PHASE_GO, F.PLY_PHASE_VALUE]⟩ v = true := rfl

theorem plyPhaseGo_write (o u : Nat) (hu : u < 64) (v : Nat) (hv : v < 2 ^ 32)  (s : State) (hm : mayWrite s o 5) :
    ∃ z fl, writeWord o (F.PLY_PHASE_GO.addr u) v s = flagAll o fl ((if F.PLY_PHASE_GO.part v == 0 then done z else plyPhaseGo u z).2.2) ∧
      RowWrote 32 ⟨0x100000, 0x1000, 64, 5, rowsPlyStepBase⟩ u ⟨0x134, false, [F.PLY_PHASE_GO, F.PLY_PHASE_VALUE]⟩ v s z := by
  obtain ⟨z, fl, h1, h2⟩ := word_write ⟨0x100000, 0x1000, 64, 5, rowsPlyStepBase⟩ (List.mem_of_getElem? (i := 11) rfl) ⟨0x134, false, [F.PLY_PHASE_GO, F.PLY_PHASE_VALUE]⟩ (List.mem_of_getElem? (i := 28) rfl) v
    (by decide) (plyPhaseGo_row v) hv u hu (F.PLY_PHASE_GO.addr u) (by simp only [Fld.addr, F.PLY_PHASE_GO] <;> omega) o s hm
  have p1 : partsOf (fun g => g.cls == .live && hooked g) ⟨0x134, false, [F.PLY_PHASE_GO, F.PLY_PHASE_VALUE]⟩ v = [] := by
    simp only [partsOf, List.filter_cons, List.filter_nil, List.map_cons, List.map_nil, (by decide : (F.PLY_PHASE_GO.cls == .live && hooked F.PLY_PHASE_GO) = false), (by decide : (F.PLY_PHASE_VALUE.cls == .live && hooked F.PLY_PHASE_VALUE) = false), Bool.false_eq_true, if_false, if_true]
  have p2 : partsOf (fun g => g.cls == .cmd) ⟨0x134, false, [F.PLY_PHASE_GO, F.PLY_PHASE_VALUE]⟩ v = [(F.PLY_PHASE_GO, F.PLY_PHASE_GO.part v)] := by
    simp only [partsOf, List.filter_cons, List.filter_nil, List.map_cons, List.map_nil, (by decide : (F.PLY_PHASE_GO.cls == .cmd) = true), (by decide : (F.PLY_PHASE_VALUE.cls == .cmd) = false), Bool.false_eq_true, if_false, if_true]
  rw [p1, p2] at h1
  refine ⟨z, fl, h1.trans ?_, h2⟩
  simp only [runHooks, List.foldl_cons, List.foldl_nil, liveHook, cmdHook, (by decide : (F.PLY_PHASE_GO.id == F.PLY_SEQ_CMD_CLR.id) = false), (by decide : (F.PLY_PHASE_GO.id == F.PLY_SEQ_CMD_EV_CLR.id) = false), (by decide : (F.PLY_PHASE_GO.id == F.PLY_JUMP_GO.id) = false), (by decide : (F.PLY_PHASE_GO.id == F.PLY_PHASE_GO.id) = true), Bool.false_eq_true, if_false, if_true, ignored_st, done_st] <;> rfl

theorem modeReq_row (v : Nat) (hok : F.GLB_MODE_REQ_TARGET.part v ≤ 11) : hookRow 32 ⟨0x0, 0x1000000, 1, 0, rowsGlbId⟩ ⟨0x14, false, [F.GLB_MODE_REQ_RESULT, F.GLB_MODE_REQ_DEPTH, F.GLB_MODE_REQ_TARGET]⟩ v = true := by
  have h : F.GLB_MODE_REQ_TARGET.ok (F.GLB_MODE_REQ_TARGET.part v) = true := decide_eq_true hok
  simp only [hookRow, List.all_cons, List.all_nil, h, Bool.and_true, Bool.or_true]
  rfl

theorem glbModeReqTarget_write (o : Nat) (v : Nat) (hv : v < 2 ^ 32) (hok : F.GLB_MODE_REQ_TARGET.part v ≤ 11) (s : State) (hm : mayWrite s o 0) :
    ∃ z fl, writeWord o (F.GLB_MODE_REQ_TARGET.addr 0) v s = flagAll o fl ((modeReq none o (F.GLB_MODE_REQ_TARGET.part v) (z.rd F.GLB_MODE_REQ_DEPTH 0) z).2) ∧
      RowWrote 32 ⟨0x0, 0x1000000, 1, 0, rowsGlbId⟩ 0 ⟨0x14, false, [F.GLB_MODE_REQ_RESULT, F.GLB_MODE_REQ_DEPTH, F.GLB_MODE_REQ_TARGET]⟩ v s z := by
  obtain ⟨z, fl, h1, h2⟩ := word_write ⟨0x0, 0x1000000, 1, 0, rowsGlbId⟩ (List.mem_of_getElem? (i := 0) rfl) ⟨0x14, false, [F.GLB_MODE_REQ_RESULT, F.GLB_MODE_REQ_DEPTH, F.GLB_MODE_REQ_TARGET]⟩ (List.mem_of_getElem? (i := 5) rfl) v
    (by decide) (modeReq_row v hok) hv 0 (by decide) (F.GLB_MODE_REQ_TARGET.addr 0) (by simp only [Fld.addr, F.GLB_MODE_REQ_TARGET] <;> omega) o s hm
  have p1 : partsOf (fun g => g.cls == .live && hooked g) ⟨0x14, false, [F.GLB_MODE_REQ_RESULT, F.GLB_MODE_REQ_DEPTH, F.GLB_MODE_REQ_TARGET]⟩ v = [] := by
    simp only [partsOf, List.filter_cons, List.filter_nil, List.map_cons, List.map_nil, (by decide : (F.GLB_MODE_REQ_RESULT.cls == .live && hooked F.GLB_MODE_REQ_RESULT) = false), (by decide : (F.GLB_MODE_REQ_DEPTH.cls == .live && hooked F.GLB_MODE_REQ_DEPTH) = false), (by decide : (F.GLB_MODE_REQ_TARGET.cls == .live && hooked F.GLB_MODE_REQ_TARGET) = false), Bool.false_eq_true, if_false, if_true]
  have p2 : partsOf (fun g => g.cls == .cmd) ⟨0x14, false, [F.GLB_MODE_REQ_RESULT, F.GLB_MODE_REQ_DEPTH, F.GLB_MODE_REQ_TARGET]⟩ v = [(F.GLB_MODE_REQ_TARGET, F.GLB_MODE_REQ_TARGET.part v)] := by
    simp only [partsOf, List.filter_cons, List.filter_nil, List.map_cons, List.map_nil, (by decide : (F.GLB_MODE_REQ_RESULT.cls == .cmd) = false), (by decide : (F.GLB_MODE_REQ_DEPTH.cls == .cmd) = false), (by decide : (F.GLB_MODE_REQ_TARGET.cls == .cmd) = true), Bool.false_eq_true, if_false, if_true]
  rw [p1, p2] at h1
  refine ⟨z, fl, h1.trans ?_, h2⟩
  simp only [runHooks, List.foldl_cons, List.foldl_nil, liveHook, cmdHook, (by decide : (F.GLB_MODE_REQ_TARGET.id == F.GLB_MODE_REQ_TARGET.id) = true), Bool.false_eq_true, if_false, if_true, ignored_st, done_st] <;> rfl

theorem trgSwSw_row (v : Nat) : hookRow 32 ⟨0xa01080, 0x1000000, 1, 17, rowsTrgSw⟩ ⟨0x0, false, [F.TRG_SW_SW]⟩ v = true := rfl

theorem trgSwSw_write (o : Nat) (v : Nat) (hv : v < 2 ^ 32)  (s : State) (hm : mayWrite s o 17) :
    ∃ z fl, writeWord o (F.TRG_SW_SW.addr 0) v s = flagAll o fl ((if F.TRG_SW_SW.part v == 0 then done z else done (swRaise (F.TRG_SW_SW.part v) z)).2.2) ∧
      RowWrote 32 ⟨0xa01080, 0x1000000, 1, 17, rowsTrgSw⟩ 0 ⟨0x0, false, [F.TRG_SW_SW]⟩ v s z := by
  obtain ⟨z, fl, h1, h2⟩ := word_write ⟨0xa01080, 0x1000000, 1, 17, rowsTrgSw⟩ (List.mem_of_getElem? (i := 40) rfl) ⟨0x0, false, [F.TRG_SW_SW]⟩ (List.mem_of_getElem? (i := 0) rfl) v
    (by decide) (trgSwSw_row v) hv 0 (by decide) (F.TRG_SW_SW.addr 0) (by simp only [Fld.addr, F.TRG_SW_SW] <;> omega) o s hm
  have p1 : partsOf (fun g => g.cls == .live && hooked g) ⟨0x0, false, [F.TRG_SW_SW]⟩ v = [] := by
    simp only [partsOf, List.filter_cons, List.filter_nil, List.map_cons, List.map_nil, (by decide : (F.TRG_SW_SW.cls == .live && hooked F.TRG_SW_SW) = false), Bool.false_eq_true, if_false, if_true]
  have p2 : partsOf (fun g => g.cls == .cmd) ⟨0x0, false, [F.TRG_SW_SW]⟩ v = [(F.TRG_SW_SW, F.TRG_SW_SW.part v)] := by
    simp only [partsOf, List.filter_cons, List.filter_nil, List.map_cons, List.map_nil, (by decide : (F.TRG_SW_SW.cls == .cmd) = true), Bool.false_eq_true, if_false, if_true]
  rw [p1, p2] at h1
  refine ⟨z, fl, h1.trans ?_, h2⟩
  simp only [runHooks, List.foldl_cons, List.foldl_nil, liveHook, cmdHook, Bool.false_eq_true, if_false, if_true, ignored_st, done_st] <;> rfl

theorem plySeqCmdEvClr_row (v : Nat) : hookRow 32 ⟨0x100000, 0x1000, 64, 5, rowsPlyStepBase⟩ ⟨0x12c, false, [F.PLY_SEQ_CMD_CLR, F.PLY_SEQ_CMD_EV_CLR]⟩ v = true := rfl

theorem plySeqCmdEvClr_write (o u : Nat) (hu : u < 64) (v : Nat) (hv : v < 2 ^ 32)  (s : State) (hm : mayWrite s o 5) :
    ∃ z fl, writeWord o (F.PLY_SEQ_CMD_EV_CLR.addr u) v s = flagAll o fl ((let t := (if F.PLY_SEQ_CMD_CLR.part v == 0 then done z else done (seqClear u z)).2.2
      (if F.PLY_SEQ_CMD_EV_CLR.part v == 0 then done t else done (evClear u (F.PLY_SEQ_CMD_EV_CLR.part v) t)).2.2)) ∧
      RowWrote 32 ⟨0x100000, 0x1000, 64, 5, rowsPlyStepBase⟩ u ⟨0x12c, false, [F.PLY_SEQ_CMD_CLR, F.PLY_SEQ_CMD_EV_CLR]⟩ v s z := by
  obtain ⟨z, fl, h1, h2⟩ := word_write ⟨0x100000, 0x1000, 64, 5, rowsPlyStepBase⟩ (List.mem_of_getElem? (i := 11) rfl) ⟨0x12c, false, [F.PLY_SEQ_CMD_CLR, F.PLY_SEQ_CMD_EV_CLR]⟩ (List.mem_of_getElem? (i := 26) rfl) v
    (by decide) (plySeqCmdEvClr_row v) hv u hu (F.PLY_SEQ_CMD_EV_CLR.addr u) (by simp only [Fld.addr, F.PLY_SEQ_CMD_EV_CLR] <;> omega) o s hm
  have p1 : partsOf (fun g => g.cls == .live && hooked g) ⟨0x12c, false, [F.PLY_SEQ_CMD_CLR, F.PLY_SEQ_CMD_EV_CLR]⟩ v = [] := by
    simp only [partsOf, List.filter_cons, List.filter_nil, List.map_cons, List.map_nil, (by decide : (F.PLY_SEQ_CMD_CLR.cls == .live && hooked F.PLY_SEQ_CMD_CLR) = false), (by decide : (F.PLY_SEQ_CMD_EV_CLR.cls == .live && hooked F.PLY_SEQ_CMD_EV_CLR) = false), Bool.false_eq_true, if_false, if_true]
  have p2 : partsOf (fun g => g.cls == .cmd) ⟨0x12c, false, [F.PLY_SEQ_CMD_CLR, F.PLY_SEQ_CMD_EV_CLR]⟩ v = [(F.PLY_SEQ_CMD_CLR, F.PLY_SEQ_CMD_CLR.part v), (F.PLY_SEQ_CMD_EV_CLR, F.PLY_SEQ_CMD_EV_CLR.part v)] := by
    simp only [partsOf, List.filter_cons, List.filter_nil, List.map_cons, List.map_nil, (by decide : (F.PLY_SEQ_CMD_CLR.cls == .cmd) = true), (by decide : (F.PLY_SEQ_CMD_EV_CLR.cls == .cmd) = true), Bool.false_eq_true, if_false, if_true]
  rw [p1, p2] at h1
  refine ⟨z, fl, h1.trans ?_, h2⟩
  simp only [runHooks, List.foldl_cons, List.foldl_nil, liveHook, cmdHook, (by decide : (F.PLY_SEQ_CMD_CLR.id == F.PLY_SEQ_CMD_CLR.id) = true), (by decide : (F.PLY_SEQ_CMD_CLR.id == F.PLY_SEQ_CMD_EV_CLR.id) = false), (by decide : (F.PLY_SEQ_CMD_CLR.id == F.PLY_JUMP_GO.id) = false), (by decide : (F.PLY_SEQ_CMD_CLR.id == F.PLY_PHASE_GO.id) = false), (by decide : (F.PLY_SEQ_CMD_EV_CLR.id == F.PLY_SEQ_CMD_CLR.id) = false), (by decide : (F.PLY_SEQ_CMD_EV_CLR.id == F.PLY_SEQ_CMD_EV_CLR.id) = true), (by decide : (F.PLY_SEQ_CMD_EV_CLR.id == F.PLY_JUMP_GO.id) = false), (by decide : (F.PLY_SEQ_CMD_EV_CLR.id == F.PLY_PHASE_GO.id) = false), Bool.false_eq_true, if_false, if_true, ignored_st, done_st] <;> rfl

theorem chnCmdBqApply_row (v : Nat) : hookRow 32 ⟨0x200000, 0x400, 256, 6, rowsChnCtl⟩ ⟨0x10, false, [F.CHN_CMD_RESEED, F.CHN_CMD_CLR, F.CHN_CMD_BQ_APPLY]⟩ v = true := rfl

theorem chnCmdBqApply_write (o u : Nat) (hu : u < 256) (v : Nat) (hv : v < 2 ^ 32)  (s : State) (hm : mayWrite s o 6) :
    ∃ z fl, writeWord o (F.CHN_CMD_BQ_APPLY.addr u) v s = flagAll o fl ((let t := (if F.CHN_CMD_RESEED.part v == 0 then done z else chnReseed u z).2.2
      let w := (if F.CHN_CMD_CLR.part v == 0 then done t else done (chnClear u t)).2.2
      (if F.CHN_CMD_BQ_APPLY.part v == 0 then done w else done (chnApply u (F.CHN_CMD_BQ_APPLY.part v) w)).2.2)) ∧
      RowWrote 32 ⟨0x200000, 0x400, 256, 6, rowsChnCtl⟩ u ⟨0x10, false, [F.CHN_CMD_RESEED, F.CHN_CMD_CLR, F.CHN_CMD_BQ_APPLY]⟩ v s z := by
  obtain ⟨z, fl, h1, h2⟩ := word_write ⟨0x200000, 0x400, 256, 6, rowsChnCtl⟩ (List.mem_of_getElem? (i := 12) rfl) ⟨0x10, false, [F.CHN_CMD_RESEED, F.CHN_CMD_CLR, F.CHN_CMD_BQ_APPLY]⟩ (List.mem_of_getElem? (i := 4) rfl) v
    (by decide) (chnCmdBqApply_row v) hv u hu (F.CHN_CMD_BQ_APPLY.addr u) (by simp only [Fld.addr, F.CHN_CMD_BQ_APPLY] <;> omega) o s hm
  have p1 : partsOf (fun g => g.cls == .live && hooked g) ⟨0x10, false, [F.CHN_CMD_RESEED, F.CHN_CMD_CLR, F.CHN_CMD_BQ_APPLY]⟩ v = [] := by
    simp only [partsOf, List.filter_cons, List.filter_nil, List.map_cons, List.map_nil, (by decide : (F.CHN_CMD_RESEED.cls == .live && hooked F.CHN_CMD_RESEED) = false), (by decide : (F.CHN_CMD_CLR.cls == .live && hooked F.CHN_CMD_CLR) = false), (by decide : (F.CHN_CMD_BQ_APPLY.cls == .live && hooked F.CHN_CMD_BQ_APPLY) = false), Bool.false_eq_true, if_false, if_true]
  have p2 : partsOf (fun g => g.cls == .cmd) ⟨0x10, false, [F.CHN_CMD_RESEED, F.CHN_CMD_CLR, F.CHN_CMD_BQ_APPLY]⟩ v = [(F.CHN_CMD_RESEED, F.CHN_CMD_RESEED.part v), (F.CHN_CMD_CLR, F.CHN_CMD_CLR.part v), (F.CHN_CMD_BQ_APPLY, F.CHN_CMD_BQ_APPLY.part v)] := by
    simp only [partsOf, List.filter_cons, List.filter_nil, List.map_cons, List.map_nil, (by decide : (F.CHN_CMD_RESEED.cls == .cmd) = true), (by decide : (F.CHN_CMD_CLR.cls == .cmd) = true), (by decide : (F.CHN_CMD_BQ_APPLY.cls == .cmd) = true), Bool.false_eq_true, if_false, if_true]
  rw [p1, p2] at h1
  refine ⟨z, fl, h1.trans ?_, h2⟩
  simp only [runHooks, List.foldl_cons, List.foldl_nil, liveHook, cmdHook, (by decide : (F.CHN_CMD_RESEED.id == F.CHN_CMD_RESEED.id) = true), (by decide : (F.CHN_CMD_RESEED.id == F.CHN_CMD_CLR.id) = false), (by decide : (F.CHN_CMD_RESEED.id == F.CHN_CMD_BQ_APPLY.id) = false), (by decide : (F.CHN_CMD_CLR.id == F.CHN_CMD_RESEED.id) = false), (by decide : (F.CHN_CMD_CLR.id == F.CHN_CMD_CLR.id) = true), (by decide : (F.CHN_CMD_CLR.id == F.CHN_CMD_BQ_APPLY.id) = false), (by decide : (F.CHN_CMD_BQ_APPLY.id == F.CHN_CMD_RESEED.id) = false), (by decide : (F.CHN_CMD_BQ_APPLY.id == F.CHN_CMD_CLR.id) = false), (by decide : (F.CHN_CMD_BQ_APPLY.id == F.CHN_CMD_BQ_APPLY.id) = true), Bool.false_eq_true, if_false, if_true, ignored_st, done_st] <;> rfl

theorem rakeEvRaiseRaise_row (v : Nat) : hookRow 64 ⟨0x500000, 0x1000000, 1, 12, rowsRakeCtl⟩ ⟨0x38, true, [F.RAKE_EV_RAISE_RAISE]⟩ v = true := rfl

theorem rakeEvRaiseRaise_write (o : Nat) (v : Nat) (hv : v < 2 ^ 64)  (s : State) (hm : mayWrite s o 12) :
    ∃ z fl, writePair o (F.RAKE_EV_RAISE_RAISE.addr 0) v s = flagAll o fl ((if F.RAKE_EV_RAISE_RAISE.part v == 0 then done z else done (rkRaiseMask (F.RAKE_EV_RAISE_RAISE.part v) z)).2.2) ∧
      RowWrote 64 ⟨0x500000, 0x1000000, 1, 12, rowsRakeCtl⟩ 0 ⟨0x38, true, [F.RAKE_EV_RAISE_RAISE]⟩ v s z := by
  obtain ⟨z, fl, h1, h2⟩ := pair_write ⟨0x500000, 0x1000000, 1, 12, rowsRakeCtl⟩ (List.mem_of_getElem? (i := 22) rfl) ⟨0x38, true, [F.RAKE_EV_RAISE_RAISE]⟩ (List.mem_of_getElem? (i := 10) rfl) v
    (by decide) (rakeEvRaiseRaise_row v) hv 0 (by decide) (F.RAKE_EV_RAISE_RAISE.addr 0) (by simp only [Fld.addr, F.RAKE_EV_RAISE_RAISE] <;> omega) o s hm
  have p1 : partsOf (fun g => g.cls == .live && hooked g) ⟨0x38, true, [F.RAKE_EV_RAISE_RAISE]⟩ v = [] := by
    simp only [partsOf, List.filter_cons, List.filter_nil, List.map_cons, List.map_nil, (by decide : (F.RAKE_EV_RAISE_RAISE.cls == .live && hooked F.RAKE_EV_RAISE_RAISE) = false), Bool.false_eq_true, if_false, if_true]
  have p2 : partsOf (fun g => g.cls == .cmd) ⟨0x38, true, [F.RAKE_EV_RAISE_RAISE]⟩ v = [(F.RAKE_EV_RAISE_RAISE, F.RAKE_EV_RAISE_RAISE.part v)] := by
    simp only [partsOf, List.filter_cons, List.filter_nil, List.map_cons, List.map_nil, (by decide : (F.RAKE_EV_RAISE_RAISE.cls == .cmd) = true), Bool.false_eq_true, if_false, if_true]
  rw [p1, p2] at h1
  refine ⟨z, fl, h1.trans ?_, h2⟩
  simp only [runHooks, List.foldl_cons, List.foldl_nil, liveHook, cmdHook, (by decide : (F.RAKE_EV_RAISE_RAISE.id == F.RAKE_EV_RAISE_RAISE.id) = true), (by decide : (F.RAKE_EV_RAISE_RAISE.id == F.RAKE_CMD_ENUM.id) = false), (by decide : (F.RAKE_EV_RAISE_RAISE.id == F.RAKE_CMD_ENUM_FULL.id) = false), (by decide : (F.RAKE_EV_RAISE_RAISE.id == F.RAKE_CMD_CT_LOAD.id) = false), (by decide : (F.RAKE_EV_RAISE_RAISE.id == F.RAKE_CMD_PULSE.id) = false), (by decide : (F.RAKE_EV_RAISE_RAISE.id == F.RAKE_CMD_CLR.id) = false), Bool.false_eq_true, if_false, if_true, ignored_st, done_st] <;> rfl

theorem hstSqDbTail_row (v : Nat) : hookRow 32 ⟨0x601000, 0x8, 32, 13, rowsHstSqDb⟩ ⟨0x0, false, [F.HST_SQ_DB_TAIL]⟩ v = true := rfl

theorem hstSqDbTail_write (o u : Nat) (hu : u < 32) (v : Nat) (hv : v < 2 ^ 32)  (s : State) (hm : mayWrite s o 13) :
    ∃ z fl, writeWord o (F.HST_SQ_DB_TAIL.addr u) v s = flagAll o fl (sqTail u (F.HST_SQ_DB_TAIL.part v) z) ∧
      RowWrote 32 ⟨0x601000, 0x8, 32, 13, rowsHstSqDb⟩ u ⟨0x0, false, [F.HST_SQ_DB_TAIL]⟩ v s z := by
  obtain ⟨z, fl, h1, h2⟩ := word_write ⟨0x601000, 0x8, 32, 13, rowsHstSqDb⟩ (List.mem_of_getElem? (i := 31) rfl) ⟨0x0, false, [F.HST_SQ_DB_TAIL]⟩ (List.mem_of_getElem? (i := 0) rfl) v
    (by decide) (hstSqDbTail_row v) hv u hu (F.HST_SQ_DB_TAIL.addr u) (by simp only [Fld.addr, F.HST_SQ_DB_TAIL] <;> omega) o s hm
  have p1 : partsOf (fun g => g.cls == .live && hooked g) ⟨0x0, false, [F.HST_SQ_DB_TAIL]⟩ v = [] := by
    simp only [partsOf, List.filter_cons, List.filter_nil, List.map_cons, List.map_nil, (by decide : (F.HST_SQ_DB_TAIL.cls == .live && hooked F.HST_SQ_DB_TAIL) = false), Bool.false_eq_true, if_false, if_true]
  have p2 : partsOf (fun g => g.cls == .cmd) ⟨0x0, false, [F.HST_SQ_DB_TAIL]⟩ v = [(F.HST_SQ_DB_TAIL, F.HST_SQ_DB_TAIL.part v)] := by
    simp only [partsOf, List.filter_cons, List.filter_nil, List.map_cons, List.map_nil, (by decide : (F.HST_SQ_DB_TAIL.cls == .cmd) = true), Bool.false_eq_true, if_false, if_true]
  rw [p1, p2] at h1
  refine ⟨z, fl, h1.trans ?_, h2⟩
  simp only [runHooks, List.foldl_cons, List.foldl_nil, liveHook, cmdHook, (by decide : (F.HST_SQ_DB_TAIL.id == F.HST_SQ_DB_TAIL.id) = true), (by decide : (F.HST_SQ_DB_TAIL.id == F.HST_RQ_DB_HEAD.id) = false), (by decide : (F.HST_SQ_DB_TAIL.id == F.HST_XR_DB_TAIL.id) = false), Bool.false_eq_true, if_false, if_true, ignored_st, done_st] <;> rfl

theorem hstRqDbHead_row (v : Nat) : hookRow 32 ⟨0x601000, 0x8, 32, 13, rowsHstSqDb⟩ ⟨0x4, false, [F.HST_RQ_DB_HEAD]⟩ v = true := rfl

theorem hstRqDbHead_write (o u : Nat) (hu : u < 32) (v : Nat) (hv : v < 2 ^ 32)  (s : State) (hm : mayWrite s o 13) :
    ∃ z fl, writeWord o (F.HST_RQ_DB_HEAD.addr u) v s = flagAll o fl (rqHeadWrite u (F.HST_RQ_DB_HEAD.part v) z) ∧
      RowWrote 32 ⟨0x601000, 0x8, 32, 13, rowsHstSqDb⟩ u ⟨0x4, false, [F.HST_RQ_DB_HEAD]⟩ v s z := by
  obtain ⟨z, fl, h1, h2⟩ := word_write ⟨0x601000, 0x8, 32, 13, rowsHstSqDb⟩ (List.mem_of_getElem? (i := 31) rfl) ⟨0x4, false, [F.HST_RQ_DB_HEAD]⟩ (List.mem_of_getElem? (i := 1) rfl) v
    (by decide) (hstRqDbHead_row v) hv u hu (F.HST_RQ_DB_HEAD.addr u) (by simp only [Fld.addr, F.HST_RQ_DB_HEAD] <;> omega) o s hm
  have p1 : partsOf (fun g => g.cls == .live && hooked g) ⟨0x4, false, [F.HST_RQ_DB_HEAD]⟩ v = [] := by
    simp only [partsOf, List.filter_cons, List.filter_nil, List.map_cons, List.map_nil, (by decide : (F.HST_RQ_DB_HEAD.cls == .live && hooked F.HST_RQ_DB_HEAD) = false), Bool.false_eq_true, if_false, if_true]
  have p2 : partsOf (fun g => g.cls == .cmd) ⟨0x4, false, [F.HST_RQ_DB_HEAD]⟩ v = [(F.HST_RQ_DB_HEAD, F.HST_RQ_DB_HEAD.part v)] := by
    simp only [partsOf, List.filter_cons, List.filter_nil, List.map_cons, List.map_nil, (by decide : (F.HST_RQ_DB_HEAD.cls == .cmd) = true), Bool.false_eq_true, if_false, if_true]
  rw [p1, p2] at h1
  refine ⟨z, fl, h1.trans ?_, h2⟩
  simp only [runHooks, List.foldl_cons, List.foldl_nil, liveHook, cmdHook, (by decide : (F.HST_RQ_DB_HEAD.id == F.HST_SQ_DB_TAIL.id) = false), (by decide : (F.HST_RQ_DB_HEAD.id == F.HST_RQ_DB_HEAD.id) = true), (by decide : (F.HST_RQ_DB_HEAD.id == F.HST_XR_DB_TAIL.id) = false), Bool.false_eq_true, if_false, if_true, ignored_st, done_st] <;> rfl

theorem hstXrDbTail_row (v : Nat) : hookRow 32 ⟨0x601100, 0x4, 8, 13, rowsHstXrDb⟩ ⟨0x0, false, [F.HST_XR_DB_TAIL]⟩ v = true := rfl

theorem hstXrDbTail_write (o u : Nat) (hu : u < 8) (v : Nat) (hv : v < 2 ^ 32)  (s : State) (hm : mayWrite s o 13) :
    ∃ z fl, writeWord o (F.HST_XR_DB_TAIL.addr u) v s = flagAll o fl (xrTail u (F.HST_XR_DB_TAIL.part v) z) ∧
      RowWrote 32 ⟨0x601100, 0x4, 8, 13, rowsHstXrDb⟩ u ⟨0x0, false, [F.HST_XR_DB_TAIL]⟩ v s z := by
  obtain ⟨z, fl, h1, h2⟩ := word_write ⟨0x601100, 0x4, 8, 13, rowsHstXrDb⟩ (List.mem_of_getElem? (i := 32) rfl) ⟨0x0, false, [F.HST_XR_DB_TAIL]⟩ (List.mem_of_getElem? (i := 0) rfl) v
    (by decide) (hstXrDbTail_row v) hv u hu (F.HST_XR_DB_TAIL.addr u) (by simp only [Fld.addr, F.HST_XR_DB_TAIL] <;> omega) o s hm
  have p1 : partsOf (fun g => g.cls == .live && hooked g) ⟨0x0, false, [F.HST_XR_DB_TAIL]⟩ v = [] := by
    simp only [partsOf, List.filter_cons, List.filter_nil, List.map_cons, List.map_nil, (by decide : (F.HST_XR_DB_TAIL.cls == .live && hooked F.HST_XR_DB_TAIL) = false), Bool.false_eq_true, if_false, if_true]
  have p2 : partsOf (fun g => g.cls == .cmd) ⟨0x0, false, [F.HST_XR_DB_TAIL]⟩ v = [(F.HST_XR_DB_TAIL, F.HST_XR_DB_TAIL.part v)] := by
    simp only [partsOf, List.filter_cons, List.filter_nil, List.map_cons, List.map_nil, (by decide : (F.HST_XR_DB_TAIL.cls == .cmd) = true), Bool.false_eq_true, if_false, if_true]
  rw [p1, p2] at h1
  refine ⟨z, fl, h1.trans ?_, h2⟩
  simp only [runHooks, List.foldl_cons, List.foldl_nil, liveHook, cmdHook, (by decide : (F.HST_XR_DB_TAIL.id == F.HST_SQ_DB_TAIL.id) = false), (by decide : (F.HST_XR_DB_TAIL.id == F.HST_RQ_DB_HEAD.id) = false), (by decide : (F.HST_XR_DB_TAIL.id == F.HST_XR_DB_TAIL.id) = true), Bool.false_eq_true, if_false, if_true, ignored_st, done_st] <;> rfl

theorem trgTapEn_row (v : Nat) : hookRow 32 ⟨0xa01000, 0x4, 32, 17, rowsTrgTap⟩ ⟨0x0, false, [F.TRG_TAP_PLAYER, F.TRG_TAP_EN, F.TRG_TAP_BIT]⟩ v = true := rfl

theorem trgTapEn_write (o u : Nat) (hu : u < 32) (v : Nat) (hv : v < 2 ^ 32)  (s : State) (hm : mayWrite s o 17) :
    ∃ z fl, writeWord o (F.TRG_TAP_EN.addr u) v s = flagAll o fl (rowEnd ⟨0xa01000, 0x4, 32, 17, rowsTrgTap⟩ u ⟨0x0, false, [F.TRG_TAP_PLAYER, F.TRG_TAP_EN, F.TRG_TAP_BIT]⟩ (F.TRG_TAP_EN.addr u) s (z)) ∧
      RowWrote 32 ⟨0xa01000, 0x4, 32, 17, rowsTrgTap⟩ u ⟨0x0, false, [F.TRG_TAP_PLAYER, F.TRG_TAP_EN, F.TRG_TAP_BIT]⟩ v s z := by
  obtain ⟨z, fl, h1, h2⟩ := hook_write ⟨0xa01000, 0x4, 32, 17, rowsTrgTap⟩ (List.mem_of_getElem? (i := 39) rfl) ⟨0x0, false, [F.TRG_TAP_PLAYER, F.TRG_TAP_EN, F.TRG_TAP_BIT]⟩ (List.mem_of_getElem? (i := 0) rfl) v
    (by decide) (trgTapEn_row v) hv u hu (F.TRG_TAP_EN.addr u) (by simp only [Fld.addr, F.TRG_TAP_EN] <;> omega) o s hm
  have p1 : partsOf (fun g => g.cls == .live && hooked g) ⟨0x0, false, [F.TRG_TAP_PLAYER, F.TRG_TAP_EN, F.TRG_TAP_BIT]⟩ v = [] := by
    simp only [partsOf, List.filter_cons, List.filter_nil, List.map_cons, List.map_nil, (by decide : (F.TRG_TAP_PLAYER.cls == .live && hooked F.TRG_TAP_PLAYER) = false), (by decide : (F.TRG_TAP_EN.cls == .live && hooked F.TRG_TAP_EN) = false), (by decide : (F.TRG_TAP_BIT.cls == .live && hooked F.TRG_TAP_BIT) = false), Bool.false_eq_true, if_false, if_true]
  have p2 : partsOf (fun g => g.cls == .cmd) ⟨0x0, false, [F.TRG_TAP_PLAYER, F.TRG_TAP_EN, F.TRG_TAP_BIT]⟩ v = [] := by
    simp only [partsOf, List.filter_cons, List.filter_nil, List.map_cons, List.map_nil, (by decide : (F.TRG_TAP_PLAYER.cls == .cmd) = false), (by decide : (F.TRG_TAP_EN.cls == .cmd) = false), (by decide : (F.TRG_TAP_BIT.cls == .cmd) = false), Bool.false_eq_true, if_false, if_true]
  rw [p1, p2] at h1
  refine ⟨z, fl, h1.trans ?_, h2⟩
  rfl

theorem clkRef_row (v : Nat) (hok : F.CLK_REF_POLICY.part v ≤ 2) : hookRow 32 ⟨0x10000, 0x1000000, 1, 1, rowsClkRef⟩ ⟨0x0, false, [F.CLK_REF_SLEW_PPM, F.CLK_REF_POLICY, F.CLK_REF_REFOUT_EN, F.CLK_REF_TERM, F.CLK_REF_FREQ, F.CLK_REF_SEL]⟩ v = true := by
  have h : F.CLK_REF_POLICY.ok (F.CLK_REF_POLICY.part v) = true := decide_eq_true hok
  simp only [hookRow, List.all_cons, List.all_nil, h, Bool.and_true, Bool.or_true]
  rfl

theorem clkRefSel_write (o : Nat) (v : Nat) (hv : v < 2 ^ 32) (hok : F.CLK_REF_POLICY.part v ≤ 2) (s : State) (hm : mayWrite s o 1) :
    ∃ z fl, writeWord o (F.CLK_REF_SEL.addr 0) v s = flagAll o fl (rowEnd ⟨0x10000, 0x1000000, 1, 1, rowsClkRef⟩ 0 ⟨0x0, false, [F.CLK_REF_SLEW_PPM, F.CLK_REF_POLICY, F.CLK_REF_REFOUT_EN, F.CLK_REF_TERM, F.CLK_REF_FREQ, F.CLK_REF_SEL]⟩ (F.CLK_REF_SEL.addr 0) s (selWrite (F.CLK_REF_SEL.part v) (policyWrite (F.CLK_REF_POLICY.part v) z))) ∧
      RowWrote 32 ⟨0x10000, 0x1000000, 1, 1, rowsClkRef⟩ 0 ⟨0x0, false, [F.CLK_REF_SLEW_PPM, F.CLK_REF_POLICY, F.CLK_REF_REFOUT_EN, F.CLK_REF_TERM, F.CLK_REF_FREQ, F.CLK_REF_SEL]⟩ v s z := by
  obtain ⟨z, fl, h1, h2⟩ := hook_write ⟨0x10000, 0x1000000, 1, 1, rowsClkRef⟩ (List.mem_of_getElem? (i := 2) rfl) ⟨0x0, false, [F.CLK_REF_SLEW_PPM, F.CLK_REF_POLICY, F.CLK_REF_REFOUT_EN, F.CLK_REF_TERM, F.CLK_REF_FREQ, F.CLK_REF_SEL]⟩ (List.mem_of_getElem? (i := 0) rfl) v
    (by decide) (clkRef_row v hok) hv 0 (by decide) (F.CLK_REF_SEL.addr 0) (by simp only [Fld.addr, F.CLK_REF_SEL] <;> omega) o s hm
  have p1 : partsOf (fun g => g.cls == .live && hooked g) ⟨0x0, false, [F.CLK_REF_SLEW_PPM, F.CLK_REF_POLICY, F.CLK_REF_REFOUT_EN, F.CLK_REF_TERM, F.CLK_REF_FREQ, F.CLK_REF_SEL]⟩ v = [(F.CLK_REF_POLICY, F.CLK_REF_POLICY.part v), (F.CLK_REF_SEL, F.CLK_REF_SEL.part v)] := by
    simp only [partsOf, List.filter_cons, List.filter_nil, List.map_cons, List.map_nil, (by decide : (F.CLK_REF_SLEW_PPM.cls == .live && hooked F.CLK_REF_SLEW_PPM) = false), (by decide : (F.CLK_REF_POLICY.cls == .live && hooked F.CLK_REF_POLICY) = true), (by decide : (F.CLK_REF_REFOUT_EN.cls == .live && hooked F.CLK_REF_REFOUT_EN) = false), (by decide : (F.CLK_REF_TERM.cls == .live && hooked F.CLK_REF_TERM) = false), (by decide : (F.CLK_REF_FREQ.cls == .live && hooked F.CLK_REF_FREQ) = false), (by decide : (F.CLK_REF_SEL.cls == .live && hooked F.CLK_REF_SEL) = true), Bool.false_eq_true, if_false, if_true]
  have p2 : partsOf (fun g => g.cls == .cmd) ⟨0x0, false, [F.CLK_REF_SLEW_PPM, F.CLK_REF_POLICY, F.CLK_REF_REFOUT_EN, F.CLK_REF_TERM, F.CLK_REF_FREQ, F.CLK_REF_SEL]⟩ v = [] := by
    simp only [partsOf, List.filter_cons, List.filter_nil, List.map_cons, List.map_nil, (by decide : (F.CLK_REF_SLEW_PPM.cls == .cmd) = false), (by decide : (F.CLK_REF_POLICY.cls == .cmd) = false), (by decide : (F.CLK_REF_REFOUT_EN.cls == .cmd) = false), (by decide : (F.CLK_REF_TERM.cls == .cmd) = false), (by decide : (F.CLK_REF_FREQ.cls == .cmd) = false), (by decide : (F.CLK_REF_SEL.cls == .cmd) = false), Bool.false_eq_true, if_false, if_true]
  rw [p1, p2] at h1
  refine ⟨z, fl, h1.trans ?_, h2⟩
  simp only [runHooks, List.foldl_cons, List.foldl_nil, liveHook, cmdHook, (by decide : (F.CLK_REF_POLICY.id == F.CLK_REF_SEL.id) = false), (by decide : (F.CLK_REF_SEL.id == F.CLK_REF_SEL.id) = true), Bool.false_eq_true, if_false, if_true, ignored_st, done_st] <;> rfl

theorem nvmBootLockLock_row (v : Nat) : hookRow 32 ⟨0x800000, 0x1000000, 1, 15, rowsCupStat⟩ ⟨0x804, false, [F.NVM_BOOT_LOCK_LOCK]⟩ v = true := rfl

theorem nvmBootLockLock_write (o : Nat) (v : Nat) (hv : v < 2 ^ 32)  (s : State) (hm : mayWrite s o 15) :
    ∃ z fl, writeWord o (F.NVM_BOOT_LOCK_LOCK.addr 0) v s = flagAll o fl (rowEnd ⟨0x800000, 0x1000000, 1, 15, rowsCupStat⟩ 0 ⟨0x804, false, [F.NVM_BOOT_LOCK_LOCK]⟩ (F.NVM_BOOT_LOCK_LOCK.addr 0) s (z)) ∧
      RowWrote 32 ⟨0x800000, 0x1000000, 1, 15, rowsCupStat⟩ 0 ⟨0x804, false, [F.NVM_BOOT_LOCK_LOCK]⟩ v s z := by
  obtain ⟨z, fl, h1, h2⟩ := hook_write ⟨0x800000, 0x1000000, 1, 15, rowsCupStat⟩ (List.mem_of_getElem? (i := 35) rfl) ⟨0x804, false, [F.NVM_BOOT_LOCK_LOCK]⟩ (List.mem_of_getElem? (i := 5) rfl) v
    (by decide) (nvmBootLockLock_row v) hv 0 (by decide) (F.NVM_BOOT_LOCK_LOCK.addr 0) (by simp only [Fld.addr, F.NVM_BOOT_LOCK_LOCK] <;> omega) o s hm
  have p1 : partsOf (fun g => g.cls == .live && hooked g) ⟨0x804, false, [F.NVM_BOOT_LOCK_LOCK]⟩ v = [] := by
    simp only [partsOf, List.filter_cons, List.filter_nil, List.map_cons, List.map_nil, (by decide : (F.NVM_BOOT_LOCK_LOCK.cls == .live && hooked F.NVM_BOOT_LOCK_LOCK) = false), Bool.false_eq_true, if_false, if_true]
  have p2 : partsOf (fun g => g.cls == .cmd) ⟨0x804, false, [F.NVM_BOOT_LOCK_LOCK]⟩ v = [] := by
    simp only [partsOf, List.filter_cons, List.filter_nil, List.map_cons, List.map_nil, (by decide : (F.NVM_BOOT_LOCK_LOCK.cls == .cmd) = false), Bool.false_eq_true, if_false, if_true]
  rw [p1, p2] at h1
  refine ⟨z, fl, h1.trans ?_, h2⟩
  rfl

theorem nvmCalLockLock_row (v : Nat) : hookRow 32 ⟨0x800000, 0x1000000, 1, 15, rowsCupStat⟩ ⟨0x808, false, [F.NVM_CAL_LOCK_LOCK]⟩ v = true := rfl

theorem nvmCalLockLock_write (o : Nat) (v : Nat) (hv : v < 2 ^ 32)  (s : State) (hm : mayWrite s o 15) :
    ∃ z fl, writeWord o (F.NVM_CAL_LOCK_LOCK.addr 0) v s = flagAll o fl (rowEnd ⟨0x800000, 0x1000000, 1, 15, rowsCupStat⟩ 0 ⟨0x808, false, [F.NVM_CAL_LOCK_LOCK]⟩ (F.NVM_CAL_LOCK_LOCK.addr 0) s (z)) ∧
      RowWrote 32 ⟨0x800000, 0x1000000, 1, 15, rowsCupStat⟩ 0 ⟨0x808, false, [F.NVM_CAL_LOCK_LOCK]⟩ v s z := by
  obtain ⟨z, fl, h1, h2⟩ := hook_write ⟨0x800000, 0x1000000, 1, 15, rowsCupStat⟩ (List.mem_of_getElem? (i := 35) rfl) ⟨0x808, false, [F.NVM_CAL_LOCK_LOCK]⟩ (List.mem_of_getElem? (i := 6) rfl) v
    (by decide) (nvmCalLockLock_row v) hv 0 (by decide) (F.NVM_CAL_LOCK_LOCK.addr 0) (by simp only [Fld.addr, F.NVM_CAL_LOCK_LOCK] <;> omega) o s hm
  have p1 : partsOf (fun g => g.cls == .live && hooked g) ⟨0x808, false, [F.NVM_CAL_LOCK_LOCK]⟩ v = [] := by
    simp only [partsOf, List.filter_cons, List.filter_nil, List.map_cons, List.map_nil, (by decide : (F.NVM_CAL_LOCK_LOCK.cls == .live && hooked F.NVM_CAL_LOCK_LOCK) = false), Bool.false_eq_true, if_false, if_true]
  have p2 : partsOf (fun g => g.cls == .cmd) ⟨0x808, false, [F.NVM_CAL_LOCK_LOCK]⟩ v = [] := by
    simp only [partsOf, List.filter_cons, List.filter_nil, List.map_cons, List.map_nil, (by decide : (F.NVM_CAL_LOCK_LOCK.cls == .cmd) = false), Bool.false_eq_true, if_false, if_true]
  rw [p1, p2] at h1
  refine ⟨z, fl, h1.trans ?_, h2⟩
  rfl

end Sys2Proof.Machine
end

