-- ==== Sys2Proof/Laws/Packets.lean ====
section
/-! SUPPORT. From what a packet's operation does to the next state of its row. -/

namespace Sys2Proof.Machine

theorem within_replies (A : List (Nat × Nat)) (k : Nat) (h : within (A ++ records) k) : within (A ++ replies) k := by
  obtain ⟨r, hr, h1⟩ := h
  refine ⟨r, ?_, h1⟩
  simp only [List.mem_append] at hr ⊢
  exact hr.imp_right (fun h => List.mem_cons_of_mem _ h)

theorem hstA_within (A : List (Nat × Nat)) (k : Nat) (h : hstA k) : within (A ++ replies) k := by
  refine (within_append _ _ _).mpr (Or.inr ⟨(64 * 0x600000, 64 * 0x700000), by simp [replies, hostRegs], ?_⟩)
  simp only [hstA] at h; omega

/-- Registers that a reply and the end of a command leave alone. -/
def calmA (k : Nat) : Prop := ¬ hstA k ∧ ¬ dropA k

/-- The row of a packet that answers at once, from what its operation does. -/
theorem answers_of {i : Instr} {p : Pkt} {s : State} {A : List (Nat × Nat)} {l : List (Fld × Nat × Nat)} {more : State → Prop} (op detail : Nat)
    (data : List Nat) (y : State) (he : exec i s = .next (finish (hostCmd (packet op p) s))) (h : passes op p s) (h0 : op ≠ 0xF0)
    (h1 : op = 1 → p.w 0 % 2 = 0)
    (hi : opInterim op = true → (opRun s.nextJob (numbered op p) (taken (numbered op p) s)).status = stOk)
    (hr : opRun s.nextJob (numbered op p) (entered op p s) = ⟨stOk, detail, data, [], false, y⟩)
    (hwins : y.wins = (entered op p s).wins) (hjobs : y.jobs = (entered op p s).jobs) (hrec : y.recov = (entered op p s).recov)
    (hk : Keeps (within (A ++ replies)) (entered op p s) y) (hl : ∀ e ∈ l, calmA (e.1.key e.2.1) ∧ y.rd e.1 e.2.1 = e.2.2)
    (hm : more (finish (hostCmd (packet op p) s))) : answers i p s data A l more := by
  obtain ⟨h2, h3, _, _⟩ := packet_done op p s h h0 h1 hi stOk detail data y hr hwins hjobs
    (hrec.trans (of_sansEntered (·.recov) (fun _ => rfl) (entered_sans op p s)))
  refine ⟨_, he, h2, ?_, ?_, hm⟩
  · intro e x
    rw [finish_reads _ _ _ (hl e x).1.2, h3.rd _ _ (hl e x).1.1]
    exact (hl e x).2
  · refine Keeps.regsBut ?_
    refine (((entered_keeps op p s).mono (hstA_within A)).trans hk).trans ((h3.mono (hstA_within A)).trans
      ((finish_keeps _).mono (fun k hk => within_replies A k (dropA_within A k hk))))

/-- What no reply, record or fault summary is part of, at the end of a packet that answers at once. -/
theorem answered_get {γ : Type} (g : State → γ) (h1 : ∀ s, g (sansEnd s) = g s) (h2 : ∀ s, g (sansDone s) = g s) (h3 : ∀ s, g s.rested = g s)
    (op : Nat) (p : Pkt) (s : State) (h : passes op p s) (h0 : op ≠ 0xF0) (hb : op = 1 → p.w 0 % 2 = 0)
    (hi : opInterim op = true → (opRun s.nextJob (numbered op p) (taken (numbered op p) s)).status = stOk)
    (status detail : Nat) (data : List Nat) (y : State)
    (hr : opRun s.nextJob (numbered op p) (entered op p s) = ⟨status, detail, data, [], false, y⟩)
    (hwins : y.wins = (entered op p s).wins) (hjobs : y.jobs = (entered op p s).jobs) (hrec : y.recov = (entered op p s).recov) :
    g (finish (hostCmd (packet op p) s)) = g y := by
  obtain ⟨_, _, h4, _⟩ := packet_done op p s h h0 hb hi status detail data y hr hwins hjobs
    (hrec.trans (of_sansEntered (·.recov) (fun _ => rfl) (entered_sans op p s)))
  exact (of_sansEnd g h1 (finish_sans _)).trans ((of_sansDone g h2 h4).trans (h3 y))

/-- The row of a packet whose reply comes later, from what its operation does. -/
theorem begins_of {i : Instr} {p : Pkt} {s : State} {A : List (Nat × Nat)} {l : List (Fld × Nat × Nat)} {more : State → Prop} (op : Nat)
    (y : State) (he : exec i s = .next (finish (hostCmd (packet op p) s))) (h : passes op p s) (h0 : op ≠ 0xF0)
    (h1 : op = 1 → p.w 0 % 2 = 0)
    (hi : opInterim op = true → (opRun s.nextJob (numbered op p) (taken (numbered op p) s)).status = stOk)
    (hr : opRun s.nextJob (numbered op p) (entered op p s) = rWait y)
    (hwins : y.wins = (entered op p s).wins) (hjobs : y.jobs = (entered op p s).jobs)
    (hk : Keeps (within (A ++ replies)) (entered op p s) y) (hl : ∀ e ∈ l, calmA (e.1.key e.2.1) ∧ y.rd e.1 e.2.1 = e.2.2)
    (hm : more (finish y.rested)) : begins i op p s A l more := by
  obtain ⟨h2, h3⟩ := packet_begun op p s h h0 h1 hi y hr hwins hjobs
  have hf : Keeps (within (A ++ replies)) y (finish y.rested) :=
    (Keeps.of_eq (t := y.rested) rfl).trans ((finish_keeps _).mono (fun k hk => within_replies A k (dropA_within A k hk)))
  refine ⟨_, he, h3, ?_, ?_, by rw [h2]; exact hm⟩
  · intro e x
    rw [h2, finish_reads _ _ _ (hl e x).1.2]
    exact (hl e x).2
  · rw [h2]
    exact ((((entered_keeps op p s).mono (hstA_within A)).trans hk).trans hf).regsBut

/-- The row of a packet that answers at once: registers, and whatever else no reply, record or fault summary is part of. -/
theorem answers_with {i : Instr} {p : Pkt} {s : State} {A : List (Nat × Nat)} {l : List (Fld × Nat × Nat)} {more : State → Prop} (op detail : Nat)
    (data : List Nat) (y : State) (he : exec i s = .next (finish (hostCmd (packet op p) s))) (h : passes op p s) (h0 : op ≠ 0xF0)
    (h1 : op = 1 → p.w 0 % 2 = 0)
    (hi : opInterim op = true → (opRun s.nextJob (numbered op p) (taken (numbered op p) s)).status = stOk)
    (hr : opRun s.nextJob (numbered op p) (entered op p s) = ⟨stOk, detail, data, [], false, y⟩)
    (hwins : y.wins = (entered op p s).wins) (hjobs : y.jobs = (entered op p s).jobs) (hrec : y.recov = (entered op p s).recov)
    (hk : Keeps (within (A ++ replies)) (entered op p s) y) (hl : ∀ e ∈ l, calmA (e.1.key e.2.1) ∧ y.rd e.1 e.2.1 = e.2.2)
    (hm : ∀ t, (∀ {γ : Type} (g : State → γ), (∀ s, g (sansEnd s) = g s) → (∀ s, g (sansDone s) = g s) → (∀ s, g s.rested = g s) →
      g t = g y) → more t) : answers i p s data A l more :=
  answers_of op detail data y he h h0 h1 hi hr hwins hjobs hrec hk hl
    (hm _ (fun g g1 g2 g3 => answered_get g g1 g2 g3 op p s h h0 h1 hi stOk detail data y hr hwins hjobs hrec))

/-- What neither taking a packet up nor its interim reply changes. -/
theorem entered_get {γ : Type} (g : State → γ) (hg : ∀ s, g (sansEntered s) = g s) (op : Nat) (p : Pkt) (s : State) : g (entered op p s) = g s :=
  of_sansEntered g hg (entered_sans op p s)

end Sys2Proof.Machine
end

