-- ==== Sys2Proof/Laws/Reads.lean ====
section
/-! SUPPORT. What a register word reads as depends on the fields of its register alone. -/

namespace Sys2Proof.Machine

/-- Every field of every register lies in it. -/
def fldsInPlace (b : Blk) : Bool :=
  b.rows.all (fun r => r.flds.all (fun f => f.base == b.base + r.off && (f.stride == b.stride || b.count == 1) && decide (f.lo < 64)))

theorem blks_in_place : blks.all fldsInPlace = true := by decide +kernel

/-- A register is found under its own address, in a block of the map. -/
theorem regAt_some {a : Nat} {b : Blk} {u : Nat} {r : Row} (h : regAt a = some (b, u, r)) :
    b ∈ blks ∧ r ∈ b.rows ∧ u < b.count ∧ a = b.base + b.stride * u + r.off := by
  rw [regAt_eq] at h
  obtain ⟨c, hc, hf⟩ := List.exists_of_findSome?_eq_some h
  unfold Blk.find at hf
  split at hf
  · rename_i hh
    obtain ⟨x, hx, he⟩ := Option.map_eq_some_iff.mp hf
    simp only [Prod.mk.injEq] at he
    obtain ⟨rfl, rfl, rfl⟩ := he
    simp only [Blk.holds, Bool.and_eq_true, decide_eq_true_eq] at hh
    have ho : x.off = (a - c.base) % c.stride := by simpa using List.find?_some hx
    refine ⟨hc, List.mem_of_find?_eq_some hx, hh.2, ?_⟩
    have e := Nat.div_add_mod (a - c.base) c.stride
    rw [ho]; omega
  · simp at hf

/-- A field of a register found under an address lies at that address. -/
theorem regAt_key {a : Nat} {b : Blk} {u : Nat} {r : Row} (h : regAt a = some (b, u, r)) (f : Fld) (hf : f ∈ r.flds) : f.key u / 64 = a := by
  obtain ⟨hb, hr, hu, ha⟩ := regAt_some h
  have h1 := List.all_eq_true.mp (List.all_eq_true.mp (List.all_eq_true.mp blks_in_place b hb) r hr) f hf
  simp only [Bool.and_eq_true, beq_iff_eq, Bool.or_eq_true, decide_eq_true_eq] at h1
  obtain ⟨⟨h2, h3⟩, h4⟩ := h1
  have e : f.stride * u = b.stride * u := by
    rcases h3 with h3 | h3
    · rw [h3]
    · have : u = 0 := by omega
      simp [this]
  simp only [Fld.key, e, h2]; omega

theorem row_keeps {P : Nat → Prop} {s t : State} (h : Keeps P s t) (hs : t.faultSum = s.faultSum) (a : Nat) {b : Blk} {u : Nat} {r : Row}
    (hr : regAt a = some (b, u, r)) (hp : ∀ k, k / 64 = a → ¬ P k) : rowWord t b u r = rowWord s b u r := by
  have hk : ∀ f ∈ r.flds, t.rd f u = s.rd f u := fun f hf => h.rd f u (hp _ (regAt_key hr f hf))
  unfold rowWord
  split
  · exact hs
  · split
    · rename_i hx
      obtain ⟨f, hf, he⟩ := List.any_eq_true.mp hx
      obtain ⟨hb, hrm, hu, ha⟩ := regAt_some hr
      have h1 := List.all_eq_true.mp (List.all_eq_true.mp (List.all_eq_true.mp blks_in_place b hb) r hrm) f hf
      have hpos : ∀ g : Fld, g.base = F.ENC_POS_COUNT.base → g.stride = F.ENC_POS_COUNT.stride → g.lo < 64 → t.rd g u = s.rd g u := by
        intro g g1 g2 g3
        refine h.rd g u (hp _ ?_)
        have e1 : f.base = F.ENC_POS_COUNT.base := by
          have := beq_iff_eq.mp he
          simp only [Bool.and_eq_true, decide_eq_true_eq] at h1
          simp only [Fld.key, F.ENC_POS_COUNT] at this
          simp only [F.ENC_POS_COUNT]
          omega
        have hfk := regAt_key hr f hf
        have hst : f.stride * u = g.stride * u := by
          simp only [Bool.and_eq_true, beq_iff_eq, Bool.or_eq_true, decide_eq_true_eq] at h1
          have hl : blks.all (fun c => c.rows.all (fun x => x.flds.all (fun y => !(y.base == F.ENC_POS_COUNT.base) || y.stride == F.ENC_POS_COUNT.stride))) = true := by decide +kernel
          have h5 := List.all_eq_true.mp (List.all_eq_true.mp (List.all_eq_true.mp hl b hb) r hrm) f hf
          simp only [e1, beq_self_eq_true, Bool.not_true, Bool.false_or, beq_iff_eq] at h5
          rw [h5, g2]
        have h4 : f.lo < 64 := by simp only [Bool.and_eq_true, decide_eq_true_eq] at h1; exact h1.2
        simp only [Fld.key] at hfk ⊢
        rw [g1, ← e1, ← hst]; omega
      have p1 := hpos F.ENC_POS_COUNT rfl rfl (by decide)
      have p2 := hpos F.ENC_POS_FRAC rfl rfl (by decide)
      unfold encPosWord encPos
      rw [p1, p2]
    · have : ∀ (l : List Fld) (n : Nat), (∀ f ∈ l, t.rd f u = s.rd f u) →
          l.foldl (fun n f => n + (if f.cls == .cmd then 0 else t.rd f u) * 2 ^ f.lo) n = l.foldl (fun n f => n + (if f.cls == .cmd then 0 else s.rd f u) * 2 ^ f.lo) n := by
        intro l
        induction l with
        | nil => intros; rfl
        | cons f l ih =>
          intro n hl
          simp only [List.foldl_cons]
          rw [hl f (by simp)]
          exact ih _ (fun g hg => hl g (by simp [hg]))
      exact this _ _ hk

/-- A register word of a register whose address is outside the places that a change may touch reads the same. -/
theorem readReg_keeps {P : Nat → Prop} {s t : State} (h : Keeps P s t) (hs : t.faultSum = s.faultSum) (a : Nat)
    (hp : ∀ k, (k / 64 = a / 4 * 4 ∨ k / 64 + 4 = a / 4 * 4) → ¬ P k) : readReg t a = readReg s a := by
  unfold readReg
  cases hw : wordAt (a / 4 * 4) with
  | none => simp only [Option.map_none]
  | some e =>
    obtain ⟨b, u, r, hi⟩ := e
    simp only [Option.map_some]
    unfold wordAt at hw
    split at hw
    · rename_i b' u' r' hr
      simp only [Option.some.injEq, Prod.mk.injEq] at hw
      obtain ⟨rfl, rfl, rfl, rfl⟩ := hw
      rw [row_keeps h hs _ hr (fun k hk => hp k (Or.inl hk))]
    · split at hw
      · simp at hw
      · rename_i h4
        split at hw
        · rename_i b' u' r' hr
          split at hw
          · simp only [Option.some.injEq, Prod.mk.injEq] at hw
            obtain ⟨rfl, rfl, rfl, rfl⟩ := hw
            rw [row_keeps h hs _ hr (fun k hk => hp k (Or.inr (by omega)))]
          · simp at hw
        · simp at hw

/-- A packet that has been taken up has changed no register but the host link's. -/
theorem entered_readReg (op : Nat) (p : Pkt) (s : State) (a : Nat) (ha : a < 0x600000 ∨ 0x700004 ≤ a) : readReg (entered op p s) a = readReg s a :=
  readReg_keeps (entered_keeps op p s) (of_sansEntered (·.faultSum) (fun _ => rfl) (entered_sans op p s)) a
    (fun k hk => by simp only [hstA]; omega)

theorem entered_readReg0 (op : Nat) (p : Pkt) (s : State) (a : Nat) (ha : a < 0x600000 ∨ 0x700004 ≤ a) :
    readReg0 (entered op p s) a = readReg0 s a := by
  unfold readReg0
  rw [entered_readReg op p s a ha]

end Sys2Proof.Machine
end

