-- ==== Sys2Proof/Laws/Modes.lean ====
section
/-! SUPPORT. Mode requests: what they depend on, and the transitions that change nothing but the mode. -/

namespace Sys2Proof.Machine

/-- Places of the host link and of `GLB_MODE_REQ`. -/
def reqA (k : Nat) : Prop := hstA k ∨ k / 64 = 0x14

/-- A request's result depends on nothing that the host link or the request register holds. -/
theorem requestResult_congr {s t : State} (h : Keeps reqA s t) (hb : t.boot = s.boot) (hs : t.safeAt = s.safeAt) (hc : t.cmd = s.cmd)
    (hp : t.parBad = s.parBad) (hch : t.chns = s.chns) (target depth : Nat) : requestResult t target depth = requestResult s target depth := by
  have r : ∀ (f : Fld) (u : Nat), ¬ reqA (f.key u) → t.rd f u = s.rd f u := fun f u g => h.rd f u g
  have n1 : ¬ reqA (F.GLB_MODE_MODE.key 0) := by simp only [reqA, hstA, Fld.key, F.GLB_MODE_MODE]; omega
  have n2 : ¬ reqA (F.GLB_MODE_TRANSIT.key 0) := by simp only [reqA, hstA, Fld.key, F.GLB_MODE_TRANSIT]; omega
  have n3 : ¬ reqA (F.GLB_TICK_TICK.key 0) := by simp only [reqA, hstA, Fld.key, F.GLB_TICK_TICK]; omega
  have n4 : ¬ reqA (F.PWR_STAT_PF.key 0) := by simp only [reqA, hstA, Fld.key, F.PWR_STAT_PF]; omega
  have n5 : ¬ reqA (F.PWR_STAT_THERM.key 0) := by simp only [reqA, hstA, Fld.key, F.PWR_STAT_THERM]; omega
  have n6 : ¬ reqA (F.CAR_STAT_OVERTEMP.key 0) := by simp only [reqA, hstA, Fld.key, F.CAR_STAT_OVERTEMP]; omega
  have n7 : ¬ reqA (F.PWR_STAT_VBAK_OK.key 0) := by simp only [reqA, hstA, Fld.key, F.PWR_STAT_VBAK_OK]; omega
  have n8 : ¬ reqA (F.PAN_RET_RET.key 0) := by simp only [reqA, hstA, Fld.key, F.PAN_RET_RET]; omega
  unfold requestResult requestLegal actTick State.eff State.now rampsDone safePersists chnRampLeft chnOf mode State.on
  rw [hb, hs, hc, hp, hch, r _ _ n1, r _ _ n2, r _ _ n3, r _ _ n4, r _ _ n5, r _ _ n6, r _ _ n7, r _ _ n8]

/-- A mode is entered from another one: the registers of the mode. -/
theorem modeTo_reads (m : Nat) (s : State) (h : mode s ≠ m) (hm : m < 16) :
    (modeTo m s).rd F.GLB_MODE_MODE 0 = m ∧ (modeTo m s).rd F.GLB_MODE_PREV 0 = mode s ∧
      (modeTo m s).rd F.GLB_MODE_CHANGES 0 = (s.rd F.GLB_MODE_CHANGES 0 + 1) % 2 ^ F.GLB_MODE_CHANGES.width := by
  have c : (mode s == m) = false := by simpa using h
  have e : ∀ f : Fld, ¬ logA (f.key 0) →
      (modeTo m s).rd f 0 = ((s.wrs [(F.GLB_MODE_PREV, 0, mode s), (F.GLB_MODE_MODE, 0, m)]).tally F.GLB_MODE_CHANGES 0).rd f 0 := by
    intro f hf
    unfold modeTo
    simp only [c, Bool.false_eq_true, if_false]
    show State.rd (logEvent _ _ _ _ _ _) f 0 = _
    exact (logEvent_keeps _ _ _ _ _ _).rd _ _ hf
  have d : F.GLB_MODE_MODE.key 0 ≠ F.GLB_MODE_CHANGES.key 0 ∧ F.GLB_MODE_PREV.key 0 ≠ F.GLB_MODE_CHANGES.key 0 ∧
      F.GLB_MODE_PREV.key 0 ≠ F.GLB_MODE_MODE.key 0 ∧ F.GLB_MODE_CHANGES.key 0 ≠ F.GLB_MODE_MODE.key 0 ∧
        F.GLB_MODE_CHANGES.key 0 ≠ F.GLB_MODE_PREV.key 0 ∧ F.GLB_MODE_MODE.key 0 ≠ F.GLB_MODE_PREV.key 0 := by
    simp only [Fld.key, F.GLB_MODE_MODE, F.GLB_MODE_CHANGES, F.GLB_MODE_PREV]; omega
  have hl : mode s < 16 := s.rd_lt F.GLB_MODE_MODE 0
  refine ⟨?_, ?_, ?_⟩
  · rw [e _ (by simp only [logA, Fld.key, F.GLB_MODE_MODE]; omega)]
    simp only [State.tally, State.tallyBy, State.wrs_cons, State.wrs_nil]
    rw [State.rd_wr_other _ _ _ _ _ _ (by first | exact d.1 | exact d.2.2.2.1), State.rd_wr_same]
    exact Nat.mod_eq_of_lt (show m < 2 ^ 4 from hm)
  · rw [e _ (by simp only [logA, Fld.key, F.GLB_MODE_PREV]; omega)]
    simp only [State.tally, State.tallyBy, State.wrs_cons, State.wrs_nil]
    rw [State.rd_wr_other _ _ _ _ _ _ (by first | exact d.2.1 | exact d.2.2.2.2.1), State.rd_wr_other _ _ _ _ _ _ (by first | exact d.2.2.1 | exact d.2.2.2.2.2), State.rd_wr_same]
    exact Nat.mod_eq_of_lt (show mode s < 2 ^ 4 from hl)
  · rw [e _ (by simp only [logA, Fld.key, F.GLB_MODE_CHANGES]; omega)]
    simp only [State.tally, State.tallyBy, State.wrs_cons, State.wrs_nil]
    rw [State.rd_wr_same, State.rd_wr_other _ _ _ _ _ _ (by first | exact d.1 | exact d.2.2.2.1), State.rd_wr_other _ _ _ _ _ _ (by first | exact d.2.1 | exact d.2.2.2.2.1)]

end Sys2Proof.Machine
end

