-- ==== Sys2Proof/Laws/Units.lean ====
section
/-! SUPPORT. Records of units, one at a time: a record stored is read back, and every other stays. -/

namespace Sys2Proof.Machine

@[simp] theorem plyOf_setPly_same (s : State) (p : Nat) (v : Ply) : plyOf (setPly p v s) p = v := tabGet_set_same _ _ _ _

theorem plyOf_setPly_other (s : State) (p q : Nat) (v : Ply) (h : p ≠ q) : plyOf (setPly p v s) q = plyOf s q := by
  unfold plyOf setPly
  rw [tabGet_set_other _ _ _ _ _ h]

@[simp] theorem plyOf_wr (s : State) (g : Fld) (u v : Nat) : plyOf (s.wr g u v) = plyOf s := rfl

@[simp] theorem plyOf_wrB (s : State) (g : Fld) (u : Nat) (v : Bool) : plyOf (s.wrB g u v) = plyOf s := rfl
@[simp] theorem plyOf_wrI (s : State) (g : Fld) (u : Nat) (v : Int) : plyOf (s.wrI g u v) = plyOf s := rfl
@[simp] theorem plyOf_bump (s : State) (g : Fld) (u : Nat) : plyOf (s.bump g u) = plyOf s := rfl
@[simp] theorem plyOf_bumpBy (s : State) (g : Fld) (u n : Nat) : plyOf (s.bumpBy g u n) = plyOf s := rfl
@[simp] theorem plyOf_tally (s : State) (g : Fld) (u : Nat) : plyOf (s.tally g u) = plyOf s := rfl

@[simp] theorem plyOf_wrs (s : State) (l : List (Fld × Nat × Nat)) : plyOf (s.wrs l) = plyOf s :=
  State.wrs_sans plyOf (fun _ _ _ _ => rfl) l s

theorem plyOf_congr {s t : State} (h : t.plys = s.plys) : plyOf t = plyOf s := by unfold plyOf; rw [h]

theorem unitTo_ply {s t z : State} {p : Nat} {v : Ply} (h : t.plys = (setPly p v z).plys) (g : z.plys = s.plys) : unitTo plyOf s t p v := by
  refine ⟨?_, fun q hq => ?_⟩
  · rw [plyOf_congr h, plyOf_setPly_same]
  · rw [plyOf_congr h, plyOf_setPly_other _ _ _ _ (fun e => hq e.symm), plyOf_congr g]

theorem unitTo_ply_again {s t z : State} {p : Nat} {v : Ply} (h : t.plys = (setPly p v z).plys) (g : ∀ q, q ≠ p → plyOf z q = plyOf s q) :
    unitTo plyOf s t p v := by
  refine ⟨?_, fun q hq => ?_⟩
  · rw [plyOf_congr h, plyOf_setPly_same]
  · rw [plyOf_congr h, plyOf_setPly_other _ _ _ _ (fun e => hq e.symm), g q hq]

theorem unitTo_ply_same {s t : State} {p : Nat} (h : t.plys = s.plys) : unitTo plyOf s t p (plyOf s p) :=
  ⟨by rw [plyOf_congr h], fun q _ => by rw [plyOf_congr h]⟩

theorem unitsKept_ply {s t : State} (h : t.plys = s.plys) : unitsKept plyOf s t := fun q => by rw [plyOf_congr h]

@[simp] theorem chnOf_setChn_same (s : State) (p : Nat) (v : Chn) : chnOf (setChn p v s) p = v := tabGet_set_same _ _ _ _

theorem chnOf_setChn_other (s : State) (p q : Nat) (v : Chn) (h : p ≠ q) : chnOf (setChn p v s) q = chnOf s q := by
  unfold chnOf setChn
  rw [tabGet_set_other _ _ _ _ _ h]

@[simp] theorem chnOf_wr (s : State) (g : Fld) (u v : Nat) : chnOf (s.wr g u v) = chnOf s := rfl

@[simp] theorem chnOf_wrB (s : State) (g : Fld) (u : Nat) (v : Bool) : chnOf (s.wrB g u v) = chnOf s := rfl
@[simp] theorem chnOf_wrI (s : State) (g : Fld) (u : Nat) (v : Int) : chnOf (s.wrI g u v) = chnOf s := rfl
@[simp] theorem chnOf_bump (s : State) (g : Fld) (u : Nat) : chnOf (s.bump g u) = chnOf s := rfl
@[simp] theorem chnOf_bumpBy (s : State) (g : Fld) (u n : Nat) : chnOf (s.bumpBy g u n) = chnOf s := rfl
@[simp] theorem chnOf_tally (s : State) (g : Fld) (u : Nat) : chnOf (s.tally g u) = chnOf s := rfl

@[simp] theorem chnOf_wrs (s : State) (l : List (Fld × Nat × Nat)) : chnOf (s.wrs l) = chnOf s :=
  State.wrs_sans chnOf (fun _ _ _ _ => rfl) l s

theorem chnOf_congr {s t : State} (h : t.chns = s.chns) : chnOf t = chnOf s := by unfold chnOf; rw [h]

theorem unitTo_chn {s t z : State} {p : Nat} {v : Chn} (h : t.chns = (setChn p v z).chns) (g : z.chns = s.chns) : unitTo chnOf s t p v := by
  refine ⟨?_, fun q hq => ?_⟩
  · rw [chnOf_congr h, chnOf_setChn_same]
  · rw [chnOf_congr h, chnOf_setChn_other _ _ _ _ (fun e => hq e.symm), chnOf_congr g]

theorem unitTo_chn_again {s t z : State} {p : Nat} {v : Chn} (h : t.chns = (setChn p v z).chns) (g : ∀ q, q ≠ p → chnOf z q = chnOf s q) :
    unitTo chnOf s t p v := by
  refine ⟨?_, fun q hq => ?_⟩
  · rw [chnOf_congr h, chnOf_setChn_same]
  · rw [chnOf_congr h, chnOf_setChn_other _ _ _ _ (fun e => hq e.symm), g q hq]

theorem unitTo_chn_same {s t : State} {p : Nat} (h : t.chns = s.chns) : unitTo chnOf s t p (chnOf s p) :=
  ⟨by rw [chnOf_congr h], fun q _ => by rw [chnOf_congr h]⟩

theorem unitsKept_chn {s t : State} (h : t.chns = s.chns) : unitsKept chnOf s t := fun q => by rw [chnOf_congr h]

@[simp] theorem quOf_setQu_same (s : State) (p : Nat) (v : Queue) : quOf (setQu p v s) p = v := tabGet_set_same _ _ _ _

theorem quOf_setQu_other (s : State) (p q : Nat) (v : Queue) (h : p ≠ q) : quOf (setQu p v s) q = quOf s q := by
  unfold quOf setQu
  rw [tabGet_set_other _ _ _ _ _ h]

@[simp] theorem quOf_wr (s : State) (g : Fld) (u v : Nat) : quOf (s.wr g u v) = quOf s := rfl

@[simp] theorem quOf_wrB (s : State) (g : Fld) (u : Nat) (v : Bool) : quOf (s.wrB g u v) = quOf s := rfl
@[simp] theorem quOf_wrI (s : State) (g : Fld) (u : Nat) (v : Int) : quOf (s.wrI g u v) = quOf s := rfl
@[simp] theorem quOf_bump (s : State) (g : Fld) (u : Nat) : quOf (s.bump g u) = quOf s := rfl
@[simp] theorem quOf_bumpBy (s : State) (g : Fld) (u n : Nat) : quOf (s.bumpBy g u n) = quOf s := rfl
@[simp] theorem quOf_tally (s : State) (g : Fld) (u : Nat) : quOf (s.tally g u) = quOf s := rfl

@[simp] theorem quOf_wrs (s : State) (l : List (Fld × Nat × Nat)) : quOf (s.wrs l) = quOf s :=
  State.wrs_sans quOf (fun _ _ _ _ => rfl) l s

theorem quOf_congr {s t : State} (h : t.queues = s.queues) : quOf t = quOf s := by unfold quOf; rw [h]

theorem unitTo_qu {s t z : State} {p : Nat} {v : Queue} (h : t.queues = (setQu p v z).queues) (g : z.queues = s.queues) : unitTo quOf s t p v := by
  refine ⟨?_, fun q hq => ?_⟩
  · rw [quOf_congr h, quOf_setQu_same]
  · rw [quOf_congr h, quOf_setQu_other _ _ _ _ (fun e => hq e.symm), quOf_congr g]

theorem unitTo_qu_again {s t z : State} {p : Nat} {v : Queue} (h : t.queues = (setQu p v z).queues) (g : ∀ q, q ≠ p → quOf z q = quOf s q) :
    unitTo quOf s t p v := by
  refine ⟨?_, fun q hq => ?_⟩
  · rw [quOf_congr h, quOf_setQu_same]
  · rw [quOf_congr h, quOf_setQu_other _ _ _ _ (fun e => hq e.symm), g q hq]

theorem unitTo_qu_same {s t : State} {p : Nat} (h : t.queues = s.queues) : unitTo quOf s t p (quOf s p) :=
  ⟨by rw [quOf_congr h], fun q _ => by rw [quOf_congr h]⟩

theorem unitsKept_qu {s t : State} (h : t.queues = s.queues) : unitsKept quOf s t := fun q => by rw [quOf_congr h]

@[simp] theorem capOf_setCap_same (s : State) (p : Nat) (v : Cap) : capOf (setCap p v s) p = v := tabGet_set_same _ _ _ _

theorem capOf_setCap_other (s : State) (p q : Nat) (v : Cap) (h : p ≠ q) : capOf (setCap p v s) q = capOf s q := by
  unfold capOf setCap
  rw [tabGet_set_other _ _ _ _ _ h]

@[simp] theorem capOf_wr (s : State) (g : Fld) (u v : Nat) : capOf (s.wr g u v) = capOf s := rfl

@[simp] theorem capOf_wrB (s : State) (g : Fld) (u : Nat) (v : Bool) : capOf (s.wrB g u v) = capOf s := rfl
@[simp] theorem capOf_wrI (s : State) (g : Fld) (u : Nat) (v : Int) : capOf (s.wrI g u v) = capOf s := rfl
@[simp] theorem capOf_bump (s : State) (g : Fld) (u : Nat) : capOf (s.bump g u) = capOf s := rfl
@[simp] theorem capOf_bumpBy (s : State) (g : Fld) (u n : Nat) : capOf (s.bumpBy g u n) = capOf s := rfl
@[simp] theorem capOf_tally (s : State) (g : Fld) (u : Nat) : capOf (s.tally g u) = capOf s := rfl

@[simp] theorem capOf_wrs (s : State) (l : List (Fld × Nat × Nat)) : capOf (s.wrs l) = capOf s :=
  State.wrs_sans capOf (fun _ _ _ _ => rfl) l s

theorem capOf_congr {s t : State} (h : t.caps = s.caps) : capOf t = capOf s := by unfold capOf; rw [h]

theorem unitTo_cap {s t z : State} {p : Nat} {v : Cap} (h : t.caps = (setCap p v z).caps) (g : z.caps = s.caps) : unitTo capOf s t p v := by
  refine ⟨?_, fun q hq => ?_⟩
  · rw [capOf_congr h, capOf_setCap_same]
  · rw [capOf_congr h, capOf_setCap_other _ _ _ _ (fun e => hq e.symm), capOf_congr g]

theorem unitTo_cap_again {s t z : State} {p : Nat} {v : Cap} (h : t.caps = (setCap p v z).caps) (g : ∀ q, q ≠ p → capOf z q = capOf s q) :
    unitTo capOf s t p v := by
  refine ⟨?_, fun q hq => ?_⟩
  · rw [capOf_congr h, capOf_setCap_same]
  · rw [capOf_congr h, capOf_setCap_other _ _ _ _ (fun e => hq e.symm), g q hq]

theorem unitTo_cap_same {s t : State} {p : Nat} (h : t.caps = s.caps) : unitTo capOf s t p (capOf s p) :=
  ⟨by rw [capOf_congr h], fun q _ => by rw [capOf_congr h]⟩

theorem unitsKept_cap {s t : State} (h : t.caps = s.caps) : unitsKept capOf s t := fun q => by rw [capOf_congr h]

@[simp] theorem dmdOf_setDmd_same (s : State) (p : Nat) (v : Dmd) : dmdOf (setDmd p v s) p = v := tabGet_set_same _ _ _ _

theorem dmdOf_setDmd_other (s : State) (p q : Nat) (v : Dmd) (h : p ≠ q) : dmdOf (setDmd p v s) q = dmdOf s q := by
  unfold dmdOf setDmd
  rw [tabGet_set_other _ _ _ _ _ h]

@[simp] theorem dmdOf_wr (s : State) (g : Fld) (u v : Nat) : dmdOf (s.wr g u v) = dmdOf s := rfl

@[simp] theorem dmdOf_wrB (s : State) (g : Fld) (u : Nat) (v : Bool) : dmdOf (s.wrB g u v) = dmdOf s := rfl
@[simp] theorem dmdOf_wrI (s : State) (g : Fld) (u : Nat) (v : Int) : dmdOf (s.wrI g u v) = dmdOf s := rfl
@[simp] theorem dmdOf_bump (s : State) (g : Fld) (u : Nat) : dmdOf (s.bump g u) = dmdOf s := rfl
@[simp] theorem dmdOf_bumpBy (s : State) (g : Fld) (u n : Nat) : dmdOf (s.bumpBy g u n) = dmdOf s := rfl
@[simp] theorem dmdOf_tally (s : State) (g : Fld) (u : Nat) : dmdOf (s.tally g u) = dmdOf s := rfl

@[simp] theorem dmdOf_wrs (s : State) (l : List (Fld × Nat × Nat)) : dmdOf (s.wrs l) = dmdOf s :=
  State.wrs_sans dmdOf (fun _ _ _ _ => rfl) l s

theorem dmdOf_congr {s t : State} (h : t.dmds = s.dmds) : dmdOf t = dmdOf s := by unfold dmdOf; rw [h]

theorem unitTo_dmd {s t z : State} {p : Nat} {v : Dmd} (h : t.dmds = (setDmd p v z).dmds) (g : z.dmds = s.dmds) : unitTo dmdOf s t p v := by
  refine ⟨?_, fun q hq => ?_⟩
  · rw [dmdOf_congr h, dmdOf_setDmd_same]
  · rw [dmdOf_congr h, dmdOf_setDmd_other _ _ _ _ (fun e => hq e.symm), dmdOf_congr g]

theorem unitTo_dmd_again {s t z : State} {p : Nat} {v : Dmd} (h : t.dmds = (setDmd p v z).dmds) (g : ∀ q, q ≠ p → dmdOf z q = dmdOf s q) :
    unitTo dmdOf s t p v := by
  refine ⟨?_, fun q hq => ?_⟩
  · rw [dmdOf_congr h, dmdOf_setDmd_same]
  · rw [dmdOf_congr h, dmdOf_setDmd_other _ _ _ _ (fun e => hq e.symm), g q hq]

theorem unitTo_dmd_same {s t : State} {p : Nat} (h : t.dmds = s.dmds) : unitTo dmdOf s t p (dmdOf s p) :=
  ⟨by rw [dmdOf_congr h], fun q _ => by rw [dmdOf_congr h]⟩

theorem unitsKept_dmd {s t : State} (h : t.dmds = s.dmds) : unitsKept dmdOf s t := fun q => by rw [dmdOf_congr h]

@[simp] theorem laneOf_setLane_same (s : State) (p : Nat) (v : Lane) : laneOf (setLane p v s) p = v := tabGet_set_same _ _ _ _

theorem laneOf_setLane_other (s : State) (p q : Nat) (v : Lane) (h : p ≠ q) : laneOf (setLane p v s) q = laneOf s q := by
  unfold laneOf setLane
  rw [tabGet_set_other _ _ _ _ _ h]

@[simp] theorem laneOf_wr (s : State) (g : Fld) (u v : Nat) : laneOf (s.wr g u v) = laneOf s := rfl

@[simp] theorem laneOf_wrB (s : State) (g : Fld) (u : Nat) (v : Bool) : laneOf (s.wrB g u v) = laneOf s := rfl
@[simp] theorem laneOf_wrI (s : State) (g : Fld) (u : Nat) (v : Int) : laneOf (s.wrI g u v) = laneOf s := rfl
@[simp] theorem laneOf_bump (s : State) (g : Fld) (u : Nat) : laneOf (s.bump g u) = laneOf s := rfl
@[simp] theorem laneOf_bumpBy (s : State) (g : Fld) (u n : Nat) : laneOf (s.bumpBy g u n) = laneOf s := rfl
@[simp] theorem laneOf_tally (s : State) (g : Fld) (u : Nat) : laneOf (s.tally g u) = laneOf s := rfl

@[simp] theorem laneOf_wrs (s : State) (l : List (Fld × Nat × Nat)) : laneOf (s.wrs l) = laneOf s :=
  State.wrs_sans laneOf (fun _ _ _ _ => rfl) l s

theorem laneOf_congr {s t : State} (h : t.lanes = s.lanes) : laneOf t = laneOf s := by unfold laneOf; rw [h]

theorem unitTo_lane {s t z : State} {p : Nat} {v : Lane} (h : t.lanes = (setLane p v z).lanes) (g : z.lanes = s.lanes) : unitTo laneOf s t p v := by
  refine ⟨?_, fun q hq => ?_⟩
  · rw [laneOf_congr h, laneOf_setLane_same]
  · rw [laneOf_congr h, laneOf_setLane_other _ _ _ _ (fun e => hq e.symm), laneOf_congr g]

theorem unitTo_lane_again {s t z : State} {p : Nat} {v : Lane} (h : t.lanes = (setLane p v z).lanes) (g : ∀ q, q ≠ p → laneOf z q = laneOf s q) :
    unitTo laneOf s t p v := by
  refine ⟨?_, fun q hq => ?_⟩
  · rw [laneOf_congr h, laneOf_setLane_same]
  · rw [laneOf_congr h, laneOf_setLane_other _ _ _ _ (fun e => hq e.symm), g q hq]

theorem unitTo_lane_same {s t : State} {p : Nat} (h : t.lanes = s.lanes) : unitTo laneOf s t p (laneOf s p) :=
  ⟨by rw [laneOf_congr h], fun q _ => by rw [laneOf_congr h]⟩

theorem unitsKept_lane {s t : State} (h : t.lanes = s.lanes) : unitsKept laneOf s t := fun q => by rw [laneOf_congr h]

@[simp] theorem railOf_setRail_same (s : State) (p : Nat) (v : Rail) : railOf (setRail p v s) p = v := tabGet_set_same _ _ _ _

theorem railOf_setRail_other (s : State) (p q : Nat) (v : Rail) (h : p ≠ q) : railOf (setRail p v s) q = railOf s q := by
  unfold railOf setRail
  rw [tabGet_set_other _ _ _ _ _ h]

@[simp] theorem railOf_wr (s : State) (g : Fld) (u v : Nat) : railOf (s.wr g u v) = railOf s := rfl

@[simp] theorem railOf_wrB (s : State) (g : Fld) (u : Nat) (v : Bool) : railOf (s.wrB g u v) = railOf s := rfl
@[simp] theorem railOf_wrI (s : State) (g : Fld) (u : Nat) (v : Int) : railOf (s.wrI g u v) = railOf s := rfl
@[simp] theorem railOf_bump (s : State) (g : Fld) (u : Nat) : railOf (s.bump g u) = railOf s := rfl
@[simp] theorem railOf_bumpBy (s : State) (g : Fld) (u n : Nat) : railOf (s.bumpBy g u n) = railOf s := rfl
@[simp] theorem railOf_tally (s : State) (g : Fld) (u : Nat) : railOf (s.tally g u) = railOf s := rfl

@[simp] theorem railOf_wrs (s : State) (l : List (Fld × Nat × Nat)) : railOf (s.wrs l) = railOf s :=
  State.wrs_sans railOf (fun _ _ _ _ => rfl) l s

theorem railOf_congr {s t : State} (h : t.rails = s.rails) : railOf t = railOf s := by unfold railOf; rw [h]

theorem unitTo_rail {s t z : State} {p : Nat} {v : Rail} (h : t.rails = (setRail p v z).rails) (g : z.rails = s.rails) : unitTo railOf s t p v := by
  refine ⟨?_, fun q hq => ?_⟩
  · rw [railOf_congr h, railOf_setRail_same]
  · rw [railOf_congr h, railOf_setRail_other _ _ _ _ (fun e => hq e.symm), railOf_congr g]

theorem unitTo_rail_again {s t z : State} {p : Nat} {v : Rail} (h : t.rails = (setRail p v z).rails) (g : ∀ q, q ≠ p → railOf z q = railOf s q) :
    unitTo railOf s t p v := by
  refine ⟨?_, fun q hq => ?_⟩
  · rw [railOf_congr h, railOf_setRail_same]
  · rw [railOf_congr h, railOf_setRail_other _ _ _ _ (fun e => hq e.symm), g q hq]

theorem unitTo_rail_same {s t : State} {p : Nat} (h : t.rails = s.rails) : unitTo railOf s t p (railOf s p) :=
  ⟨by rw [railOf_congr h], fun q _ => by rw [railOf_congr h]⟩

theorem unitsKept_rail {s t : State} (h : t.rails = s.rails) : unitsKept railOf s t := fun q => by rw [railOf_congr h]

@[simp] theorem encOf_setEnc_same (s : State) (p : Nat) (v : Enc) : encOf (setEnc p v s) p = v := tabGet_set_same _ _ _ _

theorem encOf_setEnc_other (s : State) (p q : Nat) (v : Enc) (h : p ≠ q) : encOf (setEnc p v s) q = encOf s q := by
  unfold encOf setEnc
  rw [tabGet_set_other _ _ _ _ _ h]

@[simp] theorem encOf_wr (s : State) (g : Fld) (u v : Nat) : encOf (s.wr g u v) = encOf s := rfl

@[simp] theorem encOf_wrB (s : State) (g : Fld) (u : Nat) (v : Bool) : encOf (s.wrB g u v) = encOf s := rfl
@[simp] theorem encOf_wrI (s : State) (g : Fld) (u : Nat) (v : Int) : encOf (s.wrI g u v) = encOf s := rfl
@[simp] theorem encOf_bump (s : State) (g : Fld) (u : Nat) : encOf (s.bump g u) = encOf s := rfl
@[simp] theorem encOf_bumpBy (s : State) (g : Fld) (u n : Nat) : encOf (s.bumpBy g u n) = encOf s := rfl
@[simp] theorem encOf_tally (s : State) (g : Fld) (u : Nat) : encOf (s.tally g u) = encOf s := rfl

@[simp] theorem encOf_wrs (s : State) (l : List (Fld × Nat × Nat)) : encOf (s.wrs l) = encOf s :=
  State.wrs_sans encOf (fun _ _ _ _ => rfl) l s

theorem encOf_congr {s t : State} (h : t.encs = s.encs) : encOf t = encOf s := by unfold encOf; rw [h]

theorem unitTo_enc {s t z : State} {p : Nat} {v : Enc} (h : t.encs = (setEnc p v z).encs) (g : z.encs = s.encs) : unitTo encOf s t p v := by
  refine ⟨?_, fun q hq => ?_⟩
  · rw [encOf_congr h, encOf_setEnc_same]
  · rw [encOf_congr h, encOf_setEnc_other _ _ _ _ (fun e => hq e.symm), encOf_congr g]

theorem unitTo_enc_again {s t z : State} {p : Nat} {v : Enc} (h : t.encs = (setEnc p v z).encs) (g : ∀ q, q ≠ p → encOf z q = encOf s q) :
    unitTo encOf s t p v := by
  refine ⟨?_, fun q hq => ?_⟩
  · rw [encOf_congr h, encOf_setEnc_same]
  · rw [encOf_congr h, encOf_setEnc_other _ _ _ _ (fun e => hq e.symm), g q hq]

theorem unitTo_enc_same {s t : State} {p : Nat} (h : t.encs = s.encs) : unitTo encOf s t p (encOf s p) :=
  ⟨by rw [encOf_congr h], fun q _ => by rw [encOf_congr h]⟩

theorem unitsKept_enc {s t : State} (h : t.encs = s.encs) : unitsKept encOf s t := fun q => by rw [encOf_congr h]

@[simp] theorem trkOf_setTrk_same (s : State) (p : Nat) (v : Trk) : trkOf (setTrk p v s) p = v := tabGet_set_same _ _ _ _

theorem trkOf_setTrk_other (s : State) (p q : Nat) (v : Trk) (h : p ≠ q) : trkOf (setTrk p v s) q = trkOf s q := by
  unfold trkOf setTrk
  rw [tabGet_set_other _ _ _ _ _ h]

@[simp] theorem trkOf_wr (s : State) (g : Fld) (u v : Nat) : trkOf (s.wr g u v) = trkOf s := rfl

@[simp] theorem trkOf_wrB (s : State) (g : Fld) (u : Nat) (v : Bool) : trkOf (s.wrB g u v) = trkOf s := rfl
@[simp] theorem trkOf_wrI (s : State) (g : Fld) (u : Nat) (v : Int) : trkOf (s.wrI g u v) = trkOf s := rfl
@[simp] theorem trkOf_bump (s : State) (g : Fld) (u : Nat) : trkOf (s.bump g u) = trkOf s := rfl
@[simp] theorem trkOf_bumpBy (s : State) (g : Fld) (u n : Nat) : trkOf (s.bumpBy g u n) = trkOf s := rfl
@[simp] theorem trkOf_tally (s : State) (g : Fld) (u : Nat) : trkOf (s.tally g u) = trkOf s := rfl

@[simp] theorem trkOf_wrs (s : State) (l : List (Fld × Nat × Nat)) : trkOf (s.wrs l) = trkOf s :=
  State.wrs_sans trkOf (fun _ _ _ _ => rfl) l s

theorem trkOf_congr {s t : State} (h : t.trks = s.trks) : trkOf t = trkOf s := by unfold trkOf; rw [h]

theorem unitTo_trk {s t z : State} {p : Nat} {v : Trk} (h : t.trks = (setTrk p v z).trks) (g : z.trks = s.trks) : unitTo trkOf s t p v := by
  refine ⟨?_, fun q hq => ?_⟩
  · rw [trkOf_congr h, trkOf_setTrk_same]
  · rw [trkOf_congr h, trkOf_setTrk_other _ _ _ _ (fun e => hq e.symm), trkOf_congr g]

theorem unitTo_trk_again {s t z : State} {p : Nat} {v : Trk} (h : t.trks = (setTrk p v z).trks) (g : ∀ q, q ≠ p → trkOf z q = trkOf s q) :
    unitTo trkOf s t p v := by
  refine ⟨?_, fun q hq => ?_⟩
  · rw [trkOf_congr h, trkOf_setTrk_same]
  · rw [trkOf_congr h, trkOf_setTrk_other _ _ _ _ (fun e => hq e.symm), g q hq]

theorem unitTo_trk_same {s t : State} {p : Nat} (h : t.trks = s.trks) : unitTo trkOf s t p (trkOf s p) :=
  ⟨by rw [trkOf_congr h], fun q _ => by rw [trkOf_congr h]⟩

theorem unitsKept_trk {s t : State} (h : t.trks = s.trks) : unitsKept trkOf s t := fun q => by rw [trkOf_congr h]

@[simp] theorem chRailOf_setChRail_same (s : State) (p : Nat) (v : ChRail) : chRailOf (setChRail p v s) p = v := tabGet_set_same _ _ _ _

theorem chRailOf_setChRail_other (s : State) (p q : Nat) (v : ChRail) (h : p ≠ q) : chRailOf (setChRail p v s) q = chRailOf s q := by
  unfold chRailOf setChRail
  rw [tabGet_set_other _ _ _ _ _ h]

@[simp] theorem chRailOf_wr (s : State) (g : Fld) (u v : Nat) : chRailOf (s.wr g u v) = chRailOf s := rfl

@[simp] theorem chRailOf_wrB (s : State) (g : Fld) (u : Nat) (v : Bool) : chRailOf (s.wrB g u v) = chRailOf s := rfl
@[simp] theorem chRailOf_wrI (s : State) (g : Fld) (u : Nat) (v : Int) : chRailOf (s.wrI g u v) = chRailOf s := rfl
@[simp] theorem chRailOf_bump (s : State) (g : Fld) (u : Nat) : chRailOf (s.bump g u) = chRailOf s := rfl
@[simp] theorem chRailOf_bumpBy (s : State) (g : Fld) (u n : Nat) : chRailOf (s.bumpBy g u n) = chRailOf s := rfl
@[simp] theorem chRailOf_tally (s : State) (g : Fld) (u : Nat) : chRailOf (s.tally g u) = chRailOf s := rfl

@[simp] theorem chRailOf_wrs (s : State) (l : List (Fld × Nat × Nat)) : chRailOf (s.wrs l) = chRailOf s :=
  State.wrs_sans chRailOf (fun _ _ _ _ => rfl) l s

theorem chRailOf_congr {s t : State} (h : t.chRails = s.chRails) : chRailOf t = chRailOf s := by unfold chRailOf; rw [h]

theorem unitTo_chRail {s t z : State} {p : Nat} {v : ChRail} (h : t.chRails = (setChRail p v z).chRails) (g : z.chRails = s.chRails) : unitTo chRailOf s t p v := by
  refine ⟨?_, fun q hq => ?_⟩
  · rw [chRailOf_congr h, chRailOf_setChRail_same]
  · rw [chRailOf_congr h, chRailOf_setChRail_other _ _ _ _ (fun e => hq e.symm), chRailOf_congr g]

theorem unitTo_chRail_again {s t z : State} {p : Nat} {v : ChRail} (h : t.chRails = (setChRail p v z).chRails) (g : ∀ q, q ≠ p → chRailOf z q = chRailOf s q) :
    unitTo chRailOf s t p v := by
  refine ⟨?_, fun q hq => ?_⟩
  · rw [chRailOf_congr h, chRailOf_setChRail_same]
  · rw [chRailOf_congr h, chRailOf_setChRail_other _ _ _ _ (fun e => hq e.symm), g q hq]

theorem unitTo_chRail_same {s t : State} {p : Nat} (h : t.chRails = s.chRails) : unitTo chRailOf s t p (chRailOf s p) :=
  ⟨by rw [chRailOf_congr h], fun q _ => by rw [chRailOf_congr h]⟩

theorem unitsKept_chRail {s t : State} (h : t.chRails = s.chRails) : unitsKept chRailOf s t := fun q => by rw [chRailOf_congr h]

@[simp] theorem olOf_setOl_same (s : State) (p : Nat) (v : OLane) : olOf (setOl p v s) p = v := tabGet_set_same _ _ _ _

theorem olOf_setOl_other (s : State) (p q : Nat) (v : OLane) (h : p ≠ q) : olOf (setOl p v s) q = olOf s q := by
  unfold olOf setOl
  rw [tabGet_set_other _ _ _ _ _ h]

@[simp] theorem olOf_wr (s : State) (g : Fld) (u v : Nat) : olOf (s.wr g u v) = olOf s := rfl

@[simp] theorem olOf_wrB (s : State) (g : Fld) (u : Nat) (v : Bool) : olOf (s.wrB g u v) = olOf s := rfl
@[simp] theorem olOf_wrI (s : State) (g : Fld) (u : Nat) (v : Int) : olOf (s.wrI g u v) = olOf s := rfl
@[simp] theorem olOf_bump (s : State) (g : Fld) (u : Nat) : olOf (s.bump g u) = olOf s := rfl
@[simp] theorem olOf_bumpBy (s : State) (g : Fld) (u n : Nat) : olOf (s.bumpBy g u n) = olOf s := rfl
@[simp] theorem olOf_tally (s : State) (g : Fld) (u : Nat) : olOf (s.tally g u) = olOf s := rfl

@[simp] theorem olOf_wrs (s : State) (l : List (Fld × Nat × Nat)) : olOf (s.wrs l) = olOf s :=
  State.wrs_sans olOf (fun _ _ _ _ => rfl) l s

theorem olOf_congr {s t : State} (h : t.ols = s.ols) : olOf t = olOf s := by unfold olOf; rw [h]

theorem unitTo_ol {s t z : State} {p : Nat} {v : OLane} (h : t.ols = (setOl p v z).ols) (g : z.ols = s.ols) : unitTo olOf s t p v := by
  refine ⟨?_, fun q hq => ?_⟩
  · rw [olOf_congr h, olOf_setOl_same]
  · rw [olOf_congr h, olOf_setOl_other _ _ _ _ (fun e => hq e.symm), olOf_congr g]

theorem unitTo_ol_again {s t z : State} {p : Nat} {v : OLane} (h : t.ols = (setOl p v z).ols) (g : ∀ q, q ≠ p → olOf z q = olOf s q) :
    unitTo olOf s t p v := by
  refine ⟨?_, fun q hq => ?_⟩
  · rw [olOf_congr h, olOf_setOl_same]
  · rw [olOf_congr h, olOf_setOl_other _ _ _ _ (fun e => hq e.symm), g q hq]

theorem unitTo_ol_same {s t : State} {p : Nat} (h : t.ols = s.ols) : unitTo olOf s t p (olOf s p) :=
  ⟨by rw [olOf_congr h], fun q _ => by rw [olOf_congr h]⟩

theorem unitsKept_ol {s t : State} (h : t.ols = s.ols) : unitsKept olOf s t := fun q => by rw [olOf_congr h]

@[simp] theorem ilOf_setIl_same (s : State) (p : Nat) (v : ILane) : ilOf (setIl p v s) p = v := tabGet_set_same _ _ _ _

theorem ilOf_setIl_other (s : State) (p q : Nat) (v : ILane) (h : p ≠ q) : ilOf (setIl p v s) q = ilOf s q := by
  unfold ilOf setIl
  rw [tabGet_set_other _ _ _ _ _ h]

@[simp] theorem ilOf_wr (s : State) (g : Fld) (u v : Nat) : ilOf (s.wr g u v) = ilOf s := rfl

@[simp] theorem ilOf_wrB (s : State) (g : Fld) (u : Nat) (v : Bool) : ilOf (s.wrB g u v) = ilOf s := rfl
@[simp] theorem ilOf_wrI (s : State) (g : Fld) (u : Nat) (v : Int) : ilOf (s.wrI g u v) = ilOf s := rfl
@[simp] theorem ilOf_bump (s : State) (g : Fld) (u : Nat) : ilOf (s.bump g u) = ilOf s := rfl
@[simp] theorem ilOf_bumpBy (s : State) (g : Fld) (u n : Nat) : ilOf (s.bumpBy g u n) = ilOf s := rfl
@[simp] theorem ilOf_tally (s : State) (g : Fld) (u : Nat) : ilOf (s.tally g u) = ilOf s := rfl

@[simp] theorem ilOf_wrs (s : State) (l : List (Fld × Nat × Nat)) : ilOf (s.wrs l) = ilOf s :=
  State.wrs_sans ilOf (fun _ _ _ _ => rfl) l s

theorem ilOf_congr {s t : State} (h : t.ils = s.ils) : ilOf t = ilOf s := by unfold ilOf; rw [h]

theorem unitTo_il {s t z : State} {p : Nat} {v : ILane} (h : t.ils = (setIl p v z).ils) (g : z.ils = s.ils) : unitTo ilOf s t p v := by
  refine ⟨?_, fun q hq => ?_⟩
  · rw [ilOf_congr h, ilOf_setIl_same]
  · rw [ilOf_congr h, ilOf_setIl_other _ _ _ _ (fun e => hq e.symm), ilOf_congr g]

theorem unitTo_il_again {s t z : State} {p : Nat} {v : ILane} (h : t.ils = (setIl p v z).ils) (g : ∀ q, q ≠ p → ilOf z q = ilOf s q) :
    unitTo ilOf s t p v := by
  refine ⟨?_, fun q hq => ?_⟩
  · rw [ilOf_congr h, ilOf_setIl_same]
  · rw [ilOf_congr h, ilOf_setIl_other _ _ _ _ (fun e => hq e.symm), g q hq]

theorem unitTo_il_same {s t : State} {p : Nat} (h : t.ils = s.ils) : unitTo ilOf s t p (ilOf s p) :=
  ⟨by rw [ilOf_congr h], fun q _ => by rw [ilOf_congr h]⟩

theorem unitsKept_il {s t : State} (h : t.ils = s.ils) : unitsKept ilOf s t := fun q => by rw [ilOf_congr h]

@[simp] theorem portOf_setPort_same (s : State) (p : Nat) (v : RkPort) : portOf (setPort p v s) p = v := tabGet_set_same _ _ _ _

theorem portOf_setPort_other (s : State) (p q : Nat) (v : RkPort) (h : p ≠ q) : portOf (setPort p v s) q = portOf s q := by
  unfold portOf setPort
  rw [tabGet_set_other _ _ _ _ _ h]

@[simp] theorem portOf_wr (s : State) (g : Fld) (u v : Nat) : portOf (s.wr g u v) = portOf s := rfl

@[simp] theorem portOf_wrB (s : State) (g : Fld) (u : Nat) (v : Bool) : portOf (s.wrB g u v) = portOf s := rfl
@[simp] theorem portOf_wrI (s : State) (g : Fld) (u : Nat) (v : Int) : portOf (s.wrI g u v) = portOf s := rfl
@[simp] theorem portOf_bump (s : State) (g : Fld) (u : Nat) : portOf (s.bump g u) = portOf s := rfl
@[simp] theorem portOf_bumpBy (s : State) (g : Fld) (u n : Nat) : portOf (s.bumpBy g u n) = portOf s := rfl
@[simp] theorem portOf_tally (s : State) (g : Fld) (u : Nat) : portOf (s.tally g u) = portOf s := rfl

@[simp] theorem portOf_wrs (s : State) (l : List (Fld × Nat × Nat)) : portOf (s.wrs l) = portOf s :=
  State.wrs_sans portOf (fun _ _ _ _ => rfl) l s

theorem portOf_congr {s t : State} (h : t.rkPorts = s.rkPorts) : portOf t = portOf s := by unfold portOf; rw [h]

theorem unitTo_port {s t z : State} {p : Nat} {v : RkPort} (h : t.rkPorts = (setPort p v z).rkPorts) (g : z.rkPorts = s.rkPorts) : unitTo portOf s t p v := by
  refine ⟨?_, fun q hq => ?_⟩
  · rw [portOf_congr h, portOf_setPort_same]
  · rw [portOf_congr h, portOf_setPort_other _ _ _ _ (fun e => hq e.symm), portOf_congr g]

theorem unitTo_port_again {s t z : State} {p : Nat} {v : RkPort} (h : t.rkPorts = (setPort p v z).rkPorts) (g : ∀ q, q ≠ p → portOf z q = portOf s q) :
    unitTo portOf s t p v := by
  refine ⟨?_, fun q hq => ?_⟩
  · rw [portOf_congr h, portOf_setPort_same]
  · rw [portOf_congr h, portOf_setPort_other _ _ _ _ (fun e => hq e.symm), g q hq]

theorem unitTo_port_same {s t : State} {p : Nat} (h : t.rkPorts = s.rkPorts) : unitTo portOf s t p (portOf s p) :=
  ⟨by rw [portOf_congr h], fun q _ => by rw [portOf_congr h]⟩

theorem unitsKept_port {s t : State} (h : t.rkPorts = s.rkPorts) : unitsKept portOf s t := fun q => by rw [portOf_congr h]

@[simp] theorem segOf_setSeg_same (s : State) (p : Nat) (v : Seg) : segOf (setSeg p v s) p = v := tabGet_set_same _ _ _ _

theorem segOf_setSeg_other (s : State) (p q : Nat) (v : Seg) (h : p ≠ q) : segOf (setSeg p v s) q = segOf s q := by
  unfold segOf setSeg
  rw [tabGet_set_other _ _ _ _ _ h]

@[simp] theorem segOf_wr (s : State) (g : Fld) (u v : Nat) : segOf (s.wr g u v) = segOf s := rfl

@[simp] theorem segOf_wrB (s : State) (g : Fld) (u : Nat) (v : Bool) : segOf (s.wrB g u v) = segOf s := rfl
@[simp] theorem segOf_wrI (s : State) (g : Fld) (u : Nat) (v : Int) : segOf (s.wrI g u v) = segOf s := rfl
@[simp] theorem segOf_bump (s : State) (g : Fld) (u : Nat) : segOf (s.bump g u) = segOf s := rfl
@[simp] theorem segOf_bumpBy (s : State) (g : Fld) (u n : Nat) : segOf (s.bumpBy g u n) = segOf s := rfl
@[simp] theorem segOf_tally (s : State) (g : Fld) (u : Nat) : segOf (s.tally g u) = segOf s := rfl

@[simp] theorem segOf_wrs (s : State) (l : List (Fld × Nat × Nat)) : segOf (s.wrs l) = segOf s :=
  State.wrs_sans segOf (fun _ _ _ _ => rfl) l s

theorem segOf_congr {s t : State} (h : t.segs = s.segs) : segOf t = segOf s := by unfold segOf; rw [h]

theorem unitTo_seg {s t z : State} {p : Nat} {v : Seg} (h : t.segs = (setSeg p v z).segs) (g : z.segs = s.segs) : unitTo segOf s t p v := by
  refine ⟨?_, fun q hq => ?_⟩
  · rw [segOf_congr h, segOf_setSeg_same]
  · rw [segOf_congr h, segOf_setSeg_other _ _ _ _ (fun e => hq e.symm), segOf_congr g]

theorem unitTo_seg_again {s t z : State} {p : Nat} {v : Seg} (h : t.segs = (setSeg p v z).segs) (g : ∀ q, q ≠ p → segOf z q = segOf s q) :
    unitTo segOf s t p v := by
  refine ⟨?_, fun q hq => ?_⟩
  · rw [segOf_congr h, segOf_setSeg_same]
  · rw [segOf_congr h, segOf_setSeg_other _ _ _ _ (fun e => hq e.symm), g q hq]

theorem unitTo_seg_same {s t : State} {p : Nat} (h : t.segs = s.segs) : unitTo segOf s t p (segOf s p) :=
  ⟨by rw [segOf_congr h], fun q _ => by rw [segOf_congr h]⟩

theorem unitsKept_seg {s t : State} (h : t.segs = s.segs) : unitsKept segOf s t := fun q => by rw [segOf_congr h]

@[simp] theorem coming_rd (s : State) (f : Fld) (u : Nat) : s.coming.rd f u = s.rd f u := rfl
@[simp] theorem coming_on (s : State) (f : Fld) (u : Nat) : s.coming.on f u = s.on f u := rfl
@[simp] theorem coming_rdI (s : State) (f : Fld) (u : Nat) : s.coming.rdI f u = s.rdI f u := rfl
@[simp] theorem coming_now (s : State) : s.coming.now = s.now := rfl
@[simp] theorem coming_eff (s : State) : s.coming.eff = s.eff := rfl
@[simp] theorem coming_mode (s : State) : mode s.coming = mode s := rfl
@[simp] theorem coming_pst (s : State) (p : Nat) : pst s.coming p = pst s p := rfl
@[simp] theorem rested_rd (s : State) (f : Fld) (u : Nat) : s.rested.rd f u = s.rd f u := rfl

@[simp] theorem plyOf_coming (s : State) : plyOf s.coming = plyOf s := rfl
@[simp] theorem chnOf_coming (s : State) : chnOf s.coming = chnOf s := rfl
@[simp] theorem quOf_coming (s : State) : quOf s.coming = quOf s := rfl
@[simp] theorem capOf_coming (s : State) : capOf s.coming = capOf s := rfl
@[simp] theorem dmdOf_coming (s : State) : dmdOf s.coming = dmdOf s := rfl
@[simp] theorem laneOf_coming (s : State) : laneOf s.coming = laneOf s := rfl
@[simp] theorem railOf_coming (s : State) : railOf s.coming = railOf s := rfl
@[simp] theorem encOf_coming (s : State) : encOf s.coming = encOf s := rfl
@[simp] theorem trkOf_coming (s : State) : trkOf s.coming = trkOf s := rfl
@[simp] theorem chRailOf_coming (s : State) : chRailOf s.coming = chRailOf s := rfl
@[simp] theorem olOf_coming (s : State) : olOf s.coming = olOf s := rfl
@[simp] theorem ilOf_coming (s : State) : ilOf s.coming = ilOf s := rfl
@[simp] theorem portOf_coming (s : State) : portOf s.coming = portOf s := rfl
@[simp] theorem segOf_coming (s : State) : segOf s.coming = segOf s := rfl

end Sys2Proof.Machine
end

