-- ==== Sys2Proof/Laws/Queues.lean ====
section
/-! SUPPORT. What the operations of a queue may change. -/

namespace Sys2Proof.Machine

/-- The fields that follow a queue's pointers, and its bit of `HST_QPEND`. -/
def qShown (q k : Nat) : Prop :=
  k = F.BRN_FREE_WORDS.key q ∨ k = F.BRN_FILL_WORDS.key q ∨ k = F.BRN_STAT_EMPTY.key q ∨ k = F.BRN_STAT_HELD.key q ∨
    k = F.BRN_STAT_OPEN.key q ∨ k = F.BRN_STAT_WR_CLAIM.key q ∨ k = F.BRN_STAT_RD_CLAIM.key q ∨ k = F.BRN_STAT_ABOVE.key q ∨
    k = F.BRN_STAT_PENDING.key q ∨ k = F.BRN_NOTE_XCNT.key q ∨ k = F.HST_QPEND_PEND.key (q / 32)

/-- A state without registers and the interrupts that wait. -/
def sansShown (s : State) : State := { s with flds := [], msixWait := [] }

theorem sansShown_wr (s : State) (f : Fld) (u v : Nat) : sansShown (s.wr f u v) = sansShown s := rfl

theorem of_sansShown {γ : Type} (g : State → γ) (hg : ∀ s, g (sansShown s) = g s) {s t : State} (h : sansShown s = sansShown t) : g s = g t :=
  (hg s).symm.trans ((congrArg g h).trans (hg t))

theorem qNotice_keeps (q : Nat) (c : Bool) (s : State) : Keeps (qShown q) s (qNotice q c s) := by
  unfold qNotice
  extract_lets pend new s1 w s2
  have h : Keeps (qShown q) s s2 :=
    ((Keeps.refl _ s).wrB F.BRN_STAT_PENDING q pend (by simp [qShown])).wr F.HST_QPEND_PEND (q / 32) _ (by simp [qShown])
  split
  · exact h.of_flds rfl
  · exact h

theorem qNotice_sans (q : Nat) (c : Bool) (s : State) : sansShown (qNotice q c s) = sansShown s := by
  unfold qNotice
  extract_lets pend new s1 w s2
  split <;> rfl

theorem qSync_keeps (c : Bool) (q : Nat) (s : State) : Keeps (qShown q) s (qSync c q s) := by
  unfold qSync
  extract_lets u s1 v above cross s2
  have h1 : Keeps (qShown q) s s1 := by
    refine (Keeps.refl _ s).wrs _ ?_
    simp [qShown]
  have h2 : Keeps (qShown q) s s2 := by
    show Keeps _ s (if _ then _ else _)
    split
    · exact h1.tally F.BRN_NOTE_XCNT q (by simp [qShown])
    · exact h1
  exact (h2.wrB F.BRN_STAT_ABOVE q above (by simp [qShown])).trans (qNotice_keeps _ _ _)

theorem qSync_sans (c : Bool) (q : Nat) (s : State) : sansShown (qSync c q s) = sansShown s := by
  unfold qSync
  extract_lets u s1 v above cross s2
  have h1 : sansShown s1 = sansShown s := State.wrs_sans sansShown (fun _ _ _ _ => rfl) _ _
  have h2 : sansShown s2 = sansShown s := by
    show sansShown (if _ then _ else _) = _
    split
    · exact h1
    · exact h1
  exact (qNotice_sans _ _ _).trans h2

/-- Words written to a queue's memory leave every register. -/
theorem qMemWr_flds (q a v : Nat) (s : State) : (qMemWr q a v s).flds = s.flds := by unfold qMemWr; split <;> rfl

/-- A state without its memory and what is known bad in it. -/
def sansMem (s : State) : State := { s with carafe := [], pans := [], badUnits := [], badPans := [], car := { s.car with ueList := [] } }

/-- The same for the rest of the state but memory and the units known bad in it. -/
theorem qMemWr_sans (q a v : Nat) (s : State) : sansMem (qMemWr q a v s) = sansMem s := by
  unfold qMemWr; split <;> rfl

theorem memRd_wrW_other (m : List Host.Cell) (a v c : Nat) (h : ¬ (a ≤ c ∧ c < a + 4)) : memRd (memWrW m a v) c = memRd m c := by
  unfold memWrW
  rw [memRd_wr_other _ _ _ _ (by omega), memRd_wr_other _ _ _ _ (by omega), memRd_wr_other _ _ _ _ (by omega),
    memRd_wr_other _ _ _ _ (by omega)]

end Sys2Proof.Machine
end

