-- ==== Sys2Proof/Laws/Wrote.lean ====
section
/-! SUPPORT. Reading the state in which the effects of a written register act. -/

namespace Sys2Proof.Machine

theorem newVal_part (s : State) (n v u : Nat) (f : Fld) (h : f.lo + f.width ≤ n) : newVal s (2 ^ n - 1) v u f = f.part v := by
  have hand : ∀ y, y < 2 ^ f.width → y &&& (2 ^ f.width - 1) = y := by
    intro y hy; rw [Nat.and_two_pow_sub_one_eq_mod, Nat.mod_eq_of_lt hy]
  simp only [newVal, ones_bits _ _ _ h, Fld.part]
  rw [hand _ (Nat.mod_lt _ (Nat.two_pow_pos _))]
  split
  · simp
  · rw [hand _ (s.rd_lt f u)]; omega

/-- A field below a bit takes the same part of a word with that bit set. -/
theorem part_or (f : Fld) (w k : Nat) (h : f.lo + f.width ≤ k) : f.part (w ||| 2 ^ k) = f.part w := by
  apply Nat.eq_of_testBit_eq
  intro i
  simp only [Fld.part, Nat.testBit_mod_two_pow, Nat.testBit_div_two_pow, Nat.testBit_or, Nat.testBit_two_pow]
  by_cases hi : i < f.width
  · simp [hi]; omega
  · simp [hi]

/-- A one-bit field takes the bit that is set at its place. -/
theorem part_set (f : Fld) (w k : Nat) (h : (f.lo, f.width) = (k, 1)) : f.part (w ||| 2 ^ k) = 1 := by
  obtain ⟨rfl, h1⟩ := Prod.mk.inj h
  have : (w ||| 2 ^ f.lo).testBit f.lo = true := by simp [Nat.testBit_or, Nat.testBit_two_pow]
  rw [Nat.testBit_eq_decide_div_mod_eq, decide_eq_true_eq] at this
  simp [Fld.part, h1, this]

theorem part_lt (f : Fld) (w : Nat) : f.part w < 2 ^ f.width := Nat.mod_lt _ (Nat.two_pow_pos _)

@[simp] theorem part_mod (f : Fld) (w : Nat) : f.part w % 2 ^ f.width = f.part w := Nat.mod_eq_of_lt (part_lt f w)

/-- What a written register leaves but for registers, the audit mirror and parity. -/
theorem RowWrote.get {γ : Type} {n : Nat} {b : Blk} {u : Nat} {r : Row} {v : Nat} {s z : State} (W : RowWrote n b u r v s z) (g : State → γ)
    (hg : ∀ s, g (sansWrite s) = g s) : g z = g s := (hg z).symm.trans ((congrArg g W.sans).trans (hg s))

theorem RowWrote.within {n : Nat} {b : Blk} {u : Nat} {r : Row} {v : Nat} {s z : State} (W : RowWrote n b u r v s z) (A : List (Nat × Nat))
    (h : ∀ k, k / 64 = b.base + b.stride * u + r.off → Sys2Proof.Machine.within (A ++ records) k) : Keeps (Sys2Proof.Machine.within (A ++ records)) s z :=
  W.keeps.mono (fun a ha => by
    rcases ha with e | e
    · exact h a e
    · exact logA_within A a e)

/-- A field of another register, outside the logs, reads the same. -/
theorem RowWrote.far {n : Nat} {b : Blk} {u : Nat} {r : Row} {v : Nat} {s z : State} (W : RowWrote n b u r v s z) (g : Fld) (y : Nat)
    (h : g.key y / 64 ≠ b.base + b.stride * u + r.off ∧ ¬ logA (g.key y)) : z.rd g y = s.rd g y :=
  W.keeps.rd g y (fun x => x.elim h.1 h.2)

/-- A row whose fields lie in the word, each at a place of its own. -/
def apart (n : Nat) (r : Row) : Bool :=
  r.flds.all (fun f => decide (f.lo + f.width ≤ n) && decide (0 < f.width)) && decide ((r.flds.map (·.lo)).Pairwise (· ≠ ·))

theorem apart_unique (l : List Fld) (h : (l.map (·.lo)).Pairwise (· ≠ ·)) (e g : Fld) (he : e ∈ l) (hg : g ∈ l) (hk : e.lo = g.lo) : e = g := by
  induction l with
  | nil => simp at he
  | cons x r ih =>
    simp only [List.map_cons, List.pairwise_cons, List.mem_map, forall_exists_index, and_imp, forall_apply_eq_imp_iff₂] at h
    simp only [List.mem_cons] at he hg
    rcases he with rfl | he
    · rcases hg with rfl | hg
      · rfl
      · exact absurd hk (h.1 g hg)
    · rcases hg with rfl | hg
      · exact absurd hk.symm (h.1 e he)
      · exact ih h.2 he hg

theorem apart_iff (n : Nat) (r : Row) (h : apart n r = true) :
    (∀ f ∈ r.flds, f.lo + f.width ≤ n ∧ 0 < f.width) ∧ ∀ e ∈ r.flds, ∀ g ∈ r.flds, e.lo = g.lo → e = g := by
  simp only [apart, Bool.and_eq_true, List.all_eq_true, decide_eq_true_eq] at h
  exact ⟨h.1, fun e he g hg hk => apart_unique _ h.2 e g he hg hk⟩

/-- A field of the register that acts reads as before: its effect writes it. -/
theorem RowWrote.acting {n : Nat} {b : Blk} {u : Nat} {r : Row} {v : Nat} {s z : State} (W : RowWrote n b u r v s z) (ha : apart n r = true)
    (g : Fld) (hg : g ∈ r.flds) (hh : hooked g = true) (hl : ¬ logA (g.key u)) (hs : rowShape b r = true) (hu : u < b.count) : z.rd g u = s.rd g u := by
  refine W.other g u hl (fun e he hne hk => ?_)
  have ha := apart_iff n r ha
  simp only [rowShape, List.all_eq_true, Bool.and_eq_true, beq_iff_eq, Bool.or_eq_true, decide_eq_true_eq] at hs
  have h1 := hs e he
  have h2 := hs g hg
  have hst : ∀ f ∈ r.flds, f.stride * u = b.stride * u := fun f hf => by
    rcases (hs f hf).1.1.2 with h | h
    · rw [h]
    · have : u = 0 := by omega
      rw [this]; simp
  simp only [Fld.key, h1.1.1.1, h2.1.1.1, hst e he, hst g hg] at hk
  have h := ha.2 e he g hg (by omega)
  rw [h, hh] at hne; exact absurd hne (by decide)

/-- A field of the register that the word leaves as it is. -/
theorem RowWrote.near {n : Nat} {b : Blk} {u : Nat} {r : Row} {v : Nat} {s z : State} (W : RowWrote n b u r v s z) (ha : apart n r = true)
    (g : Fld) (hg : g ∈ r.flds) (hv : g.part v = s.rd g u) (hl : ¬ logA (g.key u)) (hs : rowShape b r = true) (hu : u < b.count) :
    z.rd g u = s.rd g u := by
  refine W.same g hl (fun e he hne hk => ?_)
  have ha := apart_iff n r ha
  simp only [rowShape, List.all_eq_true, Bool.and_eq_true, beq_iff_eq, Bool.or_eq_true, decide_eq_true_eq] at hs
  have h1 := hs e he
  have h2 := hs g hg
  have hst : ∀ f ∈ r.flds, f.stride * u = b.stride * u := fun f hf => by
    rcases (hs f hf).1.1.2 with h | h
    · rw [h]
    · have : u = 0 := by omega
      rw [this]; simp
  simp only [Fld.key, h1.1.1.1, h2.1.1.1, hst e he, hst g hg] at hk
  exact ⟨ha.2 e he g hg (by omega), by rw [newVal_part _ _ _ _ _ (ha.1 g hg).1, hv]⟩

/-- A LIVE field that only stores takes its part of the word. -/
theorem RowWrote.live {n : Nat} {b : Blk} {u : Nat} {r : Row} {v : Nat} {s z : State} (W : RowWrote n b u r v s z) (ha : apart n r = true)
    (g : Fld) (hg : g ∈ r.flds) (hc : (g.cls == .live && !hooked g && !passive g u) = true) (hk : g.ok (g.part v) = true) (hl : ¬ logA (g.key u)) :
    z.rd g u = g.part v := by
  have ha := apart_iff n r ha
  simp only [Bool.and_eq_true, beq_iff_eq, Bool.not_eq_true'] at hc
  have hw := ha.1 g hg
  rw [W.stored g hg hl hc.1.2 hc.2 ?_ ?_ ?_, newVal_part _ _ _ _ _ hw.1]
  · exact Nat.mod_eq_of_lt (Nat.mod_lt _ (Nat.two_pow_pos _))
  · simp only [touches, ones_bits _ _ _ hw.1, bne_iff_ne]
    have : 2 ^ 1 ≤ 2 ^ g.width := Nat.pow_le_pow_right (by omega) hw.2
    omega
  · rw [newVal_part _ _ _ _ _ hw.1]
    simp [fieldWhy, hc.1.1, hk]
  · exact fun e he hlo => ha.2 e he g hg hlo

end Sys2Proof.Machine
end

