-- ==== Sys2Proof/Tests/Slice0.lean ====
section
/-! SUPPORT. Tests: states and operands that meet the premises of each statement, ill-formed commands, and worked values of the spec. -/

namespace Sys2Proof.Tests

open Sys2Proof Sys2Proof.Machine

set_option Elab.async false

/-! ### Helpers -/

/-- A module in SETUP with a configured host, some time after its reset. -/
def base : State := { State.reset.wrs [(F.GLB_TICK_TICK, 0, 3000000), (F.GLB_CT_TICKS, 0, 6400), (F.HST_LINK_STATE, 0, 3)] with nextJob := 40 }

/-- The base in another mode. -/
def inMode (m : Nat) : State := base.wr F.GLB_MODE_MODE 0 m

/-- The next state of an outcome. -/
def after (o : Host.Outcome State Fault Refusal) : State := match o with | .next t => t | _ => base

/-- A packet of HOST0 for this module over USB3. -/
def pkt (params : List Nat) (unit : Nat := 0) : Pkt :=
  { org := 0, src := 0, path := .usb3, opcode := 0, hdrOk := true, fence := false, batch := false, reply := false, crc := false, crcOk := true,
    length := 4 + params.length, tag := 100, target := 0, unit := unit, batchId := 0, params := params }

/-- A command in progress whose tag waits in the window of HOST0. -/
def withJob (b : Job) (s : State) : State :=
  { s with
    jobs := s.jobs ++ [b]
    wins := tabPut s.wins (winKey b.org b.src)
      { seen := true, h := b.tag, ents := (winOf s (winKey b.org b.src)).ents ++ [⟨b.tag, b.opcode, false, b.id, none⟩] } }

/-- A command in progress of HOST0. -/
def job (id tag op : Nat) : Job := ⟨id, 0, 0, tag, op, 0, .usb3, true, false, 0, false, false⟩

/-- A register word of one field's value and the present values of others. -/
def word (en : Fld) (v : Nat) (fs : List Fld) (u : Nat) (s : State) : Word :=
  BitVec.ofNat 32 (v * 2 ^ en.lo + (fs.map (fun f => s.rd f u * 2 ^ f.lo)).sum)

/-! ### Premises that Lean evaluates -/

/-- `newTag`, evaluated. -/
def newTagB (s : State) (p : Pkt) : Bool :=
  (winEnt (winOf s (winKey p.org p.src)) p.tag).isNone && (!(winOf s (winKey p.org p.src)).seen ||
    (decide (-255 ≤ serial 32 p.tag (winOf s (winKey p.org p.src)).h) && decide (serial 32 p.tag (winOf s (winKey p.org p.src)).h ≤ 256)))

theorem newTag_of {s : State} {p : Pkt} (h : newTagB s p = true) : newTag s p := by
  simp only [newTagB, Bool.and_eq_true, Bool.or_eq_true, Bool.not_eq_true', decide_eq_true_eq, Option.isNone_iff_eq_none] at h
  exact ⟨h.1, fun hs => h.2.resolve_left (by simp [hs])⟩

/-- A path of a host. -/
def hostPath : Path → Bool | .side _ => false | _ => true

/-- `mayCommand`, evaluated. -/
def mayCommandB (s : State) (o grp : Nat) : Bool := o == 0 || o == 6 || permOk s o grp

theorem mayCommand_of {s : State} {o grp : Nat} (h : mayCommandB s o grp = true) : mayCommand s o grp := by
  simpa [mayCommandB, mayCommand, or_assoc] using h

/-- `prevails`, evaluated. -/
def prevailsB (s : State) (rank : Nat) : Bool := s.wrote.all (fun w => w.tick != s.eff || decide (w.rank ≤ rank))

theorem prevails_of {s : State} {rank : Nat} (h : prevailsB s rank = true) : prevails s rank := by
  intro w hw ht
  have := List.all_eq_true.mp h w hw
  simpa [ht] using this

theorem mayWrite_of {s : State} {o grp : Nat} (h : (mayCommandB s o grp && prevailsB s (2 * o + b2n (o == 0))) = true) : mayWrite s o grp := by
  simp only [Bool.and_eq_true] at h
  exact ⟨mayCommand_of h.1, prevails_of h.2⟩

/-- `passes`, evaluated. -/
def passesB (op : Nat) (p : Pkt) (s : State) : Bool :=
  fetching s && !pktHeld s s.heldPkts (numbered op p) && hostPath p.path && (!p.crc || p.crcOk) && p.hdrOk && !p.batch && newTagB s p &&
    p.target != 0xFFF && isLocal s (numbered op p) && (pktWhy s (numbered op p)).1 == stOk && (jobOf s s.nextJob).isNone &&
    !memN s.recov.jobs s.nextJob && decide (p.org < 7) && p.org != 5

theorem passes_of {op : Nat} {p : Pkt} {s : State} (h : passesB op p s = true) : passes op p s := by
  simp only [passesB, Bool.and_eq_true, Bool.or_eq_true, Bool.not_eq_true', decide_eq_true_eq, Option.isNone_iff_eq_none, bne_iff_ne,
    beq_iff_eq, ne_eq] at h
  obtain ⟨⟨⟨⟨⟨⟨⟨⟨⟨⟨⟨⟨⟨h1, h2⟩, h3⟩, h4⟩, h5⟩, h6⟩, h7⟩, h8⟩, h9⟩, h10⟩, h11⟩, h12⟩, h13⟩, h14⟩ := h
  refine ⟨h1, h2, ?_, fun hc => h4.resolve_left (by simp [hc]), h5, h6, newTag_of h7, h8, h9, h10, h11, h12, h13, h14⟩
  intro x hx
  simp [hx, hostPath] at h3

/-- `asIs`, evaluated. -/
def asIsB (fs : List Fld) (w u : Nat) (s : State) : Bool := fs.all (fun f => f.part w == s.rd f u)

theorem asIs_of {fs : List Fld} {w u : Nat} {s : State} (h : asIsB fs w u s = true) : asIs fs w u s := by
  simpa [asIsB, asIs] using h

/-- `sound`, evaluated. -/
def soundB (s : State) : Bool := s.parOdd.isEmpty && s.parBad.isEmpty && s.unitSafe.isEmpty

theorem sound_of {s : State} (h : soundB s = true) : sound s := by
  simpa [soundB, sound, and_assoc] using h

theorem turnsOn_of {en : Fld} {fs : List Fld} {w u : Nat} {s : State}
    (h : (soundB s && !s.on en u && en.part w == 1 && asIsB fs w u s) = true) : turnsOn en fs w u s := by
  simp only [Bool.and_eq_true, Bool.not_eq_true', beq_iff_eq] at h
  exact ⟨sound_of h.1.1.1, h.1.1.2, h.1.2, asIs_of h.2⟩

theorem turnsOff_of {en : Fld} {fs : List Fld} {w u : Nat} {s : State}
    (h : (soundB s && s.on en u && en.part w == 0 && asIsB fs w u s) = true) : turnsOff en fs w u s := by
  simp only [Bool.and_eq_true, beq_iff_eq] at h
  exact ⟨sound_of h.1.1.1, h.1.1.2, h.1.2, asIs_of h.2⟩

/-- `quiet`, evaluated. -/
def quietB (s : State) : Bool := s.out.all (fun o => !sideOut o)

theorem quiet_of {s : State} (h : quietB s = true) : quiet s := by
  simpa [quietB, quiet] using h

/-- `jobWaits`, evaluated. -/
def jobWaitsB (b : Job) (s : State) : Bool :=
  decide (jobOf s b.id = some b) && decide (b.org < 7) && b.org != 5 && !memN s.recov.jobs b.id &&
    match winEnt (winOf s (winKey b.org b.src)) b.tag with | some e => e.job == b.id && !e.done | none => false

theorem jobWaits_of {b : Job} {s : State} (h : jobWaitsB b s = true) : jobWaits b s := by
  simp only [jobWaitsB, Bool.and_eq_true, decide_eq_true_eq, bne_iff_ne, ne_eq, Bool.not_eq_true'] at h
  refine ⟨h.1.1.1.1, h.1.1.1.2, h.1.1.2, h.1.2, ?_⟩
  have h5 := h.2
  split at h5
  · rename_i e he
    simp only [Bool.and_eq_true, beq_iff_eq, Bool.not_eq_true'] at h5
    exact ⟨e, he, h5.1, h5.2⟩
  · cases h5

/-- `stores`, evaluated. -/
def storesB (s : State) (b : Blk) (u : Nat) (r : Row) (v : Nat) : Bool :=
  !r.flds.isEmpty && !rowRefused b r v && b.base != 0xA01000 &&
    r.flds.all (fun f => (decide (f.cls = .live) || decide (f.cls = .cfg)) && !hooked f && decide (clsOf f u = f.cls) && f.ok (f.part v) &&
      (!decide (f.cls = .cfg) || !unitOn s b u r))

theorem stores_of {s : State} {b : Blk} {u : Nat} {r : Row} {v : Nat} (h : storesB s b u r v = true) : stores s b u r v := by
  simp only [storesB, Bool.and_eq_true, Bool.or_eq_true, Bool.not_eq_true', decide_eq_true_eq, bne_iff_ne, List.all_eq_true, ne_eq,
    decide_eq_false_iff_not] at h
  refine ⟨by simpa using h.1.1.1, h.1.1.2, h.1.2, fun f hf => ?_⟩
  obtain ⟨⟨⟨⟨h1, h2⟩, h3⟩, h4⟩, h5⟩ := h.2 f hf
  exact ⟨h1, h2, h3, h4, fun hc => h5.resolve_left (by simp [hc])⟩

/-! ### Clear commands -/

/-- The base with VM1 admitted to every register group. -/
def granted : State := base.wrs [(F.GLB_PERM_REG_GROUPS, 1, 2 ^ F.GLB_PERM_REG_GROUPS.width - 1)]

theorem test_PlayerSideClears :
    powered granted = true ∧ quiet granted ∧ mayWrite granted 6 5 ∧ mayWrite granted 0 6 ∧ mayWrite granted 1 7 :=
  ⟨by decide +kernel, quiet_of (by decide +kernel), mayWrite_of (by decide +kernel), mayWrite_of (by decide +kernel),
    mayWrite_of (by decide +kernel)⟩

theorem test_DataPathClears :
    powered base = true ∧ quiet base ∧ mayWrite base 6 10 ∧ mayWrite base 0 14 ∧ mayWrite base 0 4 ∧ mayWrite base 0 11 :=
  ⟨by decide +kernel, quiet_of (by decide +kernel), mayWrite_of (by decide +kernel), mayWrite_of (by decide +kernel),
    mayWrite_of (by decide +kernel), mayWrite_of (by decide +kernel)⟩

theorem test_DeviceClears :
    powered base = true ∧ quiet base ∧ mayWrite base 6 12 ∧ mayWrite base 0 13 ∧ mayWrite base 0 1 ∧ mayWrite base 0 16 ∧
    mayWrite base 0 18 ∧ mayWrite base 0 0 :=
  ⟨by decide +kernel, quiet_of (by decide +kernel), mayWrite_of (by decide +kernel), mayWrite_of (by decide +kernel),
    mayWrite_of (by decide +kernel), mayWrite_of (by decide +kernel), mayWrite_of (by decide +kernel), mayWrite_of (by decide +kernel)⟩

theorem test_MemoryClears :
    powered base = true ∧ quiet base ∧ mayWrite base 6 2 ∧ mayWrite base 0 3 :=
  ⟨by decide +kernel, quiet_of (by decide +kernel), mayWrite_of (by decide +kernel), mayWrite_of (by decide +kernel)⟩

/-! ### Register commands -/

theorem test_RailRegisterCommands :
    powered base = true ∧ mayWrite base 0 7 ∧ sound base ∧ base.on F.RSRC_LT_CTL_EN 7 = false ∧
    F.RSRC_LT_CTL_EN.part (8 : Word).toNat = 0 :=
  ⟨by decide +kernel, mayWrite_of (by decide +kernel), sound_of (by decide +kernel), by decide +kernel, by decide +kernel⟩

/-- Player 63, enabled and in a state. -/
def plyIn (k : Nat) : State := base.wrs [(F.PLY_STATE_STATE, 63, k), (F.PLY_CTL_EN, 63, 1)]

/-- Player 63 as a stream player, LOADED, with its pans and queue. -/
def armable : State :=
  (plyIn psLoaded).wrs [(F.PLY_CTL_MODE, 63, 1), (F.PAN_OWN_OWNER, 0, owStep), (F.PLY_PF_PAN, 63, 2), (F.PAN_OWN_OWNER, 2, owPlayer),
    (F.BRN_CTL_EN, plyQueue base 63, 1)]

/-- Player 63 with ten steps and two readied successors. -/
def jumper (k : Nat) : State := setPly 63 { plyOf base 63 with ready := [(6, 3), (7, 4)] } ((plyIn k).wr F.PLY_STEP_COUNT_COUNT 63 10)

theorem test_PlayerRegisterCommands_arm :
    powered armable = true ∧ mayWrite armable 0 5 ∧ playMode armable = true ∧ (pst armable 63 = psLoaded ∨ pst armable 63 = psDone) ∧
    (plyOf armable 63).arm = none ∧ plyPar armable 63 = false ∧ stepPan armable = true ∧ armCheck armable 63 = none ∧
    plyStream armable 63 = true :=
  ⟨by decide +kernel, mayWrite_of (by decide +kernel), by decide +kernel, by decide +kernel, by decide +kernel, by decide +kernel,
    by decide +kernel, by decide +kernel, by decide +kernel⟩

theorem test_PlayerRegisterCommands_start :
    powered (plyIn psArmed) = true ∧ mayWrite (plyIn psArmed) 0 5 ∧ playMode (plyIn psArmed) = true ∧ pst (plyIn psArmed) 63 = psArmed ∧
    (plyOf (plyIn psArmed) 63).start = none ∧ (plyIn psArmed).rd F.PLY_START_SRC 63 ≠ 1 :=
  ⟨by decide +kernel, mayWrite_of (by decide +kernel), by decide +kernel, by decide +kernel, by decide +kernel, by decide +kernel⟩

theorem test_PlayerRegisterCommands_hold :
    powered (plyIn psRunning) = true ∧ mayWrite (plyIn psRunning) 0 5 ∧ playMode (plyIn psRunning) = true ∧
    holdOk (plyIn psRunning) 63 = true :=
  ⟨by decide +kernel, mayWrite_of (by decide +kernel), by decide +kernel, by decide +kernel⟩

theorem test_PlayerRegisterCommands_resume :
    powered (plyIn psHeld) = true ∧ mayWrite (plyIn psHeld) 0 5 ∧ playMode (plyIn psHeld) = true ∧ pst (plyIn psHeld) 63 = psHeld ∧
    mode (plyIn psHeld) ≠ mdHold :=
  ⟨by decide +kernel, mayWrite_of (by decide +kernel), by decide +kernel, by decide +kernel, by decide +kernel⟩

/-- Player 63, LOADED, with an ARM in progress. -/
def arming : State := setPly 63 { plyOf base 63 with arm := some (none, 5) } ((plyIn psLoaded).wr F.PLY_STATE_ARM_BUSY 63 1)

/-- Player 63 as a running stream that may skip. -/
def skipper : State := (jumper psRunning).wrs [(F.PLY_CTL_MODE, 63, 1), (F.PLY_SKIP_TIMING, 63, 1)]

theorem test_PlayerRegisterCommands_stop :
    powered arming = true ∧ mayWrite arming 0 5 ∧ playMode arming = true ∧ pst arming 63 = psLoaded ∧
    (plyOf arming 63).arm = some (none, 5) ∧ (plyOf arming 63).locks = [] :=
  ⟨by decide +kernel, mayWrite_of (by decide +kernel), by decide +kernel, by decide +kernel, by decide +kernel, by decide +kernel⟩

theorem test_PlayerRegisterCommands_stop_play :
    pst (plyIn psWaiting) 63 = psWaiting ∧ pst (plyIn psArmed) 63 = psArmed ∧ mayCommand (plyIn psWaiting) 6 5 :=
  ⟨by decide +kernel, by decide +kernel, mayCommand_of (by decide +kernel)⟩

theorem test_PlayerRegisterCommands_skip :
    powered skipper = true ∧ mayWrite skipper 0 5 ∧ playMode skipper = true ∧ skipOk skipper 63 = true ∧ pst skipper 63 ≠ psStarved ∧
    pst skipper 63 ≠ psWaiting ∧ skipper.rd F.PLY_SKIP_TIMING 63 ≠ 0 ∧ (plyOf skipper 63).nxt = none :=
  ⟨by decide +kernel, mayWrite_of (by decide +kernel), by decide +kernel, by decide +kernel, by decide +kernel, by decide +kernel,
    by decide +kernel, by decide +kernel⟩

theorem test_PlayerRegisterCommands_jump :
    powered (jumper psRunning) = true ∧ mayWrite (jumper psRunning) 0 5 ∧ playMode (jumper psRunning) = true ∧
    jumpOk (jumper psRunning) 63 = true ∧ pst (jumper psRunning) 63 ≠ psWaiting ∧
    F.PLY_JUMP_TARGET.part (word F.PLY_JUMP_TIMING 1 [] 63 base + word F.PLY_JUMP_TARGET 9 [] 63 base).toNat < (jumper psRunning).rd F.PLY_STEP_COUNT_COUNT 63 ∧
    1 ≤ F.PLY_JUMP_TIMING.part (word F.PLY_JUMP_TIMING 1 [] 63 base + word F.PLY_JUMP_TARGET 9 [] 63 base).toNat :=
  ⟨by decide +kernel, mayWrite_of (by decide +kernel), by decide +kernel, by decide +kernel, by decide +kernel, by decide +kernel,
    by decide +kernel⟩

theorem test_PlayerRegisterCommands_phase :
    powered (jumper psRunning) = true ∧ mayWrite (jumper psRunning) 0 5 ∧ playMode (jumper psRunning) = true ∧
    phaseOk (jumper psRunning) 63 = true :=
  ⟨by decide +kernel, mayWrite_of (by decide +kernel), by decide +kernel, by decide +kernel⟩

theorem test_PlayerRegisterCommands_rejected :
    powered (inMode mdService) = true ∧ mayWrite (inMode mdService) 0 5 ∧ playMode (inMode mdService) = false :=
  ⟨by decide +kernel, mayWrite_of (by decide +kernel), by decide +kernel⟩

theorem test_ChannelRegisterCommands :
    powered base = true ∧ mayWrite base 0 6 ∧ mayWrite base 0 17 ∧ mayWrite base 0 0 ∧ base.on F.TRG_TAP_EN 31 = false ∧
    F.TRG_TAP_EN.part (word F.TRG_TAP_EN 1 [] 31 base).toNat = 1 :=
  ⟨by decide +kernel, mayWrite_of (by decide +kernel), mayWrite_of (by decide +kernel), mayWrite_of (by decide +kernel),
    by decide +kernel, by decide +kernel⟩

/-- Capture 31 with an open packet and nothing staged. -/
def openCap : State :=
  setQu (capQueue base 31) { quOf base (capQueue base 31) with opened := true, words := 8, m := 40 }
    ((setCap 31 { capOf base 31 with isOpen := true, seq := 6, q := capQueue base 31 } base).wrs [(F.CAP_CTL_EN, 31, 1), (F.CAP_STAT_PKT_OPEN, 31, 1),
      (F.BRN_CTL_EN, capQueue base 31, 1), (F.BRN_WP_PTR, capQueue base 31, 48), (F.BRN_CP_PTR, capQueue base 31, 40),
      (F.BRN_STORE_PAN, capQueue base 31, 5), (F.BRN_IDX_PAN, capQueue base 31, 6)])

/-- Learning lane 7 in a state. -/
def laneIn (k : Nat) : State := base.wrs [(F.REF_STAT_STATE, 7, k), (F.REF_CTL_EN, 7, 1)]

theorem test_CaptureRegisterCommands_flush :
    powered openCap = true ∧ mayCommand openCap 0 10 ∧ (capOf base 31).isOpen = false ∧ (capOf openCap 31).isOpen = true ∧
    (capOf openCap 31).stage = [] ∧ (capOf openCap 31).closing = false ∧ qDeep openCap (capOf openCap 31).q = false ∧
    capAsleep openCap 31 = false :=
  ⟨by decide +kernel, mayCommand_of (by decide +kernel), by decide +kernel, by decide +kernel, by decide +kernel, by decide +kernel,
    by decide +kernel, by decide +kernel⟩

theorem test_CaptureRegisterCommands_lanes :
    powered (laneIn lsReady) = true ∧ mayWrite (laneIn lsReady) 0 14 ∧ laneSt (laneIn lsCollect) 7 = lsCollect ∧
    laneSt (laneIn lsReady) 7 = lsReady ∧ laneSt (laneIn lsFrozen) 7 = lsFrozen :=
  ⟨by decide +kernel, mayWrite_of (by decide +kernel), by decide +kernel, by decide +kernel, by decide +kernel⟩

/-! ### Session packets and register accesses -/

/-- The base with an open batch of HOST0. -/
def withBatch : State := { base with opens := [⟨0, 0, 5, [], 0, 9⟩] }

/-- A packet that names batch 5. -/
def batchPkt (params : List Nat) : Pkt := { pkt params with batchId := 5 }

theorem test_SessionPackets_bare :
    passes 0x00 (pkt []) base ∧ passes 0x01 (pkt [0]) base ∧ (pkt [0]).w 0 % 2 = 0 ∧ passes 0x06 (pkt []) base ∧
    passes 0x90 (pkt []) base ∧ passes 0x91 (pkt []) base :=
  ⟨passes_of (by decide +kernel), passes_of (by decide +kernel), by decide +kernel, passes_of (by decide +kernel),
    passes_of (by decide +kernel), passes_of (by decide +kernel)⟩

theorem test_SessionPackets_mode_same :
    passes 0x02 (pkt [3]) base ∧ permCmd base (pkt [3]).org 0 = true ∧
    requestResult base.coming ((pkt [3]).w 0 % 16) ((pkt [3]).w 0 / 16 % 2) = 0 ∧ (pkt [3]).w 0 % 16 = mode base ∧
    (pkt [3]).w 0 % 16 ≤ 11 :=
  ⟨passes_of (by decide +kernel), by decide +kernel, by decide +kernel, by decide +kernel, by decide +kernel⟩

theorem test_SessionPackets_mode_service :
    passes 0x02 (pkt [mdService]) base ∧ permCmd base (pkt [mdService]).org 0 = true ∧
    requestResult base.coming ((pkt [mdService]).w 0 % 16) ((pkt [mdService]).w 0 / 16 % 2) = 0 ∧ (pkt [mdService]).w 0 % 16 = mdService ∧
    mode base ≠ mdService ∧ mode base ≠ mdHold :=
  ⟨passes_of (by decide +kernel), by decide +kernel, by decide +kernel, by decide +kernel, by decide +kernel, by decide +kernel⟩

/-- The base with a mode request that acts at the tick. -/
def asking : State := { base with asks := [⟨mdService, 0, none⟩] }

theorem test_SessionPackets_mode_asks :
    base.asks = [] ∧ passes 0x02 (pkt [3]) asking ∧ requestResult asking.coming ((pkt [3]).w 0 % 16) ((pkt [3]).w 0 / 16 % 2) = 0 ∧
    (pkt [3]).w 0 % 16 = mode asking ∧ asking.asks ≠ [] ∧ permCmd asking 0 0 = true :=
  ⟨by decide +kernel, passes_of (by decide +kernel), by decide +kernel, by decide +kernel, by decide +kernel, by decide +kernel⟩

theorem test_SessionPackets_mode_safe :
    passes 0x02 (pkt [mdSafe]) base ∧ requestResult base.coming ((pkt [mdSafe]).w 0 % 16) ((pkt [mdSafe]).w 0 / 16 % 2) = 0 ∧
    (pkt [mdSafe]).w 0 % 16 = mdSafe ∧ mode base ≠ mdSafe :=
  ⟨passes_of (by decide +kernel), by decide +kernel, by decide +kernel, by decide +kernel⟩

theorem test_SessionPackets_batch_open :
    passes 0x03 (batchPkt []) base ∧ (batchPkt []).batchId ≠ 0 ∧ openOf base (batchPkt []).org = none :=
  ⟨passes_of (by decide +kernel), by decide +kernel, by decide +kernel⟩

theorem test_SessionPackets_batch_commit :
    passes 0x04 (batchPkt [0, 0]) withBatch ∧ openOf withBatch (batchPkt [0, 0]).org = some ⟨0, 0, 5, [], 0, 9⟩ ∧
    (⟨0, 0, 5, [], 0, 9⟩ : Batch).id = (batchPkt []).batchId ∧ withBatch.staged.length < 4 ∧
    (batchPkt [0, 0]).w 0 + (batchPkt [0, 0]).w 1 * 2 ^ 32 = 0 :=
  ⟨passes_of (by decide +kernel), by decide +kernel, by decide +kernel, by decide +kernel, by decide +kernel⟩

theorem test_SessionPackets_batch_commit_at :
    passes 0x04 (batchPkt [0, 25]) withBatch ∧
    serial 64 ((batchPkt [0, 25]).w 0 + (batchPkt [0, 25]).w 1 * 2 ^ 32) (withBatch.ctOf withBatch.eff) ≤ 256 * 1600000000 :=
  ⟨passes_of (by decide +kernel), by decide +kernel⟩

theorem test_SessionPackets_batch_abort :
    passes 0x05 (batchPkt []) withBatch :=
  passes_of (by decide +kernel)

/-- The base with a register mask of VM1 that opens no group. -/
def masked : State := base.wrs [(F.GLB_PERM_REG_GROUPS, 1, 0)]

/-- A premise over the register row of an address, evaluated. -/
def atWord (a : Nat) (f : Blk → Nat → Row → Bool → Bool) : Bool := match wordAt a with | some (b, u, r, hi) => f b u r hi | none => false

theorem atWord_of {a : Nat} {f : Blk → Nat → Row → Bool → Bool} (h : atWord a f = true) :
    ∃ b u r hi, wordAt a = some (b, u, r, hi) ∧ f b u r hi = true := by
  unfold atWord at h
  split at h
  · exact ⟨_, _, _, _, by assumption, h⟩
  · cases h

/-- A premise over the register of an address, evaluated. -/
def atReg (a : Nat) (f : Blk → Nat → Row → Bool) : Bool := match regAt a with | some (b, u, r) => f b u r | none => false

theorem atReg_of {a : Nat} {f : Blk → Nat → Row → Bool} (h : atReg a f = true) : ∃ b u r, regAt a = some (b, u, r) ∧ f b u r = true := by
  unfold atReg at h
  split at h
  · exact ⟨_, _, _, by assumption, h⟩
  · cases h

theorem test_RegisterWritesRefused_misaligned :
    powered base = true ∧ (0x13 : Word).toNat % 4 ≠ 0 ∧ (0xFFFFFFFC : Word).toNat % 4 = 0 ∧ wordAt (0xFFFFFFFC : Word).toNat = none ∧
    ((0xFFFFFFFC : Word).toNat < 0xFF0000 ∨ 0xFF0400 ≤ (0xFFFFFFFC : Word).toNat) ∧
    ((0xFFFFFFFC : Word).toNat < 0xFF8000 ∨ 0xFF8008 ≤ (0xFFFFFFFC : Word).toNat) :=
  by decide +kernel

theorem test_RegisterWritesRefused_denied :
    (∃ b u r hi, wordAt (F.PLY_CTL_EN.addr 63) = some (b, u, r, hi) ∧ regDenied masked 1 b = true) :=
  atWord_of (by decide +kernel)

theorem test_RegisterWritesRefused_width :
    (∃ b u r hi, wordAt (F.PLY_CTL_EN.addr 63) = some (b, u, r, hi) ∧ (!regDenied base 0 b) = true) :=
  atWord_of (by decide +kernel)

theorem test_RegisterWritesRefused_readonly :
    (∃ b u r hi, wordAt (F.GLB_ID_PART.addr 0) = some (b, u, r, hi) ∧ (!regDenied base 0 b && r.flds.all (fun f => decide (clsOf f u = .ro) || decide (clsOf f u = .st))) = true) :=
  atWord_of (by decide +kernel)

theorem test_RegisterWritesRefused_enabled :
    (∃ b u r hi, wordAt (F.PLY_PF_PAN.addr 63) = some (b, u, r, hi) ∧
      (!regDenied base 0 b && !hi && !r.pair && !r.flds.isEmpty && !rowRefused b r 0x40A && unitOn (plyIn psLoaded) b u r &&
        r.flds.all (fun f => decide (f.cls = .cfg) && decide (clsOf f u = .cfg) && f.part 0x40A != (plyIn psLoaded).rd f u)) = true) :=
  atWord_of (by decide +kernel)

theorem test_RegisterWritesStored_word :
    (∃ b u r, regAt (F.CHN_RATE_DM1.addr 255) = some (b, u, r) ∧ (!regDenied base 0 b && !r.pair && storesB base b u r 99) = true) :=
  atReg_of (by decide +kernel)

theorem test_RegisterWritesStored_pair :
    (∃ b u r, regAt (F.PLY_START_CT_AT_CT.addr 63) = some (b, u, r) ∧
      (!regDenied base 0 b && r.pair && F.PLY_START_CT_AT_CT.addr 63 % 8 == 0 && storesB base b u r (0x1000 + 7 * 2 ^ 32)) = true) :=
  atReg_of (by decide +kernel)

theorem test_RegisterWritesStored_bytes :
    (∃ b u r, regAt (F.CHN_GAIN_GAIN.addr 255) = some (b, u, r) ∧
      (!regDenied base 0 b && !r.pair && !r.flds.isEmpty && !rowRefused b r 0x5A00 && b.base != 0xA01000 && r.flds.all (fun f =>
        decide (f.cls = .live) && !hooked f && decide (clsOf f u = .live) && f.ok (newVal base (byteBits 2) 0x5A00 u f))) = true) :=
  atReg_of (by decide +kernel)

/-- The base in a tick in which HOST3 has written the whole register of a channel. -/
def outranked : State := { base with wrote := [⟨base.eff, F.CHN_RATE_DM1.addr 255, 6, 0xFFFF⟩] }

theorem test_RegisterWritesStored_rank :
    prevails base (2 * 6 + b2n false) ∧
    (∃ w ∈ outranked.wrote, w.tick = outranked.eff ∧ w.reg = F.CHN_RATE_DM1.addr 255 ∧ 2 * (0 : Fin 7).val + b2n true < w.rank ∧ bitOf w.mask (0 + 15) = true) ∧
    (∃ b u r, regAt (F.CHN_RATE_DM1.addr 255) = some (b, u, r) ∧ (!regDenied outranked 0 b && !r.pair && storesB outranked b u r 99) = true) :=
  ⟨prevails_of (by decide +kernel), by decide +kernel, atReg_of (by decide +kernel)⟩

theorem test_RegisterPackets_read :
    passes 0x10 (pkt [F.GLB_ID_PART.addr 0, 0xF0001]) base ∧ 1 ≤ (pkt [0, 0xF0001]).w 1 % 512 ∧ (pkt [0, 0xF0001]).w 1 % 512 ≤ 256 ∧
    (pkt [0, 0xF0001]).w 1 / 65536 % 16 ≠ 0 ∧ F.GLB_ID_PART.addr 0 % 4 = 0 ∧
    (∀ i < 1, (readReg base (F.GLB_ID_PART.addr 0 + 4 * i)).isSome = true) :=
  ⟨passes_of (by decide +kernel), by decide +kernel, by decide +kernel, by decide +kernel, by decide +kernel, by decide +kernel⟩

theorem test_RegisterPackets_write :
    passes 0x11 (pkt [F.CHN_RATE_DM1.addr 255, 0xF0001, 99]) base ∧ F.CHN_RATE_DM1.addr 255 % 4 = 0 ∧ F.CHN_RATE_DM1.addr 255 < 2 ^ 32 ∧
    (∃ b u r, regAt (F.CHN_RATE_DM1.addr 255) = some (b, u, r) ∧ (!regDenied base 0 b && !r.pair && storesB base b u r (99 % 2 ^ 32)) = true) :=
  ⟨passes_of (by decide +kernel), by decide +kernel, by decide +kernel, atReg_of (by decide +kernel)⟩

theorem test_RegisterPackets_write_pair :
    passes 0x11 (pkt [F.PLY_START_CT_AT_CT.addr 63, 0xF0002, 5, 6]) base ∧ F.PLY_START_CT_AT_CT.addr 63 % 8 = 0 ∧
    (pkt [0, 0xF0002]).w 1 / 65536 % 16 = 15 ∧ (pkt [0, 0xF0002]).w 1 % 512 = 2 :=
  ⟨passes_of (by decide +kernel), by decide +kernel, by decide +kernel, by decide +kernel⟩

theorem test_RegisterPackets_modify :
    passes 0x12 (pkt [F.CHN_GAIN_GAIN.addr 255, 0xF0000, 0xFF00, 0x5A00]) base ∧
    (∃ b u r, regAt (F.CHN_GAIN_GAIN.addr 255) = some (b, u, r) ∧
      (!regDenied base 0 b && !r.pair && storesB base b u r ((readReg0 base (F.CHN_GAIN_GAIN.addr 255) - (readReg0 base (F.CHN_GAIN_GAIN.addr 255) &&& 0xFF00)) +
        (0x5A00 &&& 0xFF00))) = true) ∧
    (pkt [0, 0xF0000]).w 1 / 65536 % 16 = 15 :=
  ⟨passes_of (by decide +kernel), atReg_of (by decide +kernel), by decide +kernel⟩

theorem test_RegisterPackets_snap :
    passes 0x13 (pkt []) base :=
  passes_of (by decide +kernel)

/-! ### Enables -/

/-- Rail 63 with its own phase as its source, which R69 refuses. -/
def badRail : State := base.wrs [(F.RSRC_CTL_SRC, 63, 4), (F.RSRC_CTL_SEL, 63, 63)]

/-- Rail, encoder port, tracker, player, DAC, ADC, demodulator, capture, lane, queue and port that are enabled. -/
def enabled : State :=
  base.wrs [(F.RSRC_CTL_EN, 63, 1), (F.ENC_CTL_EN, 7, 1), (F.RSRC_LT_CTL_EN, 7, 1), (F.PLY_CTL_EN, 63, 1), (F.PLY_STATE_STATE, 63, psLoaded),
    (F.CNV_DAC_CTL_EN, 7, 1), (F.CNV_ADC_CTL_EN, 7, 1), (F.DMD_CTL_EN, 15, 1), (F.CAP_CTL_EN, 31, 1), (F.REF_CTL_EN, 7, 1),
    (F.REF_STAT_STATE, 7, lsCollect), (F.BRN_CTL_EN, 127, 1), (F.RAKE_P_CTL_EN, 3, 1), (F.RAKE_P_STAT_STATE, 3, rkAlign)]

theorem test_RailEnables_rail :
    powered badRail = true ∧ mayWrite badRail 0 7 ∧
    turnsOn F.RSRC_CTL_EN [F.RSRC_CTL_COMP, F.RSRC_CTL_ABS, F.RSRC_CTL_LOSS_POL, F.RSRC_CTL_SEL, F.RSRC_CTL_SRC] (word F.RSRC_CTL_EN 1 [F.RSRC_CTL_COMP, F.RSRC_CTL_ABS, F.RSRC_CTL_LOSS_POL, F.RSRC_CTL_SEL, F.RSRC_CTL_SRC] 63 badRail).toNat 63 badRail ∧
    railEnableBad badRail 63 = true ∧
    turnsOn F.RSRC_CTL_EN [F.RSRC_CTL_COMP, F.RSRC_CTL_ABS, F.RSRC_CTL_LOSS_POL, F.RSRC_CTL_SEL, F.RSRC_CTL_SRC] (word F.RSRC_CTL_EN 1 [F.RSRC_CTL_COMP, F.RSRC_CTL_ABS, F.RSRC_CTL_LOSS_POL, F.RSRC_CTL_SEL, F.RSRC_CTL_SRC] 63 base).toNat 63 base ∧
    railEnableBad base 63 = false ∧ railSrcLost base 63 = false ∧
    turnsOff F.RSRC_CTL_EN [F.RSRC_CTL_COMP, F.RSRC_CTL_ABS, F.RSRC_CTL_LOSS_POL, F.RSRC_CTL_SEL, F.RSRC_CTL_SRC] (word F.RSRC_CTL_EN 0 [F.RSRC_CTL_COMP, F.RSRC_CTL_ABS, F.RSRC_CTL_LOSS_POL, F.RSRC_CTL_SEL, F.RSRC_CTL_SRC] 63 enabled).toNat 63 enabled :=
  ⟨by decide +kernel, mayWrite_of (by decide +kernel), turnsOn_of (by decide +kernel), by decide +kernel, turnsOn_of (by decide +kernel),
    by decide +kernel, by decide +kernel, turnsOff_of (by decide +kernel)⟩

theorem test_RailEnables_encoder :
    turnsOn F.ENC_CTL_EN [F.ENC_CTL_TERM, F.ENC_CTL_INDEX, F.ENC_CTL_FILT, F.ENC_CTL_INVERT, F.ENC_CTL_MODE] (word F.ENC_CTL_EN 1 [F.ENC_CTL_TERM, F.ENC_CTL_INDEX, F.ENC_CTL_FILT, F.ENC_CTL_INVERT, F.ENC_CTL_MODE] 7 (base.wrs [(F.ENC_CTL_MODE, 7, 2), (F.ENC_CTL_INDEX, 7, 1)])).toNat 7 (base.wrs [(F.ENC_CTL_MODE, 7, 2), (F.ENC_CTL_INDEX, 7, 1)]) ∧
    (base.wrs [(F.ENC_CTL_MODE, 7, 2), (F.ENC_CTL_INDEX, 7, 1)]).rd F.ENC_CTL_MODE 7 = 2 ∧
    (base.wrs [(F.ENC_CTL_MODE, 7, 2), (F.ENC_CTL_INDEX, 7, 1)]).rd F.ENC_CTL_INDEX 7 ≠ 0 ∧
    turnsOn F.ENC_CTL_EN [F.ENC_CTL_TERM, F.ENC_CTL_INDEX, F.ENC_CTL_FILT, F.ENC_CTL_INVERT, F.ENC_CTL_MODE] (word F.ENC_CTL_EN 1 [F.ENC_CTL_TERM, F.ENC_CTL_INDEX, F.ENC_CTL_FILT, F.ENC_CTL_INVERT, F.ENC_CTL_MODE] 7 base).toNat 7 base ∧
    base.rd F.ENC_CTL_MODE 7 ≠ 2 ∧
    turnsOff F.ENC_CTL_EN [F.ENC_CTL_TERM, F.ENC_CTL_INDEX, F.ENC_CTL_FILT, F.ENC_CTL_INVERT, F.ENC_CTL_MODE] (word F.ENC_CTL_EN 0 [F.ENC_CTL_TERM, F.ENC_CTL_INDEX, F.ENC_CTL_FILT, F.ENC_CTL_INVERT, F.ENC_CTL_MODE] 7 enabled).toNat 7 enabled :=
  ⟨turnsOn_of (by decide +kernel), by decide +kernel, by decide +kernel, turnsOn_of (by decide +kernel), by decide +kernel,
    turnsOff_of (by decide +kernel)⟩

theorem test_RailEnables_tracker :
    F.RSRC_LT_CTL_MAINS.part (word F.RSRC_LT_CTL_EN 1 [F.RSRC_LT_CTL_MISS_MAX, F.RSRC_LT_CTL_WIN, F.RSRC_LT_CTL_IN_SEL, F.RSRC_LT_CTL_AVG, F.RSRC_LT_CTL_EDGE, F.RSRC_LT_CTL_SLEW] 7 base).toNat = 0 ∧
    turnsOn F.RSRC_LT_CTL_EN [F.RSRC_LT_CTL_MISS_MAX, F.RSRC_LT_CTL_WIN, F.RSRC_LT_CTL_IN_SEL, F.RSRC_LT_CTL_AVG, F.RSRC_LT_CTL_EDGE, F.RSRC_LT_CTL_SLEW] (word F.RSRC_LT_CTL_EN 1 [F.RSRC_LT_CTL_MISS_MAX, F.RSRC_LT_CTL_WIN, F.RSRC_LT_CTL_IN_SEL, F.RSRC_LT_CTL_AVG, F.RSRC_LT_CTL_EDGE, F.RSRC_LT_CTL_SLEW] 7 base).toNat 7 base ∧
    turnsOff F.RSRC_LT_CTL_EN [F.RSRC_LT_CTL_MISS_MAX, F.RSRC_LT_CTL_WIN, F.RSRC_LT_CTL_IN_SEL, F.RSRC_LT_CTL_AVG, F.RSRC_LT_CTL_EDGE, F.RSRC_LT_CTL_SLEW] (word F.RSRC_LT_CTL_EN 0 [F.RSRC_LT_CTL_MISS_MAX, F.RSRC_LT_CTL_WIN, F.RSRC_LT_CTL_IN_SEL, F.RSRC_LT_CTL_AVG, F.RSRC_LT_CTL_EDGE, F.RSRC_LT_CTL_SLEW] 7 enabled).toNat 7 enabled :=
  ⟨by decide +kernel, turnsOn_of (by decide +kernel), turnsOff_of (by decide +kernel)⟩

/-- Player 63 with a prefetch pan of its own. -/
def pannedPlayer : State := base.wrs [(F.PLY_PF_PAN, 63, 2), (F.PAN_OWN_OWNER, 2, owPlayer), (F.PLY_PF_SIZE, 63, 4)]

theorem test_PlayerEnable_on :
    powered base = true ∧ mayWrite base 0 5 ∧
    turnsOn F.PLY_CTL_EN [F.PLY_CTL_BIND, F.PLY_CTL_STARVE_POL, F.PLY_CTL_ECC_POL, F.PLY_CTL_UNDER_POL, F.PLY_CTL_MODE, F.PLY_CTL_WIDTH] (word F.PLY_CTL_EN 1 [F.PLY_CTL_BIND, F.PLY_CTL_STARVE_POL, F.PLY_CTL_ECC_POL, F.PLY_CTL_UNDER_POL, F.PLY_CTL_MODE, F.PLY_CTL_WIDTH] 63 (base.wrs [(F.PLY_PF_SIZE, 63, 64), (F.PLY_PF_OFFSET, 63, 1)])).toNat 63 (base.wrs [(F.PLY_PF_SIZE, 63, 64), (F.PLY_PF_OFFSET, 63, 1)]) ∧
    plyEnableBad false 63 (base.wrs [(F.PLY_PF_SIZE, 63, 64), (F.PLY_PF_OFFSET, 63, 1)]) = true ∧
    turnsOn F.PLY_CTL_EN [F.PLY_CTL_BIND, F.PLY_CTL_STARVE_POL, F.PLY_CTL_ECC_POL, F.PLY_CTL_UNDER_POL, F.PLY_CTL_MODE, F.PLY_CTL_WIDTH] (word F.PLY_CTL_EN 1 [F.PLY_CTL_BIND, F.PLY_CTL_STARVE_POL, F.PLY_CTL_ECC_POL, F.PLY_CTL_UNDER_POL, F.PLY_CTL_MODE, F.PLY_CTL_WIDTH] 63 pannedPlayer).toNat 63 pannedPlayer ∧
    plyEnableBad false 63 pannedPlayer = false :=
  ⟨by decide +kernel, mayWrite_of (by decide +kernel), turnsOn_of (by decide +kernel), by decide +kernel, turnsOn_of (by decide +kernel),
    by decide +kernel⟩

theorem test_PlayerEnable_off :
    powered enabled = true ∧ mayWrite enabled 0 5 ∧
    turnsOff F.PLY_CTL_EN [F.PLY_CTL_BIND, F.PLY_CTL_STARVE_POL, F.PLY_CTL_ECC_POL, F.PLY_CTL_UNDER_POL, F.PLY_CTL_MODE, F.PLY_CTL_WIDTH] (word F.PLY_CTL_EN 0 [F.PLY_CTL_BIND, F.PLY_CTL_STARVE_POL, F.PLY_CTL_ECC_POL, F.PLY_CTL_UNDER_POL, F.PLY_CTL_MODE, F.PLY_CTL_WIDTH] 63 enabled).toNat 63 enabled ∧
    pst enabled 63 = psLoaded ∧ (plyOf enabled 63).arm = none ∧ (plyOf enabled 63).start = none ∧ (plyOf enabled 63).locks = [] ∧
    plyStream enabled 63 = false :=
  ⟨by decide +kernel, mayWrite_of (by decide +kernel), turnsOff_of (by decide +kernel), by decide +kernel, by decide +kernel,
    by decide +kernel, by decide +kernel, by decide +kernel⟩

/-- Channel 255 with an enabled DAC as its destination. -/
def dacChannel : State := base.wrs [(F.CHN_DEST_KIND, 255, 2), (F.CHN_DEST_UNIT, 255, 7), (F.CHN_RATE_DM1, 255, 63), (F.CHN_RQ_WIDTH, 255, 16), (F.CNV_DAC_CTL_EN, 7, 1)]

/-- Channel 255 that is ON. -/
def onChannel : State := base.wrs [(F.CHN_CTL_EN, 255, 1), (F.CHN_STAT_STATE, 255, 1)]

/-- A demodulator of ADC 0 with the running reference of a player, in one mode and exponent. -/
def demod (mode k : Nat) : State := base.wrs [(F.DMD_CTL_REF_MODE, 15, mode), (F.DMD_CTL_K, 15, k), (F.CNV_ADC_CTL_EN, 0, 1), (F.PLY_CTL_EN, 0, 1)]

theorem test_ChannelEnables_channel :
    powered base = true ∧ mayWrite base 0 6 ∧
    turnsOn F.CHN_CTL_EN [F.CHN_CTL_BQ_EN, F.CHN_CTL_LIM_POL, F.CHN_CTL_TYPE, F.CHN_CTL_INTERP] (word F.CHN_CTL_EN 1 [F.CHN_CTL_BQ_EN, F.CHN_CTL_LIM_POL, F.CHN_CTL_TYPE, F.CHN_CTL_INTERP] 255 (base.wrs [(F.CHN_DEST_KIND, 255, 2)])).toNat 255 (base.wrs [(F.CHN_DEST_KIND, 255, 2)]) ∧
    chnEnableCause false 255 (base.wrs [(F.CHN_DEST_KIND, 255, 2)]) ≠ 0 ∧
    turnsOn F.CHN_CTL_EN [F.CHN_CTL_BQ_EN, F.CHN_CTL_LIM_POL, F.CHN_CTL_TYPE, F.CHN_CTL_INTERP] (word F.CHN_CTL_EN 1 [F.CHN_CTL_BQ_EN, F.CHN_CTL_LIM_POL, F.CHN_CTL_TYPE, F.CHN_CTL_INTERP] 255 dacChannel).toNat 255 dacChannel ∧
    chnEnableCause false 255 dacChannel = 0 ∧
    turnsOff F.CHN_CTL_EN [F.CHN_CTL_BQ_EN, F.CHN_CTL_LIM_POL, F.CHN_CTL_TYPE, F.CHN_CTL_INTERP] (word F.CHN_CTL_EN 0 [F.CHN_CTL_BQ_EN, F.CHN_CTL_LIM_POL, F.CHN_CTL_TYPE, F.CHN_CTL_INTERP] 255 onChannel).toNat 255 onChannel ∧
    onChannel.rd F.CHN_STAT_STATE 255 = 1 :=
  ⟨by decide +kernel, mayWrite_of (by decide +kernel), turnsOn_of (by decide +kernel), by decide +kernel, turnsOn_of (by decide +kernel),
    by decide +kernel, turnsOff_of (by decide +kernel), by decide +kernel⟩

theorem test_ChannelEnables_converters :
    powered base = true ∧ mayWrite base 0 8 ∧ turnsOn F.CNV_DAC_CTL_EN [] (word F.CNV_DAC_CTL_EN 1 [] 7 base).toNat 7 base ∧
    turnsOff F.CNV_DAC_CTL_EN [] (word F.CNV_DAC_CTL_EN 0 [] 7 enabled).toNat 7 enabled ∧ dacUsed enabled 7 = false ∧
    turnsOn F.CNV_ADC_CTL_EN [F.CNV_ADC_CTL_PHASE] (word F.CNV_ADC_CTL_EN 1 [F.CNV_ADC_CTL_PHASE] 7 base).toNat 7 base ∧
    turnsOff F.CNV_ADC_CTL_EN [F.CNV_ADC_CTL_PHASE] (word F.CNV_ADC_CTL_EN 0 [F.CNV_ADC_CTL_PHASE] 7 enabled).toNat 7 enabled :=
  ⟨by decide +kernel, mayWrite_of (by decide +kernel), turnsOn_of (by decide +kernel), turnsOff_of (by decide +kernel),
    by decide +kernel, turnsOn_of (by decide +kernel), turnsOff_of (by decide +kernel)⟩

theorem test_ChannelEnables_demodulator :
    powered base = true ∧ mayWrite base 0 9 ∧ base.on F.DMD_STAT_VALID 15 = false ∧
    turnsOn F.DMD_CTL_EN [F.DMD_CTL_REF_PLAYER, F.DMD_CTL_IN_UNIT, F.DMD_CTL_REF_MODE, F.DMD_CTL_IN_KIND, F.DMD_CTL_K] (word F.DMD_CTL_EN 1 [F.DMD_CTL_REF_PLAYER, F.DMD_CTL_IN_UNIT, F.DMD_CTL_REF_MODE, F.DMD_CTL_IN_KIND, F.DMD_CTL_K] 15 (base.wrs [(F.DMD_CTL_K, 15, 0)])).toNat 15 (base.wrs [(F.DMD_CTL_K, 15, 0)]) ∧
    dmdCause false 15 (base.wrs [(F.DMD_CTL_K, 15, 0)]) ≠ 0 ∧
    turnsOn F.DMD_CTL_EN [F.DMD_CTL_REF_PLAYER, F.DMD_CTL_IN_UNIT, F.DMD_CTL_REF_MODE, F.DMD_CTL_IN_KIND, F.DMD_CTL_K] (word F.DMD_CTL_EN 1 [F.DMD_CTL_REF_PLAYER, F.DMD_CTL_IN_UNIT, F.DMD_CTL_REF_MODE, F.DMD_CTL_IN_KIND, F.DMD_CTL_K] 15 (demod 1 3)).toNat 15 (demod 1 3) ∧
    dmdCause false 15 (demod 1 3) = 0 ∧
    turnsOff F.DMD_CTL_EN [F.DMD_CTL_REF_PLAYER, F.DMD_CTL_IN_UNIT, F.DMD_CTL_REF_MODE, F.DMD_CTL_IN_KIND, F.DMD_CTL_K] (word F.DMD_CTL_EN 0 [F.DMD_CTL_REF_PLAYER, F.DMD_CTL_IN_UNIT, F.DMD_CTL_REF_MODE, F.DMD_CTL_IN_KIND, F.DMD_CTL_K] 15 enabled).toNat 15 enabled :=
  ⟨by decide +kernel, mayWrite_of (by decide +kernel), by decide +kernel, turnsOn_of (by decide +kernel), by decide +kernel,
    turnsOn_of (by decide +kernel), by decide +kernel, turnsOff_of (by decide +kernel)⟩

/-- Capture 31 whose queue is enabled on its side. -/
def readyCap : State := base.wrs [(F.BRN_CTL_EN, capQueue base 31, 1), (F.BRN_CTL_WR_SIDE, capQueue base 31, 1), (F.CAP_MASK_MASK, 31, 1), (F.CAP_DEC_DM1, 31, 99)]

/-- Learning lane 7 with its segments. -/
def readyLane : State :=
  setSeg 20 { Seg.absent with state := 2, lenG := 2, width := 1, cpair := true }
    (setSeg 21 { Seg.absent with state := 2, lenG := 2, width := 1, cpair := true }
      (setSeg 30 { Seg.absent with state := 2, lenG := 2, width := 0 } (base.wrs [(F.REF_CTL_PAIR, 7, 20), (F.PLY_CTL_WIDTH, 0, 1), (F.REF_MSEG_MSEG, 7, 30)])))

/-- Queue 127 with a store. -/
def readyQueue : State := base.wrs [(F.BRN_STORE_PAN, 127, 5), (F.BRN_IDX_PAN, 127, 6), (F.BRN_CTL_A, 127, 10)]

theorem test_CaptureEnables_capture :
    (capOf readyCap 31).closing = false ∧ (capOf enabled 31).isOpen = false ∧ powered base = true ∧ mayWrite base 0 10 ∧
    turnsOn F.CAP_CTL_EN [F.CAP_CTL_TAG_PLAYER, F.CAP_CTL_TAG, F.CAP_CTL_DEC_MODE, F.CAP_CTL_GATE, F.CAP_CTL_UNIT, F.CAP_CTL_KIND] (word F.CAP_CTL_EN 1 [F.CAP_CTL_TAG_PLAYER, F.CAP_CTL_TAG, F.CAP_CTL_DEC_MODE, F.CAP_CTL_GATE, F.CAP_CTL_UNIT, F.CAP_CTL_KIND] 31 base).toNat 31 base ∧
    capCause false 31 base ≠ 0 ∧
    turnsOn F.CAP_CTL_EN [F.CAP_CTL_TAG_PLAYER, F.CAP_CTL_TAG, F.CAP_CTL_DEC_MODE, F.CAP_CTL_GATE, F.CAP_CTL_UNIT, F.CAP_CTL_KIND] (word F.CAP_CTL_EN 1 [F.CAP_CTL_TAG_PLAYER, F.CAP_CTL_TAG, F.CAP_CTL_DEC_MODE, F.CAP_CTL_GATE, F.CAP_CTL_UNIT, F.CAP_CTL_KIND] 31 readyCap).toNat 31 readyCap ∧
    capCause false 31 readyCap = 0 ∧
    turnsOff F.CAP_CTL_EN [F.CAP_CTL_TAG_PLAYER, F.CAP_CTL_TAG, F.CAP_CTL_DEC_MODE, F.CAP_CTL_GATE, F.CAP_CTL_UNIT, F.CAP_CTL_KIND] (word F.CAP_CTL_EN 0 [F.CAP_CTL_TAG_PLAYER, F.CAP_CTL_TAG, F.CAP_CTL_DEC_MODE, F.CAP_CTL_GATE, F.CAP_CTL_UNIT, F.CAP_CTL_KIND] 31 enabled).toNat 31 enabled :=
  ⟨by decide +kernel, by decide +kernel, by decide +kernel, mayWrite_of (by decide +kernel), turnsOn_of (by decide +kernel),
    by decide +kernel, turnsOn_of (by decide +kernel), by decide +kernel, turnsOff_of (by decide +kernel)⟩

theorem test_CaptureEnables_lane :
    powered base = true ∧ mayWrite base 0 14 ∧
    turnsOn F.REF_CTL_EN [F.REF_CTL_PAIR, F.REF_CTL_PLAYER, F.REF_CTL_WD_POL, F.REF_CTL_LIM_POL, F.REF_CTL_CYCLIC, F.REF_CTL_WORD] (word F.REF_CTL_EN 1 [F.REF_CTL_PAIR, F.REF_CTL_PLAYER, F.REF_CTL_WD_POL, F.REF_CTL_LIM_POL, F.REF_CTL_CYCLIC, F.REF_CTL_WORD] 7 base).toNat 7 base ∧
    laneCause false 7 base ≠ 0 ∧
    turnsOn F.REF_CTL_EN [F.REF_CTL_PAIR, F.REF_CTL_PLAYER, F.REF_CTL_WD_POL, F.REF_CTL_LIM_POL, F.REF_CTL_CYCLIC, F.REF_CTL_WORD] (word F.REF_CTL_EN 1 [F.REF_CTL_PAIR, F.REF_CTL_PLAYER, F.REF_CTL_WD_POL, F.REF_CTL_LIM_POL, F.REF_CTL_CYCLIC, F.REF_CTL_WORD] 7 readyLane).toNat 7 readyLane ∧
    laneCause false 7 readyLane = 0 ∧
    turnsOff F.REF_CTL_EN [F.REF_CTL_PAIR, F.REF_CTL_PLAYER, F.REF_CTL_WD_POL, F.REF_CTL_LIM_POL, F.REF_CTL_CYCLIC, F.REF_CTL_WORD] (word F.REF_CTL_EN 0 [F.REF_CTL_PAIR, F.REF_CTL_PLAYER, F.REF_CTL_WD_POL, F.REF_CTL_LIM_POL, F.REF_CTL_CYCLIC, F.REF_CTL_WORD] 7 enabled).toNat 7 enabled ∧
    laneSt enabled 7 ≠ lsOff ∧ laneSt enabled 7 ≠ lsSafe ∧ laneSt enabled 7 ≠ lsClosing :=
  ⟨by decide +kernel, mayWrite_of (by decide +kernel), turnsOn_of (by decide +kernel), by decide +kernel, turnsOn_of (by decide +kernel),
    by decide +kernel, turnsOff_of (by decide +kernel), by decide +kernel, by decide +kernel, by decide +kernel⟩

theorem test_CaptureEnables_queue :
    powered base = true ∧ mayWrite base 0 4 ∧
    turnsOn F.BRN_CTL_EN [F.BRN_CTL_B, F.BRN_CTL_A, F.BRN_CTL_WR_SIDE, F.BRN_CTL_DEEP] (word F.BRN_CTL_EN 1 [F.BRN_CTL_B, F.BRN_CTL_A, F.BRN_CTL_WR_SIDE, F.BRN_CTL_DEEP] 127 readyQueue).toNat 127 readyQueue ∧
    qCause false 127 readyQueue = 0 ∧
    turnsOn F.BRN_CTL_EN [F.BRN_CTL_B, F.BRN_CTL_A, F.BRN_CTL_WR_SIDE, F.BRN_CTL_DEEP] (word F.BRN_CTL_EN 1 [F.BRN_CTL_B, F.BRN_CTL_A, F.BRN_CTL_WR_SIDE, F.BRN_CTL_DEEP] 127 base).toNat 127 base ∧
    qCause false 127 base ≠ 0 ∧
    turnsOff F.BRN_CTL_EN [F.BRN_CTL_B, F.BRN_CTL_A, F.BRN_CTL_WR_SIDE, F.BRN_CTL_DEEP] (word F.BRN_CTL_EN 0 [F.BRN_CTL_B, F.BRN_CTL_A, F.BRN_CTL_WR_SIDE, F.BRN_CTL_DEEP] 127 enabled).toNat 127 enabled ∧
    (quOf enabled 127).writer = none ∧ (quOf enabled 127).reader = none ∧
    turnsOff F.BRN_CTL_EN [F.BRN_CTL_B, F.BRN_CTL_A, F.BRN_CTL_WR_SIDE, F.BRN_CTL_DEEP] (word F.BRN_CTL_EN 0 [F.BRN_CTL_B, F.BRN_CTL_A, F.BRN_CTL_WR_SIDE, F.BRN_CTL_DEEP] 127 (setQu 127 { quOf base 127 with reader := some 3 } enabled)).toNat 127 (setQu 127 { quOf base 127 with reader := some 3 } enabled) ∧
    (quOf (setQu 127 { quOf base 127 with reader := some 3 } enabled) 127).reader.isSome = true :=
  ⟨by decide +kernel, mayWrite_of (by decide +kernel), turnsOn_of (by decide +kernel), by decide +kernel, turnsOn_of (by decide +kernel),
    by decide +kernel, turnsOff_of (by decide +kernel), by decide +kernel, by decide +kernel, turnsOff_of (by decide +kernel),
    by decide +kernel⟩

/-- In-lane 7 with an enabled companion. -/
def pairedLane : State := base.wrs [(F.FLM_IL_CTL_COMP, 7, 15), (F.FLM_OL_CTL_EN, 15, 1), (F.FLM_OL_CTL_RATE, 15, 0)]

/-- The same with the in-lane enabled, and with a capture that uses it. -/
def runningLane : State := pairedLane.wrs [(F.FLM_IL_CTL_EN, 7, 1), (F.FLM_IL_STAT_STATE, 7, ilRun)]

def usedLane : State := runningLane.wrs [(F.CAP_CTL_EN, 3, 1), (F.CAP_CTL_UNIT, 3, 7)]

/-- A Rake block that is disabled. -/
def rakeOff : State := base.wrs [(F.RAKE_CTL_ROLE, 0, 0), (F.RAKE_CTL_EN, 0, 0)]

theorem test_LaneEnables_inlane :
    powered base = true ∧ mayWrite base 0 11 ∧
    turnsOn F.FLM_IL_CTL_EN [F.FLM_IL_CTL_COMP, F.FLM_IL_CTL_RATE] (word F.FLM_IL_CTL_EN 1 [F.FLM_IL_CTL_COMP, F.FLM_IL_CTL_RATE] 7 base).toNat 7 base ∧
    ilCause false 7 base ≠ 0 ∧
    turnsOn F.FLM_IL_CTL_EN [F.FLM_IL_CTL_COMP, F.FLM_IL_CTL_RATE] (word F.FLM_IL_CTL_EN 1 [F.FLM_IL_CTL_COMP, F.FLM_IL_CTL_RATE] 7 pairedLane).toNat 7 pairedLane ∧
    ilCause false 7 pairedLane = 0 ∧
    (∀ d : Fin 16, pairedLane.on F.DMD_CTL_EN d = true → ¬ (pairedLane.rd F.DMD_CTL_IN_KIND d = 1 ∧ pairedLane.rd F.DMD_CTL_IN_UNIT d / 16 = (7 : Fin 8).val)) ∧
    turnsOff F.FLM_IL_CTL_EN [F.FLM_IL_CTL_COMP, F.FLM_IL_CTL_RATE] (word F.FLM_IL_CTL_EN 0 [F.FLM_IL_CTL_COMP, F.FLM_IL_CTL_RATE] 7 runningLane).toNat 7 runningLane ∧
    ilUsed runningLane 7 = false ∧
    turnsOff F.FLM_IL_CTL_EN [F.FLM_IL_CTL_COMP, F.FLM_IL_CTL_RATE] (word F.FLM_IL_CTL_EN 0 [F.FLM_IL_CTL_COMP, F.FLM_IL_CTL_RATE] 7 usedLane).toNat 7 usedLane ∧
    ilUsed usedLane 7 = true :=
  ⟨by decide +kernel, mayWrite_of (by decide +kernel), turnsOn_of (by decide +kernel), by decide +kernel, turnsOn_of (by decide +kernel),
    by decide +kernel, by decide +kernel, turnsOff_of (by decide +kernel), by decide +kernel, turnsOff_of (by decide +kernel),
    by decide +kernel⟩

theorem test_LaneEnables_rake :
    powered rakeOff = true ∧ mayWrite rakeOff 0 12 ∧
    rakeOff.rd F.RAKE_CTL_FENCE 0 = F.RAKE_CTL_FENCE.part (word F.RAKE_CTL_EN 1 [F.RAKE_CTL_ROLE, F.RAKE_CTL_AUTO_ENUM, F.RAKE_CTL_FENCE] 0 rakeOff).toNat ∧
    1 ≤ F.RAKE_CTL_FENCE.part (word F.RAKE_CTL_EN 1 [F.RAKE_CTL_ROLE, F.RAKE_CTL_AUTO_ENUM, F.RAKE_CTL_FENCE] 0 rakeOff).toNat ∧
    F.RAKE_CTL_FENCE.part (word F.RAKE_CTL_EN 1 [F.RAKE_CTL_ROLE, F.RAKE_CTL_AUTO_ENUM, F.RAKE_CTL_FENCE] 0 rakeOff).toNat ≤ 64 ∧
    turnsOn F.RAKE_CTL_EN [F.RAKE_CTL_ROLE, F.RAKE_CTL_AUTO_ENUM] (word F.RAKE_CTL_EN 1 [F.RAKE_CTL_ROLE, F.RAKE_CTL_AUTO_ENUM, F.RAKE_CTL_FENCE] 0 rakeOff).toNat 0 rakeOff ∧
    rakeOff.rd F.RAKE_CTL_ROLE 0 = 0 ∧ (∀ p : Fin 64, rakeOff.on F.RSRC_CTL_EN p = true → railSrc rakeOff p ≠ 3) :=
  ⟨by decide +kernel, mayWrite_of (by decide +kernel), by decide +kernel, by decide +kernel, by decide +kernel,
    turnsOn_of (by decide +kernel), by decide +kernel, by decide +kernel⟩

theorem test_LaneEnables_port :
    turnsOn F.RAKE_P_CTL_EN [F.RAKE_P_CTL_SWING] (word F.RAKE_P_CTL_EN 1 [F.RAKE_P_CTL_SWING] 3 (base.wrs [(F.RAKE_P_CTL_EN, 3, 0)])).toNat 3 (base.wrs [(F.RAKE_P_CTL_EN, 3, 0)]) ∧
    turnsOff F.RAKE_P_CTL_EN [F.RAKE_P_CTL_SWING] (word F.RAKE_P_CTL_EN 0 [F.RAKE_P_CTL_SWING] 3 enabled).toNat 3 enabled ∧
    rkSt enabled 3 ≠ rkJoined :=
  ⟨turnsOn_of (by decide +kernel), turnsOff_of (by decide +kernel), by decide +kernel⟩

theorem test_OutLaneEnable_refused :
    powered base = true ∧ mayWrite base 0 11 ∧
    turnsOn F.FLM_OL_CTL_EN [F.FLM_OL_CTL_TRAIN_SF, F.FLM_OL_CTL_ORDER, F.FLM_OL_CTL_MARK_EN, F.FLM_OL_CTL_MPLAYER, F.FLM_OL_CTL_RATE] (word F.FLM_OL_CTL_EN 1 [F.FLM_OL_CTL_TRAIN_SF, F.FLM_OL_CTL_ORDER, F.FLM_OL_CTL_MARK_EN, F.FLM_OL_CTL_MPLAYER, F.FLM_OL_CTL_RATE] 15 (base.wrs [(F.FLM_OL_CTL_RATE, 15, 3)])).toNat 15 (base.wrs [(F.FLM_OL_CTL_RATE, 15, 3)]) ∧
    (base.wrs [(F.FLM_OL_CTL_RATE, 15, 3)]).rd F.FLM_OL_CTL_RATE 15 = 3 ∧
    turnsOn F.FLM_OL_CTL_EN [F.FLM_OL_CTL_TRAIN_SF, F.FLM_OL_CTL_ORDER, F.FLM_OL_CTL_MARK_EN, F.FLM_OL_CTL_MPLAYER, F.FLM_OL_CTL_RATE] (word F.FLM_OL_CTL_EN 1 [F.FLM_OL_CTL_TRAIN_SF, F.FLM_OL_CTL_ORDER, F.FLM_OL_CTL_MARK_EN, F.FLM_OL_CTL_MPLAYER, F.FLM_OL_CTL_RATE] 15 (base.wrs [(F.FLM_OL_STAT_STATE, 15, olClosing)])).toNat 15 (base.wrs [(F.FLM_OL_STAT_STATE, 15, olClosing)]) ∧
    (base.wrs [(F.FLM_OL_STAT_STATE, 15, olClosing)]).rd F.FLM_OL_CTL_RATE 15 ≠ 3 ∧
    olSt (base.wrs [(F.FLM_OL_STAT_STATE, 15, olClosing)]) 15 = olClosing :=
  ⟨by decide +kernel, mayWrite_of (by decide +kernel), turnsOn_of (by decide +kernel), by decide +kernel, turnsOn_of (by decide +kernel),
    by decide +kernel, by decide +kernel⟩

theorem test_OutLaneEnable_on :
    turnsOn F.FLM_OL_CTL_EN [F.FLM_OL_CTL_TRAIN_SF, F.FLM_OL_CTL_ORDER, F.FLM_OL_CTL_MARK_EN, F.FLM_OL_CTL_MPLAYER, F.FLM_OL_CTL_RATE] (word F.FLM_OL_CTL_EN 1 [F.FLM_OL_CTL_TRAIN_SF, F.FLM_OL_CTL_ORDER, F.FLM_OL_CTL_MARK_EN, F.FLM_OL_CTL_MPLAYER, F.FLM_OL_CTL_RATE] 15 base).toNat 15 base ∧
    base.rd F.FLM_OL_CTL_RATE 15 ≠ 3 ∧ olSt base 15 ≠ olClosing :=
  ⟨turnsOn_of (by decide +kernel), by decide +kernel, by decide +kernel⟩

theorem test_OutLaneEnable_train :
    16 ≤ base.rd F.FLM_OL_CTL_TRAIN_SF 15 :=
  by decide +kernel

theorem test_OutLaneEnable_off :
    turnsOff F.FLM_OL_CTL_EN [F.FLM_OL_CTL_TRAIN_SF, F.FLM_OL_CTL_ORDER, F.FLM_OL_CTL_MARK_EN, F.FLM_OL_CTL_MPLAYER, F.FLM_OL_CTL_RATE] (word F.FLM_OL_CTL_EN 0 [F.FLM_OL_CTL_TRAIN_SF, F.FLM_OL_CTL_ORDER, F.FLM_OL_CTL_MARK_EN, F.FLM_OL_CTL_MPLAYER, F.FLM_OL_CTL_RATE] 15 pairedLane).toNat 15 pairedLane ∧
    olUsed pairedLane 15 = false ∧
    (∀ i : Fin 8, ¬ (pairedLane.on F.FLM_IL_CTL_EN i = true ∧ pairedLane.rd F.FLM_IL_CTL_COMP i = (15 : Fin 16).val)) :=
  ⟨turnsOff_of (by decide +kernel), by decide +kernel, by decide +kernel⟩

theorem test_OutLaneEnable_companion :
    turnsOff F.FLM_OL_CTL_EN [F.FLM_OL_CTL_TRAIN_SF, F.FLM_OL_CTL_ORDER, F.FLM_OL_CTL_MARK_EN, F.FLM_OL_CTL_MPLAYER, F.FLM_OL_CTL_RATE] (word F.FLM_OL_CTL_EN 0 [F.FLM_OL_CTL_TRAIN_SF, F.FLM_OL_CTL_ORDER, F.FLM_OL_CTL_MARK_EN, F.FLM_OL_CTL_MPLAYER, F.FLM_OL_CTL_RATE] 15 runningLane).toNat 15 runningLane ∧
    (∃ i : Fin 8, runningLane.on F.FLM_IL_CTL_EN i = true ∧ runningLane.rd F.FLM_IL_CTL_COMP i = (15 : Fin 16).val) :=
  ⟨turnsOff_of (by decide +kernel), by decide +kernel⟩

/-- Channel 255 is ON with out-lane 15 as its destination. -/
def laneChannel : State := setChn 255 { chnOf base 255 with dest := 1 + 16 * 15 } (onChannel.wr F.FLM_OL_CTL_EN 15 1)

theorem test_OutLaneEnable_channel :
    turnsOff F.FLM_OL_CTL_EN [F.FLM_OL_CTL_TRAIN_SF, F.FLM_OL_CTL_ORDER, F.FLM_OL_CTL_MARK_EN, F.FLM_OL_CTL_MPLAYER, F.FLM_OL_CTL_RATE] (word F.FLM_OL_CTL_EN 0 [F.FLM_OL_CTL_TRAIN_SF, F.FLM_OL_CTL_ORDER, F.FLM_OL_CTL_MARK_EN, F.FLM_OL_CTL_MPLAYER, F.FLM_OL_CTL_RATE] 15 laneChannel).toNat 15 laneChannel ∧
    chnHolds laneChannel 255 = true ∧ dKind (chnOf laneChannel 255).dest = 1 ∧ dUnit (chnOf laneChannel 255).dest = 15 :=
  ⟨turnsOff_of (by decide +kernel), by decide +kernel, by decide +kernel, by decide +kernel⟩

/-! ### Memory, tree, clock and ring commands -/

/-- Queue 127 with two loose packets, from index entry 2 on. -/
def looseQueue : State :=
  setQu 127 { quOf base 127 with opened := false } (base.wrs [(F.BRN_CTL_EN, 127, 1), (F.BRN_STORE_PAN, 127, 5), (F.BRN_IDX_PAN, 127, 6),
    (F.BRN_WP_PTR, 127, 20), (F.BRN_CP_PTR, 127, 11), (F.BRN_RP_PTR, 127, 3), (F.BRN_IPTR_ICP, 127, 4), (F.BRN_IPTR_IRP, 127, 2)])

/-- The same with the reader at the packet of entry 2. -/
def heldQueue : State := setQu 127 { quOf looseQueue 127 with held := true } looseQueue

theorem test_MemoryCommands_memory :
    powered base = true ∧ mayWrite base 0 2 ∧ mayWrite base 0 13 :=
  ⟨by decide +kernel, mayWrite_of (by decide +kernel), mayWrite_of (by decide +kernel)⟩

theorem test_MemoryCommands_queue :
    powered base = true ∧ mayWrite base 0 4 ∧ (quOf base 127).held = false ∧ (quOf base 127).writer = none ∧
    (qVisible base 127).drop (b2n (quOf base 127).held) = [] :=
  ⟨by decide +kernel, mayWrite_of (by decide +kernel), by decide +kernel, by decide +kernel, by decide +kernel⟩

theorem test_MemoryCommands_drop_head :
    powered looseQueue = true ∧ (qVisible looseQueue 127).drop (b2n (quOf looseQueue 127).held) = 2 :: [3] ∧
    2 = looseQueue.rd F.BRN_IPTR_IRP 127 ∧ (quOf looseQueue 127).dropped = [] ∧ qAvail looseQueue 127 ≠ 0 :=
  by decide +kernel

theorem test_MemoryCommands_drop_behind :
    powered heldQueue = true ∧ (qVisible heldQueue 127).drop (b2n (quOf heldQueue 127).held) = 3 :: [] ∧
    3 ≠ heldQueue.rd F.BRN_IPTR_IRP 127 :=
  by decide +kernel

theorem test_MemoryCommands_pan_same :
    powered base = true ∧ mayWrite base 0 3 ∧ (∀ e ∈ base.panX.slice, e.1 ≠ 15) ∧
    F.PAN_OWN_OWNER.part (word F.PAN_OWN_OWNER (panOwner base 15) [F.PAN_OWN_B_OWNER] 15 base).toNat ≤ 8 ∧
    F.PAN_OWN_B_OWNER.part (word F.PAN_OWN_OWNER (panOwner base 15) [F.PAN_OWN_B_OWNER] 15 base).toNat = base.rd F.PAN_OWN_B_OWNER 15 ∧
    F.PAN_OWN_OWNER.part (word F.PAN_OWN_OWNER (panOwner base 15) [F.PAN_OWN_B_OWNER] 15 base).toNat = panOwner base 15 :=
  ⟨by decide +kernel, mayWrite_of (by decide +kernel), by decide +kernel, by decide +kernel, by decide +kernel, by decide +kernel⟩

theorem test_MemoryCommands_pan_other :
    F.PAN_OWN_OWNER.part (word F.PAN_OWN_OWNER 8 [F.PAN_OWN_B_OWNER] 15 base).toNat ≤ 8 ∧
    F.PAN_OWN_OWNER.part (word F.PAN_OWN_OWNER 8 [F.PAN_OWN_B_OWNER] 15 base).toNat ≠ panOwner base 15 ∧
    handRefuse base 0 15 (panOwner base 15) = 0 :=
  by decide +kernel

/-- Pan 2 is firmware's. -/
def busyPan : State := base.wr F.PAN_OWN_OWNER 2 owFw

theorem test_MemoryCommands_pan_refused :
    powered busyPan = true ∧ handRefuse busyPan 0 2 (panOwner busyPan 2) ≠ 0 ∧
    F.PAN_OWN_OWNER.part (word F.PAN_OWN_OWNER 3 [F.PAN_OWN_B_OWNER] 2 base).toNat ≠ panOwner busyPan 2 :=
  by decide +kernel

theorem test_MemoryCommands_sleep :
    asIs [F.PAN_RET_RET] (word F.PAN_RET_SLEEP 0xFFFF [F.PAN_RET_RET] 0 base).toNat 0 base :=
  asIs_of (by decide +kernel)

/-- A root of the tree, an island head, and a follower, with the Rake block enabled and no port joined. -/
def roleIs (k : Nat) : State := base.wrs [(F.RAKE_STAT_ROLE_ACT, 0, k), (F.RAKE_CTL_EN, 0, 1)]

/-- A root on which a write of FENCE is pending. -/
def fencePending : State := { roleIs 1 with rake := { (roleIs 1).rake with fencePend := some (500, 9) } }

/-- A word that writes FENCE. -/
def fenceWord (v : Nat) : Word := word F.RAKE_CTL_FENCE v [F.RAKE_CTL_EN, F.RAKE_CTL_ROLE, F.RAKE_CTL_AUTO_ENUM] 0 (roleIs 1)

theorem test_TreeCommands_inlane :
    powered runningLane = true ∧ mayWrite runningLane 0 11 ∧ ilSt runningLane 7 = ilRun ∧
    (∀ d : Fin 16, runningLane.on F.DMD_CTL_EN d = true → ¬ (runningLane.rd F.DMD_CTL_IN_KIND d = 1 ∧ runningLane.rd F.DMD_CTL_IN_UNIT d / 16 = (7 : Fin 8).val)) ∧
    ilSt base 7 ≠ ilRun :=
  ⟨by decide +kernel, mayWrite_of (by decide +kernel), by decide +kernel, by decide +kernel, by decide +kernel⟩

theorem test_TreeCommands_fence :
    powered (roleIs 1) = true ∧ mayWrite (roleIs 1) 0 12 ∧ 1 ≤ F.RAKE_CTL_FENCE.part (fenceWord 1).toNat ∧
    F.RAKE_CTL_FENCE.part (fenceWord 63).toNat ≤ 64 ∧ (roleIs 1).on F.RAKE_CTL_EN 0 = true ∧
    asIs [F.RAKE_CTL_EN, F.RAKE_CTL_ROLE, F.RAKE_CTL_AUTO_ENUM] (fenceWord 1).toNat 0 (roleIs 1) ∧ (roleIs 1).rake.fencePend = none ∧
    role (roleIs 1) = 1 ∧ role (roleIs 3) = 3 :=
  ⟨by decide +kernel, mayWrite_of (by decide +kernel), by decide +kernel, by decide +kernel, by decide +kernel,
    asIs_of (by decide +kernel), by decide +kernel, by decide +kernel, by decide +kernel⟩

theorem test_TreeCommands_fence_follower :
    asIs [F.RAKE_CTL_EN, F.RAKE_CTL_ROLE, F.RAKE_CTL_AUTO_ENUM] (fenceWord 1).toNat 0 (roleIs 2) ∧ (roleIs 2).rake.fencePend = none ∧
    role (roleIs 2) ≠ 1 ∧ role (roleIs 2) ≠ 3 ∧ (roleIs 2).on F.RAKE_CTL_EN 0 = true :=
  ⟨asIs_of (by decide +kernel), by decide +kernel, by decide +kernel, by decide +kernel, by decide +kernel⟩

theorem test_TreeCommands_fence_pending :
    asIs [F.RAKE_CTL_EN, F.RAKE_CTL_ROLE, F.RAKE_CTL_AUTO_ENUM] (fenceWord 1).toNat 0 fencePending ∧
    fencePending.rake.fencePend.isSome = true ∧ fencePending.rd F.RAKE_CTL_ROLE 0 ≤ 2 ∧ fencePending.on F.RAKE_CTL_EN 0 = true :=
  ⟨asIs_of (by decide +kernel), by decide +kernel, by decide +kernel, by decide +kernel⟩

theorem test_TreeCommands_events :
    ((∀ n : Fin 4, rkSt (roleIs 1) n ≠ rkJoined)) ∧ (roleIs 1).rake.known = [] ∧
    ctNow (roleIs 1) + 1 - (ctNow (roleIs 1) + 1) % 16 + fenceAt (roleIs 1) (ctNow (roleIs 1) + 1 - (ctNow (roleIs 1) + 1) % 16) ≥ ctNow (roleIs 1) :=
  by decide +kernel

/-- A module in COAST that runs from the standby PLL. -/
def standby : State := base.wrs [(F.GLB_MODE_MODE, 0, mdCoast), (F.CLK_STAT_ON_STANDBY, 0, 1), (F.CLK_STAT_ACT, 0, 2)]

/-- A word that writes CLK_REF with a selection and a policy. -/
def refWord (sel pol : Nat) : Word :=
  word F.CLK_REF_SEL sel [F.CLK_REF_SLEW_PPM, F.CLK_REF_REFOUT_EN, F.CLK_REF_TERM, F.CLK_REF_FREQ] 0 base + word F.CLK_REF_POLICY pol [] 0 base

theorem test_ClockLogCommands_policy :
    powered base = true ∧ mayWrite base 0 1 ∧ mayWrite base 0 15 ∧ mayWrite base 0 16 ∧ F.CLK_REF_POLICY.part (refWord 0 2).toNat ≤ 2 ∧
    asIs [F.CLK_REF_SLEW_PPM, F.CLK_REF_REFOUT_EN, F.CLK_REF_TERM, F.CLK_REF_FREQ] (refWord 0 2).toNat 0 base ∧
    F.CLK_REF_SEL.part (refWord 0 2).toNat = base.rd F.CLK_REF_SEL 0 ∧ base.clk.wait = none :=
  ⟨by decide +kernel, mayWrite_of (by decide +kernel), mayWrite_of (by decide +kernel), mayWrite_of (by decide +kernel),
    by decide +kernel, asIs_of (by decide +kernel), by decide +kernel, by decide +kernel⟩

theorem test_ClockLogCommands_select :
    asIs [F.CLK_REF_SLEW_PPM, F.CLK_REF_REFOUT_EN, F.CLK_REF_TERM, F.CLK_REF_FREQ] (refWord 3 0).toNat 0 base ∧
    F.CLK_REF_SEL.part (refWord 3 0).toNat ≠ base.rd F.CLK_REF_SEL 0 ∧
    F.CLK_REF_POLICY.part (refWord 3 0).toNat = base.rd F.CLK_REF_POLICY 0 ∧ base.on F.CLK_STAT_ON_STANDBY 0 = false ∧
    mode base = mdSetup :=
  ⟨asIs_of (by decide +kernel), by decide +kernel, by decide +kernel, by decide +kernel, by decide +kernel⟩

theorem test_ClockLogCommands_select_standby :
    powered standby = true ∧
    asIs [F.CLK_REF_SLEW_PPM, F.CLK_REF_REFOUT_EN, F.CLK_REF_TERM, F.CLK_REF_FREQ] (refWord 3 0).toNat 0 standby ∧
    F.CLK_REF_SEL.part (refWord 3 0).toNat ≠ standby.rd F.CLK_REF_SEL 0 ∧
    F.CLK_REF_POLICY.part (refWord 3 0).toNat = standby.rd F.CLK_REF_POLICY 0 ∧ standby.clk.wait = none ∧
    standby.on F.CLK_STAT_ON_STANDBY 0 = true ∧ mode standby = mdCoast :=
  ⟨by decide +kernel, asIs_of (by decide +kernel), by decide +kernel, by decide +kernel, by decide +kernel, by decide +kernel,
    by decide +kernel⟩

/-- A module whose two locks have been written. -/
def locked : State := after (execNvmCalLockWrite 0 (after (execNvmBootLockWrite 0 base)))

theorem test_ClockLogCommands_locks :
    wo1Done base F.NVM_BOOT_LOCK_LOCK 0 = false ∧ base.on F.NVM_BOOT_LOCK_LOCK 0 = false ∧ wo1Done base F.NVM_CAL_LOCK_LOCK 0 = false ∧
    base.on F.NVM_CAL_LOCK_LOCK 0 = false ∧ base.nvm.ops = [] ∧ base.on F.PWR_STAT_PF 0 = false ∧ powered locked = true ∧
    wo1Done locked F.NVM_BOOT_LOCK_LOCK 0 = true ∧ wo1Done locked F.NVM_CAL_LOCK_LOCK 0 = true :=
  by decide +kernel

theorem test_ClockLogCommands_erase :
    powered (inMode mdService) = true ∧ (inMode mdService).on F.NVM_PBUSY_BUSY 0 = false ∧ mode (inMode mdService) = mdService ∧
    base.on F.NVM_PBUSY_BUSY 0 = false ∧ mode base ≠ mdService :=
  by decide +kernel

theorem test_ClockLogCommands_mode :
    powered base = true ∧ mayWrite base 0 0 ∧
    F.GLB_MODE_REQ_TARGET.part (word F.GLB_MODE_REQ_TARGET mdService [F.GLB_MODE_REQ_DEPTH] 0 base).toNat = mdService ∧
    base.rd F.GLB_MODE_REQ_DEPTH 0 = F.GLB_MODE_REQ_DEPTH.part (word F.GLB_MODE_REQ_TARGET mdService [F.GLB_MODE_REQ_DEPTH] 0 base).toNat ∧
    F.GLB_MODE_REQ_TARGET.part (word F.GLB_MODE_REQ_TARGET 11 [F.GLB_MODE_REQ_DEPTH] 0 base).toNat ≤ 11 ∧ permCmd base 0 0 = true ∧
    requestResult base.coming mdService (F.GLB_MODE_REQ_DEPTH.part (word F.GLB_MODE_REQ_TARGET mdService [F.GLB_MODE_REQ_DEPTH] 0 base).toNat) = 0 ∧
    mdService ≠ mode base ∧ mdService ≠ mdSafe :=
  ⟨by decide +kernel, mayWrite_of (by decide +kernel), by decide +kernel, by decide +kernel, by decide +kernel, by decide +kernel,
    by decide +kernel, by decide +kernel, by decide +kernel⟩

theorem test_ClockLogCommands_mode_same :
    F.GLB_MODE_REQ_TARGET.part (word F.GLB_MODE_REQ_TARGET (mode base) [F.GLB_MODE_REQ_DEPTH] 0 base).toNat = mode base ∧ base.asks = [] ∧
    requestResult base.coming (mode base) (F.GLB_MODE_REQ_DEPTH.part (word F.GLB_MODE_REQ_TARGET (mode base) [F.GLB_MODE_REQ_DEPTH] 0 base).toNat) = 0 ∧
    asking.asks ≠ [] ∧ powered asking = true ∧ mayWrite asking 0 0 :=
  ⟨by decide +kernel, by decide +kernel, by decide +kernel, by decide +kernel, by decide +kernel, mayWrite_of (by decide +kernel)⟩

theorem test_ClockLogCommands_mode_safe :
    F.GLB_MODE_REQ_TARGET.part (word F.GLB_MODE_REQ_TARGET mdSafe [F.GLB_MODE_REQ_DEPTH] 0 base).toNat = mdSafe ∧ mode base ≠ mdSafe ∧
    requestResult base.coming mdSafe (F.GLB_MODE_REQ_DEPTH.part (word F.GLB_MODE_REQ_TARGET mdSafe [F.GLB_MODE_REQ_DEPTH] 0 base).toNat) = 0 ∧
    permCmd (granted.wr F.GLB_PERM_CMD_CLASSES 1 0) 1 0 = false ∧ mayWrite (granted.wr F.GLB_PERM_CMD_CLASSES 1 0) 1 0 :=
  ⟨by decide +kernel, by decide +kernel, by decide +kernel, by decide +kernel, mayWrite_of (by decide +kernel)⟩

/-- Rings that are enabled: submission ring 31 stalled at its reply ring 31, transfer ring 7. -/
def rings : State :=
  base.wrs [(F.HST_SQ_CTL_EN, 31, 1), (F.HST_SQ_CTL_RQ, 31, 31), (F.HST_SQ_STAT_STATE, 31, 2), (F.HST_RQ_CTL_EN, 31, 1), (F.HST_RQ_TAIL_V, 31, 20),
    (F.HST_RQ_STAT_STATE, 31, 1), (F.HST_XR_CTL_EN, 7, 1), (F.HST_XR_STAT_STATE, 7, 1)]

theorem test_RingCommands_on :
    powered base = true ∧ mayWrite base 0 13 ∧
    turnsOn F.HST_SQ_CTL_EN [F.HST_SQ_CTL_RQ, F.HST_SQ_CTL_SIZE] (word F.HST_SQ_CTL_EN 1 [F.HST_SQ_CTL_RQ, F.HST_SQ_CTL_SIZE] 31 base).toNat 31 base ∧
    turnsOn F.HST_RQ_CTL_EN [F.HST_RQ_CTL_VEC, F.HST_RQ_CTL_HOLDOFF, F.HST_RQ_CTL_SIZE] (word F.HST_RQ_CTL_EN 1 [F.HST_RQ_CTL_VEC, F.HST_RQ_CTL_HOLDOFF, F.HST_RQ_CTL_SIZE] 31 base).toNat 31 base ∧
    tabGet base.rqWait 31 = none ∧ base.rd F.HST_RQ_STAT_STATE 31 ≠ 2 ∧
    turnsOn F.HST_XR_CTL_EN [F.HST_XR_CTL_VEC, F.HST_XR_CTL_GROUP, F.HST_XR_CTL_SIZE] (word F.HST_XR_CTL_EN 1 [F.HST_XR_CTL_VEC, F.HST_XR_CTL_GROUP, F.HST_XR_CTL_SIZE] 7 base).toNat 7 base :=
  ⟨by decide +kernel, mayWrite_of (by decide +kernel), turnsOn_of (by decide +kernel), turnsOn_of (by decide +kernel), by decide +kernel,
    by decide +kernel, turnsOn_of (by decide +kernel)⟩

theorem test_RingCommands_off :
    powered rings = true ∧
    turnsOff F.HST_SQ_CTL_EN [F.HST_SQ_CTL_RQ, F.HST_SQ_CTL_SIZE] (word F.HST_SQ_CTL_EN 0 [F.HST_SQ_CTL_RQ, F.HST_SQ_CTL_SIZE] 31 rings).toNat 31 rings ∧
    turnsOff F.HST_RQ_CTL_EN [F.HST_RQ_CTL_VEC, F.HST_RQ_CTL_HOLDOFF, F.HST_RQ_CTL_SIZE] (word F.HST_RQ_CTL_EN 0 [F.HST_RQ_CTL_VEC, F.HST_RQ_CTL_HOLDOFF, F.HST_RQ_CTL_SIZE] 31 rings).toNat 31 rings ∧
    (∃ q : Fin 32, sqBound rings 31 q = true) ∧
    turnsOff F.HST_RQ_CTL_EN [F.HST_RQ_CTL_VEC, F.HST_RQ_CTL_HOLDOFF, F.HST_RQ_CTL_SIZE] (word F.HST_RQ_CTL_EN 0 [F.HST_RQ_CTL_VEC, F.HST_RQ_CTL_HOLDOFF, F.HST_RQ_CTL_SIZE] 31 (rings.wr F.HST_SQ_CTL_EN 31 0)).toNat 31 (rings.wr F.HST_SQ_CTL_EN 31 0) ∧
    (∀ q : Fin 32, sqBound (rings.wr F.HST_SQ_CTL_EN 31 0) 31 q = false) ∧
    turnsOff F.HST_XR_CTL_EN [F.HST_XR_CTL_VEC, F.HST_XR_CTL_GROUP, F.HST_XR_CTL_SIZE] (word F.HST_XR_CTL_EN 0 [F.HST_XR_CTL_VEC, F.HST_XR_CTL_GROUP, F.HST_XR_CTL_SIZE] 7 rings).toNat 7 rings ∧
    (∀ q : Fin 128, (quOf rings q).opened = false) :=
  ⟨by decide +kernel, turnsOff_of (by decide +kernel), turnsOff_of (by decide +kernel), by decide +kernel,
    turnsOff_of (by decide +kernel), by decide +kernel, turnsOff_of (by decide +kernel), by decide +kernel⟩

theorem test_RingCommands_submission :
    base.on F.HST_SQ_CTL_EN 31 = false ∧ rings.on F.HST_SQ_CTL_EN 31 = true ∧
    2 ^ (rings.rd F.HST_SQ_CTL_SIZE 31) + 1 < 2 ^ (rings.rd F.HST_SQ_CTL_SIZE 31 + 1) ∧
    2 ^ (rings.rd F.HST_SQ_CTL_SIZE 31) < (2 ^ (rings.rd F.HST_SQ_CTL_SIZE 31) + 1 + 2 ^ (rings.rd F.HST_SQ_CTL_SIZE 31 + 1) - rings.rd F.HST_SQ_HEAD_V 31) % 2 ^ (rings.rd F.HST_SQ_CTL_SIZE 31 + 1) ∧
    (2 ^ (rings.rd F.HST_SQ_CTL_SIZE 31) + 2 ^ (rings.rd F.HST_SQ_CTL_SIZE 31 + 1) - rings.rd F.HST_SQ_HEAD_V 31) % 2 ^ (rings.rd F.HST_SQ_CTL_SIZE 31 + 1) ≤ 2 ^ (rings.rd F.HST_SQ_CTL_SIZE 31) ∧
    (∀ k : Fin 32, rings.rd F.HST_SQ_STAT_STATE k ≠ 1) ∧ rings.rd F.HST_SQ_STAT_STATE 31 = 2 :=
  by decide +kernel

theorem test_RingCommands_reply :
    base.on F.HST_RQ_CTL_EN 31 = false ∧ (∀ k : Fin 32, base.rd F.HST_SQ_STAT_STATE k ≠ 1) ∧ rings.on F.HST_RQ_CTL_EN 31 = true ∧
    rings.rd F.HST_RQ_STAT_STATE 31 = 1 ∧ tabGet rings.rqWait 31 = none ∧
    ((20 : BitVec 25).toNat % 2 ^ (rings.rd F.HST_RQ_CTL_SIZE 31 + 1) + 2 ^ (rings.rd F.HST_RQ_CTL_SIZE 31 + 1) - (tabGet rings.rqHead 31).getD 0) % 2 ^ (rings.rd F.HST_RQ_CTL_SIZE 31 + 1) ≤ (rings.rd F.HST_RQ_TAIL_V 31 + 2 ^ (rings.rd F.HST_RQ_CTL_SIZE 31 + 1) - (tabGet rings.rqHead 31).getD 0) % 2 ^ (rings.rd F.HST_RQ_CTL_SIZE 31 + 1) :=
  by decide +kernel

theorem test_RingCommands_transfer :
    base.on F.HST_XR_CTL_EN 7 = false ∧ rings.on F.HST_XR_CTL_EN 7 = true ∧
    2 ^ (rings.rd F.HST_XR_CTL_SIZE 7) + 1 < 2 ^ (rings.rd F.HST_XR_CTL_SIZE 7 + 1) ∧
    2 ^ (rings.rd F.HST_XR_CTL_SIZE 7) < (2 ^ (rings.rd F.HST_XR_CTL_SIZE 7) + 1 + 2 ^ (rings.rd F.HST_XR_CTL_SIZE 7 + 1) - rings.rd F.HST_XR_HEAD_V 7) % 2 ^ (rings.rd F.HST_XR_CTL_SIZE 7 + 1) ∧
    ((0 : BitVec 17).toNat + 2 ^ (rings.rd F.HST_XR_CTL_SIZE 7 + 1) - rings.rd F.HST_XR_HEAD_V 7) % 2 ^ (rings.rd F.HST_XR_CTL_SIZE 7 + 1) = 0 ∧
    (∀ k : Fin 8, xrBuf rings k = []) :=
  by decide +kernel

/-! ### Packets -/

/-- The descriptor of a new segment of two granules, and a module that holds it as segment 9, pinned and not. -/
def newSeg : Seg := { Seg.absent with state := 1, width := 1, lenG := 2, cpair := false }

def withSeg (k : Nat) : State := setSeg 9 { newSeg with base := 4096, state := k } base

theorem test_MemoryPackets_alloc :
    passes 0x20 (pkt [9, 2, 1 + 16 * 3]) base ∧ 9 ≠ noSeg ∧ (segOf base 9).state = 0 ∧
    (allocIn (chUsed base 3) (segStore newSeg) base).isSome = true :=
  ⟨passes_of (by decide +kernel), by decide +kernel, by decide +kernel, by decide +kernel⟩

theorem test_MemoryPackets_load :
    passes 0x21 (pkt [9 + 2 ^ 31, 1, 1, 0x11223344, 0x55667788]) (withSeg 2) ∧ (segOf (withSeg 2) 9).state ≠ 0 ∧
    segBarred (withSeg 2) 9 = false ∧ 1 + 1 ≤ segLen (segOf (withSeg 2) 9) ∧ (withSeg 2).badUnits = [] :=
  ⟨passes_of (by decide +kernel), by decide +kernel, by decide +kernel, by decide +kernel, by decide +kernel⟩

theorem test_MemoryPackets_free :
    passes 0x22 (pkt [9]) (withSeg 2) ∧ (segOf (withSeg 2) 9).cpair = false :=
  ⟨passes_of (by decide +kernel), by decide +kernel⟩

theorem test_MemoryPackets_pin :
    passes 0x23 (pkt [9]) (withSeg 2) ∧ laneNames (withSeg 2) 9 = false ∧ qNames (withSeg 2) 9 = false ∧
    (segOf (withSeg 2) 9).pin = none ∧ (segOf (withSeg 2) 9).state = 2 ∧
    pinUsed (withSeg 2) + pinBytes (segOf (withSeg 2) 9) ≤ 33554432 :=
  ⟨passes_of (by decide +kernel), by decide +kernel, by decide +kernel, by decide +kernel, by decide +kernel, by decide +kernel⟩

theorem test_MemoryPackets_unpin :
    passes 0x23 (pkt [9 + 2 ^ 31]) (withSeg 4) ∧ laneNames (withSeg 4) 9 = false ∧ qNames (withSeg 4) 9 = false ∧
    (segOf (withSeg 4) 9).pin = none ∧ (segOf (withSeg 4) 9).state = 4 :=
  ⟨passes_of (by decide +kernel), by decide +kernel, by decide +kernel, by decide +kernel, by decide +kernel⟩

theorem test_MemoryPackets_mark :
    passes 0x24 (pkt [9, 0]) (withSeg 2) ∧ passes 0x24 (pkt [9, 1, 5, 1, 0, 0]) (withSeg 2) ∧
    marksOk (segLen (segOf (withSeg 2) 9)) (markEnts [5, 1, 0, 0]) = true ∧ (withSeg 2).badUnits = [] ∧
    (allocIn (usedRanges (withSeg 2)) (markStore 1) (withSeg 2)).isSome = true :=
  ⟨passes_of (by decide +kernel), passes_of (by decide +kernel), by decide +kernel, by decide +kernel, by decide +kernel⟩

theorem test_MemoryPackets_steps :
    passes 0x25 (pkt [1048575, 1, 1, 2, 3, 4, 5, 6, 7, 8]) base ∧ 1048575 + 1 ≤ 1048576 ∧ stepLocked base 1048575 1 = false ∧
    passes 0x28 (pkt [1048575, 1]) base :=
  ⟨passes_of (by decide +kernel), by decide +kernel, by decide +kernel, passes_of (by decide +kernel)⟩

theorem test_MemoryPackets_grant :
    passes 0x26 (pkt [panOwner base 4] 4) base ∧ bitOf ((pkt [panOwner base 4] 4).w 0) 8 = false ∧
    (pkt [panOwner base 4] 4).w 0 % 16 ≤ 8 ∧ (∀ e ∈ base.panX.slice, e.1 ≠ 4) :=
  ⟨passes_of (by decide +kernel), by decide +kernel, by decide +kernel, by decide +kernel⟩

theorem test_MemoryPackets_hand :
    passes 0x26 (pkt [8] 4) base ∧ 8 ≠ panOwner base 4 ∧ handRefuse base 0 4 (panOwner base 4) = 0 ∧ (4, false, 8) ∉ base.panX.hand :=
  ⟨passes_of (by decide +kernel), by decide +kernel, by decide +kernel, by decide +kernel⟩

theorem test_MemoryPackets_info :
    passes 0x27 (pkt [9]) (withSeg 4) :=
  passes_of (by decide +kernel)

theorem test_PlayerPackets_arm :
    passes 0x30 (pkt [] 63) armable ∧ (plyOf armable 63).arm = none ∧ pst armable 63 = psLoaded ∧ plyPar armable 63 = false ∧
    stepPan armable = true ∧ armCheck armable 63 = none ∧ plyStream armable 63 = true :=
  ⟨passes_of (by decide +kernel), by decide +kernel, by decide +kernel, by decide +kernel, by decide +kernel, by decide +kernel,
    by decide +kernel⟩

theorem test_PlayerPackets_start :
    passes 0x31 (pkt [16 * 3, 7, 9] 63) (plyIn psArmed) ∧ pst (plyIn psArmed) 63 = psArmed ∧ (plyOf (plyIn psArmed) 63).start = none ∧
    (pkt [16 * 3, 7, 9] 63).w 0 % 4 ≠ 1 ∧ passes 0x31 (pkt [3 + 16 * 3, 7, 9] 63) (plyIn psArmed) :=
  ⟨passes_of (by decide +kernel), by decide +kernel, by decide +kernel, by decide +kernel, passes_of (by decide +kernel)⟩

theorem test_PlayerPackets_hold :
    passes 0x32 (pkt [] 63) (plyIn psRunning) ∧ holdOk (plyIn psRunning) 63 = true ∧ passes 0x33 (pkt [] 63) (plyIn psHeld) ∧
    pst (plyIn psHeld) 63 = psHeld ∧ mode (plyIn psHeld) ≠ mdHold :=
  ⟨passes_of (by decide +kernel), by decide +kernel, passes_of (by decide +kernel), by decide +kernel, by decide +kernel⟩

theorem test_PlayerPackets_stop :
    passes 0x34 (pkt [] 63) arming ∧ pst arming 63 = psLoaded ∧ (plyOf arming 63).arm = some (none, 5) ∧ (plyOf arming 63).locks = [] :=
  ⟨passes_of (by decide +kernel), by decide +kernel, by decide +kernel, by decide +kernel⟩

theorem test_PlayerPackets_stop_play :
    passes 0x34 (pkt [] 63) (plyIn psWaiting) ∧ stopOk (plyIn psWaiting) 63 = true ∧ pst (plyIn psWaiting) 63 ≠ psLoaded ∧
    stopOk arming 63 = true :=
  ⟨passes_of (by decide +kernel), by decide +kernel, by decide +kernel, by decide +kernel⟩

theorem test_PlayerPackets_jump :
    passes 0x35 (pkt [9 + 65536] 63) (jumper psRunning) ∧ jumpOk (jumper psRunning) 63 = true ∧ pst (jumper psRunning) 63 ≠ psWaiting ∧
    (9 + 65536) % 65536 < (jumper psRunning).rd F.PLY_STEP_COUNT_COUNT 63 ∧ 1 ≤ (9 + 65536) / 65536 :=
  ⟨passes_of (by decide +kernel), by decide +kernel, by decide +kernel, by decide +kernel, by decide +kernel⟩

theorem test_PlayerPackets_rate :
    prevails base (2 * (pkt [77, 1] 63).org) ∧ passes 0x36 (pkt [77, 1] 63) base ∧ railSrc base 63 = 0 ∧
    passes 0x37 (pkt [77] 63) (jumper psRunning) ∧ phaseOk (jumper psRunning) 63 = true :=
  ⟨prevails_of (by decide +kernel), passes_of (by decide +kernel), by decide +kernel, passes_of (by decide +kernel), by decide +kernel⟩

theorem test_PlayerPackets_skip :
    passes 0x38 (pkt [2 * 65536 + 4] 63) skipper ∧ skipOk skipper 63 = true ∧ pst skipper 63 ≠ psStarved ∧ pst skipper 63 ≠ psWaiting ∧
    (2 * 65536 + 4) / 65536 = 2 ∧ (plyOf skipper 63).nxt = none ∧ passes 0x38 (pkt [65536 + 4] 63) skipper :=
  ⟨passes_of (by decide +kernel), by decide +kernel, by decide +kernel, by decide +kernel, by decide +kernel, by decide +kernel,
    passes_of (by decide +kernel)⟩

theorem test_DataPackets_capture :
    passes 0x40 (pkt [] 31) base ∧ (capOf base 31).isOpen = false ∧ passes 0x40 (pkt [] 31) openCap ∧ (capOf openCap 31).isOpen = true ∧
    (capOf openCap 31).stage = [] ∧ (capOf openCap 31).closing = false ∧ qDeep openCap (capOf openCap 31).q = false ∧
    capAsleep openCap 31 = false ∧ passes 0x41 (pkt [] 31) base ∧ passes 0x42 (pkt [] 31) base :=
  ⟨passes_of (by decide +kernel), by decide +kernel, passes_of (by decide +kernel), by decide +kernel, by decide +kernel,
    by decide +kernel, by decide +kernel, by decide +kernel, passes_of (by decide +kernel), passes_of (by decide +kernel)⟩

theorem test_DataPackets_queue :
    passes 0x43 (pkt [] 127) base ∧ (quOf base 127).held = false ∧ (quOf base 127).writer = none ∧ passes 0x44 (pkt [] 127) base ∧
    (qVisible base 127).drop (b2n (quOf base 127).held) = [] ∧ passes 0x44 (pkt [] 127) looseQueue ∧ passes 0x44 (pkt [] 127) heldQueue ∧
    passes 0x45 (pkt [0xFF] 127) base ∧ passes 0x46 (pkt [] 127) base :=
  ⟨passes_of (by decide +kernel), by decide +kernel, by decide +kernel, passes_of (by decide +kernel), by decide +kernel,
    passes_of (by decide +kernel), passes_of (by decide +kernel), passes_of (by decide +kernel), passes_of (by decide +kernel)⟩

theorem test_DataPackets_lane :
    passes 0x50 (pkt [] 7) (laneIn lsCollect) ∧ laneSt (laneIn lsCollect) 7 = lsCollect ∧ passes 0x50 (pkt [] 7) (laneIn lsReady) ∧
    laneSt (laneIn lsReady) 7 = lsReady ∧ passes 0x51 (pkt [] 7) (laneIn lsFrozen) ∧ laneSt (laneIn lsFrozen) 7 = lsFrozen ∧
    passes 0x52 (pkt [] 7) (laneIn lsCollect) ∧ passes 0x53 (pkt [] 7) base :=
  ⟨passes_of (by decide +kernel), by decide +kernel, passes_of (by decide +kernel), by decide +kernel, passes_of (by decide +kernel),
    by decide +kernel, passes_of (by decide +kernel), passes_of (by decide +kernel)⟩

theorem test_TreePackets_events :
    role (roleIs 1) = 1 ∧ (roleIs 1).on F.RAKE_CTL_EN 0 = true ∧ (∀ n : Fin 4, rkSt (roleIs 1) n ≠ rkJoined) ∧
    (roleIs 1).rake.known = [] ∧
    ctNow (roleIs 1) + 1 - (ctNow (roleIs 1) + 1) % 16 + fenceAt (roleIs 1) (ctNow (roleIs 1) + 1 - (ctNow (roleIs 1) + 1) % 16) ≥ ctNow (roleIs 1) ∧
    passes 0x60 (pkt []) (roleIs 1) ∧ passes 0x61 (pkt [0, 2 ^ 31]) (roleIs 1) ∧
    (pkt [0, 2 ^ 31]).w 0 + (pkt [0, 2 ^ 31]).w 1 * 2 ^ 32 = 2 ^ (63 : Fin 64).val :=
  ⟨by decide +kernel, by decide +kernel, by decide +kernel, by decide +kernel, by decide +kernel, passes_of (by decide +kernel),
    passes_of (by decide +kernel), by decide +kernel⟩

theorem test_TreePackets_tree :
    passes 0x62 (pkt [1]) (roleIs 1) ∧ passes 0x63 (pkt [77, 5]) (roleIs 1) ∧ role (roleIs 1) = 1 ∧ passes 0x64 (pkt []) base :=
  ⟨passes_of (by decide +kernel), passes_of (by decide +kernel), by decide +kernel, passes_of (by decide +kernel)⟩

theorem test_TreePackets_cupping :
    passes 0x70 (pkt [1 + 256 * 255]) base ∧ (pkt [1 + 256 * 255]).w 0 % 4 = 1 ∧
    base.rd F.CHN_STAT_STATE ((pkt [1 + 256 * 255]).w 0 / 256) = 0 ∧ mode base ≠ mdCupping ∧ base.on F.CUP_STAT_BUSY 0 = false ∧
    memN [mdSetup, mdArmed, mdRun, mdHold, mdCoast, mdService] (mode base) = true :=
  ⟨passes_of (by decide +kernel), by decide +kernel, by decide +kernel, by decide +kernel, by decide +kernel, by decide +kernel⟩

theorem test_TreePackets_stores :
    passes 0x71 (pkt []) (inMode mdService) ∧ (inMode mdService).on F.NVM_CAL_LOCK_LOCK 0 = false ∧
    passes 0x72 (pkt []) (inMode mdService) ∧ (inMode mdService).on F.GLB_BATCH_STORING 0 = false ∧
    passes 0x73 (pkt [8388600, 5, 6]) (inMode mdService) ∧ 8388600 % 4 = 0 ∧ 8388600 + 4 * (3 - 1) ≤ 8388608 ∧
    (bootRec (inMode mdService)).1 ≠ fwOther (inMode mdService) ∧ passes 0x74 (pkt [1]) (inMode mdService) ∧
    (inMode mdService).on F.NVM_BOOT_LOCK_LOCK 0 = false :=
  ⟨passes_of (by decide +kernel), by decide +kernel, passes_of (by decide +kernel), by decide +kernel, passes_of (by decide +kernel),
    by decide +kernel, by decide +kernel, by decide +kernel, passes_of (by decide +kernel), by decide +kernel⟩

/-- A module whose event log holds a record. -/
def logged : State := after (execPwrEnFall base)

theorem test_TreePackets_log :
    passes 0x80 (pkt [0, 0]) logged ∧
    (0 + 2 ^ 32 - logged.rd F.LOG_EV_OLD_RECNO 0) % 2 ^ 32 < (logged.rd F.LOG_EV_WR_RECNO 0 + 2 ^ 32 - logged.rd F.LOG_EV_OLD_RECNO 0) % 2 ^ 32 ∧
    evRecs logged 0 32 ≠ [] ∧ passes 0x80 (pkt [1, 1]) locked ∧ audRecs locked 1 16 ≠ [] :=
  ⟨passes_of (by decide +kernel), by decide +kernel, by decide +kernel, passes_of (by decide +kernel), by decide +kernel⟩

/-- A module that has answered a NOP. -/
def answered : State := after (execNop { pkt [] with reply := true } base)

/-- RESULT_GET of that tag. -/
def again : Pkt := { pkt [100] with reply := true, tag := 7 }

/-- The reply that a window caches for a tag. -/
def cachedReply (s : State) (k tag : Nat) : Option Reply := (winEnt (winOf s k) tag).bind (fun e => if e.done then e.reply else none)

theorem test_BarePackets_cached :
    fetching answered = true ∧ again.batch = false ∧ again.hdrOk = true ∧ ((again.crc = true → again.crcOk = true)) ∧ again.path = .usb3 ∧
    again.org < 7 ∧ again.org ≠ 5 ∧ jobOf answered answered.nextJob = none ∧ memN answered.recov.jobs answered.nextJob = false ∧
    pktHeld answered answered.heldPkts (numbered 0xF0 again) = false ∧ isLocal answered (numbered 0xF0 again) = true ∧
    again.target ≠ 0xFFF ∧ (pktWhy answered (numbered 0xF0 again)).1 = stOk ∧ again.reply = true ∧
    (winOf answered (winKey 0 0)).seen = true ∧ serial 32 (again.w 0) (winOf answered (winKey 0 0)).h ≤ 0 ∧
    -255 ≤ serial 32 (again.w 0) (winOf answered (winKey 0 0)).h ∧ (cachedReply answered (winKey 0 0) (again.w 0)).isSome = true :=
  by decide +kernel

theorem test_BarePackets_unlisted :
    pktHeld base base.heldPkts { pkt [] with opcode := 0xAA } = false ∧ isLocal base { pkt [] with opcode := 0xAA } = true ∧
    opInfo 0xAA = none ∧ newTag base { pkt [] with opcode := 0xAA } :=
  ⟨by decide +kernel, by decide +kernel, by decide +kernel, newTag_of (by decide +kernel)⟩

/-! ### Players, channels, encoders and learning -/

/-- Player 63 with a start that is due. -/
def starting : State := setPly 63 { plyOf base 63 with start := some ⟨0, 0, 0, some 3000000, none, none, false⟩ } (plyIn psArmed)

/-- A decision that stands, its end reached. -/
def lateDec : Dec := ⟨10, 2999990, .step 7, 1, 0, false, true, some 2999990, none, [], false, none⟩

/-- Player 63 past the end of its step, its successor ready late. -/
def lateEntry : State := setPly 63 { plyOf base 63 with dec := some lateDec, ready := [(1, 2999960)] } ((plyIn psRunning).wr F.GLB_MODE_MODE 0 mdRun)

/-- Player 63 in a wait that has been released, and starved with its packet ready. -/
def released : State := setPly 63 { plyOf base 63 with wait := some ⟨900, .step 7, none, some 900, [], some (2999980, 0, true, .step 7)⟩ } (plyIn psWaiting)

def starvedReady : State := setPly 63 { plyOf base 63 with nxt := some ⟨0, 0, 4, 1, 0, 0, 0, false, 0⟩, ready := [(1, 2999980)], starveMin := 2999980 } (plyIn psStarved)

theorem test_PlayerEntries_arm :
    arming.boot.stage = 0 ∧ (plyOf arming 63).arm = some (none, 5) ∧ arming.heldPkts = [] ∧ arming.badUnits = [] :=
  by decide +kernel

theorem test_PlayerEntries_start :
    starting.boot.stage = 0 ∧ (plyOf starting 63).start = some ⟨0, 0, 0, some 3000000, none, none, false⟩ ∧
    startDue starting ⟨0, 0, 0, some 3000000, none, none, false⟩ = true ∧ pst starting 63 = psArmed :=
  by decide +kernel

/-- Player 63 in play with a jump that waits, and as a stream with a decided packet, a phase and a record behind it. -/
def jumping : State := setPly 63 { plyOf base 63 with jump := some (6, 1, 2) } (plyIn psRunning)

def streaming : State :=
  setPly 63 { plyOf base 63 with nxt := some ⟨0, 0, 4, 1, 0, 0, 0, false, 0⟩, phase := some (1, 2), hist := [(0, 0, 0)] } ((plyIn psRunning).wr F.PLY_CTL_MODE 63 1)

theorem test_PlayerEntries_ready :
    (plyIn psRunning).boot.stage = 0 ∧ engaged (plyIn psRunning) 63 = true ∧ isReady (plyIn psRunning) 63 0 = false ∧
    isReady (plyIn psRunning) 63 5 = false ∧ (plyIn psRunning).badUnits = [] :=
  by decide +kernel

theorem test_PlayerEntries_ready_steps :
    plyStream jumping 63 = false ∧ cacheAsleep jumping = false ∧ (candKey jumping 63 (curStep jumping 63) 6).isSome = true ∧
    isReady jumping 63 6 = false ∧ engaged jumping 63 = true ∧ jumping.badUnits = [] ∧ 6 < (8 : Nat) ∧ (0 : Nat) = 0 :=
  by decide +kernel

theorem test_PlayerEntries_ready_stream :
    plyStream streaming 63 = true ∧ (plyOf streaming 63).nxt.isSome = true ∧ engaged streaming 63 = true ∧
    isReady streaming 63 1 = false ∧ (plyOf streaming 63).phase.isSome = true ∧ (plyOf streaming 63).hist ≠ [] ∧
    isReady streaming 63 7 = false ∧ isReady streaming 63 8 = false ∧ streaming.badUnits = [] :=
  by decide +kernel

theorem test_PlayerEntries_late :
    lateEntry.boot.stage = 0 ∧ (plyOf lateEntry 63).dec = some lateDec ∧ pst lateEntry 63 = psRunning ∧ lateDec.te.isSome = true ∧
    lateOk lateEntry 63 lateDec = true :=
  by decide +kernel

theorem test_PlayerEntries_release :
    released.boot.stage = 0 ∧ (plyOf released 63).wait = some ⟨900, .step 7, none, some 900, [], some (2999980, 0, true, .step 7)⟩ ∧
    ((true = true ∨ succWaits released 63 (.step 7) = false)) ∧ pst released 63 = psWaiting ∧ 2999980 + 20 ≤ released.now :=
  by decide +kernel

theorem test_PlayerEntries_starved :
    starvedReady.boot.stage = 0 ∧ readyAt starvedReady 63 1 = some 2999980 ∧ pst starvedReady 63 = psStarved ∧
    (plyOf starvedReady 63).nxt.isSome = true ∧ starvedReady.on F.PLY_CTL_STARVE_POL 63 = false ∧
    max 2999980 (max (plyOf starvedReady 63).starveMin ((plyOf starvedReady 63).starveRel.getD 0)) + 20 ≤ starvedReady.now :=
  by decide +kernel

/-- Channel 255 whose tick has come, an ADC in its phase, powered GP pins. -/
def sampling : State :=
  { setChn 255 { chnOf base 255 with everOn := true, dm1 := 9, offset := 0 }
      (base.wrs [(F.CHN_CTL_EN, 255, 1), (F.CHN_STAT_STATE, 255, 1), (F.CNV_ADC_LAT_LAT, 7, 1), (F.CNV_ADC_CTL_PHASE, 7, 0), (F.PWR_STAT_VIO, 0, 1)]) with
    adcOn := [(7, 2999840)] }

/-- Capture 31 with a packet older than its AGE, and one that is closing. -/
def agedCap : State := (setCap 31 { capOf openCap 31 with recs := 1, born := 0 } openCap).wr F.CAP_Q_AGE 31 1

def closingCap : State := setCap 31 { capOf openCap 31 with closing := true } openCap

theorem test_SampleRows_channel :
    sampling.boot.stage = 0 ∧ chnDue sampling 255 = true :=
  by decide +kernel

theorem test_SampleRows_adc :
    tabGet sampling.adcOn 7 = some 2999840 ∧ cupAdc sampling = false ∧
    sampling.rd F.GLB_CT_TICKS 0 % 32 = sampling.rd F.CNV_ADC_CTL_PHASE 7 ∧ 2999840 + 160 ≤ sampling.now ∧
    1 ≤ sampling.rd F.CNV_ADC_LAT_LAT 7 ∧ (∀ w ∈ sampling.adcQ, sampling.now < w.avail) :=
  by decide +kernel

theorem test_SampleRows_gp :
    sampling.rd F.PWR_STAT_VIO 0 ≠ 0 ∧ bitOf sampling.gpDrive 15 = false ∧ bitOf (sampling.rd F.TRG_GP_STAT_LEVEL 0) 15 = !true :=
  by decide +kernel

theorem test_SampleRows_capture :
    agedCap.boot.stage = 0 ∧ capAged agedCap 31 = true ∧ (capOf agedCap 31).stage = [] ∧ (capOf agedCap 31).closing = false ∧
    qDeep agedCap (capOf agedCap 31).q = false ∧ capAsleep agedCap 31 = false ∧ (capOf closingCap 31).closing = true :=
  by decide +kernel

/-- Port 7 in quadrature, in SSI with a frame running, lost, and followed by rail 63. -/
def encQuad : State := base.wrs [(F.ENC_CTL_EN, 7, 1), (F.ENC_CTL_MODE, 7, 0)]

def encSsi : State := base.wrs [(F.ENC_CTL_EN, 7, 1), (F.ENC_CTL_MODE, 7, 2), (F.ENC_SSI_LEN, 7, 12)]

def encBusy : State := setEnc 7 { encOf encSsi 7 with ssiBusy := true, ssiStart := some 2990000, ssiLast := some 4090, ssiBad := 2 } encSsi
def encFollowed : State := encQuad.wrs [(F.RSRC_CTL_EN, 63, 1), (F.RSRC_CTL_SRC, 63, 1), (F.RSRC_CTL_SEL, 63, 7)]

def encGone : State := encFollowed.wrs [(F.ENC_STAT_LOST, 7, 1), (F.RSRC_STAT_LOST, 63, 1)]

theorem test_EncoderRows_filter :
    encQuad.boot.stage = 0 ∧ encQuad.on F.ENC_CTL_EN 7 = true ∧ encQuad.rd F.ENC_CTL_MODE 7 = 0 ∧
    encQuad.rd F.ENC_CTL_FILT 7 ≤ encQuad.rd F.ENC_CTL_FILT 7 ∧ encQuad.rd F.ENC_CTL_FILT 7 < encQuad.rd F.ENC_CTL_FILT 7 + 1 ∧
    4 * base.now - 12 = 4 * base.now + 3 - (15 : Fin 16).val ∧ (encQuad.wr F.ENC_CTL_MODE 7 1).rd F.ENC_CTL_MODE 7 = 1 :=
  by decide +kernel

theorem test_EncoderRows_edge :
    ((quadPhase true false = (quadPhase (encOf encQuad 7).a (encOf encQuad 7).b + 1) % 4 ∨ quadPhase true false = (quadPhase (encOf encQuad 7).a (encOf encQuad 7).b + 3) % 4)) ∧
    ((quadPhase false true = (quadPhase (encOf encQuad 7).a (encOf encQuad 7).b + 1) % 4 ∨ quadPhase false true = (quadPhase (encOf encQuad 7).a (encOf encQuad 7).b + 3) % 4)) ∧
    (encOf encQuad 7).a ≠ true ∧ (encOf encQuad 7).b ≠ true :=
  by decide +kernel

theorem test_EncoderRows_edge_modes :
    (encQuad.wr F.ENC_CTL_MODE 7 3).rd F.ENC_CTL_MODE 7 = 3 ∧ (encOf encQuad 7).a = false ∧
    (encQuad.wr F.ENC_CTL_MODE 7 1).rd F.ENC_CTL_MODE 7 = 1 ∧ -2048 = serial 12 (2048 : BitVec 12).toNat (encOf encQuad 7).phase :=
  by decide +kernel

/-- Port 7 with one change on its way. -/
def encOnWay : State := setEnc 7 { encOf encQuad 7 with evs := [(11999000, 2999753, .z true)] } encQuad

theorem test_EncoderRows_index :
    encQuad.rd F.ENC_CTL_MODE 7 ≠ 2 ∧ (encOf encQuad 7).zIn = !true ∧ (encOf encQuad 7).z = !true ∧
    (encQuad.wr F.ENC_CTL_INDEX 7 3).rd F.ENC_CTL_INDEX 7 = 3 ∧ encOnWay.encs = [((7 : Fin 8).val, encOf encOnWay 7)] ∧
    (encOf encOnWay 7).evs = [(11999000, 2999753, .z true)] :=
  by decide +kernel

theorem test_EncoderRows_ssi :
    encSsi.boot.stage = 0 ∧ ssiDue encSsi 7 = true ∧ (encOf encBusy 7).ssiBusy = true ∧ (encOf encBusy 7).ssiStart = some 2990000 ∧
    2990000 + 2 * (encBusy.rd F.ENC_SSI_CLKDIV 7 + 1) * encBusy.rd F.ENC_SSI_LEN 7 ≤ encBusy.now ∧ 12 = encBusy.rd F.ENC_SSI_LEN 7 ∧
    3 = (if encBusy.on F.ENC_SSI_GRAY 7 then grayBin 12 ((3 : BitVec 48).toNat % 2 ^ 12) else (3 : BitVec 48).toNat % 2 ^ 12) ∧
    (encOf encBusy 7).ssiLast = some (4090 : Int).toNat ∧ (9 : Int) = 3 - 4090 + 2 ^ 12 ∧ 2 * (9 : Int) < 2 ^ 12 :=
  by decide +kernel

theorem test_EncoderRows_ssi_first :
    (encOf (setEnc 7 { encOf encBusy 7 with ssiLast := none } encSsi) 7).ssiLast = none ∧
    (encOf (setEnc 7 { encOf encBusy 7 with ssiLast := none } encSsi) 7).ssiBusy = true :=
  by decide +kernel

theorem test_EncoderRows_lost :
    encFollowed.boot.stage = 0 ∧ encFollowed.on F.ENC_STAT_LOST 7 = false ∧ encFollowed.rd F.ENC_CTL_MODE 7 ≠ 1 ∧
    encFollowed.rd F.ENC_CTL_MODE 7 ≠ 2 ∧ 640 ≤ (640 : Nat) ∧ (639 : Nat) < 640 ∧
    (∀ p : Fin 64, railSrc encFollowed p = 1 → railSel encFollowed p = 7 → encFollowed.on F.RSRC_CTL_LOSS_POL p = false) ∧
    railSrc encFollowed 63 = 1 ∧ railSel encFollowed 63 = 7 ∧ encGone.on F.ENC_STAT_LOST 7 = true ∧
    memN encGone.unitSafe (F.ENC_CTL_EN.addr 7) = false ∧ encGone.rd F.ENC_CTL_MODE 7 ≠ 2 :=
  by decide +kernel

theorem test_EncoderRows_lost_modes :
    (setEnc 7 { encOf encBusy 7 with ssiBad := 3 } encSsi).rd F.ENC_CTL_MODE 7 = 2 ∧
    3 ≤ (encOf (setEnc 7 { encOf encBusy 7 with ssiBad := 3 } encSsi) 7).ssiBad ∧ (encOf encBusy 7).ssiBad < 3 ∧
    (encQuad.wr F.ENC_SINCOS_AMP_LO 7 5).rd F.ENC_SINCOS_AMP_LO 7 = 5 ∧
    (4 : BitVec 16).toNat < (encQuad.wr F.ENC_SINCOS_AMP_LO 7 5).rd F.ENC_SINCOS_AMP_LO 7 :=
  by decide +kernel

/-- Tracker 7 before its first pulse, and locked after a pulse at a quarter tick, with missing pulses. -/
def trkFresh : State := base.wrs [(F.RSRC_LT_CTL_EN, 7, 1)]

def trkLocked (qk misses : Nat) : State :=
  setTrk 7 ⟨true, qk, [1000, 1000, 1000, 1000], misses, true, 0, [], false⟩ (trkFresh.wrs [(F.RSRC_LT_STAT_LOCKED, 7, 1), (F.RSRC_LT_PER_EST, 7, 1000), (F.RSRC_LT_CTL_MISS_MAX, 7, 4)])

theorem test_EncoderRows_tracker_edge :
    trkFresh.rd F.RSRC_LT_CTL_EDGE 7 = 0 ∧ ((∀ x ∈ (trkOf trkFresh 7).evs, x < 4 * trkFresh.now + 3 - (15 : Fin 16).val)) ∧
    (trkFresh.wr F.RSRC_LT_CTL_EDGE 7 2).rd F.RSRC_LT_CTL_EDGE 7 = 2 ∧ (trkFresh.wr F.RSRC_LT_CTL_EDGE 7 1).rd F.RSRC_LT_CTL_EDGE 7 = 1 ∧
    (trkOf (trkLocked 11999000 0) 7).qk ≠ 4 * base.now + 3 - (15 : Fin 16).val :=
  by decide +kernel

theorem test_EncoderRows_tracker_way :
    (setTrk 7 { trkOf trkFresh 7 with evs := [11999000] } trkFresh).trks = [((7 : Fin 8).val, trkOf (setTrk 7 { trkOf trkFresh 7 with evs := [11999000] } trkFresh) 7)] ∧
    (trkOf (setTrk 7 { trkOf trkFresh 7 with evs := [11999000] } trkFresh) 7).evs = [11999000] :=
  by decide +kernel

theorem test_EncoderRows_tracker :
    trkFresh.boot.stage = 0 ∧ trkFresh.on F.RSRC_LT_CTL_EN 7 = true ∧ (trkOf trkFresh 7).seen = false ∧
    (trkOf (trkLocked 11999000 0) 7).seen = true ∧ (trkLocked 11999000 0).on F.RSRC_LT_STAT_LOST 7 = false ∧
    (trkLocked 11999000 0).on F.RSRC_LT_STAT_LOCKED 7 = true ∧
    trkOver (trkLocked 11999000 0) 7 (4 * base.now + 3 - (3 : Fin 16)) = false ∧
    (trkLocked 11999000 0).rd F.RSRC_LT_PER_EST 7 ≤ 4 * base.now + 3 - (3 : Fin 16) - (trkOf (trkLocked 11999000 0) 7).qk :=
  by decide +kernel

theorem test_EncoderRows_tracker_early :
    trkOver (trkLocked 11999800 0) 7 (4 * base.now) = false ∧
    4 * base.now - (trkOf (trkLocked 11999800 0) 7).qk < (trkLocked 11999800 0).rd F.RSRC_LT_PER_EST 7 ∧
    (trkLocked 11999800 0).rd F.RSRC_LT_PER_EST 7 * (trkLocked 11999800 0).rd F.RSRC_LT_CTL_WIN 7 < ((trkLocked 11999800 0).rd F.RSRC_LT_PER_EST 7 - (4 * base.now - (trkOf (trkLocked 11999800 0) 7).qk)) * 256 :=
  by decide +kernel

theorem test_EncoderRows_tracker_miss :
    (trkOf (trkLocked 11998000 0) 7).evs = [] ∧ (trkLocked 11998000 0).rd F.RSRC_LT_PER_EST 7 ≠ 0 ∧
    (trkOf (trkLocked 11998000 4) 7).evs = [] ∧ (trkLocked 11998000 4).rd F.RSRC_LT_PER_EST 7 ≠ 0 ∧
    trkOver (trkLocked 11998000 0) 7 (4 * base.now + 3) = true ∧
    (trkOf (trkLocked 11998000 0) 7).misses + 1 ≤ (trkLocked 11998000 0).rd F.RSRC_LT_CTL_MISS_MAX 7 ∧
    trkOver (trkLocked 11998000 4) 7 (4 * base.now + 3) = true ∧
    (trkLocked 11998000 4).rd F.RSRC_LT_CTL_MISS_MAX 7 < (trkOf (trkLocked 11998000 4) 7).misses + 1 ∧
    (∀ p : Fin 64, railSrc (trkLocked 11998000 4) p = 2 → railSel (trkLocked 11998000 4) p = 7 → (trkLocked 11998000 4).on F.RSRC_CTL_LOSS_POL p = false) :=
  by decide +kernel

/-- Lane 7 past the end of its step, and at the end of a pass. -/
def laneLeft : State := setLane 7 { Lane.fresh with left := some 2998976 } (laneIn lsCollect)

def lanePass (k : Nat) : State := setLane 7 { Lane.fresh with passes := [1], pstart := 10 } (laneIn k)

theorem test_LearningRows :
    laneLeft.boot.stage = 0 ∧ laneSt laneLeft 7 = lsCollect ∧ laneCloseAt laneLeft 7 = some 3000000 ∧ 3000000 ≤ laneLeft.now ∧
    (laneOf laneLeft 7).words = [] ∧ (laneOf laneLeft 7).rng = none ∧ (laneOf (lanePass lsUpdate) 7).passes = [1] ∧
    (laneOf (lanePass lsUpdate) 7).pstart + passTicks (lanePass lsUpdate) 7 ≤ (lanePass lsUpdate).now ∧
    laneSt (lanePass lsUpdate) 7 = lsUpdate ∧ laneSt (lanePass lsClosing) 7 = lsClosing :=
  by decide +kernel

/-- A module in a start, with and without its clock kept, and in a TRAIN of SERVICE. -/
def inBoot (warm service : Bool) : State := { base with boot := { base.boot with stage := 9, warm := warm, service := service } }

/-- A module without power. -/
def unpowered : State := { base with boot := { base.boot with stage := 1, vin := false } }

theorem test_FabricTick :
    powered base = true ∧ base.boot.stage = 0 ∧ powered (inBoot true false) = true ∧ (inBoot true false).boot.stage ≠ 0 ∧
    (inBoot true false).boot.warm = true ∧ powered (inBoot false true) = true ∧ (inBoot false true).boot.service = true ∧
    (inBoot false false).boot.stage ≠ 0 ∧ powered unpowered = false :=
  by decide +kernel

/-! ### Lanes and the tree -/

/-- Out-lane 15 in a state after some superframes, and in-lane 7 in a state. -/
def olIn (k sf : Nat) : State := setOl 15 { OLane.fresh with sf := sf } (base.wrs [(F.FLM_OL_STAT_STATE, 15, k), (F.FLM_OL_CTL_EN, 15, 1)])

def ilIn (k : Nat) (l : ILane) : State := setIl 7 l (base.wrs [(F.FLM_IL_STAT_STATE, 7, k), (F.FLM_IL_CTL_EN, 7, 1)])

/-- In-lane 7 acquiring, with a message of its companion under way. -/
def echoing : State := setOl (ilComp base 7) { OLane.fresh with sent := [(0x55, 100)] }
    (ilIn ilAcquire { ILane.fresh with lock := { ILock.fresh with blk := true, sf := true, had := true }, msg := some (0x55 * 256) })

theorem test_FlumeRows_out :
    (olIn olRun 0).boot.stage = 0 ∧ olSt (olIn olRun 0) 15 ≠ olOff ∧ olDue (olIn olRun 0) 15 = true ∧
    (olOf (olIn olRun 0) 15).lastT ≠ some (olIn olRun 0).now ∧ olSt (olIn olTrain 300) 15 = olTrain ∧
    (olIn olTrain 300).rd F.FLM_OL_CTL_TRAIN_SF 15 ≤ (olOf (olIn olTrain 300) 15).sf ∧ olSt (olIn olHold 1) 15 = olHold ∧
    (olIn olHold 1).on F.CLK_STAT_FLUME_LOCK 0 = true ∧ 1 ≤ (olOf (olIn olHold 1) 15).sf ∧ olSt (olIn olClosing 2) 15 = olClosing ∧
    2 ≤ (olOf (olIn olClosing 2) 15).sf :=
  by decide +kernel

theorem test_FlumeRows_in :
    (ilIn ilAcquire ILane.fresh).boot.stage = 0 ∧ ilSt (ilIn ilAcquire ILane.fresh) 7 = ilAcquire ∧
    ilSt (ilIn ilMeasure ILane.fresh) 7 = ilMeasure :=
  by decide +kernel

/-- A frame with its CRC, and in-lane 7 within the block and superframe lock. -/
def slots16 : List Word := (List.range 16).map (BitVec.ofNat 32)

def goodCrc (seq ct : Nat) : Word := BitVec.ofNat 32 (crc32 (frameBits seq ct 0 5 6 (List.range 16)) 572)

def heads : List (BitVec 2) := 2 :: List.replicate 8 1

def synced : ILock := ⟨true, 0, 0, 624, true, 0, 0, false, true⟩

def lockIn (k : Nat) (ct : Option Nat) : State := ilIn k { ILane.fresh with lock := synced, ctLo := ct }

theorem test_FlumeRows_in_sound :
    ilSt (lockIn ilRun (some 255)) 7 = ilRun ∧
    (ilHeaders (inFrame heads 9 0 0 5 6 slots16 (goodCrc 9 0)).hdrs (ilOf (lockIn ilRun (some 255)) 7).lock).had = true ∧
    ilSound (inFrame heads 9 0 0 5 6 slots16 (goodCrc 9 0)) (ilOf (lockIn ilRun (some 255)) 7).lock = true ∧
    (0 : BitVec 8).toNat = (255 + (ilOf (lockIn ilRun (some 255)) 7).since + 1) % 256 ∧ (ilOf (lockIn ilMeasure none) 7).ctLo = none ∧
    ilSt (lockIn ilMeasure none) 7 = ilMeasure :=
  by decide +kernel

theorem test_FlumeRows_in_bad :
    ilSound (inFrame heads 9 0 0 5 6 slots16 5) (ilOf (lockIn ilMeasure (some 255)) 7).lock = false ∧
    (7 : BitVec 8).toNat ≠ (255 + (ilOf (lockIn ilMeasure (some 255)) 7).since + 1) % 256 ∧
    ilSound (inFrame heads 9 7 0 5 6 slots16 (goodCrc 9 7)) (ilOf (lockIn ilMeasure (some 255)) 7).lock = true ∧
    (ilHeaders (inFrame heads 9 0 0 5 6 slots16 5).hdrs (ilOf (ilIn ilAcquire ILane.fresh) 7).lock).had = false ∧
    (ilOf (ilIn ilAcquire ILane.fresh) 7).msg ≠ some 0 :=
  by decide +kernel

theorem test_FlumeRows_message :
    (∀ d : Fin 16, ¬ (echoing.on F.DMD_CTL_EN d = true ∧ echoing.rd F.DMD_CTL_IN_KIND d = 1 ∧ echoing.rd F.DMD_CTL_IN_UNIT d / 16 = (7 : Fin 8).val)) ∧
    ilSt echoing 7 = ilAcquire ∧ (ilOf echoing 7).lock.sf = true ∧ (ilOf echoing 7).msg = some (0x55 * 256) ∧
    (olOf echoing (ilComp echoing 7)).sent.find? (fun x => x.1 == bitsOf (0x56 * 256) 71 8) = none ∧
    (olOf echoing (ilComp echoing 7)).sent.find? (fun x => x.1 == bitsOf (0x55 * 256) 71 8) = some (0x55, 100) :=
  by decide +kernel

theorem test_FlumeRows_measure :
    (∀ d : Fin 16, ¬ ((ilIn ilMeasure { ILane.fresh with rts := List.replicate 16 400 }).on F.DMD_CTL_EN d = true ∧ (ilIn ilMeasure { ILane.fresh with rts := List.replicate 16 400 }).rd F.DMD_CTL_IN_KIND d = 1 ∧ (ilIn ilMeasure { ILane.fresh with rts := List.replicate 16 400 }).rd F.DMD_CTL_IN_UNIT d / 16 = (7 : Fin 8).val)) ∧
    ilSt (ilIn ilMeasure { ILane.fresh with rts := List.replicate 16 400 }) 7 = ilMeasure ∧
    (ilOf (ilIn ilMeasure { ILane.fresh with rts := List.replicate 16 400 }) 7).rts.length = 16 ∧
    cupInLane (ilIn ilMeasure { ILane.fresh with rts := List.replicate 16 400 }) 7 = false ∧
    ilSt (ilIn ilRun { ILane.fresh with bad := 64, losses := List.replicate 7 2999900 }) 7 = ilRun ∧
    64 ≤ (ilOf (ilIn ilRun { ILane.fresh with bad := 64, losses := List.replicate 7 2999900 }) 7).bad :=
  by decide +kernel

/-- Chain rail 15 with an update that is due, and without one for too long, with rail 63 as its follower. -/
def chainUpdate : State :=
  setChRail 15 { ChRail.fresh with seen := true, v := 1000, r := 3, ts := 6000 }
    { base.wr F.RAKE_RSTAT_LOST 15 0 with rake := { base.rake with updates := [⟨1, 15, false, 4000, 5000, 7, 0⟩] } }

def chainQuiet : State :=
  setChRail 15 { ChRail.fresh with seen := true, v := 1000, r := 3, ts := 1000 }
    (base.wrs [(F.RAKE_RSTAT_LOST, 15, 0), (F.RSRC_CTL_EN, 63, 1), (F.RSRC_CTL_SRC, 63, 3), (F.RSRC_CTL_SEL, 63, 15)])

/-- The root at a superframe start with PERIODIC pulses, a fence, a load and a steering hold that wait. -/
def rootDue : State :=
  { (roleIs 1).wrs [(F.RAKE_PULSE_MODE, 0, 1), (F.RAKE_PULSE_PER, 0, 0), (F.RAKE_STAT_FENCE_PEND, 0, 1), (F.RAKE_RPUB_EN, 15, 1)] with
    rake := { base.rake with fencePend := some (40, 63), ctLoad := true, steerUntil := some 3000000, acts := [(true, 0, 100), (false, 6, 200)] } }

theorem test_TreeClockRows_rails :
    chainUpdate.boot.stage = 0 ∧
    chainUpdate.rake.updates.filter (fun x => x.id == (15 : Fin 16).val && decide (x.t + fenceAt chainUpdate x.t ≤ ctNow chainUpdate)) = [⟨1, 15, false, 4000, 5000, 7, 0⟩] ∧
    (chRailOf chainUpdate 15).seen = true ∧ chainUpdate.on F.RAKE_RSTAT_LOST 15 = false ∧
    (∀ h ∈ chainUpdate.rake.highs, h.id ≠ (15 : Fin 16).val) ∧ chainQuiet.boot.stage = 0 ∧ chainQuiet.on F.RAKE_RSTAT_LOST 15 = false ∧
    (chRailOf chainQuiet 15).seen = true ∧
    (chRailOf chainQuiet 15).ts + 160 + fenceAt chainQuiet (chRailOf chainQuiet 15).ts + 640 ≤ ctNow chainQuiet ∧
    (∀ p : Fin 64, railSrc chainQuiet p = 3 → railSel chainQuiet p = 15 → chainQuiet.on F.RSRC_CTL_LOSS_POL p = false) :=
  by decide +kernel

theorem test_TreeClockRows_root :
    rootDue.boot.stage = 0 ∧ role rootDue = 1 ∧ rootDue.rd F.RAKE_PULSE_MODE 0 = 1 ∧
    ctNow rootDue % (160 * 2 ^ rootDue.rd F.RAKE_PULSE_PER 0) = 0 ∧ rootDue.on F.RAKE_CTL_EN 0 = true ∧
    rootDue.rake.known.any (fun e => e == (true, 0, ctNow rootDue)) = false ∧ ctNow rootDue % 160 = 0 ∧
    rootDue.on F.RAKE_RPUB_EN 15 = true ∧ rootDue.rake.fencePend = some (40, 63) ∧ 40 ≤ sfNow rootDue ∧ rootDue.rake.ctLoad = true ∧
    rootDue.rake.steerUntil = some 3000000 ∧ 3000000 ≤ rootDue.now :=
  by decide +kernel

theorem test_TreeClockRows_rails_first :
    4000 + fenceAt chainUpdate 4000 ≤ chainUpdate.ctOf chainUpdate.eff / 256 ∧
    chainUpdate.rake.updates.filter (fun x => x.id == (15 : Fin 16).val && decide (x.t + fenceAt chainUpdate x.t ≤ chainUpdate.ctOf chainUpdate.eff / 256)) = [⟨1, 15, false, 4000, 5000, 7, 0⟩] ∧
    (5000 : Nat) < 2 ^ 32 ∧ (chRailOf (setChRail 15 ChRail.fresh chainUpdate) 15).seen = false ∧
    (chainUpdate.wr F.RAKE_RSTAT_LOST 15 1).on F.RAKE_RSTAT_LOST 15 = true ∧ rkHead (roleIs 1) = true ∧
    tabGet (roleIs 1).rake.lastPub 15 = none ∧ base.on F.RAKE_RPUB_EN 15 = false :=
  by decide +kernel

/-- Port 3 in a state. -/
def portIn (k : Nat) (p : RkPort) : State := setPort 3 p ((roleIs 1).wr F.RAKE_P_STAT_STATE 3 k)

/-- A cell of 22 bytes. -/
def cell : List Byte := List.replicate 22 0

theorem test_TreePortRows_cells :
    (portIn rkAlign RkPort.fresh).boot.stage = 0 ∧ cupRake (portIn rkAlign RkPort.fresh) 3 = false ∧
    rkSt (portIn rkAlign RkPort.fresh) 3 = rkAlign ∧ ctNow (portIn rkAlign RkPort.fresh) % 16 = 0 ∧
    (portOf (portIn rkAlign RkPort.fresh) 3).lastTx ≠ some (portIn rkAlign RkPort.fresh).now ∧ cell.length = 22 ∧
    crc16 (cell.map (·.toNat)) = (BitVec.ofNat 16 (crc16 (cell.map (·.toNat)))).toNat ∧
    (portOf (portIn rkAlign RkPort.fresh) 3).goods < 2 ∧ 2 ≤ (portOf (portIn rkAlign { RkPort.fresh with goods := 2 }) 3).goods ∧
    rkSt (portIn rkJoined RkPort.fresh) 3 = rkJoined :=
  by decide +kernel

theorem test_TreePortRows_align :
    (0x3C : Byte).toNat = k281 ∧ (0xBC : Byte).toNat = k285 ∧
    ((3 : Nat) = (if (portOf (portIn rkAlign { RkPort.fresh with goods := 2, cell := 9 }) 3).goods ≠ 0 ∧ (portOf (portIn rkAlign { RkPort.fresh with goods := 2, cell := 9 }) 3).cell = 9 then (portOf (portIn rkAlign { RkPort.fresh with goods := 2, cell := 9 }) 3).goods + 1 else 1)) ∧
    ((1 : Nat) = (if (portOf (portIn rkAlign RkPort.fresh) 3).goods ≠ 0 ∧ (portOf (portIn rkAlign RkPort.fresh) 3).cell = 9 then (portOf (portIn rkAlign RkPort.fresh) 3).goods + 1 else 1)) ∧
    crc16 (cell.map (·.toNat)) ≠ (BitVec.ofNat 16 (crc16 (cell.map (·.toNat)) + 1)).toNat ∧
    cupRake (portIn rkAlign { RkPort.fresh with goods := 2, cell := 9 }) 3 = false ∧
    (0xBC : Byte).toNat = (if (portOf (portIn rkJoined RkPort.fresh) 3).cell = 0 then k285 else k281) :=
  by decide +kernel

theorem test_TreePortRows_follow :
    rkSt ((setPort 0 { RkPort.fresh with meas := 64, delays := List.replicate 64 81920 } (roleIs 2)).wr F.RAKE_P_STAT_STATE 0 rkMeasure) 0 = rkMeasure ∧
    meanI (List.replicate 64 81920) ≤ 81920 ∧ cupRake (roleIs 2) 0 = false :=
  by decide +kernel

theorem test_TreePortRows_join :
    cupRake (portIn rkMeasure { RkPort.fresh with meas := 64, delays := List.replicate 64 81920 }) 3 = false ∧
    rkSt (portIn rkMeasure { RkPort.fresh with meas := 64, delays := List.replicate 64 81920 }) 3 = rkMeasure ∧
    64 ≤ (portOf (portIn rkMeasure { RkPort.fresh with meas := 64, delays := List.replicate 64 81920 }) 3).meas ∧
    meanI (portOf (portIn rkMeasure { RkPort.fresh with meas := 64, delays := List.replicate 64 81920 }) 3).delays ≤ 81920 ∧
    81920 < meanI (portOf (portIn rkMeasure { RkPort.fresh with meas := 64, delays := List.replicate 64 81921 }) 3).delays :=
  by decide +kernel

theorem test_TreePortRows_loss :
    rkSt (portIn rkJoined { RkPort.fresh with badRun := 64 }) 3 = rkJoined ∧
    64 ≤ (portOf (portIn rkJoined { RkPort.fresh with badRun := 64 }) 3).badRun ∧
    (((portIn rkJoined { RkPort.fresh with badRun := 64 }).now :: (portOf (portIn rkJoined { RkPort.fresh with badRun := 64 }) 3).losses).filter (fun x => decide ((portIn rkJoined { RkPort.fresh with badRun := 64 }).now < x + secTicks 1))).length < 8 :=
  by decide +kernel

/-- AUTO without an upper neighbour for 100 ms. -/
def alone : State := base.wrs [(F.RAKE_CTL_EN, 0, 1), (F.GLB_TICK_TICK, 0, 2 ^ 30)]

/-- A LINK_INFO packet from above that tells depth 15. -/
def linkInfo : List Nat := [kdLink * 2 ^ 24 + 4, 7, 15 * 65536 + 5]

/-- A root with an assignment under way, and one whose last change lies 100 ms back. -/
def assigning : State := { (roleIs 1).wr F.RAKE_STAT_ENUM_BUSY 0 1 with rake := { base.rake with enumJobs := [5], enumFull := true } }

def changed : State := { (roleIs 1).wrs [(F.RAKE_CTL_AUTO_ENUM, 0, 1), (F.GLB_TICK_TICK, 0, 6 + msTicks 100)] with rake := { base.rake with change := some 6 } }

theorem test_TreePortRows_auto :
    alone.boot.stage = 0 ∧ alone.on F.RAKE_CTL_EN 0 = true ∧ alone.rd F.RAKE_CTL_ROLE 0 = 0 ∧ role alone = 0 ∧
    alone.rake.enabledAt + msTicks 100 ≤ alone.now ∧ rkSt alone 0 ≠ rkJoined :=
  by decide +kernel

theorem test_TreeMessageRows_packet :
    rkSt (portIn rkJoined RkPort.fresh) 3 = rkJoined ∧ (portIn rkJoined RkPort.fresh).boot.stage = 0 ∧
    rkSt ((roleIs 2).wr F.RAKE_P_STAT_STATE 0 rkJoined) 0 = rkJoined ∧
    ((linkInfo ++ [crc32c linkInfo]).map (BitVec.ofNat 32)).map (·.toNat) = linkInfo ++ [crc32c linkInfo] ∧ 3 ≤ linkInfo.length ∧
    bitsOf (linkInfo.getD 0 0) 15 0 = 4 ∧ bitsOf (linkInfo.getD 0 0) 31 24 = kdLink ∧ linkInfo.getD 2 0 / 2 ^ 16 < 16 :=
  by decide +kernel

/-- Port 0 of a follower with a whole packet, which is good or not. -/
def linkBytes (ws : List Nat) : List Byte := ws.flatMap (fun w => (List.range 4).map (fun k => BitVec.ofNat 8 (w / 256 ^ k)))

def wholeIn (bad : Bool) (bs : List Byte) : State :=
  setPort 0 { RkPort.fresh with rx := { RkPort.fresh.rx with whole := [(bad, bs.map (·.toNat))] } } ((roleIs 2).wr F.RAKE_P_STAT_STATE 0 rkJoined)

def linkPacket : State := wholeIn false (linkBytes (linkInfo ++ [crc32c linkInfo]))

theorem test_TreeMessageRows_receive :
    quiet linkPacket ∧ (portOf linkPacket 3).rx.whole.head? ≠ some (false, ([] : List Byte).map (·.toNat)) ∧
    (portOf linkPacket 0).rx.whole = (false, (linkBytes (linkInfo ++ [crc32c linkInfo])).map (·.toNat)) :: [] ∧
    rkSt linkPacket 0 = rkJoined ∧
    bytesWords ((linkBytes (linkInfo ++ [crc32c linkInfo])).map (·.toNat)) = linkInfo ++ [crc32c linkInfo] ∧
    (linkBytes (linkInfo ++ [crc32c linkInfo])).length % 4 = 0 ∧
    bitsOf (linkInfo.getD 0 0) 15 0 = (bytesWords ((linkBytes (linkInfo ++ [crc32c linkInfo])).map (·.toNat))).length :=
  ⟨quiet_of (by decide +kernel), by decide +kernel, by decide +kernel, by decide +kernel, by decide +kernel, by decide +kernel,
    by decide +kernel⟩

theorem test_TreeMessageRows_dropped :
    (portOf (wholeIn true [1, 2, 3, 4]) 0).rx.whole = (true, ([1, 2, 3, 4] : List Byte).map (·.toNat)) :: [] ∧
    (bytesWords [1, 2, 3, 4]).length < 3 ∧ rkSt (wholeIn true [1, 2, 3, 4]) 0 = rkJoined :=
  by decide +kernel

theorem test_TreeMessageRows_assign :
    assigning.boot.stage = 0 ∧ assigning.on F.RAKE_STAT_ENUM_BUSY 0 = true ∧ changed.rake.change = some 6 ∧ role changed = 1 ∧
    changed.on F.RAKE_CTL_AUTO_ENUM 0 = true ∧ 6 + msTicks 100 ≤ changed.now :=
  by decide +kernel

/-! ### Carafe and the pans -/

/-- A request of a port, and Carafe in a power state with one in the queue, one held and one in flight. -/
def request (p : Nat) (d : Option Nat) : CarReq := ⟨p, false, 64, 64, 100, d, false, 0, []⟩

def carIn (k : Nat) : State :=
  { base.wrs [(F.CAR_STAT_PWR, 0, k)] with car := { base.car with reqs := [request 71 (some 200)], held := [request 70 none], flight := [request 71 none] } }

/-- The same with nothing held. -/
def carLate : State := { base with car := { base.car with reqs := [request 71 (some 3000000)] } }

/-- Carafe with refreshes ahead, and with requests of rank 1 that are late. -/
def ahead : State := { base with car := { base.car with ahead := [(3, 1)] } }

def pressed : State := { base with car := { base.car with reqs := (List.range 64).map (fun i => ⟨64, false, 256 * i, 64, 100, some 0, false, 0, []⟩) } }

/-- Carafe idle with automatic self-refresh, and with a patrol that is due. -/
def idle : State := base.wrs [(F.CAR_CTL_AUTO_SR, 0, 1), (F.CAR_PWR_IDLE_SR, 0, 1)]

def patrol : State := base.wrs [(F.CAR_CTL_SCRUB_EN, 0, 1), (F.CAR_SCRUB_PERIOD, 0, 1), (F.GLB_TICK_TICK, 0, 10 ^ 13)]

theorem test_CarafeRows_request :
    (carIn pwRun).boot.stage = 0 ∧ carPwr (carIn pwRun) = pwRun ∧ carPwr (carIn pwDrain) = pwDrain ∧ portBulk 71 = true ∧
    portBulk 0 = false ∧ carPwr (carIn pwSr) = pwSr ∧ mode (carIn pwSr) ≠ mdShelf :=
  by decide +kernel

theorem test_CarafeRows_read :
    (carIn pwRun).car.flight.find? (fun x => x.port == (71 : Fin 72).val) = some (request 71 none) ∧ 64 ≤ (71 : Fin 72).val :=
  by decide +kernel

/-- Carafe with a unit to write back, and with refreshes, a window and a drift that are not due. -/
def mending : State := { base with car := { base.car with wbs := [3] } }

def early : State := { base with car := { base.car with refAt := [(3, 100 * 3000000 + 1)] } }

theorem test_CarafeRows_writeback :
    base.car.wbs = [] ∧ mending.car.wbs = 3 :: [] ∧ carPwr mending = pwRun ∧ carPwr (carIn pwDrain) = pwDrain :=
  by decide +kernel

theorem test_CarafeRows_times :
    100 * early.now < (tabGet early.car.refAt 3).getD 0 ∧ (tabGet early.car.refAt 2).getD 0 ≤ 100 * early.now ∧
    (tabGet pressed.car.refAt 1).getD 0 ≤ 100 * pressed.now ∧ patrol.car.rhAt + usTicks 32000 ≤ patrol.now ∧
    patrol.car.driftAt + usTicks 100000 ≤ patrol.now ∧
    (List.replicate patrol.car.delays.length (3 : Int)).length = patrol.car.delays.length :=
  by decide +kernel

theorem test_CarafeRows_deadline :
    carLate.car.held = [] ∧
    carLate.car.reqs.filter (fun r => r.port == (71 : Fin 72).val && !r.missed && (match r.deadline with | some d => decide (d ≤ carLate.now) | none => false)) = carLate.car.reqs :=
  by decide +kernel

theorem test_CarafeRows_refresh :
    carServes ahead = true ∧ (tabGet ahead.car.ahead 3).getD 0 = 0 + 1 ∧ (tabGet pressed.car.ahead 1).getD 0 = 0 ∧
    refWaits pressed 1 = true ∧ owed pressed 1 < 8 ∧ carServes pressed = true ∧ (tabGet base.car.ahead 3).getD 0 = 0 ∧
    refWaits base 3 = false ∧ base.on F.CAR_REF_MODE 0 = false :=
  by decide +kernel

theorem test_CarafeRows_power :
    srAuto idle = true ∧ carPwr (carIn pwExit) = pwExit ∧ patrol.on F.CAR_CTL_SCRUB_EN 0 = true ∧ carServes patrol = true ∧
    patrol.car.scrubAt + secTicks (60 * patrol.rd F.CAR_SCRUB_PERIOD 0) ≤ patrol.now :=
  by decide +kernel

theorem test_CarafeRows_temperature :
    (List.replicate base.car.delays.length (3 : Int)).length = base.car.delays.length ∧ base.car.temps.length = 4 ∧
    (∀ y ∈ base.car.temps, y < 1520) ∧ (∀ y ∈ base.car.temps, y ≤ 1680) ∧ (1680 : Int) < 1681 ∧ base.on F.CAR_STAT_OVERTEMP 0 = false ∧
    mode base = mdSetup :=
  by decide +kernel

/-- The background test in its slice, and before one. -/
def inSlice (en : Nat) : State := { base.wrs [(F.PAN_STAT_SLICE, 15, 1), (F.PAN_MBIST_EN, 0, en)] with panX := { base.panX with slice := some (15, 127), visited := 2999808 } }

def testDue : State := base.wrs [(F.PAN_MBIST_EN, 0, 1), (F.PAN_OWN_OWNER, 15, owMbist)]

/-- Pan 15 in a full test, in a handover, and waking. -/
def panBusy : State := { base.wrs [(F.PAN_STAT_TEST_BUSY, 15, 1), (F.PAN_STAT_WAKING, 15, 1), (F.PAN_STAT_ASLEEP, 15, 1), (F.PAN_RET_SLEEP, 0, 0x8000)] with pans := [(262144 * 16 - 1, 7)] }

def panHands : State := { base.wrs [(F.PAN_STAT_HANDOVER, 13, 1), (F.PAN_OWN_OWNER, 13, owCapture)] with panX := { base.panX with hand := [(13, false, owHost)] } }

/-- The same, one failing word found, and left by a broken visit. -/
def sliceFound (fs : List Nat) (broken : Bool) : State := { inSlice 1 with panX := { (inSlice 1).panX with found := fs, broken := broken } }

theorem test_PanRows_slice :
    (inSlice 0).boot.stage = 0 ∧ (inSlice 0).panX.slice = some (15, 127) ∧ (inSlice 0).on F.PAN_MBIST_EN 0 = false ∧
    (inSlice 1).panX.slice.isSome = true ∧ (inSlice 1).panX.visited + 192 ≤ (inSlice 1).now ∧ (inSlice 1).panX.broken = false ∧
    (inSlice 1).panX.found = [] ∧ (sliceFound [63] false).panX.found = [63] ∧ (sliceFound [] true).panX.broken = true ∧
    ({ inSlice 1 with panX := { (inSlice 1).panX with visited := 2999809 } } : State).now < 2999809 + 192 ∧
    testDue.now < testDue.now + usTicks 1 :=
  by decide +kernel

theorem test_PanRows_next :
    testDue.panX.slice = none ∧ testDue.on F.PAN_MBIST_EN 0 = true ∧
    testDue.panX.visited + usTicks (testDue.rd F.PAN_MBIST_INTERVAL 0) ≤ testDue.now ∧
    mbistNext testDue testDue.panX.cursor 17 = some 1280 ∧ 1280 < (2048 : Nat) :=
  by decide +kernel

theorem test_PanRows_pan :
    panBusy.on F.PAN_STAT_TEST_BUSY 15 = true ∧ panBusy.on F.PAN_STAT_WAKING 15 = true ∧ panBusy.hst.heldX = [] ∧
    (∀ x : Fin 8, panBusy.on F.HST_XR_CTL_EN x = false) :=
  by decide +kernel

theorem test_PanRows_hand :
    panHands.panX.hand.filter (fun e => e.1 == (13 : Fin 16).val) = [((13 : Fin 16).val, false, owHost)] ∧ owHost ≤ 8 ∧ owHost ≠ owMbist ∧
    owHost ≠ owRefine ∧ panOwner panHands 13 ≠ owPlayer ∧ panOwner panHands 13 ≠ owMbist ∧ panOwner panHands 13 ≠ owRefine ∧
    panHands.panGrants.filter (fun e => e.2 == (13 : Fin 16).val) = [] :=
  by decide +kernel

theorem test_PanRows_queue :
    (quOf base 127).held = false ∧ (quOf base 127).writer = none :=
  by decide +kernel

/-! ### Clocks, cupping and stores -/

/-- A module on the standby PLL with REFIN present, with and without a relation. -/
def onStandby (rel : Bool) : State := { standby.wr F.CLK_STAT_REFIN_OK 0 1 with clk := { base.clk with relation := rel } }

/-- The walk at its end. -/
def walked : State := { standby with clk := { base.clk with walk := some (5, 0, 1) } }

theorem test_ClockRows_loss :
    base.boot.stage = 0 ∧ mode base ≠ mdCupping ∧ base.on F.CLK_STAT_REFIN_OK 0 = true ∧ refSel base = 0 ∧
    refSel (base.wr F.CLK_REF_SEL 0 3) ≠ 0 ∧ (base.wr F.CLK_REF_SEL 0 3).on F.CLK_STAT_REFIN_OK 0 = true :=
  by decide +kernel

theorem test_ClockRows_lock :
    refPresent base = true ∧ base.on F.CLK_STAT_ON_STANDBY 0 = false ∧ mode (onStandby true) ≠ mdCupping ∧
    refPresent (onStandby true) = true ∧ (onStandby true).on F.CLK_STAT_ON_STANDBY 0 = true ∧ (onStandby true).clk.walk = none ∧
    (onStandby true).clk.wait = none ∧ (onStandby true).clk.relation = true ∧ (onStandby true).rake.islandO = none ∧
    (onStandby false).clk.relation = false :=
  by decide +kernel

theorem test_ClockRows_walk :
    base.on F.CLK_STAT_SPLL_LOCK 0 = true ∧ walked.clk.walk = some (5, 0, 1) ∧ 0 + walkTicks 5 1 ≤ walked.now ∧
    walked.on F.CLK_STAT_ON_STANDBY 0 = true ∧ mode walked = mdCoast :=
  by decide +kernel

/-- A cupping run, in one of its steps. -/
def cupIn (scope step back : Nat) : State :=
  { withJob (job 7 50 0x70) (base.wrs [(F.CUP_STAT_STEP, 0, step), (F.CUP_STAT_BUSY, 0, 1), (F.GLB_MODE_MODE, 0, mdCupping)]) with
    cup := some ⟨scope, 0, 7, back⟩ }

theorem test_CuppingRows :
    (cupIn 0 2 mdService).boot.stage = 0 ∧ (cupIn 0 2 mdService).cup = some ⟨0, 0, 7, mdService⟩ ∧
    (2 : Nat) = (cupIn 0 2 mdService).rd F.CUP_STAT_STEP 0 ∧ (9 : Nat) = (cupIn 0 9 mdService).rd F.CUP_STAT_STEP 0 ∧
    (cupIn 0 9 mdService).nvm.ops = [] ∧ jobWaits (job 7 50 0x70) (cupIn 0 9 mdService) ∧
    (cupIn 1 0 mdSetup).cup = some ⟨1, 0, 7, mdSetup⟩ ∧ jobWaits (job 7 50 0x70) (cupIn 1 0 mdSetup) :=
  ⟨by decide +kernel, by decide +kernel, by decide +kernel, by decide +kernel, by decide +kernel, jobWaits_of (by decide +kernel),
    by decide +kernel, jobWaits_of (by decide +kernel)⟩

/-- A module with one NVM operation at hand, and a command in progress that waits for it. -/
def nvmOp (o : NvmOp) (s : State) : State := { s.wr F.NVM_STAT_BUSY 0 1 with nvm := { s.nvm with ops := [o] } }

def waiting : State := withJob (job 7 50 0x23) base

/-- A segment that a pin copy, and an unpin under way, holds. -/
def pinned (k : Nat) (p : Option (Nat × Bool)) : State := setSeg 262143 { newSeg with base := 4096, state := k, pin := p } waiting

/-- A firmware image that is checked, and an audit backlog. -/
def checking : State := { waiting with nvm := { waiting.nvm with checks := [(7, 1)] } }

def backlog : State := base.wrs [(F.LOG_AUD_SEQ_AUDSEQ, 0, 6), (F.LOG_AUD_NVM_AUDSEQ, 0, 5), (F.LOG_AUD_STAT_FLUSHING, 0, 1), (F.LOG_AUD_STAT_REBUILD, 0, 1)]

theorem test_StoreRows_images :
    powered (nvmOp (.shelf ⟨[], 9⟩) base) = true ∧ (nvmOp (.shelf ⟨[], 9⟩) base).nvm.gens.length = 6 ∧
    (nvmOp (.shelf ⟨[], 9⟩) base).nvm.ops = [.shelf ⟨[], 9⟩] ∧ (nvmOp (.shelf ⟨[], 9⟩) base).nvm.again = false ∧
    (nvmOp (.cal none ⟨[], Cal.fresh, []⟩) base).nvm.ops = [.cal none ⟨[], Cal.fresh, []⟩] :=
  by decide +kernel

/-- A SHELF store after which the newest image is stored again. -/
def storeAgain : State :=
  { nvmOp (.shelf ⟨[], 9⟩) base with nvm := { (nvmOp (.shelf ⟨[], 9⟩) base).nvm with ops := [.shelf ⟨[], 9⟩, .erase 2], again := true, staged := some ⟨[], 10⟩ } }

theorem test_StoreRows_images_again :
    storeAgain.nvm.ops = .shelf ⟨[], 9⟩ :: [.erase 2] ∧ storeAgain.nvm.again = true ∧ storeAgain.nvm.staged = some ⟨[], 10⟩ ∧
    (nvmOp (.cal (some 7) ⟨[], Cal.fresh, []⟩) waiting).nvm.ops = .cal (some 7) ⟨[], Cal.fresh, []⟩ :: [] ∧
    jobWaits (job 7 50 0x23) (nvmOp (.cal (some 7) ⟨[], Cal.fresh, []⟩) waiting) :=
  ⟨by decide +kernel, by decide +kernel, by decide +kernel, by decide +kernel, jobWaits_of (by decide +kernel)⟩

theorem test_StoreRows_boot :
    1 < (2 : Nat) ∧ (nvmOp (.boot (some 7) 1 true false) waiting).nvm.gens.length = 6 ∧
    (nvmOp (.boot (some 7) 1 true false) waiting).nvm.ops = [.boot (some 7) 1 true false] ∧
    (nvTarget (nvmOp (.boot (some 7) 1 true false) waiting) 4).2 ≠ 0 ∧
    jobWaits (job 7 50 0x23) (nvmOp (.boot (some 7) 1 true false) waiting) :=
  ⟨by decide +kernel, by decide +kernel, by decide +kernel, by decide +kernel, jobWaits_of (by decide +kernel)⟩

theorem test_StoreRows_pin :
    (nvmOp (.pin 262143 7) (pinned 2 (some (7, false)))).boot.stage = 0 ∧
    (nvmOp (.pin 262143 7) (pinned 2 (some (7, false)))).nvm.ops = [.pin 262143 7] ∧
    jobWaits (job 7 50 0x23) (nvmOp (.pin 262143 7) (pinned 2 (some (7, false)))) ∧
    (segOf (pinned 2 (some (7, true))) 262143).pin = some (7, true) ∧ jobWaits (job 7 50 0x23) (pinned 2 (some (7, true))) ∧
    ((∀ k, (segOf (nvmOp (.unpin 262143 7) (pinned 4 none)) 262143).pin ≠ some (k, true))) ∧
    (segOf (nvmOp (.unpin 262143 7) (pinned 4 none)) 262143).state = 4 ∧
    (nvmOp (.unpin 262143 7) (pinned 4 none)).nvm.ops = [.unpin 262143 7] ∧
    jobWaits (job 7 50 0x23) (nvmOp (.unpin 262143 7) (pinned 4 none)) :=
  ⟨by decide +kernel, by decide +kernel, jobWaits_of (by decide +kernel), by decide +kernel, jobWaits_of (by decide +kernel),
    fun k => by rw [show (segOf (nvmOp (.unpin 262143 7) (pinned 4 none)) 262143).pin = none from by decide +kernel]; exact nofun,
    by decide +kernel, by decide +kernel, jobWaits_of (by decide +kernel)⟩

theorem test_StoreRows_firmware :
    (nvmOp (.fwWrite 7 68 [0xF0F0]) waiting).nvm.ops = [.fwWrite 7 68 [0xF0F0]] ∧ 68 % 65536 ≠ 0 ∧
    jobWaits (job 7 50 0x23) (nvmOp (.fwWrite 7 68 [0xF0F0]) waiting) ∧ checking.nvm.checks = [(7, 1)] ∧
    jobWaits (job 7 50 0x23) checking ∧ checking.nvm.ops = [] ∧ checking.on F.PWR_STAT_PF 0 = false ∧
    (nvmOp (.erase 3) base).nvm.ops = [.erase 3] :=
  ⟨by decide +kernel, by decide +kernel, jobWaits_of (by decide +kernel), by decide +kernel, jobWaits_of (by decide +kernel),
    by decide +kernel, by decide +kernel, by decide +kernel⟩

theorem test_StoreRows_audit :
    powered backlog = true ∧ backlog.nvm.gens.length = 6 ∧ backlog.rd F.LOG_AUD_SEQ_AUDSEQ 0 ≠ backlog.rd F.LOG_AUD_NVM_AUDSEQ 0 ∧
    backlog.on F.PWR_STAT_PF 0 = false ∧ backlog.on F.LOG_AUD_STAT_FLUSHING 0 = true ∧ backlog.on F.LOG_AUD_STAT_REBUILD 0 = true :=
  by decide +kernel

/-! ### Commands in progress and the host path -/

/-- A NOP that a fence held, a fence, a load and a step write under way. -/
def heldNop : State := { base with heldPkts := [numbered 0 (pkt [])] }

def fenced : State := { waiting with fences := [7] }

def loading : State := { pinned 1 none with segLoads := [(7, 262143, true)], stepLoads := [7] }

/-- A batch whose one member writes a register, staged, ready, and due. -/
def member (a : Nat) : Pkt := { pkt [a, 0xF0001, 0] with opcode := 0x11, org := 0 }

def stagedWith (a : Nat) (ready : Bool) : State :=
  { waiting with staged := [⟨⟨0, 0, 3, [member a], 3, 5⟩, 7, 50, 0, ready, false, 5⟩] }

/-- Two open batches, the first left for 60 seconds. -/
def openTwo : State := { base.wr F.GLB_TICK_TICK 0 (secTicks 60 + 5) with opens := [⟨0, 0, 3, [], 0, 5⟩, ⟨1, 0, 4, [], 0, 6⟩] }

/-- A posted word of one of the two registers that take posted writes. -/
def posted (a w : Nat) : State := { base with nvm := { base.nvm with posted := [(a, w)] } }

theorem test_InFlightRows_held :
    powered heldNop = true ∧ heldNop.heldPkts = [numbered 0 (pkt [])] ∧ passes 0 (pkt []) { heldNop with heldPkts := [] } ∧
    base.heldPkts = [] :=
  ⟨by decide +kernel, by decide +kernel, passes_of (by decide +kernel), by decide +kernel⟩

theorem test_InFlightRows_fence :
    (job 7 50 0x23).id ∈ fenced.fences ∧ jobWaits (job 7 50 0x23) fenced ∧
    (∀ x ∈ fenced.jobs, x.org = (job 7 50 0x23).org → (job 7 50 0x23).id ≤ x.id) ∧ fenced.segLoads = [] ∧ fenced.stepLoads = [] ∧
    fenced.car.held = [] :=
  ⟨by decide +kernel, jobWaits_of (by decide +kernel), by decide +kernel, by decide +kernel, by decide +kernel, by decide +kernel⟩

theorem test_InFlightRows_loads :
    loading.segLoads = [((job 7 50 0x23).id, 262143, true)] ∧ jobWaits (job 7 50 0x23) loading ∧ (segOf loading 262143).state = 1 ∧
    loading.stepLoads = [(job 7 50 0x23).id] ∧
    ({ base with boot := { base.boot with resetAt := some 3000000 } } : State).boot.resetAt = some 3000000 ∧ 3000000 ≤ base.now :=
  ⟨by decide +kernel, jobWaits_of (by decide +kernel), by decide +kernel, by decide +kernel, by decide +kernel, by decide +kernel⟩

theorem test_InFlightRows_staging :
    (stagedWith 0x10 false).staged.find? (fun x => !x.ready) = some ⟨⟨0, 0, 3, [member 0x10], 3, 5⟩, 7, 50, 0, false, false, 5⟩ ∧
    (stagedWith 0x10 false).staged = [⟨⟨0, 0, 3, [member 0x10], 3, 5⟩, 7, 50, 0, false, false, 5⟩] :=
  by decide +kernel

theorem test_InFlightRows_commit :
    (stagedWith (F.CHN_RATE_DM1.addr 255) true).staged = [⟨⟨0, 0, 3, [member (F.CHN_RATE_DM1.addr 255)], 3, 5⟩, 7, 50, 0, true, false, 5⟩] ∧
    batchDue (stagedWith (F.CHN_RATE_DM1.addr 255) true).coming ⟨⟨0, 0, 3, [member (F.CHN_RATE_DM1.addr 255)], 3, 5⟩, 7, 50, 0, true, false, 5⟩ = true ∧
    jobWaits (job 7 50 0x23) (stagedWith (F.CHN_RATE_DM1.addr 255) true) ∧
    (batchRun [member (F.CHN_RATE_DM1.addr 255)] 1 [] (batchSync { (stagedWith (F.CHN_RATE_DM1.addr 255) true).coming with staged := [] })).1 = stOk :=
  ⟨by decide +kernel, by decide +kernel, jobWaits_of (by decide +kernel), by decide +kernel⟩

theorem test_InFlightRows_commit_fails :
    batchDue (stagedWith 0x11 true).coming ⟨⟨0, 0, 3, [member 0x11], 3, 5⟩, 7, 50, 0, true, false, 5⟩ = true ∧
    (batchRun [member 0x11] 1 [] (batchSync { (stagedWith 0x11 true).coming with staged := [] })).1 ≠ stOk :=
  by decide +kernel

theorem test_InFlightRows_timeout :
    powered openTwo = true ∧ openTwo.opens.filter (fun b => !decide (b.lastTick + secTicks 60 ≤ openTwo.now)) = [⟨1, 0, 4, [], 0, 6⟩] :=
  by decide +kernel

theorem test_InFlightRows_posted :
    powered (posted 0xB00010 6) = true ∧ (posted 0xB00010 6).nvm.posted = [(0xB00010, 6)] ∧
    (∃ b u r hi, wordAt 0xB00010 = some (b, u, r, hi) ∧ (!hi && b.grp == 18) = true) ∧ 0xB00010 ≠ F.NVM_ERASE_GO.addr 0 ∧
    bitOf 3 8 = false ∧ (∃ b u r hi, wordAt (F.NVM_ERASE_GO.addr 0) = some (b, u, r, hi) ∧ (!hi && b.grp == 15) = true) :=
  ⟨by decide +kernel, by decide +kernel, atWord_of (by decide +kernel), by decide +kernel, by decide +kernel,
    atWord_of (by decide +kernel)⟩

theorem test_InFlightRows_erase :
    (posted (F.NVM_ERASE_GO.addr 0) 259).nvm.posted = [(F.NVM_ERASE_GO.addr 0, 259)] ∧ bitOf 259 8 = true ∧ base.nvm.ops = [] ∧
    base.on F.PWR_STAT_PF 0 = false :=
  by decide +kernel

/-- Rings at work, a head shadow and a vector that wait. -/
def atWork : State :=
  { rings.wr F.HST_SQ_STAT_STATE 31 1 with hst := { base.hst with shadow := [(31, (3, 4))] }, msixWait := [63] }

theorem test_HostLinkRows :
    powered atWork = true ∧ atWork.on F.HST_SQ_CTL_EN 31 = true ∧ atWork.on F.HST_RQ_CTL_EN 31 = true ∧
    atWork.on F.HST_XR_CTL_EN 7 = true ∧ (∀ q : Fin 128, (quOf atWork q).opened = false) ∧ (tabGet atWork.hst.shadow 31).isSome = true ∧
    memN atWork.msixWait 63 = true ∧ tabGet atWork.hst.msixLast 63 = none ∧ atWork.faultSum = faultSumOf atWork ∧ quiet atWork ∧
    atWork.rd F.HST_CTL_LOSS_POL 0 = 0 :=
  ⟨by decide +kernel, by decide +kernel, by decide +kernel, by decide +kernel, by decide +kernel, by decide +kernel, by decide +kernel,
    by decide +kernel, by decide +kernel, quiet_of (by decide +kernel), by decide +kernel⟩

/-- A host with a loss policy, and a module that runs. -/
def lossPol (k : Nat) : State := (inMode mdRun).wr F.HST_CTL_LOSS_POL 0 k

theorem test_HostLinkRows_policy :
    powered (lossPol 1) = true ∧ ((∀ q : Fin 128, (quOf (lossPol 1) q).opened = false)) ∧ permCmd (lossPol 1) 6 0 = true ∧
    (lossPol 1).rd F.HST_CTL_LOSS_POL 0 = 1 ∧ mode (lossPol 1) ≠ mdHold ∧ requestResult (lossPol 1) mdHold 0 = 0 ∧
    (lossPol 1).cmd = false ∧ (lossPol 2).rd F.HST_CTL_LOSS_POL 0 = 2 ∧ requestResult (lossPol 2) mdSafe 0 = 0 :=
  by decide +kernel

theorem test_HostLinkRows_vector :
    tabGet atWork.hst.msixLast 63 = none ∧
    tabGet ({ atWork with hst := { atWork.hst with msixLast := [(63, 2999000)] } } : State).hst.msixLast 63 = some 2999000 ∧
    2999000 + holdoff atWork 63 ≤ atWork.now ∧ atWork.rd F.HST_LINK_STATE 0 = 3 ∧
    (atWork.wr F.HST_LINK_STATE 0 1).rd F.HST_LINK_STATE 0 ≠ 3 ∧ (atWork.wr F.HST_LINK_STATE 0 1).rd F.HST_LINK_STATE 0 ≠ 4 :=
  by decide +kernel

/-- The words of a NOP packet over a device of the USB link, and over the service link. -/
def nopWords : List Nat := [4, 50, 0, 0]

/-- The base with the service link. -/
def serviced : State := base.wrs [(F.HST_CTL_SVC_EN, 0, 1), (F.HST_LINK_SVC, 0, 1)]

/-- Queue 127 as a shallow queue in a pan of the queues, empty and with one packet. -/
def shallow : State := base.wrs [(F.BRN_CTL_EN, 127, 1), (F.BRN_STORE_PAN, 127, 3), (F.BRN_IDX_PAN, 127, 3), (F.PAN_OWN_OWNER, 3, owBrine)]

def descriptor (fl n : Nat) : List Word := [BitVec.ofNat 32 (fl * 2 ^ 27 + 127), BitVec.ofNat 32 n, 0, 0, 7, 0, 0, 0]

def transfer (op : Nat) (d : List Word) (data : List Nat) : Xfer := ⟨8, ((d.map (·.toNat)).headD 0 % 2 ^ 28 + op * 2 ^ 28) :: (d.map (·.toNat)).drop 1, data⟩

def filled : State := after (execXferWrite 8 (descriptor 1 3) [5, 6, 7] [] shallow)

theorem test_HostDataRows_packets :
    serviced.rd F.HST_LINK_STATE 0 ≠ 2 ∧ fetching serviced = true ∧ usbPkts false 0 4 nopWords = ([(0, nopWords)], false) ∧
    (pktOfWords 0 0 .usb3 nopWords).opcode = 0 ∧ passes 0 (pktOfWords 0 0 .usb3 nopWords) serviced ∧
    usbPkts true 0 5 (2 :: nopWords) = ([(3, nopWords)], false) ∧ passes 0 (pktOfWords 3 0 .usb3 nopWords) serviced ∧
    serviced.on F.HST_CTL_SVC_EN 0 = true ∧ usbPkts false 4 4 nopWords = ([(4, nopWords)], false) ∧
    passes 0 (pktOfWords 4 0 .svc nopWords) serviced :=
  ⟨by decide +kernel, by decide +kernel, by decide +kernel, by decide +kernel, passes_of (by decide +kernel), by decide +kernel,
    passes_of (by decide +kernel), by decide +kernel, by decide +kernel, passes_of (by decide +kernel)⟩

theorem test_HostDataRows_write :
    xfQ (transfer 1 (descriptor 1 3) [5, 6, 7]) = 127 ∧ xfWhy shallow (transfer 1 (descriptor 1 3) [5, 6, 7]) = 0 ∧
    xfEnd (transfer 1 (descriptor 1 3) [5, 6, 7]) = true ∧ qDeep shallow 127 = false ∧ xfForeign shallow 127 = false ∧
    (quOf shallow 127).opened = false ∧ qIdxFull shallow 127 = false ∧ (tabGet shallow.hst.rewoundX (1024 + 127)).getD false = false ∧
    (∀ k ∈ xfPans shallow 127, shallow.on F.PAN_STAT_WAKING k = false ∧ shallow.on F.PAN_STAT_ASLEEP k = false ∧ shallow.panX.slice = none) ∧
    (transfer 1 (descriptor 1 3) [5, 6, 7]).data.length = xfLen (transfer 1 (descriptor 1 3) [5, 6, 7]) ∧
    qUsed shallow 127 + xfLen (transfer 1 (descriptor 1 3) [5, 6, 7]) ≤ qWords shallow 127 ∧
    shallow.rd F.BRN_WP_PTR 127 < qMod shallow 127 ∧ shallow.rd F.BRN_RP_PTR 127 < qMod shallow 127 ∧
    qMod shallow 127 ≤ 2 ^ F.BRN_WP_PTR.width ∧ (∀ x ∈ (transfer 1 (descriptor 1 3) [5, 6, 7]).data, x < 2 ^ 32) :=
  by decide +kernel

theorem test_HostDataRows_read :
    xfQ (transfer 2 (descriptor 0 8) []) = 127 ∧ xfWhy shallow (transfer 2 (descriptor 0 8) []) = 0 ∧ qVisible shallow 127 = [] ∧
    (∀ k ∈ xfPans shallow 127, shallow.on F.PAN_STAT_WAKING k = false ∧ shallow.on F.PAN_STAT_ASLEEP k = false ∧ shallow.panX.slice = none) ∧
    xfWhy filled (transfer 2 (descriptor 0 8) []) = 0 ∧ qVisible filled 127 = [0] ∧
    (∀ k ∈ xfPans filled 127, filled.on F.PAN_STAT_WAKING k = false ∧ filled.on F.PAN_STAT_ASLEEP k = false ∧ filled.panX.slice = none) ∧
    qDeep filled 127 = false ∧ xfForeign filled 127 = false ∧ qLen filled 127 0 ≤ xfLen (transfer 2 (descriptor 0 8) []) :=
  by decide +kernel

/-! ### Power and the start -/

/-- A module in a stage of the start, or without power, with the pins that let it go on. -/
def inStage (k : Nat) : State := { base with boot := { base.boot with stage := k } }

/-- A module that the converter has left for heat, one that trains in full, one in SHELF, and one that shuts down. -/
def tripped : State := { inStage 1 with boot := { base.boot with stage := 1, notes := [(8, 2200)] } }

def slowTrain : State := { inStage 5 with boot := { (inStage 5).boot with quickBad := true } }

def inShelf (warm : Bool) : State := { base with boot := { base.boot with stage := 12, warm := warm } }

def shutting : State := { base.wr F.GLB_TICK_TICK 0 (5 + secTicks 2) with boot := { base.boot with pwrEn := false, shut := some 5 } }

/-- A module that enters SHELF, and one in RECOVER. -/
def entering (d : Nat) : State := { base.wr F.GLB_MODE_MODE 0 mdSafe with boot := { base.boot with shelf := some (d, 2) } }

def recovering (k : Nat) : State := { inMode mdRecover with recov := { base.recov with stage := k, service := true } }

theorem test_PowerRows_start :
    (inStage 1).boot.stage = 1 ∧ (inStage 2).boot.stage = 2 ∧ (inStage 1).boot.pwrEn = true ∧ (inStage 1).boot.resetN = true ∧
    (inStage 1).boot.vin = true ∧ base.boot.stage = 0 ∧ base.boot.vin = true ∧ base.on F.PWR_STAT_PF 0 = false ∧ mode base = mdSetup :=
  by decide +kernel

theorem test_PowerRows_vbak :
    (inShelf false).boot.stage = 12 ∧ (inShelf false).boot.warm = false ∧ false = decide (2700 ≤ (2699 : BitVec 16).toNat) ∧
    true = decide (2700 ≤ (2700 : BitVec 16).toNat) :=
  by decide +kernel

theorem test_PowerRows_heat :
    powered base = true ∧ base.on F.PWR_STAT_THERM 0 = false ∧ (base.wr F.PWR_STAT_THERM 0 1).on F.PWR_STAT_THERM 0 = true ∧
    tripped.boot.stage = 1 ∧ (∃ e ∈ tripped.boot.notes, e.1 = 0x08) ∧ tripped.boot.vin = true ∧ tripped.boot.pwrEn = true ∧
    tripped.boot.resetN = true :=
  by decide +kernel

theorem test_PowerRows_stop :
    base.boot.stage ≠ 1 ∧ base.boot.stage ≠ 2 ∧ base.boot.stage ≠ 12 ∧ base.boot.shut = none ∧ requestResult base mdSafe 0 = 0 ∧
    shutting.boot.shut.isSome = true ∧ shutting.boot.shutReq = false ∧ rampsDone shutting = true ∧
    shutting.on F.GLB_BATCH_STORING 0 = false ∧ shutting.on F.LOG_AUD_STAT_BACKLOG 0 = false ∧ shutting.boot.shut = some 5 ∧
    5 + secTicks 2 ≤ shutting.now :=
  by decide +kernel

theorem test_PowerRows_wake :
    (entering 1).boot.shelf.isSome = true ∧ (inShelf true).boot.shelf = none ∧ (inShelf true).boot.warm = true ∧
    (inShelf false).boot.vin = true ∧ base.rd F.PWR_STAT_VIO 0 = 0 :=
  by decide +kernel

theorem test_StartUpRows_boot :
    (inStage 4).heldPkts = [] ∧ (inStage 4).hst.usbWait = [] ∧ (∀ i : Fin 32, (inStage 4).on F.HST_SQ_CTL_EN i = false) ∧
    (inStage 3).boot.stage = 3 ∧ (inStage 4).boot.stage = 4 ∧ bitOf (3 : BitVec 2).toNat (bootRec (inStage 4)).1 = true ∧
    (inStage 5).boot.stage = 5 ∧ (inStage 5).boot.warm = false ∧ (255 : BitVec 8).toNat = 255 ∧ (254 : BitVec 8).toNat ≠ 255 ∧
    trainVal (inStage 5) F.CAR_TRAIN_FORCE_FULL = 0 ∧ (nvNewer (inStage 5) 0).isSome = true ∧ (inStage 5).boot.quickBad = false ∧
    (slowTrain).boot.quickBad = true ∧ slowTrain.boot.stage = 5 :=
  by decide +kernel

theorem test_StartUpRows_wake :
    (inStage 8).heldPkts = [] ∧ (inStage 8).hst.usbWait = [] ∧ (∀ i : Fin 32, (inStage 8).on F.HST_SQ_CTL_EN i = false) ∧
    (inStage 7).boot.service = false ∧ bitOf (3 : BitVec 2).toNat ((inStage 8).rd F.NVM_BOOT_ACTIVE 0) = true ∧
    (inStage 9).boot.service = false ∧ ((inStage 9).nvm.pins.map (·.seg)).Nodup ∧ shelfLast (inStage 11) = none ∧
    (inStage 11).boot.warm = false ∧ safePersists (inStage 11) = false ∧ (inStage 11).boot.shutReq = false :=
  by decide +kernel

theorem test_StartUpRows_shelf :
    (entering 1).heldPkts = [] ∧ (entering 1).hst.usbWait = [] ∧ (∀ i : Fin 32, (entering 1).on F.HST_SQ_CTL_EN i = false) ∧
    (entering 1).boot.shelf = some (1, 2) ∧ (entering 1).boot.stage = 0 ∧ (entering 1).boot.wakeReq = false ∧
    (∀ n : Fin 16, olSt (entering 1) n = olOff) ∧ (entering 0).boot.shelf = some (0, 2) :=
  by decide +kernel

theorem test_StartUpRows_recover :
    (recovering 2).heldPkts = [] ∧ (recovering 2).hst.usbWait = [] ∧ (∀ i : Fin 32, (recovering 2).on F.HST_SQ_CTL_EN i = false) ∧
    powered base = true ∧ mode base ≠ mdShelf ∧ mode base ≠ mdRecover ∧ mode (recovering 1) = mdRecover ∧ (recovering 1).recov.stage = 1 ∧
    (recovering 1).boot.stage = 0 ∧ (recovering 1).hst.heldX = [] ∧ (recovering 2).recov.stage = 2 ∧ rampsDone (recovering 2) = true ∧
    (recovering 2).recov.service = true ∧ (recovering 2).recov.jobs = [] ∧ (recovering 2).nvm.staged = none ∧
    shelfLast (recovering 2) = none ∧ (recovering 2).boot.shutReq = false :=
  by decide +kernel

/-- An error in the last word of pan 15, and in a word of firmware's pan 10. -/
def panError (k : Fin 16) (ue : Bool) : PanErr := ⟨k, 32767, ue, 0⟩

theorem test_ScrubRows_pans :
    (panError 15 false).ue = false ∧ (panError 13 true).ue = true ∧ panOwner base (panError 13 true).pan = owCapture ∧
    panOwner base (panError 12 true).pan = owRefine ∧ panOwner base (panError 10 true).pan = owFw ∧ mode base ≠ mdShelf ∧
    powered base = true :=
  by decide +kernel

theorem test_ScrubRows :
    base.boot.stage = 0 ∧ base.parOdd = [] ∧
    (∃ b u r hi, wordAt (F.CHN_RATE_DM1.addr 255) = some (b, u, r, hi) ∧
      (!hi && rowCfg r && !r.pair && r.flds.any (fun f => decide (f.lo ≤ 0) && decide (0 < f.lo + f.width))) = true) ∧
    memN base.parBad (F.CHN_RATE_DM1.addr 255) = false :=
  ⟨by decide +kernel, by decide +kernel, atWord_of (by decide +kernel), by decide +kernel⟩

/-! ### The whole machine -/

theorem test_StepRunsFront :
    ({ base with pending := [.nop (pkt [])] } : State).pending = .nop (pkt []) :: [] ∧ base.pending = [] :=
  by decide +kernel

theorem test_StepKeepsSettled :
    base.faultSum = faultSumOf base ∧ quiet base ∧ ({ base with pending := [.sampleFabricTick] } : State).pending ≠ [] :=
  ⟨by decide +kernel, quiet_of (by decide +kernel), by decide +kernel⟩

theorem test_MemoryWords :
    memWf (memWrWs [] 16 [0x11223344]) = true ∧ memWf (memWrWs [] (2 ^ 34 - 4) [0, 5]) = true :=
  by decide +kernel

/-- A premise over the register map holds of its first row. -/
theorem test_RegisterMap : ∃ b ∈ blks, 0 < b.count ∧ b.rows ≠ [] := by decide +kernel

theorem test_RegisterMap_pair :
    blks.any (fun b => b.rows.any (fun r => r.pair)) = true ∧ F.PLY_CTL_EN.key 62 ≠ F.PLY_CTL_EN.key 63 :=
  by decide +kernel

theorem test_PacketsRefused :
    fetching base = true ∧ hostPath (pkt [] 9999).path = true ∧ (pkt [] 9999).crc = false ∧ (pkt [] 9999).hdrOk = true ∧
    (pkt [] 9999).batch = false ∧ newTag base (pkt [] 9999) ∧ (pkt [] 9999).target ≠ 0xFFF ∧ jobOf base base.nextJob = none ∧
    memN base.recov.jobs base.nextJob = false ∧ (pkt [] 9999).org < 7 ∧ (pkt [] 9999).org ≠ 5 ∧
    pktHeld base base.heldPkts (numbered 0x30 (pkt [] 9999)) = false ∧ isLocal base (numbered 0x30 (pkt [] 9999)) = true ∧
    (pktWhy base (numbered 0x30 (pkt [] 9999))).1 ≠ stOk :=
  ⟨by decide +kernel, by decide +kernel, by decide +kernel, by decide +kernel, by decide +kernel, newTag_of (by decide +kernel),
    by decide +kernel, by decide +kernel, by decide +kernel, by decide +kernel, by decide +kernel, by decide +kernel, by decide +kernel,
    by decide +kernel⟩

/-- The base with a SEG_PIN that still runs. -/
def pinning : State := after (execSegPin { pkt [9] with reply := true } (withSeg 2))

theorem test_PacketsRepeated :
    fetching answered = true ∧ hostPath { pkt [] with reply := true }.path = true ∧ { pkt [] with reply := true }.crc = false ∧
    { pkt [] with reply := true }.hdrOk = true ∧ { pkt [] with reply := true }.batch = false ∧ (winOf answered (winKey 0 0)).seen = true ∧
    (winEnt (winOf answered (winKey 0 0)) 100).isSome = true ∧ -255 ≤ serial 32 100 (winOf answered (winKey 0 0)).h ∧
    serial 32 100 (winOf answered (winKey 0 0)).h ≤ 0 ∧ (winEnt (winOf pinning (winKey 0 0)) 100).map (·.done) = some false ∧
    (winOf pinning (winKey 0 0)).seen = true ∧ fetching pinning = true :=
  by decide +kernel

theorem test_UnpoweredModule :
    powered unpowered = false ∧ unpowered.faultSum = faultSumOf unpowered ∧ quiet unpowered :=
  ⟨by decide +kernel, by decide +kernel, quiet_of (by decide +kernel)⟩

/-- Channel 255 is ON with DAC 7 as its destination; and it names that DAC while it is disabled. -/
def onDac : State := setChn 255 { chnOf base 255 with dest := 2 + 16 * 7 } (onChannel.wr F.CNV_DAC_CTL_EN 7 1)

def noDac : State := dacChannel.wr F.CNV_DAC_CTL_EN 7 0

theorem test_DacInUse :
    powered onDac = true ∧ mayWrite onDac 0 8 ∧ F.CNV_DAC_CTL_EN.part (0 : Word).toNat = 0 ∧ chnHolds onDac 255 = true ∧
    dKind (chnOf onDac 255).dest = 2 ∧ dUnit (chnOf onDac 255).dest = 7 ∧
    turnsOn F.CHN_CTL_EN [F.CHN_CTL_BQ_EN, F.CHN_CTL_LIM_POL, F.CHN_CTL_TYPE, F.CHN_CTL_INTERP] (word F.CHN_CTL_EN 1 [F.CHN_CTL_BQ_EN, F.CHN_CTL_LIM_POL, F.CHN_CTL_TYPE, F.CHN_CTL_INTERP] 255 noDac).toNat 255 noDac ∧
    dKind (chnDestWord noDac 255) = 2 ∧ noDac.on F.CNV_DAC_CTL_EN (dUnit (chnDestWord noDac 255)) = false ∧
    dUnit (chnDestWord noDac 255) < 8 ∧ chnEnableCause false 255 (noDac.wr F.CNV_DAC_CTL_EN (dUnit (chnDestWord noDac 255)) 1) = 0 :=
  ⟨by decide +kernel, mayWrite_of (by decide +kernel), by decide +kernel, by decide +kernel, by decide +kernel, by decide +kernel,
    turnsOn_of (by decide +kernel), by decide +kernel, by decide +kernel, by decide +kernel, by decide +kernel⟩

/-- A word of TRG_EVSEL with a source, an edge, and the reset value of the other slot. -/
def evWord : Word := word (F.TRG_EVSEL_EDGE_L 7) 1 [F.TRG_EVSEL_SRC_H 7, F.TRG_EVSEL_EDGE_H 7, F.TRG_EVSEL_SRC_L 7] 63 base

def evSame : Word := word (F.TRG_EVSEL_EDGE_L 7) 0 [F.TRG_EVSEL_SRC_H 7, F.TRG_EVSEL_EDGE_H 7, F.TRG_EVSEL_SRC_L 7, F.TRG_EVSEL_EDGE_L 7] 63 base

theorem test_EventSelectGuard :
    mayWrite base 0 17 ∧ (BitVec.ofNat 32 ((F.TRG_EVSEL_SRC_H 7).addr 63)).toNat = (F.TRG_EVSEL_SRC_H 7).addr 63 ∧
    srcListed ((F.TRG_EVSEL_SRC_H 7).part evWord.toNat) = true ∧ srcListed ((F.TRG_EVSEL_SRC_L 7).part evWord.toNat) = true ∧
    (plyIn psLoaded).on F.PLY_CTL_EN 63 = true ∧
    asIsB [F.TRG_EVSEL_SRC_H 7, F.TRG_EVSEL_EDGE_H 7, F.TRG_EVSEL_SRC_L 7, F.TRG_EVSEL_EDGE_L 7] evWord.toNat 63 (plyIn psLoaded) = false ∧
    asIs [F.TRG_EVSEL_SRC_H 7, F.TRG_EVSEL_EDGE_H 7, F.TRG_EVSEL_SRC_L 7, F.TRG_EVSEL_EDGE_L 7] evSame.toNat 63 (plyIn psLoaded) ∧
    base.on F.PLY_CTL_EN 63 = false :=
  ⟨mayWrite_of (by decide +kernel), by decide +kernel, by decide +kernel, by decide +kernel, by decide +kernel, by decide +kernel,
    asIs_of (by decide +kernel), by decide +kernel⟩

/-- Player 63 in its second iteration, with a position below 0. -/
def reversed : State := setIter 63 2 (base.wr F.PLY_ORIGIN_O 63 (uns 64 ((railVal base 63 : Int) + 1)))

theorem test_ReverseIteration :
    (-1 : Int) < 0 ∧ 2 ≤ curIter reversed 63 ∧ (plyOf reversed 63).stale = false ∧
    reversed.rd F.PLY_ORIGIN_O 63 = uns 64 ((railVal reversed 63 : Int) - -1) :=
  by decide +kernel

theorem test_StagedNotRead :
    passes 0x10 (pkt [F.CHN_RATE_DM1.addr 255, 0xF0001]) (stagedWith (F.CHN_RATE_DM1.addr 255) true) ∧
    (readReg (stagedWith (F.CHN_RATE_DM1.addr 255) true) (F.CHN_RATE_DM1.addr 255)).isSome = true ∧
    (stagedWith (F.CHN_RATE_DM1.addr 255) true).staged.map (·.batch.members) = [[member (F.CHN_RATE_DM1.addr 255)]] ∧
    (member (F.CHN_RATE_DM1.addr 255)).opcode = 0x11 ∧ (member (F.CHN_RATE_DM1.addr 255)).w 0 ≤ F.CHN_RATE_DM1.addr 255 ∧
    F.CHN_RATE_DM1.addr 255 < (member (F.CHN_RATE_DM1.addr 255)).w 0 + 4 * ((member (F.CHN_RATE_DM1.addr 255)).w 1 % 512) :=
  ⟨passes_of (by decide +kernel), by decide +kernel, by decide +kernel, by decide +kernel, by decide +kernel, by decide +kernel⟩

theorem test_HostDataRows_bar2 :
    base.boot.stage = 0 ∧ 0xFFFFFFF = base.rd F.HST_BAR2_BASE_BASE 0 * 65536 + (0xFFFFFFF : BitVec 28).toNat ∧ base.badUnits = [] ∧
    base.on F.CAR_STAT_TRAINED 0 = true ∧ (∀ i < 3, writeBarred base (0xFFFFFFF + i) = false) :=
  by decide +kernel

/-! ### Ill-formed commands -/

/-- A packet of each kind of bad field is refused (R306, R285, R319). -/
theorem test_wf_packet :
    (pkt [1, 2]).wf = true ∧ { pkt [] with org := 7 }.wf = false ∧ { pkt [] with src := 4096 }.wf = false ∧ { pkt [] with opcode := 256 }.wf = false ∧
    { pkt [] with length := 2 ^ 16 }.wf = false ∧ { pkt [] with tag := 2 ^ 32 }.wf = false ∧ { pkt [] with target := 4096 }.wf = false ∧
    { pkt [] with unit := 2 ^ 16 }.wf = false ∧ { pkt [] with batchId := 2 ^ 16 }.wf = false ∧ (pkt [2 ^ 32]).wf = false ∧
    { pkt [] with path := .side 3 }.wf = false ∧ { pkt [] with org := 5 }.wf = false ∧ { pkt [] with org := 5, path := .side 3, src := 4 }.wf = false ∧
    { pkt [] with org := 5, path := .side 3, src := 3 }.wf = true := by decide +kernel

theorem test_wf_packet_row : (Instr.nop { pkt [] with org := 7 }).wf = false := by decide +kernel

/-- A write over BAR0 is HOST0's, and a write has at most 256 words. -/
theorem test_wf_registerWrite :
    (Instr.registerWrite 1 true 0 15 [0]).wf = false ∧ (Instr.registerWrite 0 false 0 15 (List.replicate 257 0)).wf = false := by decide +kernel

theorem test_wf_hstXrDb : (Instr.hstXrDb 0 1 [([0], [])]).wf = false := by decide +kernel

theorem test_wf_bar2 : (Instr.bar2Write 0xFFFFFFF [0, 0]).wf = false ∧ (Instr.bar2Read 0xFFFFFFF 2).wf = false := by decide +kernel

theorem test_wf_carafe :
    (Instr.carafeRequest 0 false 0 0 none).wf = false ∧ (Instr.carafeRequest 0 false 0x3FFFFFFFF 2 none).wf = false ∧
    (Instr.carafeReadComplete 0 1 [2 ^ 28] []).wf = false ∧ (Instr.carafeReadComplete 0 1 [] [2 ^ 28]).wf = false ∧
    (Instr.dramDriftTrack (List.replicate 9 0)).wf = false ∧ (Instr.dramTempChange 0 32768).wf = false ∧ (Instr.dramTempChange 0 (-32769)).wf = false ∧
    (Instr.carafeTrainingDone false 0 0 0 []).wf = false := by decide +kernel

theorem test_wf_transfer :
    (Instr.xferWrite 8 [0] [] []).wf = false ∧ (Instr.xferWrite 8 (List.replicate 8 0) [0] [1]).wf = false ∧ (Instr.xferRead 8 [0]).wf = false := by
  decide +kernel

theorem test_wf_lanes :
    (Instr.inLaneFrame 0 0 0 0 0 [0] ⟨List.replicate 9 1, 0, 0⟩).wf = false ∧ (Instr.inLaneFrame 0 0 0 0 0 (List.replicate 16 0) ⟨[1], 0, 0⟩).wf = false ∧
      (Instr.rakeCellReceive 0 0 [0] 0 true 0).wf = false := by
  decide +kernel

/-! ### Worked values of the spec -/

/-- The check values of the three codes over "123456789" (R309, R252, R269). -/
theorem test_crc32c : ([0x31, 0x32, 0x33, 0x34, 0x35, 0x36, 0x37, 0x38, 0x39].foldl crcByte 0xFFFFFFFF) ^^^ 0xFFFFFFFF = 0xE3069283 := by decide +kernel

theorem test_crc32 : crc32 0x393837363534333231 72 = 0xCBF43926 := by decide +kernel

theorem test_crc16 : crc16 [0x31, 0x32, 0x33, 0x34, 0x35, 0x36, 0x37, 0x38, 0x39] = 0x29B1 := by decide +kernel

/-- Step 2 of the first worked scenario: `GLB_ID`, `GLB_MODE`, `CAR_STAT` and `CLK_STAT` of a new board. -/
theorem test_reset_reads :
    readReg0 State.reset (F.GLB_ID_PART.addr 0) = 0x53570640 ∧ mode State.reset = 3 ∧ State.reset.rd F.GLB_MODE_PREV 0 = 1 ∧
    State.reset.rd F.CAR_STAT_TRAINED 0 = 1 ∧ State.reset.rd F.CAR_STAT_MAP_ACT 0 = 0 ∧ State.reset.rd F.CLK_STAT_REFIN_OK 0 = 1 ∧
    State.reset.rd F.CLK_STAT_SPLL_LOCK 0 = 1 ∧ State.reset.rd F.CLK_STAT_ACT 0 = 0 := by decide +kernel

/-- The words of the reply that a window keeps for a tag of HOST0. -/
def answer (s : State) (tag : Nat) : Option (Nat × List Nat) := (cachedReply s (winKey 0 0) tag).map (fun r => (r.status, r.data))

/-- Step 4: HELLO with RESYNC of HOST0, tag 1, once the address is valid; the first two words are the firmware's own. -/
theorem test_hello :
    (answer (after (execHello { pkt [1] with tag := 1 } (State.reset.wr F.GLB_ADDR_VALID 0 1))) 1).map (fun e => (e.1, e.2.drop 2)) =
      some (stOk, [0, 1, 0x53570640, 0x8000]) := by decide +kernel

/-- Step 5: `CNV_DAC_CTL(0)` := 1 is accepted and makes no audit entry. -/
theorem test_dac_enable :
    let t := after (execRegWr (pkt [0x310000, 0xF0001, 1]) State.reset)
    answer t 100 = some (stOk, []) ∧ t.on F.CNV_DAC_CTL_EN 0 = true ∧ t.rd F.LOG_AUD_SEQ_AUDSEQ 0 = State.reset.rd F.LOG_AUD_SEQ_AUDSEQ 0 := by
  decide +kernel

/-- Step 8: the descriptor of an allocated segment is LOADING. -/
theorem test_seg_alloc : (answer (after (execSegAlloc (pkt [0, 8, 0]) base)) 100).map (fun e => (e.1, e.2.headD 0)) = some (stOk, 0x20000000) := by
  decide +kernel

/-- Step 9: with LAST its load ends READY, with one load counted. -/
theorem test_seg_load :
    let t := after (execSegLoadComplete (after (execSegLoad (pkt [2 ^ 31, 0, 1, 7] |> fun p => { p with tag := 101 }) (after (execSegAlloc (pkt [0, 8, 0]) base)))))
    (answer t 101).map (fun e => (e.1, e.2.headD 0, e.2.getD 7 0)) = some (stOk, 0x40000000, 1) := by decide +kernel

/-- The window of the worked example of chapter 14: d of the tags of rows 1, 2, 3, 7 and 9. -/
theorem test_tag_serial :
    serial 32 0xFFFFFFFE 0xFFFFFFFD = 1 ∧ serial 32 0 0xFFFFFFFE = 2 ∧ serial 32 0xFFFFFFFF 0 = -1 ∧ serial 32 0x101 0 = 257 ∧
    serial 32 0xFFFFFF00 0 = -256 := by decide +kernel

/-- The second table of the worked example of chapter 16: 2.75 ticks walk away in 137,500 ticks at 20 ppm. -/
theorem test_walk : walkTicks 704 20 = 137500 := by decide +kernel

/-- 64 bad frames of an in-lane end RUN in ACQUIRE and count a loss (R262). -/
theorem test_inlane_loss :
    let t := after (execIlLoss 7 (ilIn ilRun { ILane.fresh with bad := 64 }))
    ilSt t 7 = ilAcquire ∧ t.rd F.FLM_IL_ERR2_LOSSES 7 = 1 := by decide +kernel

/-- An edge forward and one back leave the position where it was (R59). -/
theorem test_encoder_back :
    (encDo 7 (.ab false false 0) (encDo 7 (.ab true false 0) encQuad)).rd F.ENC_POS_COUNT 7 = encQuad.rd F.ENC_POS_COUNT 7 := by
  decide +kernel

/-- A write of an unmapped address is flagged with its cause, and the count saturates no earlier than 2 (R39). -/
theorem test_flagged_twice :
    let t := after (execRegisterWrite 0 false 0xFFFFFFFC 15 [0] (after (execRegisterWrite 0 false 0x13 15 [0] base)))
    t.rd F.GLB_REG_ERR_COUNT 0 = 2 ∧ t.rd F.GLB_REG_ERR_CAUSE 0 = 9 := by decide +kernel

/-- Of two waiting commands a step runs the first. -/
theorem test_step_order :
    (after (step { base with pending := [.hostLinkReturn 1 0 0 false, .hostLinkReturn 2 0 0 false] })).rd F.HST_LINK_STATE 0 = 1 := by decide +kernel

/-- No word spells a command (log entry 2), and a word placed for the fetch leaves the state as it is. -/
theorem test_no_decoder : decodeTableWord 32 0xFFFFFFFF = none ∧ State.reset.withFetchWord 32 7 = State.reset := ⟨rfl, rfl⟩

end Sys2Proof.Tests
end

section
/-! What `REG_RD` answers (R329), and that a staged batch has no part in it (R49). -/

namespace Sys2Proof.Machine

/-! ### Register words by address -/

/-- Whether an address is mapped does not depend on the state. -/
theorem readReg_isSome (s t : State) (a : Nat) : (readReg t a).isSome = (readReg s a).isSome := by
  simp only [readReg, Option.isSome_map]

/-- Words read in two states whose registers and fault summary are the same. -/
theorem regReads_congr {s t : State} (hf : t.flds = s.flds) (hs : t.faultSum = s.faultSum) (n a : Nat) :
    regReads t a n = regReads s a n := by
  have hword (b : Nat) : readReg t b = readReg s b :=
    readReg_keeps (P := fun _ => False) (Keeps.of_eq hf) hs b (fun _ _ => not_false)
  induction n generalizing a with
  | zero => rfl
  | succ n ih => simp only [regReads, readReg0, hword, ih]

/-! ### The count of bytes at the transport (`HST_BYTES`) -/

theorem counted_keeps_but_bytes (p : Pkt) (s : State) : Keeps (· = F.HST_BYTES_COUNT.key 0) s (counted p s) := by
  unfold counted
  split
  · exact Keeps.refl _ _
  · exact Keeps.refl _ _
  · exact (Keeps.refl _ _).wr F.HST_BYTES_COUNT 0 _ rfl

theorem counted_faultSum (p : Pkt) (s : State) : (counted p s).faultSum = s.faultSum :=
  of_sansFlds (·.faultSum) (fun _ => rfl) (counted_sans p s)

/-- Counting a packet shows in no register word outside the host link. -/
theorem counted_readReg0 (p : Pkt) (s : State) (a : Nat) (ha : a < 0x600000 ∨ 0x700000 ≤ a) :
    readReg0 (counted p s) a = readReg0 s a := by
  have hk : readReg (counted p s) a = readReg s a := by
    refine readReg_keeps (counted_keeps_but_bytes p s) (counted_faultSum p s) a (fun k hk he => ?_)
    simp only [Fld.key, F.HST_BYTES_COUNT] at he
    omega
  simp only [readReg0, hk]

/-! ### `REG_RD` (R329) -/

/-- `REG_RD` of mapped words in an aligned range answers them and leaves the state as it is. -/
theorem opRegRd_mapped {p : Pkt} {s : State} (h1 : 1 ≤ p.w 1 % 512) (h256 : p.w 1 % 512 ≤ 256) (hm : p.w 1 / 65536 % 16 ≠ 0)
    (ha : p.w 0 % 4 = 0) (hmap : ∀ i < p.w 1 % 512, (readReg s (p.w 0 + 4 * i)).isSome = true) :
    opRegRd p s = ⟨stOk, 0, regReads s (p.w 0) (p.w 1 % 512), [], false, s⟩ := by
  have hbad : (p.w 1 % 512 == 0 || decide (256 < p.w 1 % 512) || p.w 1 / 65536 % 16 == 0) = false := by
    simp only [Bool.or_eq_false_iff, beq_eq_false_iff_ne, decide_eq_false_iff_not]
    omega
  have hgap : (List.range (p.w 1 % 512)).find? (fun i => (readReg s (p.w 0 + 4 * i)).isNone) = none := by
    rw [List.find?_eq_none]
    intro i hi
    simp [Option.isSome_iff_ne_none.mp (hmap i (List.mem_range.mp hi))]
  unfold opRegRd
  simp only [hbad, ha, hgap, bne_self_eq_false, Bool.false_eq_true, if_false, Option.map_none, Option.isSome_none, Option.getD_none]

/-- The state in which a `REG_RD` reads: its packet is counted, and no interim reply has gone. -/
theorem entered_regRd_flds (p : Pkt) (s : State) : (entered 0x10 p s).flds = (counted (numbered 0x10 p) s.coming).flds := rfl

theorem entered_faultSum (op : Nat) (p : Pkt) (s : State) : (entered op p s).faultSum = s.faultSum :=
  entered_get (·.faultSum) (fun _ => rfl) op p s

/-- A `REG_RD` that passes is answered with the words as they stand once its packet is counted; beside the host link and the
records, no register, no byte of memory and no staged batch differs. -/
theorem regRd_answers {p : Pkt} {s : State} (h : passes 0x10 p s) (h1 : 1 ≤ p.w 1 % 512) (h256 : p.w 1 % 512 ≤ 256)
    (hm : p.w 1 / 65536 % 16 ≠ 0) (ha : p.w 0 % 4 = 0) (hmap : ∀ i < p.w 1 % 512, (readReg s (p.w 0 + 4 * i)).isSome = true) :
    answers (.regRd p) p s (regReads (counted (numbered 0x10 p) s.coming) (p.w 0) (p.w 1 % 512)) [] []
      (fun t => t.staged = s.staged ∧ bytesKept s t) := by
  have hwords : regReads (entered 0x10 p s) (p.w 0) (p.w 1 % 512) =
      regReads (counted (numbered 0x10 p) s.coming) (p.w 0) (p.w 1 % 512) :=
    regReads_congr (entered_regRd_flds p s) ((entered_faultSum _ p s).trans (counted_faultSum _ s.coming).symm) _ _
  have hrun : opRun s.nextJob (numbered 0x10 p) (entered 0x10 p s) = ⟨stOk, 0, _, [], false, entered 0x10 p s⟩ :=
    opRegRd_mapped (p := numbered 0x10 p) h1 h256 hm ha (fun i hi => (readReg_isSome s _ _).trans (hmap i hi))
  rw [← hwords]
  refine answers_with 0x10 0 _ (entered 0x10 p s) rfl h (by decide) (fun h => absurd h (by decide)) (fun h => absurd h (by decide)) hrun
    rfl rfl rfl (Keeps.refl _ _) (by simp) (fun t ht => ⟨?_, fun a => ⟨?_, ?_⟩⟩)
  · exact (ht (·.staged) (fun _ => rfl) (fun _ => rfl) (fun _ => rfl)).trans (entered_get (·.staged) (fun _ => rfl) _ p s)
  · rw [ht (·.carafe) (fun _ => rfl) (fun _ => rfl) (fun _ => rfl), entered_get (·.carafe) (fun _ => rfl)]
  · rw [ht (·.pans) (fun _ => rfl) (fun _ => rfl) (fun _ => rfl), entered_get (·.pans) (fun _ => rfl)]

end Sys2Proof.Machine

open Sys2Proof Sys2Proof.Machine

/-- Settles O59: `REG_RD` reads the register store alone, in which a staged batch has written nothing, and taking its packet up
changes no register but the count of the host link's bytes. -/
theorem stagedNotRead : Obligations.StagedNotRead := by
  intro p s hpass hcount hmask halign hmap _ _ _ _ _ _ _
  have hanswer := regRd_answers hpass (by omega) (by omega) hmask halign (fun i hi => by
    obtain rfl : i = 0 := by omega
    exact hmap)
  rw [hcount] at hanswer
  exact ⟨hanswer, counted_readReg0 _ s.coming _⟩

end

section
/-! A packet of HOST0 and an access of HOST0 through BAR0 that reach one register of `TRG_EVSEL` in one tick (R32, R295). -/

namespace Sys2Proof.Machine

/-- After reset, HOST0 has written EDGE_H := 2 of the first register of `TRG_EVSEL` through BAR0, for the coming tick. -/
def evselByBar : State := finish (hostCmd (registerWrite 0 true 0xA00000 15 [0x200030]) State.reset)

/-- In the same tick, a packet of HOST0 writes 0 to that register. -/
def evselByPacket : State := finish (hostCmd (registerWrite 0 false 0xA00000 15 [0]) evselByBar)

theorem exec_evselByBar : exec (.registerWrite 0 true 0xA00000 15 [0x200030]) State.reset = .next evselByBar := rfl

theorem exec_evselByPacket : exec (.registerWrite 0 false 0xA00000 15 [0]) evselByBar = .next evselByPacket := rfl

/-- The register mask holds HOST0 back from nothing, and no write of the tick has a higher rank than HOST0's accesses through BAR0. -/
theorem mayWrite_evselByBar : mayWrite evselByBar 0 17 := by
  refine ⟨Or.inl rfl, ?_⟩
  unfold prevails
  decide +kernel

/-- The access through BAR0 takes effect last: the word of the packet does not reach EDGE_H (R295). -/
theorem evselByPacket_edge : evselByPacket.rd (F.TRG_EVSEL_EDGE_H 0) 0 = 2 := by decide +kernel

end Sys2Proof.Machine

open Sys2Proof Sys2Proof.Machine

/-- Refutes O57: `mayWrite` admits a tick in which HOST0 writes the register through BAR0 as well, for it gives HOST0 the rank of BAR0. The
write of the statement is a packet's, over which BAR0 prevails (R295): with the player disabled, EDGE_H does not take the packet's word. -/
theorem not_eventSelectGuard : ¬ Obligations.EventSelectGuard := by
  intro h
  obtain ⟨-, -, htakes⟩ := h evselByBar (by decide +kernel) 0 mayWrite_evselByBar 0 0 0 0xA00000 (by decide) (by decide) (by decide)
  obtain ⟨t, hexec, -, -, -, hword, -⟩ := htakes (by decide +kernel)
  obtain rfl : evselByPacket = t := Host.Outcome.next.inj (exec_evselByPacket.symm.trans hexec)
  have hedge : evselByPacket.rd (F.TRG_EVSEL_EDGE_H 0) 0 = 0 := hword (F.TRG_EVSEL_EDGE_H 0) (List.mem_cons_of_mem _ List.mem_cons_self)
  rw [evselByPacket_edge] at hedge
  exact absurd hedge (by decide)

end

section
/-! How a player goes back to the previous iteration of its step (R101). -/

namespace Sys2Proof.Machine

/-! ### Signed values written to fields -/

theorem uns_lt (w : Nat) (i : Int) : uns w i < 2 ^ w := by
  have hpos : (0 : Int) < ((2 ^ w : Nat) : Int) := Int.natCast_pos.mpr (Nat.two_pow_pos w)
  have hnn := Int.emod_nonneg i (Int.ne_of_gt hpos)
  have hlt := Int.emod_lt_of_pos i hpos
  simp only [uns]
  omega

/-- The value in `w` bits of a difference does not depend on the bits of the first term above `w`. -/
theorem uns_uns_sub (w : Nat) (i j : Int) : uns w ((uns w i : Int) - j) = uns w (i - j) := by
  have hpos : (0 : Int) < ((2 ^ w : Nat) : Int) := Int.natCast_pos.mpr (Nat.two_pow_pos w)
  have hcast : ((uns w i : Nat) : Int) = i % ((2 ^ w : Nat) : Int) := Int.toNat_of_nonneg (Int.emod_nonneg i (Int.ne_of_gt hpos))
  rw [hcast, uns, uns, Int.emod_sub_emod]

@[simp] theorem State.rd_wrI_same (s : State) (f : Fld) (u : Nat) (i : Int) : (s.wrI f u i).rd f u = uns f.width i := by
  rw [State.wrI, State.rd_wr_same, Nat.mod_eq_of_lt (uns_lt _ _)]

theorem State.rd_wrI_other (s : State) (f g : Fld) (u w : Nat) (i : Int) (h : f.key u ≠ g.key w) : (s.wrI f u i).rd g w = s.rd g w :=
  State.rd_wr_other s f g u w _ h

/-! ### The operations of a crossing -/

@[simp] theorem seqBack_rd (p : Nat) (fwd : Bool) (s : State) (f : Fld) (u : Nat) : (seqBack p fwd s).rd f u = s.rd f u := rfl
@[simp] theorem plyOf_seqBack (p : Nat) (fwd : Bool) (s : State) : plyOf (seqBack p fwd s) = plyOf s := rfl

@[simp] theorem ringAt_rd (p : Nat) (lo hi : Int) (s : State) (f : Fld) (u : Nat) : (ringAt p lo hi s).rd f u = s.rd f u := rfl

/-- A crossing reloads the ring of its player alone, and leaves the iteration and the history. -/
theorem plyOf_ringAt (p : Nat) (lo hi : Int) (s : State) :
    unitTo plyOf s (ringAt p lo hi s) p { plyOf s p with ent := lo, ringLo := lo, ringHi := hi, reqs := 0, needF := none, badBuf := [] } :=
  unitTo_ply rfl rfl

@[simp] theorem plyOf_setS (p : Nat) (v : Int) (s : State) : plyOf (setS p v s) = plyOf s := rfl

theorem plyOf_setIter (p n : Nat) (s : State) : unitTo plyOf s (setIter p n s) p { plyOf s p with iter := n } := unitTo_ply rfl rfl

/-- Where a position is set, O follows from it and from the rail. -/
theorem setS_origin (p : Nat) (v : Int) (s : State) :
    (setS p v s).rd F.PLY_ORIGIN_O p = uns 64 ((railVal s p : Int) - v) := by
  have hne : F.PLY_POS_S.key p ≠ F.PLY_ORIGIN_O.key p := by simp only [Fld.key, F.PLY_POS_S, F.PLY_ORIGIN_O]; omega
  rw [setS, setPos, State.rd_wrI_other _ _ _ _ _ _ hne, State.rd_wrI_same]
  rfl

@[simp] theorem setS_position (p : Nat) (v : Int) (s : State) : (setS p v s).rd F.PLY_POS_S p = uns F.PLY_POS_S.width v :=
  State.rd_wrI_same _ _ _ _

theorem setS_keeps (P : Nat → Prop) (p : Nat) (v : Int) (s : State) (ho : P (F.PLY_ORIGIN_O.key p)) (hs : P (F.PLY_POS_S.key p)) :
    Keeps P s (setS p v s) :=
  ((Keeps.refl P s).wrI _ _ _ ho).wrI _ _ _ hs

theorem setIter_keeps (P : Nat → Prop) (p n : Nat) (s : State) (h : P (F.PLY_ITER_ITER.key p)) : Keeps P s (setIter p n s) :=
  ((Keeps.refl P s).of_flds (setPly_flds s p _)).wr _ _ _ h

/-! ### The previous iteration (R101) -/

/-- The state after the counts of a return to the previous iteration, before its position is set. -/
def iterBack (p : Nat) (s : State) : State := (setIter p (curIter s p - 1) s).wr F.PLY_SEQ_STAT_CLAMPED p 0

/-- Below 0 in a later iteration, the player goes to the end of the previous one, with the last granule of the step in its ring. -/
theorem reverseCross_iteration {s : State} {p : Nat} {v : Int} (hi : 2 ≤ curIter s p) (hs : (plyOf s p).stale = false) :
    reverseCross p v s = seqBack p false (ringAt p (max 0 ((curLen s p : Int) - 64)) (curLen s p)
      (setS p (v + (curLen s p : Int) * 2 ^ 24) (iterBack p s))) := by
  have h1 : (curIter s p != 1) = true := by
    rw [bne_iff_ne]
    omega
  simp only [reverseCross, h1, hs, if_true, Bool.false_eq_true, if_false, iterBack]

/-- The fields that a return to the previous iteration writes. -/
def iterBackFields (p : Nat) : List (Nat × Nat) :=
  [field F.PLY_ITER_ITER p, field F.PLY_SEQ_STAT_CLAMPED p, field F.PLY_ORIGIN_O p, field F.PLY_POS_S p]

theorem within_field_iff (f : Fld) (u : Nat) (A : List (Nat × Nat)) (k : Nat) : within (field f u :: A) k ↔ k = f.key u ∨ within A k := by
  constructor
  · rintro ⟨r, hr, hlo, hhi⟩
    rcases List.mem_cons.mp hr with rfl | hr
    · exact Or.inl (by simp only [field] at hlo hhi; omega)
    · exact Or.inr ⟨r, hr, hlo, hhi⟩
  · rintro (rfl | ⟨r, hr, hlo, hhi⟩)
    · exact ⟨field f u, List.mem_cons_self, Nat.le_refl _, Nat.lt_succ_self _⟩
    · exact ⟨r, List.mem_cons_of_mem _ hr, hlo, hhi⟩

theorem within_iterBackFields (p k : Nat) : within (iterBackFields p) k ↔
    k = F.PLY_ITER_ITER.key p ∨ k = F.PLY_SEQ_STAT_CLAMPED.key p ∨ k = F.PLY_ORIGIN_O.key p ∨ k = F.PLY_POS_S.key p := by
  have hnil : ¬ within [] k := fun ⟨_, hr, _⟩ => List.not_mem_nil hr
  simp only [iterBackFields, within_field_iff, hnil, or_false]

/-- A return writes its four fields alone. -/
theorem iterBack_keeps (p : Nat) (s : State) : Keeps (within (iterBackFields p)) s (iterBack p s) :=
  (setIter_keeps _ p _ s ((within_iterBackFields _ _).mpr (Or.inl rfl))).wr _ _ _ ((within_iterBackFields _ _).mpr (Or.inr (Or.inl rfl)))

theorem setS_iterBack_keeps (p : Nat) (v : Int) (s : State) : Keeps (within (iterBackFields p)) s (setS p v (iterBack p s)) :=
  (iterBack_keeps p s).trans (setS_keeps _ p v _ ((within_iterBackFields _ _).mpr (Or.inr (Or.inr (Or.inl rfl))))
    ((within_iterBackFields _ _).mpr (Or.inr (Or.inr (Or.inr rfl)))))

/-- The rail of a player is none of its own fields. -/
theorem railVal_iterBack (p : Nat) (hp : p < 64) (s : State) : railVal (iterBack p s) p = railVal s p := by
  refine (iterBack_keeps p s).rd F.RSRC_RAIL_RAIL p ?_
  simp only [within_iterBackFields, Fld.key, F.PLY_ITER_ITER, F.PLY_SEQ_STAT_CLAMPED, F.PLY_ORIGIN_O, F.PLY_POS_S, F.RSRC_RAIL_RAIL]
  omega

/-- The step that plays is none of the fields that a return writes. -/
theorem curStep_setS_iterBack (p : Nat) (v : Int) (s : State) : curStep (setS p v (iterBack p s)) p = curStep s p := by
  refine (setS_iterBack_keeps p v s).rd F.PLY_SEQ_STAT_STEP p ?_
  simp only [within_iterBackFields, Fld.key, F.PLY_ITER_ITER, F.PLY_SEQ_STAT_CLAMPED, F.PLY_ORIGIN_O, F.PLY_POS_S, F.PLY_SEQ_STAT_STEP]
  omega

/-- Setting the position leaves the clamp as it is. -/
theorem clamped_setS_iterBack (p : Nat) (v : Int) (s : State) : (setS p v (iterBack p s)).rd F.PLY_SEQ_STAT_CLAMPED p = 0 := by
  have hk : Keeps (fun k => k = F.PLY_ORIGIN_O.key p ∨ k = F.PLY_POS_S.key p) (iterBack p s) (setS p v (iterBack p s)) :=
    setS_keeps _ p v _ (Or.inl rfl) (Or.inr rfl)
  rw [hk.rd F.PLY_SEQ_STAT_CLAMPED p (by simp only [Fld.key, F.PLY_SEQ_STAT_CLAMPED, F.PLY_ORIGIN_O, F.PLY_POS_S]; omega), iterBack,
    State.rd_wr_same, Nat.zero_mod]

/-- Where O is the rail less s, the return lowers O by as much as it raises s. -/
theorem origin_setS_iterBack {p : Nat} (hp : p < 64) {v d : Int} {s : State} (ho : s.rd F.PLY_ORIGIN_O p = uns 64 ((railVal s p : Int) - v)) :
    (setS p (v + d) (iterBack p s)).rd F.PLY_ORIGIN_O p = uns 64 ((s.rd F.PLY_ORIGIN_O p : Int) - d) := by
  rw [setS_origin, railVal_iterBack p hp, ho, uns_uns_sub, Int.sub_sub]

/-- The fields after a return are those after its counts and its position. -/
theorem reverseCross_rd {s : State} {p : Nat} {v : Int} (hi : 2 ≤ curIter s p) (hs : (plyOf s p).stale = false) (f : Fld) (u : Nat) :
    (reverseCross p v s).rd f u = (setS p (v + (curLen s p : Int) * 2 ^ 24) (iterBack p s)).rd f u := by
  rw [reverseCross_iteration hi hs, seqBack_rd, ringAt_rd]

/-- A return changes the record of its player alone: the iteration, and what its ring holds. -/
theorem reverseCross_record {s : State} {p : Nat} {v : Int} (hi : 2 ≤ curIter s p) (hs : (plyOf s p).stale = false) :
    unitTo plyOf s (reverseCross p v s) p { plyOf s p with
      iter := curIter s p - 1, ent := max 0 ((curLen s p : Int) - 64), ringLo := max 0 ((curLen s p : Int) - 64), ringHi := curLen s p
      reqs := 0, needF := none, badBuf := [] } := by
  obtain ⟨hiter, hothers⟩ : unitTo plyOf s (iterBack p s) p { plyOf s p with iter := curIter s p - 1 } := plyOf_setIter p (curIter s p - 1) s
  rw [reverseCross_iteration hi hs, unitTo, plyOf_seqBack]
  obtain ⟨hring, hrest⟩ := plyOf_ringAt p (max 0 ((curLen s p : Int) - 64)) (curLen s p)
    (setS p (v + (curLen s p : Int) * 2 ^ 24) (iterBack p s))
  rw [plyOf_setS] at hring hrest
  exact ⟨by rw [hring, hiter], fun q hq => (hrest q hq).trans (hothers q hq)⟩

end Sys2Proof.Machine

open Sys2Proof Sys2Proof.Machine

/-- Settles O58: the return sets the iteration, the clamp and the position, and the origin follows from the position and the rail. -/
theorem reverseIteration : Obligations.ReverseIteration := by
  intro s p v _ hiter hstale horigin
  have hrd := reverseCross_rd (v := v) hiter hstale
  obtain ⟨hrec, hothers⟩ := reverseCross_record (v := v) hiter hstale
  refine ⟨?_, ?_, ?_, ?_, ?_, fun f u hf => ?_, hothers, ?_⟩
  · rw [curIter, hrec]
  · exact (hrd _ _).trans (curStep_setS_iterBack p _ s)
  · rw [hrd, origin_setS_iterBack p.isLt horigin]
  · rw [hrd, setS_position]
  · rw [hrd, clamped_setS_iterBack]
  · rw [hrd, (setS_iterBack_keeps p _ s).rd f u hf]
  · rw [hrec]

end

section
/-! A DAC that a channel holds stays enabled, and a channel whose DAC is disabled is not enabled (R157, R161). -/

namespace Sys2Proof.Machine

/-! ### What a flagged access leaves in `GLB_REG_ERR` (R39) -/

/-- What a flagged access writes to `GLB_REG_ERR` and `GLB_REG_ERR_ADDR`. -/
def errWrites (cause o addr : Nat) (s : State) : List (Fld × Nat × Nat) :=
  [(F.GLB_REG_ERR_COUNT, 0, min (s.rd F.GLB_REG_ERR_COUNT 0 + 1) (2 ^ F.GLB_REG_ERR_COUNT.width - 1)),
    (F.GLB_REG_ERR_CAUSE, 0, cause), (F.GLB_REG_ERR_ORIGIN, 0, o), (F.GLB_REG_ERR_ADDR_ADDR, 0, addr)]

/-- Fields of a list of writes with places of their own read what was written. -/
theorem rd_wrs_of_mem {l : List (Fld × Nat × Nat)} (h : l.Pairwise (fun a b => a.1.key a.2.1 ≠ b.1.key b.2.1)) (s : State) :
    ∀ e ∈ l, (s.wrs l).rd e.1 e.2.1 = e.2.2 % 2 ^ e.1.width := by
  induction l generalizing s with
  | nil => simp
  | cons e r ih =>
    obtain ⟨hhead, htail⟩ := List.pairwise_cons.mp h
    intro x hx
    rw [State.wrs_cons]
    rcases List.mem_cons.mp hx with rfl | hx
    · rw [State.rd_wrs_other r _ _ _ (fun y hy => (hhead y hy).symm), State.rd_wr_same]
    · exact ih htail _ x hx

/-- The record that an access leaves in the log touches no register outside the logs. -/
theorem flag_reads (cause o addr word : Nat) (s : State) (f : Fld) (u : Nat) (h : ¬ logA (f.key u)) :
    (flag cause o addr word s).rd f u = (s.wrs (errWrites cause o addr s)).rd f u := by
  unfold flag
  extract_lets s1 d1
  split
  · exact (logAt_keeps _ _ _ _ _ _ _ _).rd f u h
  · exact (logLimited_keeps _ _ _ _ _ _ _).rd f u h

/-- The fields of `GLB_REG_ERR` have places of their own, and what a flagged access writes fits. -/
theorem errWrites_fit {cause o addr : Nat} (s : State) (hcause : cause < 16) (ho : o < 16) (haddr : addr < 2 ^ 32) :
    (errWrites cause o addr s).Pairwise (fun a b => a.1.key a.2.1 ≠ b.1.key b.2.1) ∧
      ∀ e ∈ errWrites cause o addr s, glbA (e.1.key e.2.1) ∧ e.2.2 < 2 ^ e.1.width := by
  simp only [errWrites, List.pairwise_cons, List.forall_mem_cons, List.not_mem_nil, false_imp_iff, implies_true, and_true, List.Pairwise.nil, glbA,
    Fld.key, F.GLB_REG_ERR_COUNT, F.GLB_REG_ERR_CAUSE, F.GLB_REG_ERR_ORIGIN, F.GLB_REG_ERR_ADDR_ADDR]
  omega

/-- A flagged access counts one, and keeps its cause, origin and address. -/
theorem flag_reports {cause o addr : Nat} (word : Nat) (s : State) (hcause : cause < 16) (ho : o < 16) (haddr : addr < 2 ^ 32) :
    ∀ e ∈ errWrites cause o addr s, ¬ dropA (e.1.key e.2.1) ∧ (flag cause o addr word s).rd e.1 e.2.1 = e.2.2 := by
  intro e he
  obtain ⟨hapart, hfit⟩ := errWrites_fit s hcause ho haddr
  obtain ⟨hglb, hlt⟩ := hfit e he
  unfold glbA at hglb
  refine ⟨by unfold dropA; omega, ?_⟩
  rw [flag_reads _ _ _ _ _ _ _ (by unfold logA; omega), rd_wrs_of_mem hapart s e he, Nat.mod_eq_of_lt hlt]

/-- A write from outside that comes to one flagged access, and beside it only notes what it wrote in its tick, does nothing else. -/
theorem flaggedOnly_of {i : Instr} {s : State} {cause o addr word : Nat} (g : State → State) (y : State)
    (he : exec i s = .next (finish (hostCmd g s))) (hp : powered s = true) (hg : g s.coming = flagAll o [(cause, addr, word)] y)
    (hy : { y with wrote := s.wrote, cmd := s.cmd } = s) (hcause : cause < 16) (ho : o < 16) (haddr : addr < 2 ^ 32) :
    flaggedOnly i s cause o addr := by
  have hflds : y.flds = s.flds := congrArg (·.flds) hy
  have herr : errWrites cause o addr y = errWrites cause o addr s := by simp only [errWrites, State.rd, hflds]
  have hkeep : Keeps (within ([] ++ records)) s (flagAll o [(cause, addr, word)] y).rested :=
    ((Keeps.of_eq hflds).trans (flagAll_keeps o _ y)).mono (flagA_within _)
  rw [hostCmd_eq _ _ hp, byHost, hg] at he
  refine actsTo_of _ he hkeep (fun e hmem => flag_reports word y hcause ho haddr e (herr.symm ▸ hmem))
    ((flagAll_carafe o _ y).trans (congrArg (·.carafe) hy)) ((flagAll_pans o _ y).trans (congrArg (·.pans) hy)) ⟨?_, ?_⟩
  · exact (hostEnd_get (·.wo1) (fun _ => rfl) (fun _ => rfl) (fun _ => rfl) o _ y).trans (congrArg (·.wo1) hy)
  · exact (hostEnd_get (·.parBad) (fun _ => rfl) (fun _ => rfl) (fun _ => rfl) o _ y).trans (congrArg (·.parBad) hy)

/-! ### The enable of an integrated DAC (R160, R161) -/

/-- The registers of the integrated DACs. -/
abbrev dacBlk : Blk := ⟨0x310000, 0x20, 8, 8, rowsCnvDacCtl⟩

/-- `CNV_DAC_CTL`. -/
abbrev dacCtlRow : Row := ⟨0x0, false, [F.CNV_DAC_CTL_EN]⟩

theorem dacCtlEn_acts : (F.CNV_DAC_CTL_EN.cls == .live && hooked F.CNV_DAC_CTL_EN) = true := by decide

theorem dacCtlEn_noCmd : (F.CNV_DAC_CTL_EN.cls == .cmd) = false := by decide

/-- EN acts, so that nothing is stored: its bit is noted for the tick. -/
theorem rowKeep_dacCtl (w : Who) (u a x n : Nat) (s : State) (hb : w.batch = false) :
    rowKeep w dacBlk u dacCtlRow a (2 ^ 32 - 1) x false [(F.CNV_DAC_CTL_EN, n)] s = s.noteWrite w.rank (unitAddr dacBlk u) 1 := by
  have hbits : (2 ^ 32 - 1) &&& keptBits [(F.CNV_DAC_CTL_EN, n)] = 1 := by
    simp only [keptBits, List.foldl_cons, List.foldl_nil, dacCtlEn_noCmd, Bool.false_eq_true, if_false]
    decide
  have hhook : hooked F.CNV_DAC_CTL_EN = true := by decide
  have hcfg : rowCfg dacCtlRow = false := rfl
  have hplain : (F.CNV_DAC_CTL_EN.cls == .cfg || F.CNV_DAC_CTL_EN.cls == .wo1) = false := by decide
  have hone : ((1 : Nat) == 0) = false := rfl
  simp only [rowKeep, rowStore, hb, hbits, hcfg, hone, List.any_cons, List.any_nil, hplain, List.filter_cons, List.filter_nil, hhook,
    Bool.not_true, Bool.false_and, Bool.or_false, Bool.false_eq_true, if_false, storeAll, List.foldl_nil, Nat.add_zero]

/-- A whole word written to `CNV_DAC_CTL` by a writer that prevails comes to the effect of EN alone, flagged with the cause that it names. -/
theorem rowWrite_dacCtl (w : Who) (u a v x : Nat) (s : State) (hb : w.batch = false) (hp : prevails s w.rank)
    (hboot : a ≠ F.NVM_BOOT_LOCK_LOCK.addr 0) (hcal : a ≠ F.NVM_CAL_LOCK_LOCK.addr 0) :
    rowWrite w dacBlk u dacCtlRow a (2 ^ 32 - 1) v x s =
      (let e := liveHook w dacBlk u F.CNV_DAC_CTL_EN (F.CNV_DAC_CTL_EN.part v) (s.noteWrite w.rank (unitAddr dacBlk u) 1)
       ⟨e.1, if e.2.1 == 0 then [] else [(e.2.1, a, x)], e.2.2⟩) := by
  have hval : newVal s (2 ^ 32 - 1) v u F.CNV_DAC_CTL_EN = F.CNV_DAC_CTL_EN.part v := newVal_part _ _ _ _ _ (by decide)
  have htouches : touches (2 ^ 32 - 1) F.CNV_DAC_CTL_EN = true := by decide
  have hacc : reaching w dacBlk u dacCtlRow (2 ^ 32 - 1) v [(F.CNV_DAC_CTL_EN, F.CNV_DAC_CTL_EN.part v)] s =
      [(F.CNV_DAC_CTL_EN, F.CNV_DAC_CTL_EN.part v)] :=
    reaching_open _ _ _ _ _ _ _ _ hb hp (fun e he => by
      rw [List.mem_singleton.mp he]
      exact ⟨htouches, hval.symm⟩)
  have hfs : (dacCtlRow.flds.filter (fun f => !passive f u && touches (2 ^ 32 - 1) f)) = [F.CNV_DAC_CTL_EN] := rfl
  have hall : dacCtlRow.flds.all (fun f => passive f u) = false := rfl
  have hpst : dacCtlRow.flds.any (fun f => f.cls == .pst) = false := rfl
  have hrefused : rowRefused dacBlk dacCtlRow v = false := rfl
  have hcause : rowCause w dacBlk u dacCtlRow (2 ^ 32 - 1) v s = 0 := rfl
  have hwhy : fieldWhy s dacBlk u dacCtlRow F.CNV_DAC_CTL_EN (s.rd F.CNV_DAC_CTL_EN u) (F.CNV_DAC_CTL_EN.part v) = (0, 0) := rfl
  unfold rowWrite
  simp only [hall, hpst, hrefused, hcause, hfs, List.map_cons, List.map_nil, hval, hwhy, List.zip_cons_cons, List.zip_nil_left,
    List.find?_cons, List.find?_nil, List.filterMap_cons, List.filterMap_nil, List.any_cons, List.any_nil, bne_self_eq_false, beq_self_eq_true,
    Bool.false_and, Bool.or_false, Bool.false_eq_true, if_true, if_false, hacc, rowKeep_dacCtl _ _ _ _ _ _ hb]
  have hbase : ((0x310000 : Nat) == 0xA01000) = false ∧ ((0x310000 : Nat) == 0x10000) = false := by decide
  simp only [List.filter_cons, List.filter_nil, dacCtlEn_acts, dacCtlEn_noCmd, if_true, runHooks_nil, hbase, beq_eq_false_iff_ne.mpr hboot,
    beq_eq_false_iff_ne.mpr hcal, Bool.false_and, Bool.false_eq_true, if_false]
  simp only [runHooks, List.foldl_cons, List.foldl_nil, beq_self_eq_true, if_true]
  generalize liveHook w dacBlk u F.CNV_DAC_CTL_EN (F.CNV_DAC_CTL_EN.part v) _ = e
  cases e.2.1 == 0 <;> rfl

/-- A write of 0 to the enable of a DAC that a channel holds is ignored, with cause CFG_ENABLED. -/
theorem liveHook_dacUsed (w : Who) (u : Nat) {s : State} (h : dacUsed s u = true) :
    liveHook w dacBlk u F.CNV_DAC_CTL_EN 0 s = (stEnabled, cCfgEnabled, s) := by
  have hid : (F.CNV_DAC_CTL_EN.id == F.CNV_DAC_CTL_EN.id) = true := by decide
  have hact : dacEnable u false s = (false, s) := by simp only [dacEnable, h, Bool.not_false, Bool.and_self, if_true]
  simp only [liveHook, hid, if_true]
  simp [enable, unlessPar, hact, ignored, stEnabled]

/-- A write of 0 to the enable of a DAC that a channel holds comes to a flagged access. -/
theorem writeWord_dacUsed {o u v : Nat} {s : State} (hu : u < 8) (hv : v < 2 ^ 32) (hm : mayWrite s o 8)
    (hoff : F.CNV_DAC_CTL_EN.part v = 0) (h : dacUsed s u = true) :
    writeWord o (F.CNV_DAC_CTL_EN.addr u) v s = flagAll o [(cCfgEnabled, F.CNV_DAC_CTL_EN.addr u, v)]
      (s.noteWrite (2 * o + b2n (o == 0)) (unitAddr dacBlk u) 1) := by
  have hblk : dacBlk ∈ blks := List.mem_of_getElem? (i := 16) rfl
  have hrow : dacCtlRow ∈ dacBlk.rows := List.mem_of_getElem? (i := 0) rfl
  have haddr : F.CNV_DAC_CTL_EN.addr u = dacBlk.base + dacBlk.stride * u + dacCtlRow.off := by
    simp only [Fld.addr, F.CNV_DAC_CTL_EN, Nat.add_zero]
  have halign : F.CNV_DAC_CTL_EN.addr u % 4 = 0 := by simp only [Fld.addr, F.CNV_DAC_CTL_EN]; omega
  have hreg : regAt (F.CNV_DAC_CTL_EN.addr u) = some (dacBlk, u, dacCtlRow) := haddr ▸ regAt_of_mem dacBlk hblk u hu dacCtlRow hrow
  have hat : wordAt (F.CNV_DAC_CTL_EN.addr u) = some (dacBlk, u, dacCtlRow, false) :=
    haddr ▸ wordAt_of_mem dacBlk hblk u hu dacCtlRow hrow
  obtain ⟨hboot, hcal⟩ := haddr ▸ lock_apart dacBlk hblk dacCtlRow hrow u hu (by decide)
  have hpair : isPair (F.CNV_DAC_CTL_EN.addr u) = false := by simp [isPair, hreg]
  have haccess : accessWhy s ⟨o, 0, 0, o == 0, false⟩ (F.CNV_DAC_CTL_EN.addr u) 15 = (0, 0) := by
    simp [accessWhy, halign, hat, regDenied_false s o dacBlk (by decide) hm.1]
  have hbits : byteBits 15 = 2 ^ 32 - 1 := by decide
  have hwrite := rowWrite_dacCtl ⟨o, 0, 0, o == 0, false⟩ u (F.CNV_DAC_CTL_EN.addr u) v v s rfl hm.2 hboot hcal
  rw [hoff, liveHook_dacUsed _ _ (s := s.noteWrite _ _ _) h] at hwrite
  simp only [writeWord, writeNow, regWrites, List.length_singleton, hpair, Bool.and_false, Bool.false_and, Bool.false_eq_true, if_false,
    regWrite, haccess, hat, hbits, Nat.mod_eq_of_lt hv, bne_self_eq_false, Nat.mul_one, hwrite, List.nil_append]
  rfl

/-- A DAC that a channel holds is in use. -/
theorem dacUsed_of_holds {s : State} {i c : Nat} (hc : c < 256) (hholds : chnHolds s c = true) (hkind : dKind (chnOf s c).dest = 2)
    (hunit : dUnit (chnOf s c).dest = i) : dacUsed s i = true :=
  List.any_eq_true.mpr ⟨c, List.mem_range.mpr hc, by simp only [hholds, hkind, hunit, beq_self_eq_true, Bool.and_self]⟩

/-- A write of 0 to the enable of a DAC in use is flagged and does nothing else (R161). -/
theorem cnvDacCtlEnWrite_inUse {s : State} (hp : powered s = true) {o : Fin 7} (hm : mayWrite s o 8) {i : Fin 8} {w : Word}
    (hoff : F.CNV_DAC_CTL_EN.part w.toNat = 0) (hused : dacUsed s i = true) :
    flaggedOnly (.cnvDacCtlEnWrite o i w) s cCfgEnabled o (F.CNV_DAC_CTL_EN.addr i) :=
  flaggedOnly_of (writeWord o (F.CNV_DAC_CTL_EN.addr i) w.toNat) _ rfl hp
    (writeWord_dacUsed (s := s.coming) i.isLt w.isLt hm hoff hused) rfl (by decide) (by omega)
    (by simp only [Fld.addr, F.CNV_DAC_CTL_EN]; omega)

/-! ### The causes of R157 -/

/-- Cause 9 of R157: the destination does not exist or is disabled. -/
def chnDestOff (c : Nat) (s : State) : Bool :=
  let dst := chnDestWord s c
  (dKind dst == 2 && (decide (7 < dUnit dst) || !s.on F.CNV_DAC_CTL_EN (dUnit dst)))
    || ((dKind dst == 1 || dKind dst == 4) && !s.on F.FLM_OL_CTL_EN (dUnit dst))

theorem chnEnableCause_le (par : Bool) (c : Nat) (s : State) : chnEnableCause par c s ≤ 9 := by
  unfold chnEnableCause
  iterate 9 refine iteInduction (motive := (· ≤ 9)) (fun _ => by decide) (fun _ => ?_)
  decide

/-- Where the destination does not exist or is disabled, an enable is refused. -/
theorem chnEnableCause_ne_zero (par : Bool) {c : Nat} {s : State} (h : chnDestOff c s = true) : chnEnableCause par c s ≠ 0 := by
  unfold chnEnableCause
  iterate 8 refine iteInduction (motive := (· ≠ 0)) (fun _ => by decide) (fun _ => ?_)
  exact fun hzero => absurd ((if_pos h).symm.trans hzero) (by decide)

/-- The fields of a channel by which an enable is judged, but for its type. -/
def chnJudged : List Fld :=
  [F.CHN_DEST_GP_MASK, F.CHN_DEST_DOUBLE, F.CHN_DEST_SLOT, F.CHN_DEST_UNIT, F.CHN_DEST_KIND, F.CHN_RATE_DM1, F.CHN_RATE_OFFSET, F.CHN_RQ_WIDTH,
    F.CHN_RQ_DITHER, F.CHN_REST_REST, F.CHN_POS_MIN_POS_MIN, F.CHN_POS_MAX_POS_MAX, F.CHN_DSEED_DSEED, F.CHN_STAT_STATE]

/-- These fields lie in the registers after `CHN_CTL` of their channel. -/
theorem chnJudged_key {f : Fld} (hf : f ∈ chnJudged) (u : Nat) :
    0x200004 + 0x400 * u ≤ f.key u / 64 ∧ f.key u / 64 < 0x200400 + 0x400 * u := by
  have hplace : ∀ g ∈ chnJudged, g.stride = 0x400 ∧ 0x200004 ≤ g.base ∧ g.base < 0x200400 ∧ g.lo < 64 := by decide
  obtain ⟨hstride, hlow, hhigh, hlo⟩ := hplace f hf
  simp only [Fld.key, hstride]
  omega

theorem dUnit_lt (dest : Nat) : dUnit dest < 16 := Nat.mod_lt _ (by decide)

/-- Two states in which channel `c` is judged alike: by the same fields of the channels and of the out-lanes, and the same records. -/
structure JudgedAlike (c : Nat) (s t : State) : Prop where
  judged : ∀ f ∈ chnJudged, ∀ u < 256, t.rd f u = s.rd f u
  type : t.rd F.CHN_CTL_TYPE c = s.rd F.CHN_CTL_TYPE c
  lanes : ∀ u < 16, t.rd F.FLM_OL_CTL_RATE u = s.rd F.FLM_OL_CTL_RATE u ∧ t.rd F.FLM_OL_CTL_EN u = s.rd F.FLM_OL_CTL_EN u
  chns : t.chns = s.chns

theorem JudgedAlike.dest {c : Nat} {s t : State} (h : JudgedAlike c s t) (hc : c < 256) : chnDestWord t c = chnDestWord s c := by
  have hrd := h.judged
  simp only [chnJudged, List.forall_mem_cons] at hrd
  simp only [chnDestWord, hrd, hc]

theorem JudgedAlike.holds {c : Nat} {s t : State} (h : JudgedAlike c s t) {o : Nat} (ho : o < 256) : chnHolds t o = chnHolds s o := by
  simp only [chnHolds, chnRampLeft, chnOf_congr h.chns, h.judged F.CHN_STAT_STATE (by simp [chnJudged]) o ho]

theorem JudgedAlike.clashes {c : Nat} {s t : State} (h : JudgedAlike c s t) (dst : Nat) :
    (List.range 256).any (fun o => o != c && chnHolds t o && destClash dst (chnOf s o).dest) =
      (List.range 256).any (fun o => o != c && chnHolds s o && destClash dst (chnOf s o).dest) := by
  rw [Bool.eq_iff_iff, List.any_eq_true, List.any_eq_true]
  refine exists_congr (fun o => and_congr_right (fun ho => ?_))
  rw [h.holds (List.mem_range.mp ho)]

/-- Where nothing stands against the enable in a state judged alike, none of the first eight causes holds, and a destination that does not exist
or is disabled is cause 9. -/
theorem JudgedAlike.cause_nine {c : Nat} {s t : State} (h : JudgedAlike c s t) (hc : c < 256) {par : Bool} (hoff : chnDestOff c s = true)
    (hfree : chnEnableCause par c t = 0) : chnEnableCause par c s = 9 := by
  have hrd := h.judged
  simp only [chnJudged, List.forall_mem_cons] at hrd
  have hnext {p : Prop} [Decidable p] {k x y : Nat} (hk : k ≠ 0) (hlast : x = 0 → y = 9) (hx : (if p then k else x) = 0) :
      (if p then k else y) = 9 := by
    split at hx
    · exact absurd hx hk
    next hp => rw [if_neg hp, hlast hx]
  revert hfree
  unfold chnEnableCause
  simp only [h.dest hc, pSlot, State.on, State.rdI, chnRampLeft, chnOf_congr h.chns, h.clashes, hrd, hc, h.type, h.lanes,
    dUnit_lt]
  iterate 8 refine hnext (by decide) ?_
  exact fun _ => if_pos hoff

/-- In states judged alike whose DACs are enabled alike, the causes are the same. -/
theorem JudgedAlike.cause {c : Nat} {s t : State} (h : JudgedAlike c s t) (hc : c < 256) (par : Bool)
    (hdac : t.rd F.CNV_DAC_CTL_EN (dUnit (chnDestWord s c)) = s.rd F.CNV_DAC_CTL_EN (dUnit (chnDestWord s c))) :
    chnEnableCause par c t = chnEnableCause par c s := by
  have hrd := h.judged
  simp only [chnJudged, List.forall_mem_cons] at hrd
  simp only [chnEnableCause, h.dest hc, pSlot, State.on, State.rdI, chnRampLeft, chnOf_congr h.chns, h.clashes, hrd, hc, h.type, h.lanes, dUnit_lt,
    hdac] <;> rfl

/-- The enable of a DAC is none of the fields by which a channel is judged. -/
theorem judgedAlike_wrDac (s : State) {c d : Nat} (v : Nat) (hd : d < 16) : JudgedAlike c s (s.wr F.CNV_DAC_CTL_EN d v) where
  judged f hf u _ := State.rd_wr_other _ _ _ _ _ _ (by
    have hkey := chnJudged_key hf u
    simp only [Fld.key, F.CNV_DAC_CTL_EN] at hkey ⊢
    omega)
  type := State.rd_wr_other _ _ _ _ _ _ (by simp only [Fld.key, F.CNV_DAC_CTL_EN, F.CHN_CTL_TYPE]; omega)
  lanes u _ := ⟨State.rd_wr_other _ _ _ _ _ _ (by simp only [Fld.key, F.CNV_DAC_CTL_EN, F.FLM_OL_CTL_RATE]; omega),
    State.rd_wr_other _ _ _ _ _ _ (by simp only [Fld.key, F.CNV_DAC_CTL_EN, F.FLM_OL_CTL_EN]; omega)⟩
  chns := rfl

/-! ### A refused enable of a channel (R157) -/

/-- The registers of the channels. -/
abbrev chnBlk : Blk := ⟨0x200000, 0x400, 256, 6, rowsChnCtl⟩

/-- `CHN_CTL`. -/
abbrev chnCtlRow : Row := ⟨0x0, false, [F.CHN_CTL_BQ_EN, F.CHN_CTL_LIM_POL, F.CHN_CTL_TYPE, F.CHN_CTL_INTERP, F.CHN_CTL_EN]⟩

/-- A write of `CHN_CTL` that leaves its type leaves what its channel is judged by. -/
theorem RowWrote.judgedAlike {c v : Nat} {s z : State} (W : RowWrote 32 chnBlk c chnCtlRow v s z) (hc : c < 256)
    (htype : F.CHN_CTL_TYPE.part v = s.rd F.CHN_CTL_TYPE c) : JudgedAlike c s z where
  judged f hf u _ := W.far f u (by
    have hkey := chnJudged_key hf u
    simp only [logA]
    omega)
  type := W.near (by decide) F.CHN_CTL_TYPE (by simp) htype (by simp only [logA, Fld.key, F.CHN_CTL_TYPE]; omega) (by decide) hc
  lanes u _ := ⟨W.far _ u (by simp only [logA, Fld.key, F.FLM_OL_CTL_RATE]; omega),
    W.far _ u (by simp only [logA, Fld.key, F.FLM_OL_CTL_EN]; omega)⟩
  chns := W.get (·.chns) (fun _ => rfl)

/-- It leaves the DACs as well, and so the cause of R157. -/
theorem RowWrote.chnCause {c v : Nat} {s z : State} (W : RowWrote 32 chnBlk c chnCtlRow v s z) (hc : c < 256)
    (htype : F.CHN_CTL_TYPE.part v = s.rd F.CHN_CTL_TYPE c) : chnEnableCause false c z = chnEnableCause false c s :=
  (W.judgedAlike hc htype).cause hc false (W.far _ _ (by
    have hd := dUnit_lt (chnDestWord s c)
    simp only [logA, Fld.key, F.CNV_DAC_CTL_EN]
    omega))

/-- What a refused enable writes: EN stays 0, CFG_BAD is set, and the cause shows. -/
def chnRefusal (c k : Nat) : List (Fld × Nat × Nat) := [(F.CHN_CTL_EN, c, 0), (F.CHN_STAT_CFG_BAD, c, 1), (F.CHN_STAT_ENCAUSE, c, k)]

/-- A refused enable writes fields of `CHN_CTL` and `CHN_STAT` with places of their own, and the cause fits. -/
theorem chnRefusal_fit {c k : Nat} (hc : c < 256) (hk : k ≤ 9) :
    (chnRefusal c k).Pairwise (fun a b => a.1.key a.2.1 ≠ b.1.key b.2.1) ∧
      ∀ e ∈ chnRefusal c k, (e.1.key e.2.1 / 64 = F.CHN_CTL_EN.addr c ∨ e.1.key e.2.1 / 64 = F.CHN_STAT_STATE.addr c) ∧
        plainA (e.1.key e.2.1) ∧ e.2.2 < 2 ^ e.1.width := by
  simp only [chnRefusal, List.pairwise_cons, List.forall_mem_cons, List.not_mem_nil, false_imp_iff, implies_true, and_true, List.Pairwise.nil,
    plainA, flagA, glbA, logA, dropA, Fld.key, Fld.addr, F.CHN_CTL_EN, F.CHN_STAT_CFG_BAD, F.CHN_STAT_ENCAUSE, F.CHN_STAT_STATE]
  omega

/-- A refused enable leaves EN at 0, with CFG_BAD and the lowest cause. -/
theorem chnEnable_refused {c : Nat} {s : State} (hoff : s.on F.CHN_CTL_EN c = false) (h : chnEnableCause false c s ≠ 0) :
    chnEnable false c true s = s.wrs (chnRefusal c (chnEnableCause false c s)) := by
  simp only [chnEnable, chnRefusal, hoff, bne_iff_ne, ne_eq, h, not_false_eq_true, Bool.not_true, Bool.false_eq_true, if_false, if_true]

/-- EN := 1 of a channel that R157 refuses leaves it disabled, sets CFG_BAD and shows the lowest cause. -/
theorem chnCtlEnWrite_refused {s : State} (hp : powered s = true) {o : Fin 7} (hm : mayWrite s o 6) {c : Fin 256} {w : Word}
    (hon : turnsOn F.CHN_CTL_EN [F.CHN_CTL_BQ_EN, F.CHN_CTL_LIM_POL, F.CHN_CTL_TYPE, F.CHN_CTL_INTERP] w.toNat c s)
    (hcause : chnEnableCause false c s ≠ 0) :
    actsTo (.chnCtlEnWrite o c w) s [reg F.CHN_CTL_EN c, reg F.CHN_STAT_STATE c]
      (chnRefusal c (chnEnableCause false c s)) (unitsKept chnOf s) := by
  obtain ⟨⟨hodd, hbad, hsafe⟩, hen, hone, hsame⟩ := hon
  obtain ⟨z, fl, hwrite, W⟩ := chnCtlEn_write o c c.isLt w.toNat w.isLt s.coming hm
  have hz : z.on F.CHN_CTL_EN c = false := by
    have hplace : ¬ logA (F.CHN_CTL_EN.key c) := by simp only [logA, Fld.key, F.CHN_CTL_EN]; omega
    rw [State.on, W.acting (by decide) F.CHN_CTL_EN (by simp) (by decide) hplace (by decide) c.isLt]
    exact hen
  have hzc : chnEnableCause false c z = chnEnableCause false c s := W.chnCause c.isLt (hsame F.CHN_CTL_TYPE (by simp))
  have hact := chnEnable_refused hz (hzc ▸ hcause)
  rw [hzc] at hact
  have hzsafe : z.unitSafe = [] := (W.get (·.unitSafe) (fun _ => rfl)).trans hsafe
  have hclean := enable_clean chnBlk c F.CHN_CTL_EN 1 (fun par e t => done (chnEnable par c e t)) z (W.odd hodd) (W.bad hbad)
    (by simp only [done_st, beq_self_eq_true, hact, State.wrs_unitSafe, hzsafe])
  rw [hone, hclean, done_st, beq_self_eq_true, hact] at hwrite
  obtain ⟨hapart, hfit⟩ := chnRefusal_fit c.isLt (chnEnableCause_le false c s)
  refine writesTo_of _ o fl _ rfl hp hwrite ?_ ?_ ?_ ?_ ?_
  · have hctl : Keeps (within ([reg F.CHN_CTL_EN c, reg F.CHN_STAT_STATE c] ++ records)) s z := W.within _ (fun k hk =>
      (within_append _ _ _).mpr (Or.inl ⟨reg F.CHN_CTL_EN c, List.mem_cons_self, by simp only [reg, Fld.addr, F.CHN_CTL_EN] at hk ⊢; omega⟩))
    refine hctl.wrs _ (fun e he => (within_append _ _ _).mpr (Or.inl ?_))
    rcases (hfit e he).1 with hreg | hreg
    · exact ⟨reg F.CHN_CTL_EN c, List.mem_cons_self, by simp only [reg]; omega⟩
    · exact ⟨reg F.CHN_STAT_STATE c, List.mem_cons_of_mem _ List.mem_cons_self, by simp only [reg]; omega⟩
  · intro e he
    obtain ⟨_, hplain, hlt⟩ := hfit e he
    exact ⟨hplain, (rd_wrs_of_mem hapart z e he).trans (Nat.mod_eq_of_lt hlt)⟩
  · rw [State.wrs_carafe]; exact W.get (·.carafe) (fun _ => rfl)
  · rw [State.wrs_pans]; exact W.get (·.pans) (fun _ => rfl)
  · refine unitsKept_chn ((hostEnd_get (·.chns) (fun _ => rfl) (fun _ => rfl) (fun _ => rfl) _ _ _).trans ?_)
    rw [State.wrs_chns]; exact W.get (·.chns) (fun _ => rfl)

end Sys2Proof.Machine

open Sys2Proof Sys2Proof.Machine

/-- Settles O56: a channel that holds a DAC keeps its enable from a write of 0, and a disabled DAC is cause 9 of R157. -/
theorem dacInUse : Obligations.DacInUse := by
  intro s hp o
  refine ⟨fun hm i w hoff hheld => ?_, fun hm c w hon hkind hdac => ?_⟩
  · obtain ⟨c, hholds, hdest, hunit⟩ := hheld
    exact cnvDacCtlEnWrite_inUse hp hm hoff (dacUsed_of_holds c.isLt hholds hdest hunit)
  · have hdestOff : chnDestOff c s = true := by simp [chnDestOff, hkind, hdac]
    have hcause := chnEnableCause_ne_zero false hdestOff
    obtain ⟨t, hexec, hregs, hframe, hbytes, hchns⟩ := chnCtlEnWrite_refused hp hm hon hcause
    simp only [chnRefusal, List.forall_mem_cons, List.not_mem_nil, false_imp_iff, implies_true, and_true] at hregs
    obtain ⟨hen, hcfg, hshown⟩ := hregs
    refine ⟨t, hexec, ?_, hframe, hbytes, ?_⟩
    · simp only [List.forall_mem_cons, hen, hcfg, List.not_mem_nil, false_imp_iff, implies_true, and_self]
    simp only [hshown]
    exact ⟨Nat.one_le_iff_ne_zero.mpr hcause, chnEnableCause_le false c s, hchns,
      fun _ hfree => (judgedAlike_wrDac s 1 (dUnit_lt _)).cause_nine c.isLt hdestOff hfree⟩
end
